-- ==== Sys2Proof/Word.lean ====
section
/-! DEFINITION. The words of the machine: scalar words, bytes, register numbers, and the finite maps that hold sparse state. -/
namespace Sys2Proof

/-- A 64-bit scalar word (R183). -/
abbrev Word := BitVec 64
/-- One byte of memory. -/
abbrev Byte := BitVec 8
/-- A scalar register number g0 to g63 (R183). -/
abbrev Reg := BitVec 6
/-- A tag register number tg0 to tg15 (R183). -/
abbrev TagNo := BitVec 4
/-- A column number of the array (R218). -/
abbrev Col := BitVec 8
/-- The bits of one tag register: bit `4 * row + lane` (R219). -/
abbrev TagReg := BitVec 131072

/-- Sparse data by number: keys strictly rising; a number that is not listed has the default of its map. -/
abbrev FMap (α : Type) := List (Nat × α)

end Sys2Proof
end

