-- ==== Sys2Proof/Config.lean ====
section
/-! DEFINITION. What the manual leaves to the implementation or leaves open: opaque constants without a body. -/
namespace Sys2Proof

/-- Free choices of the device where the manual allows several outcomes (DESIGN CHOICE, log entry 3): which value an overlapped byte of a
copy gets (R283). -/
opaque Config.freeBool : Nat → Bool
/-- A row of an array whose contents a power gate has not kept (R71). -/
opaque Config.freeRow : Nat → Nat → BitVec 256
/-- What stands in a row of an array between two passes of a macro that writes it, or after another agent has disturbed it (R51, R242). -/
opaque Config.midRow : Nat → Nat → BitVec 256
/-- Which bits the first of FMOV's two passes on a column moves: the ones, or else the zeros (R237). -/
opaque Config.moveOnes : Bool
/-- The bytes of an entry of the coherent device attribute table (R407): the manual gives none. -/
opaque Config.cdat : Nat → List (BitVec 8)
/-- Module time, in nanoseconds, that passes in a turn that names no time of its own (R321, DESIGN CHOICE, log entry 9). -/
opaque Config.elapsed : Nat → Nat
/-- The entry point at which the firmware of a hub core starts (R415, R421): the manual gives none. -/
opaque Config.firmwareEntry : Nat → BitVec 64
/-- The page-table root with which the firmware of a hub core starts (R31). -/
opaque Config.firmwareRoot : Nat → BitVec 64
/-- RSASSA-PSS verification of a firmware digest and signature with the vendor key (R415). -/
opaque Config.verifyFirmware : BitVec 256 → List (BitVec 8) → Bool
/-- The security version fused as the minimum (R415). -/
opaque Config.fusedMinimum : BitVec 32
/-- The boot-ROM digest fused at manufacture (R417, index 2). -/
opaque Config.bootRomDigest : BitVec 256
/-- The device's RSASSA-PSS signature over a measurement digest (R417); the key never leaves the security engine. -/
opaque Config.sign : BitVec 256 → List (BitVec 8)
/-- The set of a cache that a line falls in (R53): the level (0 L1I, 1 L1D, 2 island L2, 3 memory-side cache slice, 4 host-coherence
directory) and the line's number. The manual gives the numbers of sets and not the index. -/
opaque Config.cacheSet : Nat → Nat → Nat
/-- The set of a translation cache that a leaf falls in (R29): the cache (0 cluster, 1 island, 2 hub), the page shift and the virtual
page number. -/
opaque Config.tlbSet : Nat → Nat → Nat → Nat
/-- Whether a line stands in the way of an island L2 that is taken out of use (R71): the die, the way and the line's number. -/
opaque Config.inWay : Nat → Nat → Nat → Bool

end Sys2Proof
end

