-- ==== Sys2Proof/Syntax.lean ====
section
/-! DEFINITION. The instructions and events of spec/opcode_table.json, one constructor per row, and their operand kinds. -/
namespace Sys2Proof

/-- An agent of R96, other than the host: a far core by its physical id, a near context by home and context number, a hub
core by its hub-core number. -/
inductive Agent where
  | far (core : Nat)
  | near (home ctx : Nat)
  | hub (n : Nat)
  deriving DecidableEq, Repr

/-- Width codes W of R186. -/
inductive Width where | b | h | w | d
  deriving DecidableEq, Repr
/-- Policy codes P of R186 (R59). -/
inductive Policy where | c | g | m | u
  deriving DecidableEq, Repr
/-- Scope codes S of R186 (R97). -/
inductive Scope where | core | cluster | island | package | system
  deriving DecidableEq, Repr
/-- Order codes O[4:3] of R186. -/
inductive Order where | plain | acq | rel | ar
  deriving DecidableEq, Repr
/-- Condition codes C of R186. -/
inductive Cond where | eq | ne | lt | ge | ltu | geu
  deriving DecidableEq, Repr
/-- MULH forms (R199). -/
inductive MulhMode where | ss | uu | su
  deriving DecidableEq, Repr
/-- LI forms (R205). -/
inductive LiForm where | s | m | h
  deriving DecidableEq, Repr
/-- LOGI operations (R206). -/
inductive LogOp where | and | or | xor
  deriving DecidableEq, Repr
/-- Shift operations of SHI (R207). -/
inductive ShOp where | shl | shr | sha | rot
  deriving DecidableEq, Repr
/-- BITC operations (R209). -/
inductive BitcOp where | pop | clz | ctz
  deriving DecidableEq, Repr
/-- AMO and RAMO operations (R271). -/
inductive AmoOp where | swap | add | and | or | xor | smin | smax | umin | umax
  deriving DecidableEq, Repr
/-- AMOF operations (R271). -/
inductive AmofOp where | addF32 | maxF32 | minF32 | addBf16x2
  deriving DecidableEq, Repr
/-- CMAINT operation, f[5:4] of R67. -/
inductive CmOp where | cln | inv | ci
  deriving DecidableEq, Repr
/-- CMAINT reach, f[3:2] of R67. -/
inductive CmReach where | msc | mem | l1i
  deriving DecidableEq, Repr
/-- CMAINT extent, f[1:0] of R67. -/
inductive CmExt where | line | gran
  deriving DecidableEq, Repr
/-- CSRX functions (R310). -/
inductive CsrxOp where | swap | set | clr
  deriving DecidableEq, Repr
/-- TLBI functions with the registers each uses (R33). -/
inductive TlbiOp where
  | va (a b : Reg)
  | vag (a : Reg)
  | ctx (b : Reg)
  | all
  deriving DecidableEq, Repr
/-- Lane modes (R218). -/
inductive LaneMode where | one | two | four
  deriving DecidableEq, Repr
/-- comb: of R220. -/
inductive Comb where | mov | and | or
  deriving DecidableEq, Repr
/-- Element formats, codes 0x0 to 0xF of R72. -/
inductive Fmt where | i4 | i8 | i16 | i32 | i64 | u4 | u8 | u16 | u32 | u64 | fp32 | fp16 | bf16 | e5m2 | e4m3 | ql4
  deriving DecidableEq, Repr
/-- Rounding codes of R81. -/
inductive Rnd where | rne | rtz | rup | rdn | ef
  deriving DecidableEq, Repr
/-- Format windows of AFILL and ASPILL, codes 0 to 6 (R48, R284). -/
inductive Win where | raw | ql4 | e4m3 | e5m2 | i4 | sc16 | bf16
  deriving DecidableEq, Repr
/-- TOP operations with the tags each names (R228). -/
inductive TopOp where
  | and (d a b : TagNo) | or (d a b : TagNo) | xor (d a b : TagNo) | andn (d a b : TagNo)
  | not (d a : TagNo) | mov (d a : TagNo) | clr (d : TagNo) | set (d : TagNo)
  deriving DecidableEq, Repr
/-- TSHF operations (R229). -/
inductive TshfOp where
  | up (ones : Bool) (k : BitVec 15)
  | dn (ones : Bool) (k : BitVec 15)
  | lane (k : BitVec 2)
  deriving DecidableEq, Repr
/-- The registers of TTLD (R239). -/
inductive TtRegs where
  | one (a : Reg) | two (a b : Reg) | three (a b c : Reg)
  deriving DecidableEq, Repr
/-- The source of CFILL (R234). -/
inductive FillSrc where
  | imm (k : BitVec 34)
  | reg (g : Reg)
  deriving DecidableEq, Repr
/-- A column specification (R221): pairs, a range with an immediate key, a range with ky. `n1` is the width minus 1. -/
inductive Spec where
  | pairs (ps : List (Col × Bool))
  | imm (c : Col) (n1 : BitVec 4) (k : BitVec 16)
  | ky (c : Col) (n1 : BitVec 4)
  deriving DecidableEq, Repr
/-- Span and selection of an array instruction (R220); `none` is sel:all. -/
structure Rows where
  span : BitVec 2
  sel : Option TagNo
  deriving DecidableEq, Repr
/-- The RND and SAT fields of a macro (R81, R243). -/
structure Rounding where
  rnd : Rnd
  sat : Bool
  deriving DecidableEq, Repr
/-- The format of a macro that rounds nothing, with its RND and SAT fields, which R245 checks all the same. -/
structure FmtRnd where
  fmt : Fmt
  rnd : Rnd
  sat : Bool
  deriving DecidableEq, Repr
/-- ACMP conditions (R244). -/
inductive ACond where | eq | ne | lt | le | gt | ge
  deriving DecidableEq, Repr
/-- A cache whose line an eviction takes (R56): an L1D or L1I by core, an island L2 by die, an MSC by stack, a near
instruction buffer by home. -/
inductive CacheId where
  | l1d (core : Nat) | l1i (core : Nat) | l2 (die : Nat) | msc (stack : Nat) | near (home : Nat)
  deriving DecidableEq, Repr
/-- The bases of the partitions' service pools and launch pools, in order (R164, R412). -/
structure Pools where
  svc : List Nat
  launch : List Nat
  deriving DecidableEq, Repr
/-- The host's answer about a line: whether it keeps a shared copy, and its data where it had changed them (R64). -/
structure BiAnswer where
  keep : Bool
  data : Option (BitVec 512)
  deriving DecidableEq, Repr
/-- A kind of host snoop (R65). -/
inductive SnoopKind where | share | invalidate
  deriving DecidableEq, Repr

/-- The rows of the opcode table. Encoded instructions first name their sub-fields and then their registers; an event
names the unit it happens at and what the outside world or an open choice supplies. -/
inductive Instr where
  | ill (head : BitVec 16) (tail : BitVec 64)
  | add (w : Bool) (d a b : Reg) | sub (w : Bool) (d a b : Reg) | and (w : Bool) (d a b : Reg)
  | or (w : Bool) (d a b : Reg) | xor (w : Bool) (d a b : Reg) | andn (w : Bool) (d a b : Reg)
  | shl (w : Bool) (d a b : Reg) | shr (w : Bool) (d a b : Reg) | sha (w : Bool) (d a b : Reg)
  | rot (w : Bool) (d a b : Reg) | mul (w : Bool) (d a b : Reg)
  | mulh (m : MulhMode) (d a b : Reg)
  | div (w u rem : Bool) (d a b : Reg)
  | minmax (w u max : Bool) (d a b : Reg)
  | cmp (c : Cond) (d a b : Reg)
  | sel (d a b c : Reg)
  | addi (w : Bool) (d a : Reg) (k : BitVec 20)
  | li (f : LiForm) (d : Reg) (k : BitVec 24)
  | logi (op : LogOp) (d a : Reg) (k : BitVec 20)
  | shi (op : ShOp) (w : Bool) (d a : Reg) (s : BitVec 6)
  | bext (sx : Bool) (d a : Reg) (lo : BitVec 6) (len : BitVec 7)
  | bins (d a : Reg) (lo : BitVec 6) (len : BitVec 7)
  | bitc (op : BitcOp) (d a : Reg)
  | hdrx (d a : Reg) (layout : BitVec 6) (field : BitVec 8)
  | hdrp (d a : Reg) (layout : BitVec 6) (field : BitVec 8)
  | addpc (d : Reg) (k : BitVec 26)
  | br (c : Cond) (a b : Reg) (delta : BitVec 11) (slot : BitVec 5)
  | brz (nz : Bool) (a : Reg) (delta : BitVec 20) (slot : BitVec 5)
  | jmp (delta : BitVec 27) (slot : BitVec 5)
  | jal (d : Reg) (delta : BitVec 27) (slot : BitVec 5)
  | jr (d a : Reg)
  | lineFetch (ag : Agent)
  | ld (w : Width) (sx : Bool) (p : Policy) (d a : Reg) (k : BitVec 20)
  | st (w : Width) (p : Policy) (d a : Reg) (k : BitVec 20)
  | lda (w : Width) (sx : Bool) (p : Policy) (sc : Scope) (d a : Reg) (k : BitVec 24)
  | stl (w : Width) (p : Policy) (sc : Scope) (d a : Reg) (k : BitVec 24)
  | ldx (w : Width) (sx : Bool) (p : Policy) (d a b : Reg) (k : BitVec 24)
  | stx (w : Width) (p : Policy) (d a b : Reg) (k : BitVec 24)
  | amo (op : AmoOp) (dbl : Bool) (p : Policy) (sc : Scope) (ord : Order) (d a b : Reg)
  | cas (dbl : Bool) (p : Policy) (sc : Scope) (ord : Order) (d a b : Reg) (k : BitVec 24)
  | amof (op : AmofOp) (p : Policy) (sc : Scope) (ord : Order) (d a b : Reg)
  | fence (sc : Scope)
  | waitm (w : Width) (p : Policy) (d a b c : Reg) (k : BitVec 24)
  | waitmWake (ag : Agent)
  | waitmLimitExpire (ag : Agent)
  | waitc (ch : BitVec 4) (sc : Scope) (a b : Reg)
  | cmaint (op : CmOp) (reach : CmReach) (ext : CmExt) (a : Reg) (k : BitVec 20)
  | get (w : Width) (ord : Bool) (d a : Reg) (k : BitVec 24)
  | put (w : Width) (ord : Bool) (d a : Reg) (k : BitVec 24)
  | ramo (op : AmoOp) (dbl : Bool) (ord : Bool) (d a b : Reg)
  | remoteOpPerform (k : Nat)
  | remoteReply (k : Nat)
  | csrr (d : Reg) (csr : BitVec 12)
  | csrw (csr : BitVec 12) (a : Reg)
  | csrx (op : CsrxOp) (d : Reg) (csr : BitVec 12) (a : Reg)
  | trap (k : BitVec 20)
  | sysc (k : BitVec 20)
  | eret
  | idle (a : Reg)
  | ckpt (k : BitVec 20)
  | rmread (d a : Reg)
  | rmack (d : Reg)
  | time (d : Reg)
  | snap
  | tlbi (op : TlbiOp)
  | tlbiComplete (ag : Agent)
  | ien (en : Bool) (d : Reg)
  | nrowOpen (a : Reg) (k : BitVec 20)
  | nrowClose
  | nlut (acc : Bool) (d a b : Reg)
  | pcmp (d : TagNo) (rows : Rows) (comb : Comb) (spec : Spec)
  | pset (rows : Rows) (spec : Spec)
  | pcs (d : TagNo) (rows : Rows) (comb : Comb) (cmp wr : List (Col × Bool))
  | top (op : TopOp)
  | tshf (op : TshfOp) (d a : TagNo)
  | tcnt (d : Reg) (t : TagNo) (span : BitVec 2) (lane : Option (BitVec 2))
  | tany (d : Reg) (t : TagNo) (span : BitVec 2) (lane : Option (BitVec 2))
  | tfirst (clr : Bool) (d : Reg) (t : TagNo) (span : BitVec 2) (lane : Option (BitVec 2))
  | span (ls : BitVec 2) (a b : Reg)
  | spanRd (d : Reg) (ls : BitVec 2)
  | seg (m : LaneMode)
  | segRd (d : Reg)
  | key (q : BitVec 2) (a : Reg)
  | cfill (rows : Rows) (c : Col) (n1 : BitVec 6) (src : FillSrc)
  | cread (sx : Bool) (d a : Reg) (c : Col) (n1 : BitVec 6) (lane : BitVec 2)
  | cwrite (a b : Reg) (c : Col) (n1 : BitVec 6) (lane : BitVec 2)
  | tload (t : TagNo) (span : BitVec 2) (c : Col)
  | tstore (t : TagNo) (span : BitVec 2) (c : Col)
  | fmov (rows : Rows) (cd cs : Col) (n1 : BitVec 8)
  | frot (rows : Rows) (k : BitVec 4) (cd cs : Col) (n1 : BitVec 8)
  | xrow (prev : Bool) (rows : Rows) (cd cs : Col) (n1 : BitVec 8)
  | ttld (e : BitVec 8) (regs : TtRegs)
  | ttrun (desc : Bool) (rows : Rows) (e : BitVec 8) (m1 : BitVec 5) (n1 : BitVec 6) (x0 x1 x2 x3 : Col)
  | arrayInstructionStart (core : Nat)
  | arrayInstructionRetire (core : Nat)
  | aadd (rows : Rows) (dc ac xc : Col) (f : Fmt) (rnd : Rnd) (sat : Bool)
  | asub (rows : Rows) (dc ac xc : Col) (f : Fmt) (rnd : Rnd) (sat : Bool)
  | aaddk (rows : Rows) (dc kc xc : Col) (f : FmtRnd)
  | amul (rows : Rows) (dc ac bc xc : Col) (f : Fmt) (rnd : Rnd) (sat : Bool)
  | amulk (rows : Rows) (dc ac kc xc : Col) (f : Fmt) (rnd : Rnd) (sat : Bool)
  | amac (rows : Rows) (dc ac bc xc : Col) (f1 f2 : Fmt) (rnd : Rnd) (sat : Bool)
  | amack (rows : Rows) (dc ac kc xc : Col) (f1 f2 : Fmt) (rnd : Rnd) (sat : Bool) (wa : BitVec 2)
  | afma (rows : Rows) (dc ac bc xc : Col) (f : Fmt) (rnd : Rnd) (sat : Bool)
  | acvt (rows : Rows) (dc ac rc xc : Col) (fs fd : Fmt) (rnd : Rnd) (sat : Bool)
  | acmp (cond : ACond) (d : TagNo) (rows : Rows) (ac bc xc : Col) (f : FmtRnd) (comb : Comb)
  | aminmax (max : Bool) (rows : Rows) (dc ac xc : Col) (f : FmtRnd)
  | ared (rows : Rows) (dc xc : Col) (f : Fmt) (rnd : Rnd) (sat : Bool)
  | alut (rows : Rows) (dc ac : Col) (f : FmtRnd) (n1 : BitVec 2)
  | aresolve (rows : Rows) (dc xc : Col) (wa : BitVec 2)
  | aqdec (rows : Rows) (dc ac bc xc : Col) (f1 f2 : Fmt) (rnd : Rounding)
  | aspmac (rows : Rows) (dc ac : Col) (s0 : BitVec 6) (wa : BitVec 2) (m1 : BitVec 6) (xc : Col) (f1 f2 : Fmt) (rnd : Rounding)
  | aspmacLdx (q : BitVec 2)
  | aspmacLdm
  | reservationGrant (cluster : Nat)
  | stackReservationGrant (stack : Nat)
  | permitRefill (ag : Agent)
  | cpy (sc : Scope) (a : Reg)
  | afill (win : Win) (p : Policy) (sc : Scope) (a b c : Reg)
  | aspill (win : Win) (p : Policy) (sc : Scope) (a b c : Reg)
  | engineCommandStart (core k : Nat)
  | engineCompletion (core k : Nat)
  | mbwait (d a : Reg)
  | mbpop (d a : Reg)
  | msend (ch : BitVec 4) (len : BitVec 7) (a b c : Reg)
  | mailboxDelivery (k : Nat)
  | bar (lvl : BitVec 2) (c : Bool) (a : Reg)
  | barrierArrival (k : Nat)
  | larm (a : Reg)
  | launchTake (part index : Nat) (assigned : Nat)
  | launchResume (part : Nat)
  | qbind (a : Reg) (q : BitVec 4) (home : BitVec 10)
  | qstat (d a : Reg) (q : BitVec 4)
  | tenq (a b c : Reg)
  | tsteal (a b : Reg)
  | tnext (a : Reg)
  | tend
  | homeCycle (home : Nat)
  | stealGrantDelivery (k : Nat)
  | stealRequestArrival (k : Nat)
  | farTaskTake (core : Nat)
  | autoStealWithdraw (core : Nat)
  | waitLimitExpire (ag : Agent)
  | storeBufferDrain (core k : Nat)
  | walkStart (unit : Nat)
  | walkComplete (unit k : Nat)
  | cacheEviction (cache : CacheId) (line : Nat)
  | writtenLineInvalidate (home line : Nat)
  | bankAddI32 (k : Nat) | bankAddI64 (k : Nat) | bankAddF32 (k : Nat) | bankAddBf16x2 (k : Nat)
  | bankMaxF32 (k : Nat) | bankMinF32 (k : Nat) | bankOr64 (k : Nat)
  | allbankFill (k : Nat)
  | fillWave (stack : Nat)
  | idxsum (k : Nat)
  | idxsumExecute (home : Nat)
  | idxsumComplete (home : Nat)
  | counterWrite (k : Nat)
  | counterPacket (k : Nat)
  | stackDetredWrite (stack : Nat) (en : Bool)
  | detredChangeComplete (stack : Nat)
  | hostMemRead (pa n : Nat)
  | hostMemWrite (pa : Nat) (data : List Byte)
  | hostSnoop (line : Nat) (kind : SnoopKind)
  | linkWake (die : Nat)
  | linkRetrain (die : Nat) (ok : Bool)
  | heartbeatMissing (die : Nat)
  | dieRejoin (die : Nat) (l2ways livecl : BitVec 16) (livecore : BitVec 256)
  | mapCommit (changes : List (Nat × Word))
  | mapGraceExpire (ctx : Nat)
  | ctxMapackWrite (ctx : Nat) (v : Word)
  | takeEvent (ag : Agent)
  | coreStop (core : Nat) (order sbLost : Bool)
  | supervisorRepair (core : Nat) (readable : Bool)
  | supervisorReplace (core target : Nat) (readable : Bool)
  | suspendDeadline (ctx : Nat)
  | suspensionComplete (ctx : Nat)
  | contextResume (ctx : Nat) (cores : List Nat)
  | serviceRecordTake (part : Nat)
  | partModeWrite (v : Word)
  | partModeApply
  | clClockWrite (cluster : Nat) (v : Word)
  | dieVddWrite (die : Nat) (v : Word)
  | clockChangeComplete (cluster : Nat)
  | vddRampComplete (die : Nat)
  | clCurrentWrite (cluster : Nat) (v : Word)
  | clPermitWrite (cluster : Nat) (v : Word)
  | permitBcastWrite (v : Word)
  | stallSample (cluster : Nat) (cyc pstall rstall : BitVec 20)
  | forecastUpdate
  | thermalSample (temps : List (BitVec 16))
  | thermStatWrite (v : Word)
  | snapTrig
  | snapshotComplete
  | hostNoticeWrite (fn : Nat) (v : Word)
  | spdmRequest (index : Nat)
  | bootRom (readOk : Bool) (image : List Byte)
  | bringUp (tested : List (Nat × Word)) (pools : Pools)
  | controlRegisterWrite (offset n : Nat) (v : Word)
  | hostBiResponse (line : Nat) (data : BiAnswer)
  | hostCacheResponse (k : Nat) (data : BitVec 512)
  | linkLowPowerEntry (die : Nat)
  | corePowerGate (core : Nat)
  deriving DecidableEq, Repr

end Sys2Proof
end

