-- ==== Sys2Proof/WellFormed.lean ====
section
/-! DEFINITION. Well-formed instructions: the reserved sub-field values and must-be-zero bits of R184 and R185 that the
operand types do not already exclude. -/
namespace Sys2Proof

/-- An integer format (R72). -/
def Fmt.isInt : Fmt → Bool
  | .i4 | .i8 | .i16 | .i32 | .i64 | .u4 | .u8 | .u16 | .u32 | .u64 => true
  | _ => false

/-- A floating format (R72). -/
def Fmt.isFloat : Fmt → Bool
  | .fp32 | .fp16 | .bf16 | .e5m2 | .e4m3 => true
  | _ => false

/-- F1 formats whose AMACK accumulator is carry-save (R253). -/
def Fmt.carrySave : Fmt → Bool
  | .i4 | .i8 | .ql4 => true
  | _ => false

/-- Major codes that always trap ILLEGAL_INSN with reason 1 (R184). -/
def reservedOp (op : Nat) : Bool :=
  op == 0 || (0x55 ≤ op && op ≤ 0x5F) || 0x7E ≤ op

/-- A field of `lo`, `len` lies in a word (R208). -/
def fieldFits (lo : BitVec 6) (len : BitVec 7) : Bool :=
  1 ≤ len.toNat && lo.toNat + len.toNat ≤ 64

/-- Number of fields of each record layout (R211). -/
def layoutFields (l : Nat) : Nat :=
  match l with
  | 0 => 3 | 1 => 3 | 2 => 3 | 3 => 9 | 4 => 4 | 5 => 4 | 6 => 2
  | _ => 0

/-- Fields that HDRP cannot pack (R211). -/
def extractOnly (l f : Nat) : Bool := l == 5 && (f == 1 || f == 2)

/-- RND and SAT must be 0 where every format is an integer format, and nowhere else (R245). For RND code 4 there R95 says FIELD_SPEC
reason 7, and R245 and R255 say ILLEGAL_INSN reason 5, which comes first (DEDUCED, log entry 60). -/
def roundZero (allInt : Bool) (rnd : Rnd) (sat : Bool) : Option Nat :=
  if allInt && !(rnd == .rne && !sat) then some 5 else none

/-- The key of an immediate range fits its width (R221, R225). -/
def keyFits (n1 : BitVec 4) (k : BitVec 16) : Bool := k.toNat < 2 ^ (n1.toNat + 1)

/-- The reason of R184 (4 or 5) for which an instruction's own sub-fields are refused, `none` when it is well-formed. An AMACK or ASPMAC
whose F1 it does not accept has no carry-save width and no scratch, so that a nonzero wa code or XC is reason 5, before the FIELD_SPEC of
its format (DEDUCED, log entry 37: R253 requires AUX 0 of the FP8 formats only). -/
def Instr.flaw : Instr → Option Nat
  | .ill h t =>
    let tl := (h.extractLsb' 6 3).toNat
    if reservedOp (h.extractLsb' 9 7).toNat && t.toNat < 2 ^ (16 * (if tl ≤ 4 then tl else 0)) then none else some 1
  | .li f _ k => if f == .h && 2 ^ 16 ≤ k.toNat then some 5 else none
  | .cmaint op reach _ _ _ => if reach == .l1i && op != .inv then some 4 else none
  | .shi _ w _ _ s => if w && 32 ≤ s.toNat then some 4 else none
  | .bext _ _ _ lo len | .bins _ _ lo len => if fieldFits lo len then none else some 4
  | .hdrx _ _ l f => if f.toNat < layoutFields l.toNat then none else some 4
  | .hdrp _ _ l f => if f.toNat < layoutFields l.toNat && !extractOnly l.toNat f.toNat then none else some 4
  | .ld w sx .. => if sx && w == .d then some 4 else none
  | .lda w sx .. => if sx && w == .d then some 4 else none
  | .ldx w sx .. => if sx && w == .d then some 4 else none
  | .pcmp _ _ _ spec =>
    match spec with
    | .pairs ps => if 1 ≤ ps.length && ps.length ≤ 4 then none else some 4
    | .imm _ n1 k => if keyFits n1 k then none else some 5
    | .ky .. => none
  | .pset _ spec =>
    match spec with
    | .pairs ps => if 1 ≤ ps.length && ps.length ≤ 2 then none else some 4
    | .imm _ n1 k => if keyFits n1 k then none else some 5
    | .ky .. => none
  | .pcs _ _ _ cs ws =>
    if 1 ≤ cs.length && cs.length ≤ 3 && 1 ≤ ws.length && ws.length ≤ 2 then none else some 4
  | .frot _ k .. => if k.toNat ≤ 14 then none else some 4
  | .ttld e regs =>
    let n := match regs with | .one _ => 1 | .two .. => 2 | .three .. => 3
    if e.toNat + 2 * n ≤ 256 then none else some 4
  | .ttrun _ _ e m1 .. => if e.toNat + m1.toNat + 1 ≤ 256 then none else some 4
  | .aadd _ _ _ _ f rnd sat | .asub _ _ _ _ f rnd sat | .amul _ _ _ _ _ f rnd sat | .amulk _ _ _ _ _ f rnd sat
  | .afma _ _ _ _ _ f rnd sat | .ared _ _ _ f rnd sat => roundZero f.isInt rnd sat
  | .amac _ _ _ _ _ f1 f2 rnd sat => roundZero (f1.isInt && f2.isInt) rnd sat
  | .amack _ _ _ _ xc f1 f2 rnd sat wa =>
    if f1.carrySave && wa == 3 then some 4
    else if (!f1.carrySave && wa != 0) || (!f1.isFloat && xc != 0) then some 5
    else roundZero (f1.isInt && f2.isInt) rnd sat
  | .acvt _ _ _ rc _ fs fd rnd _ =>
    if rnd != .ef && rc != 0 then some 5
    else if fs.isInt && fd.isInt && rnd != .rne then some 5 else none
  | .aaddk _ _ _ _ f | .acmp _ _ _ _ _ _ f _ | .aminmax _ _ _ _ _ f | .alut _ _ _ f _ => roundZero f.fmt.isInt f.rnd f.sat
  | .aresolve _ _ _ wa => if wa == 3 then some 4 else none
  | .aspmac _ _ _ _ wa _ xc f1 f2 rnd =>
    if f1.carrySave && wa == 3 then some 4
    else if (!f1.carrySave && wa != 0) || (!f1.isFloat && xc != 0) then some 5
    else roundZero (f1.isInt && f2.isInt) rnd.rnd rnd.sat
  | .aqdec _ _ _ _ _ f1 f2 rnd => roundZero (f1.isInt && f2.isInt) rnd.rnd rnd.sat
  | .msend ch len .. => if ch.toNat ≤ 13 && 1 ≤ len.toNat && len.toNat ≤ 64 then none else some 4
  | .bar lvl .. => if lvl != 0 then none else some 4
  | _ => none

/-- An instruction whose own sub-fields are all accepted. -/
def Instr.wf (i : Instr) : Bool := i.flaw == none

end Sys2Proof
end

