-- ==== Sys2Proof/Decode.lean ====
section
/-! DEFINITION. Instruction lines (R175 to R178), decoding of heads and tails (R176 to R186) and the encoder from the same
tables. -/
namespace Sys2Proof

/-! ### Sub-field codes (R186 and the tables of each chapter) -/

def Width.code : Width → BitVec 2 | .b => 0 | .h => 1 | .w => 2 | .d => 3
def Width.of (c : BitVec 2) : Width := if c = 0 then .b else if c = 1 then .h else if c = 2 then .w else .d
/-- Width in bytes (R186). -/
def Width.bytes : Width → Nat | .b => 1 | .h => 2 | .w => 4 | .d => 8
def Policy.code : Policy → BitVec 2 | .c => 0 | .g => 1 | .m => 2 | .u => 3
def Policy.of (c : BitVec 2) : Policy := if c = 0 then .c else if c = 1 then .g else if c = 2 then .m else .u
def Scope.code : Scope → BitVec 3 | .core => 0 | .cluster => 1 | .island => 2 | .package => 3 | .system => 4
def Scope.of (c : BitVec 3) : Option Scope :=
  if c = 0 then some .core else if c = 1 then some .cluster else if c = 2 then some .island
  else if c = 3 then some .package else if c = 4 then some .system else none
def Order.code : Order → BitVec 2 | .plain => 0 | .acq => 1 | .rel => 2 | .ar => 3
def Order.of (c : BitVec 2) : Order := if c = 0 then .plain else if c = 1 then .acq else if c = 2 then .rel else .ar
def Cond.code : Cond → BitVec 4 | .eq => 0 | .ne => 1 | .lt => 2 | .ge => 3 | .ltu => 4 | .geu => 5
def Cond.of (c : BitVec 4) : Option Cond :=
  if c = 0 then some .eq else if c = 1 then some .ne else if c = 2 then some .lt else if c = 3 then some .ge
  else if c = 4 then some .ltu else if c = 5 then some .geu else none
def MulhMode.code : MulhMode → BitVec 2 | .ss => 0 | .uu => 1 | .su => 2
def MulhMode.of (c : BitVec 2) : Option MulhMode :=
  if c = 0 then some .ss else if c = 1 then some .uu else if c = 2 then some .su else none
def LiForm.code : LiForm → BitVec 6 | .s => 0 | .m => 1 | .h => 2
def LiForm.of (c : BitVec 6) : Option LiForm :=
  if c = 0 then some .s else if c = 1 then some .m else if c = 2 then some .h else none
def LogOp.code : LogOp → BitVec 6 | .and => 0 | .or => 1 | .xor => 2
def LogOp.of (c : BitVec 6) : Option LogOp :=
  if c = 0 then some .and else if c = 1 then some .or else if c = 2 then some .xor else none
def ShOp.code : ShOp → BitVec 2 | .shl => 0 | .shr => 1 | .sha => 2 | .rot => 3
def ShOp.of (c : BitVec 2) : ShOp := if c = 0 then .shl else if c = 1 then .shr else if c = 2 then .sha else .rot
def BitcOp.code : BitcOp → BitVec 4 | .pop => 0 | .clz => 1 | .ctz => 2
def BitcOp.of (c : BitVec 4) : Option BitcOp :=
  if c = 0 then some .pop else if c = 1 then some .clz else if c = 2 then some .ctz else none
def AmoOp.code : AmoOp → BitVec 4
  | .swap => 0 | .add => 1 | .and => 2 | .or => 3 | .xor => 4 | .smin => 5 | .smax => 6 | .umin => 7 | .umax => 8
def AmoOp.of (c : BitVec 4) : Option AmoOp :=
  if c = 0 then some .swap else if c = 1 then some .add else if c = 2 then some .and else if c = 3 then some .or
  else if c = 4 then some .xor else if c = 5 then some .smin else if c = 6 then some .smax
  else if c = 7 then some .umin else if c = 8 then some .umax else none
def AmofOp.code : AmofOp → BitVec 4 | .addF32 => 0 | .maxF32 => 1 | .minF32 => 2 | .addBf16x2 => 3
def AmofOp.of (c : BitVec 4) : Option AmofOp :=
  if c = 0 then some .addF32 else if c = 1 then some .maxF32 else if c = 2 then some .minF32
  else if c = 3 then some .addBf16x2 else none
def CmOp.code : CmOp → BitVec 2 | .cln => 0 | .inv => 1 | .ci => 2
def CmOp.of (c : BitVec 2) : Option CmOp :=
  if c = 0 then some .cln else if c = 1 then some .inv else if c = 2 then some .ci else none
def CmReach.code : CmReach → BitVec 2 | .msc => 0 | .mem => 1 | .l1i => 2
def CmReach.of (c : BitVec 2) : Option CmReach :=
  if c = 0 then some .msc else if c = 1 then some .mem else if c = 2 then some .l1i else none
def CmExt.code : CmExt → BitVec 2 | .line => 0 | .gran => 1
def CmExt.of (c : BitVec 2) : Option CmExt := if c = 0 then some .line else if c = 1 then some .gran else none
def CsrxOp.code : CsrxOp → BitVec 6 | .swap => 0 | .set => 1 | .clr => 2
def CsrxOp.of (c : BitVec 6) : Option CsrxOp :=
  if c = 0 then some .swap else if c = 1 then some .set else if c = 2 then some .clr else none
def LaneMode.code : LaneMode → BitVec 2 | .one => 0 | .two => 1 | .four => 2
def Comb.code : Comb → BitVec 2 | .mov => 0 | .and => 1 | .or => 2
def Comb.of (c : BitVec 2) : Option Comb :=
  if c = 0 then some .mov else if c = 1 then some .and else if c = 2 then some .or else none
def Fmt.code : Fmt → BitVec 4
  | .i4 => 0 | .i8 => 1 | .i16 => 2 | .i32 => 3 | .i64 => 4 | .u4 => 5 | .u8 => 6 | .u16 => 7 | .u32 => 8 | .u64 => 9
  | .fp32 => 10 | .fp16 => 11 | .bf16 => 12 | .e5m2 => 13 | .e4m3 => 14 | .ql4 => 15
def Fmt.of (c : BitVec 4) : Fmt :=
  if c = 0 then .i4 else if c = 1 then .i8 else if c = 2 then .i16 else if c = 3 then .i32 else if c = 4 then .i64
  else if c = 5 then .u4 else if c = 6 then .u8 else if c = 7 then .u16 else if c = 8 then .u32 else if c = 9 then .u64
  else if c = 10 then .fp32 else if c = 11 then .fp16 else if c = 12 then .bf16 else if c = 13 then .e5m2
  else if c = 14 then .e4m3 else .ql4
def Rnd.code : Rnd → BitVec 3 | .rne => 0 | .rtz => 1 | .rup => 2 | .rdn => 3 | .ef => 4
def Rnd.of (c : BitVec 3) : Option Rnd :=
  if c = 0 then some .rne else if c = 1 then some .rtz else if c = 2 then some .rup else if c = 3 then some .rdn
  else if c = 4 then some .ef else none
def Win.code : Win → BitVec 3 | .raw => 0 | .ql4 => 1 | .e4m3 => 2 | .e5m2 => 3 | .i4 => 4 | .sc16 => 5 | .bf16 => 6
def Win.of (c : BitVec 3) : Option Win :=
  if c = 0 then some .raw else if c = 1 then some .ql4 else if c = 2 then some .e4m3 else if c = 3 then some .e5m2
  else if c = 4 then some .i4 else if c = 5 then some .sc16 else if c = 6 then some .bf16 else none
def ACond.code : ACond → BitVec 6 | .eq => 0 | .ne => 1 | .lt => 2 | .le => 3 | .gt => 4 | .ge => 5
def ACond.of (c : BitVec 6) : Option ACond :=
  if c = 0 then some .eq else if c = 1 then some .ne else if c = 2 then some .lt else if c = 3 then some .le
  else if c = 4 then some .gt else if c = 5 then some .ge else none
def bit (b : Bool) : BitVec 1 := BitVec.ofBool b
/-- A tag named by a 6-bit field; values 16 to 63 are reserved (R183). -/
def tagOf (r : BitVec 6) : Option TagNo := if r.extractLsb' 4 2 = 0 then some (r.extractLsb' 0 4) else none
def tagReg (t : TagNo) : BitVec 6 := 0#2 ++ t
/-- sel: of R220. -/
def selCode : Option TagNo → BitVec 5
  | none => 0
  | some t => 1#1 ++ t
def selOf (c : BitVec 5) : Option (Option TagNo) :=
  if c = 0 then some none else if c.extractLsb' 4 1 = 1 then some (some (c.extractLsb' 0 4)) else none
/-- Lane selection of TCNT, TANY and TFIRST (R230). -/
def laneCode : Option (BitVec 2) → BitVec 6
  | none => 0
  | some l => BitVec.ofNat 6 (l.toNat + 1)
def laneOf (c : BitVec 6) : Option (Option (BitVec 2)) :=
  if c = 0 then some none else if c.toNat ≤ 4 then some (some (BitVec.ofNat 2 (c.toNat - 1))) else none

/-! ### The encoder -/

def head (op : BitVec 7) (tl : BitVec 3) (d : Reg) : BitVec 16 := op ++ tl ++ d
def t16 (a b : Reg) (f : BitVec 4) : BitVec 64 := 0#48 ++ (a ++ b ++ f)
def t32 (a : Reg) (f : BitVec 6) (k : BitVec 20) : BitVec 64 := 0#32 ++ (a ++ f ++ k)
def t48 (a b c : Reg) (f : BitVec 6) (k : BitVec 24) : BitVec 64 := 0#16 ++ (a ++ b ++ c ++ f ++ k)
def t64 (form : BitVec 6) (p : BitVec 58) : BitVec 64 := form ++ p

def e16 (op : BitVec 7) (d a b : Reg) (f : BitVec 4) : BitVec 16 × BitVec 64 := (head op 1 d, t16 a b f)
def e32 (op : BitVec 7) (d a : Reg) (f : BitVec 6) (k : BitVec 20) : BitVec 16 × BitVec 64 := (head op 2 d, t32 a f k)
def e48 (op : BitVec 7) (d a b c : Reg) (f : BitVec 6) (k : BitVec 24) : BitVec 16 × BitVec 64 :=
  (head op 3 d, t48 a b c f k)
def e64 (op : BitVec 7) (d : Reg) (form : BitVec 6) (p : BitVec 58) : BitVec 16 × BitVec 64 := (head op 4 d, t64 form p)

def pairBits (ps : List (Col × Bool)) (i : Nat) : BitVec 9 :=
  match ps[i]? with
  | some (c, v) => c ++ bit v
  | none => 0
def specForm : Spec → BitVec 6 | .pairs _ => 0 | .imm .. => 1 | .ky .. => 2
def specBits : Spec → BitVec 49
  | .pairs ps => BitVec.ofNat 2 (ps.length - 1) ++ pairBits ps 0 ++ pairBits ps 1 ++ pairBits ps 2 ++ pairBits ps 3 ++ 0#11
  | .imm c n1 k => c ++ n1 ++ k ++ 0#21
  | .ky c n1 => c ++ n1 ++ 0#37
/-- The span, sel and comb bits that every array payload starts with, above 49 further bits. -/
def rowsPay (r : Rows) (comb : BitVec 2) (rest : BitVec 49) : BitVec 58 := r.span ++ selCode r.sel ++ comb ++ rest
/-- The fields of an array macro's payload (R243). -/
def mpay (r : Rows) (dc ac bc xc : Col) (f1 f2 : BitVec 4) (rnd : BitVec 3) (sat : Bool) (aux : BitVec 7) : BitVec 58 :=
  r.span ++ selCode r.sel ++ dc ++ ac ++ bc ++ xc ++ f1 ++ f2 ++ rnd ++ bit sat ++ aux
def ls0All : Rows := ⟨0, none⟩

def topBits : TopOp → BitVec 4 × TagNo × TagNo × TagNo
  | .and d a b => (0, d, a, b) | .or d a b => (1, d, a, b) | .xor d a b => (2, d, a, b) | .andn d a b => (3, d, a, b)
  | .not d a => (4, d, a, 0) | .mov d a => (5, d, a, 0) | .clr d => (6, d, 0, 0) | .set d => (7, d, 0, 0)

/-- The head and the zero-extended tail of an instruction. Events have no encoding and answer zeros. -/
def encode : Instr → BitVec 16 × BitVec 64
  | .ill h t => (h, t)
  | .add w d a b => e16 0x01 d a b (0#3 ++ bit w)
  | .sub w d a b => e16 0x02 d a b (0#3 ++ bit w)
  | .and w d a b => e16 0x03 d a b (0#3 ++ bit w)
  | .or w d a b => e16 0x04 d a b (0#3 ++ bit w)
  | .xor w d a b => e16 0x05 d a b (0#3 ++ bit w)
  | .andn w d a b => e16 0x06 d a b (0#3 ++ bit w)
  | .shl w d a b => e16 0x07 d a b (0#3 ++ bit w)
  | .shr w d a b => e16 0x08 d a b (0#3 ++ bit w)
  | .sha w d a b => e16 0x09 d a b (0#3 ++ bit w)
  | .rot w d a b => e16 0x0A d a b (0#3 ++ bit w)
  | .mul w d a b => e16 0x0B d a b (0#3 ++ bit w)
  | .mulh m d a b => e16 0x0C d a b (0#2 ++ m.code)
  | .div w u r d a b => e16 0x0D d a b (0#1 ++ bit r ++ bit u ++ bit w)
  | .minmax w u x d a b => e16 0x0E d a b (0#1 ++ bit x ++ bit u ++ bit w)
  | .cmp c d a b => e16 0x0F d a b c.code
  | .sel d a b c => e48 0x19 d a b c 0 0
  | .addi w d a k => e32 0x10 d a (0#5 ++ bit w) k
  | .li f d k => e48 0x11 d 0 0 0 f.code k
  | .logi o d a k => e32 0x12 d a o.code k
  | .shi o w d a s => e32 0x13 d a (0#3 ++ bit w ++ o.code) (0#14 ++ s)
  | .bext sx d a lo len => e32 0x14 d a (0#5 ++ bit sx) (0#7 ++ len ++ lo)
  | .bins d a lo len => e32 0x15 d a 0 (0#7 ++ len ++ lo)
  | .bitc o d a => e16 0x16 d a 0 o.code
  | .hdrp d a l f => e32 0x17 d a l (0#12 ++ f)
  | .hdrx d a l f => e32 0x18 d a l (0#12 ++ f)
  | .addpc d k => e32 0x1A d 0 (k.extractLsb' 20 6) (k.extractLsb' 0 20)
  | .br c a b dl s => (head 0x1B 2 0, 0#32 ++ (a ++ b ++ c.code ++ dl ++ s))
  | .brz nz a dl s => (head 0x1C 2 0, 0#32 ++ (a ++ bit nz ++ dl ++ s))
  | .jmp dl s => (head 0x1D 2 0, 0#32 ++ (dl ++ s))
  | .jal d dl s => (head 0x1E 2 d, 0#32 ++ (dl ++ s))
  | .jr d a => e16 0x1F d a 0 0
  | .ld w sx p d a k => e32 0x20 d a (0#1 ++ bit sx ++ p.code ++ w.code) k
  | .st w p d a k => e32 0x21 d a (0#2 ++ p.code ++ w.code) k
  | .lda w sx p sc d a k => e48 0x22 d a 0 (0#3 ++ sc.code) (0#1 ++ bit sx ++ p.code ++ w.code) k
  | .stl w p sc d a k => e48 0x23 d a 0 (0#3 ++ sc.code) (0#2 ++ p.code ++ w.code) k
  | .amo o x p sc ord d a b => e48 0x24 d a b (0#1 ++ ord.code ++ sc.code) (0#3 ++ p.code ++ bit x) (0#20 ++ o.code)
  | .cas x p sc ord d a b k => e48 0x25 d a b (0#1 ++ ord.code ++ sc.code) (0#3 ++ p.code ++ bit x) k
  | .amof o p sc ord d a b => e48 0x26 d a b (0#1 ++ ord.code ++ sc.code) (0#3 ++ p.code ++ 0#1) (0#20 ++ o.code)
  | .fence sc => e16 0x27 0 0 0 (0#1 ++ sc.code)
  | .waitm w p d a b c k => e48 0x28 d a b c (0#2 ++ p.code ++ w.code) k
  | .waitc ch sc a b => e48 0x29 0 a b (0#3 ++ sc.code) (0#2 ++ ch) 0
  | .cmaint o r x a k => e32 0x2A 0 a (o.code ++ r.code ++ x.code) k
  | .get w o d a k => e48 0x2B d a 0 0 (0#3 ++ bit o ++ w.code) k
  | .put w o d a k => e48 0x2C d a 0 0 (0#3 ++ bit o ++ w.code) k
  | .ramo op x o d a b => e48 0x2D d a b 0 (0#4 ++ bit o ++ bit x) (0#20 ++ op.code)
  | .ldx w sx p d a b k => e48 0x2E d a b 0 (0#1 ++ bit sx ++ p.code ++ w.code) k
  | .stx w p d a b k => e48 0x2F d a b 0 (0#2 ++ p.code ++ w.code) k
  | .csrr d n => e32 0x30 d 0 0 (0#8 ++ n)
  | .csrw n a => e32 0x31 0 a 0 (0#8 ++ n)
  | .csrx o d n a => e32 0x32 d a o.code (0#8 ++ n)
  | .trap k => e32 0x33 0 0 0 k
  | .eret => (head 0x34 0 0, 0)
  | .idle a => e16 0x35 0 a 0 0
  | .ckpt k => e32 0x36 0 0 0 k
  | .rmread d a => e16 0x37 d a 0 0
  | .rmack d => (head 0x38 0 d, 0)
  | .time d => (head 0x39 0 d, 0)
  | .snap => (head 0x3A 0 0, 0)
  | .tlbi op =>
    match op with
    | .va a b => e16 0x3B 0 a b 0
    | .vag a => e16 0x3B 0 a 0 1
    | .ctx b => e16 0x3B 0 0 b 2
    | .all => e16 0x3B 0 0 0 3
  | .ien en d => e16 0x3C d 0 0 (0#3 ++ bit en)
  | .sysc k => e32 0x3D 0 0 0 k
  | .nrowOpen a k => e32 0x3E 0 a 0 k
  | .nrowClose => e32 0x3E 0 0 1 0
  | .nlut acc d a b => e16 0x3F d a b (0#3 ++ bit acc)
  | .pcmp d r cb s => e64 0x40 (tagReg d) (specForm s) (rowsPay r cb.code (specBits s))
  | .pset r s => e64 0x41 0 (specForm s) (rowsPay r 0 (specBits s))
  | .pcs d r cb cs ws =>
    e64 0x42 (tagReg d) 0 (rowsPay r cb.code
      (BitVec.ofNat 2 (cs.length - 1) ++ pairBits cs 0 ++ pairBits cs 1 ++ pairBits cs 2 ++
        BitVec.ofNat 1 (ws.length - 1) ++ pairBits ws 0 ++ pairBits ws 1 ++ 0#1))
  | .top op => let (f, d, a, b) := topBits op; e16 0x43 (tagReg d) (tagReg a) (tagReg b) f
  | .tshf op d a =>
    match op with
    | .up o k => e32 0x44 (tagReg d) (tagReg a) (0#3 ++ bit o ++ 0#2) (0#5 ++ k)
    | .dn o k => e32 0x44 (tagReg d) (tagReg a) (0#3 ++ bit o ++ 1#2) (0#5 ++ k)
    | .lane k => e32 0x44 (tagReg d) (tagReg a) 2 (0#18 ++ k)
  | .tcnt d t s l => e16 0x45 d (tagReg t) (laneCode l) (0#2 ++ s)
  | .tany d t s l => e16 0x46 d (tagReg t) (laneCode l) (0#2 ++ s)
  | .tfirst c d t s l => e16 0x47 d (tagReg t) (laneCode l) (0#1 ++ bit c ++ s)
  | .span ls a b => e16 0x48 0 a b (0#2 ++ ls)
  | .spanRd d ls => e16 0x48 d 0 0 (1#2 ++ ls)
  | .seg m => e16 0x49 0 0 0 (0#2 ++ m.code)
  | .segRd d => e16 0x49 d 0 0 4
  | .key q a => e16 0x4A 0 a 0 (0#2 ++ q)
  | .cfill r c n1 src =>
    match src with
    | .imm k => e64 0x4B 0 0 (rowsPay r 0 (c ++ n1 ++ 0#1 ++ k))
    | .reg g => e64 0x4B g 0 (rowsPay r 0 (c ++ n1 ++ 1#1 ++ 0#34))
  | .cread sx d a c n1 l => e48 0x4C d a 0 0 (0#5 ++ bit sx) (c ++ n1 ++ l ++ 0#8)
  | .cwrite a b c n1 l => e48 0x4D 0 a b 0 0 (c ++ n1 ++ l ++ 0#8)
  | .fmov r cd cs n1 => e64 0x4E 0 0 (rowsPay r 0 (cd ++ cs ++ n1 ++ 0#25))
  | .frot r k cd cs n1 => e64 0x4F 0 0 (rowsPay r 0 (k ++ cd ++ cs ++ n1 ++ 0#21))
  | .ttld e regs =>
    match regs with
    | .one a => e48 0x50 0 a 0 0 1 (0#16 ++ e)
    | .two a b => e48 0x50 0 a b 0 2 (0#16 ++ e)
    | .three a b c => e48 0x50 0 a b c 3 (0#16 ++ e)
  | .ttrun ds r e m1 n1 x0 x1 x2 x3 =>
    e64 0x51 0 (0#5 ++ bit ds) (r.span ++ selCode r.sel ++ e ++ m1 ++ n1 ++ x0 ++ x1 ++ x2 ++ x3)
  | .tload t s c => e48 0x52 (tagReg t) 0 0 0 (0#4 ++ s) (0#16 ++ c)
  | .tstore t s c => e48 0x53 (tagReg t) 0 0 0 (0#4 ++ s) (0#16 ++ c)
  | .xrow pv r cd cs n1 => e64 0x54 0 (0#5 ++ bit pv) (rowsPay r 0 (cd ++ cs ++ n1 ++ 0#25))
  | .aadd r dc ac xc f rnd sat => e64 0x60 0 0 (mpay r dc ac 0 xc f.code 0 rnd.code sat 0)
  | .asub r dc ac xc f rnd sat => e64 0x61 0 0 (mpay r dc ac 0 xc f.code 0 rnd.code sat 0)
  | .aaddk r dc kc xc f => e64 0x62 0 0 (mpay r dc 0 kc xc f.fmt.code 0 f.rnd.code f.sat 0)
  | .amul r dc ac bc xc f rnd sat => e64 0x63 0 0 (mpay r dc ac bc xc f.code 0 rnd.code sat 0)
  | .amulk r dc ac kc xc f rnd sat => e64 0x64 0 0 (mpay r dc ac kc xc f.code 0 rnd.code sat 0)
  | .amac r dc ac bc xc f1 f2 rnd sat => e64 0x65 0 0 (mpay r dc ac bc xc f1.code f2.code rnd.code sat 0)
  | .amack r dc ac kc xc f1 f2 rnd sat wa => e64 0x66 0 0 (mpay r dc ac kc xc f1.code f2.code rnd.code sat (0#5 ++ wa))
  | .afma r dc ac bc xc f rnd sat => e64 0x67 0 0 (mpay r dc ac bc xc f.code 0 rnd.code sat 0)
  | .acvt r dc ac rc xc fs fd rnd sat => e64 0x68 0 0 (mpay r dc ac rc xc fs.code fd.code rnd.code sat 0)
  | .acmp cd d r ac bc xc f cb => e64 0x69 (tagReg d) cd.code (mpay r 0 ac bc xc f.fmt.code 0 f.rnd.code f.sat (0#5 ++ cb.code))
  | .aminmax mx r dc ac xc f => e64 0x6A 0 (0#5 ++ bit mx) (mpay r dc ac 0 xc f.fmt.code 0 f.rnd.code f.sat 0)
  | .ared r dc xc f rnd sat => e64 0x6B 0 0 (mpay r dc 0 0 xc f.code 0 rnd.code sat 0)
  | .aspmac r dc ac s0 wa m1 xc f1 f2 rnd =>
    e64 0x6C 0 0 (mpay r dc ac (wa ++ s0) xc f1.code f2.code rnd.rnd.code rnd.sat (m1 ++ 0#1))
  | .aspmacLdx q => e64 0x6C 0 1 (mpay ls0All 0 0 0 0 0 0 0 false (0#5 ++ q))
  | .aspmacLdm => e64 0x6C 0 2 (mpay ls0All 0 0 0 0 0 0 0 false 0)
  | .alut r dc ac f n1 => e64 0x6D 0 0 (mpay r dc ac 0 0 0 f.fmt.code f.rnd.code f.sat (0#5 ++ n1))
  | .aresolve r dc xc wa => e64 0x6E 0 0 (mpay r dc 0 0 xc 0 0 0 false (0#5 ++ wa))
  | .aqdec r dc ac bc xc f1 f2 rnd => e64 0x6F 0 0 (mpay r dc ac bc xc f1.code f2.code rnd.rnd.code rnd.sat 0)
  | .cpy sc a => e16 0x70 0 a 0 (0#1 ++ sc.code)
  | .afill w p sc a b c => e48 0x71 0 a b c (0#1 ++ p.code ++ sc.code) (0#21 ++ w.code)
  | .aspill w p sc a b c => e48 0x72 0 a b c (0#1 ++ p.code ++ sc.code) (0#21 ++ w.code)
  | .mbwait d a => e16 0x73 d a 0 0
  | .mbpop d a => e16 0x74 d a 0 0
  | .msend ch len a b c => e48 0x75 0 a b c (0#2 ++ ch) (0#17 ++ len)
  | .bar lvl c a => e16 0x76 0 a 0 (0#1 ++ bit c ++ lvl)
  | .larm a => e16 0x77 0 a 0 0
  | .qbind a q h => e32 0x78 0 a (0#2 ++ q) (0#10 ++ h)
  | .tenq a b c => e48 0x79 0 a b c 0 0
  | .tnext a => e16 0x7A 0 a 0 0
  | .tsteal a b => e16 0x7B 0 a b 0
  | .tend => (head 0x7C 0 0, 0)
  | .qstat d a q => e32 0x7D d a (0#2 ++ q) 0
  | _ => (0, 0)

/-! ### The decoder -/

/-- The tail class of a major code (R185); codes that always trap have none. -/
def tailClass (op : Nat) : Nat :=
  if op ≤ 0x0F then 1
  else if op = 0x11 || op = 0x19 then 3
  else if op = 0x16 || op = 0x1F then 1
  else if op ≤ 0x1E then 2
  else if op ≤ 0x21 || op = 0x2A then 2
  else if op = 0x27 then 1
  else if op ≤ 0x2F then 3
  else if op ≤ 0x33 || op = 0x36 || op = 0x3D || op = 0x3E then 2
  else if op = 0x34 || (0x38 ≤ op && op ≤ 0x3A) then 0
  else if op ≤ 0x3F then 1
  else if op ≤ 0x42 then 4
  else if op = 0x44 then 2
  else if op ≤ 0x4A then 1
  else if op = 0x4B || op = 0x4E || op = 0x4F || op = 0x51 || op = 0x54 then 4
  else if op ≤ 0x53 then 3
  else if op ≤ 0x6F then 4
  else if op = 0x71 || op = 0x72 || op = 0x75 || op = 0x79 then 3
  else if op = 0x78 || op = 0x7D then 2
  else if op = 0x7C then 0
  else 1

/-- A decoded head: an instruction, or the reason of R184 for which it traps. -/
inductive Dec where
  | ok (i : Instr)
  | bad (reason : Nat)
  deriving DecidableEq, Repr

/-- `len` bits of a tail from bit `lo`. -/
def fld (t : BitVec 64) (lo len : Nat) : BitVec len := t.extractLsb' lo len
def bitAt (t : BitVec 64) (i : Nat) : Bool := t.getLsbD i

def decScalar (op : Nat) (d : Reg) (t : BitVec 64) : Option Instr :=
  let a : Reg := fld t 10 6
  let b : Reg := fld t 4 6
  let w := bitAt t 0
  let a2 : Reg := fld t 26 6
  let k : BitVec 20 := fld t 0 20
  match op with
  | 0x01 => some (.add w d a b)
  | 0x02 => some (.sub w d a b)
  | 0x03 => some (.and w d a b)
  | 0x04 => some (.or w d a b)
  | 0x05 => some (.xor w d a b)
  | 0x06 => some (.andn w d a b)
  | 0x07 => some (.shl w d a b)
  | 0x08 => some (.shr w d a b)
  | 0x09 => some (.sha w d a b)
  | 0x0A => some (.rot w d a b)
  | 0x0B => some (.mul w d a b)
  | 0x0C => (MulhMode.of (fld t 0 2)).map (.mulh · d a b)
  | 0x0D => some (.div w (bitAt t 1) (bitAt t 2) d a b)
  | 0x0E => some (.minmax w (bitAt t 1) (bitAt t 2) d a b)
  | 0x0F => (Cond.of (fld t 0 4)).map (.cmp · d a b)
  | 0x10 => some (.addi (bitAt t 20) d a2 k)
  | 0x11 => (LiForm.of (fld t 24 6)).map (.li · d (fld t 0 24))
  | 0x12 => (LogOp.of (fld t 20 6)).map (.logi · d a2 k)
  | 0x13 => some (.shi (ShOp.of (fld t 20 2)) (bitAt t 22) d a2 (fld t 0 6))
  | 0x14 => some (.bext (bitAt t 20) d a2 (fld t 0 6) (fld t 6 7))
  | 0x15 => some (.bins d a2 (fld t 0 6) (fld t 6 7))
  | 0x16 => (BitcOp.of (fld t 0 4)).map (.bitc · d a)
  | 0x17 => some (.hdrp d a2 (fld t 20 6) (fld t 0 8))
  | 0x18 => some (.hdrx d a2 (fld t 20 6) (fld t 0 8))
  | 0x19 => some (.sel d (fld t 42 6) (fld t 36 6) (fld t 30 6))
  | 0x1A => some (.addpc d (fld t 0 26))
  | 0x1B => (Cond.of (fld t 16 4)).map (.br · a2 (fld t 20 6) (fld t 5 11) (fld t 0 5))
  | 0x1C => some (.brz (bitAt t 25) a2 (fld t 5 20) (fld t 0 5))
  | 0x1D => some (.jmp (fld t 5 27) (fld t 0 5))
  | 0x1E => some (.jal d (fld t 5 27) (fld t 0 5))
  | 0x1F => some (.jr d a)
  | _ => none

def decMem (op : Nat) (d : Reg) (t : BitVec 64) : Option Instr :=
  let a2 : Reg := fld t 26 6
  let k : BitVec 20 := fld t 0 20
  let a : Reg := fld t 42 6
  let b : Reg := fld t 36 6
  let c : Reg := fld t 30 6
  let k4 : BitVec 24 := fld t 0 24
  let sc := Scope.of (fld t 30 3)
  let ord := Order.of (fld t 33 2)
  let w := Width.of (fld t 24 2)
  match op with
  | 0x20 => some (.ld (Width.of (fld t 20 2)) (bitAt t 24) (Policy.of (fld t 22 2)) d a2 k)
  | 0x21 => some (.st (Width.of (fld t 20 2)) (Policy.of (fld t 22 2)) d a2 k)
  | 0x22 => sc.map fun s => .lda w (bitAt t 28) (Policy.of (fld t 26 2)) s d a k4
  | 0x23 => sc.map fun s => .stl w (Policy.of (fld t 26 2)) s d a k4
  | 0x24 => sc.bind fun s => (AmoOp.of (fld t 0 4)).map fun o => .amo o (bitAt t 24) (Policy.of (fld t 25 2)) s ord d a b
  | 0x25 => sc.map fun s => .cas (bitAt t 24) (Policy.of (fld t 25 2)) s ord d a b k4
  | 0x26 => sc.bind fun s => (AmofOp.of (fld t 0 4)).map fun o => .amof o (Policy.of (fld t 25 2)) s ord d a b
  | 0x27 => (Scope.of (fld t 0 3)).map .fence
  | 0x28 => some (.waitm w (Policy.of (fld t 26 2)) d a b c k4)
  | 0x29 => sc.map fun s => .waitc (fld t 24 4) s a b
  | 0x2A => (CmOp.of (fld t 24 2)).bind fun o => (CmReach.of (fld t 22 2)).bind fun r => (CmExt.of (fld t 20 2)).bind
      fun x => some (.cmaint o r x a2 k)
  | 0x2B => some (.get w (bitAt t 26) d a k4)
  | 0x2C => some (.put w (bitAt t 26) d a k4)
  | 0x2D => (AmoOp.of (fld t 0 4)).map fun o => .ramo o (bitAt t 24) (bitAt t 25) d a b
  | 0x2E => some (.ldx w (bitAt t 28) (Policy.of (fld t 26 2)) d a b k4)
  | 0x2F => some (.stx w (Policy.of (fld t 26 2)) d a b k4)
  | _ => none

def decSys (op : Nat) (d : Reg) (t : BitVec 64) : Option Instr :=
  let a2 : Reg := fld t 26 6
  let k : BitVec 20 := fld t 0 20
  let n : BitVec 12 := fld t 0 12
  let a : Reg := fld t 10 6
  let b : Reg := fld t 4 6
  match op with
  | 0x30 => some (.csrr d n)
  | 0x31 => some (.csrw n a2)
  | 0x32 => (CsrxOp.of (fld t 20 6)).map (.csrx · d n a2)
  | 0x33 => some (.trap k)
  | 0x34 => some .eret
  | 0x35 => some (.idle a)
  | 0x36 => some (.ckpt k)
  | 0x37 => some (.rmread d a)
  | 0x38 => some (.rmack d)
  | 0x39 => some (.time d)
  | 0x3A => some .snap
  | 0x3B => match fld t 0 4 with
    | 0#4 => some (.tlbi (.va a b))
    | 1#4 => some (.tlbi (.vag a))
    | 2#4 => some (.tlbi (.ctx b))
    | 3#4 => some (.tlbi .all)
    | _ => none
  | 0x3C => if (fld t 0 4).toNat ≤ 1 then some (.ien (bitAt t 0) d) else none
  | 0x3D => some (.sysc k)
  | 0x3E => match fld t 20 6 with
    | 0#6 => some (.nrowOpen a2 k)
    | 1#6 => some .nrowClose
    | _ => none
  | 0x3F => if (fld t 0 4).toNat ≤ 1 then some (.nlut (bitAt t 0) d a b) else none
  | _ => none

def pairAt (t : BitVec 64) (lo : Nat) : Col × Bool := (fld t (lo + 1) 8, bitAt t lo)
def pairsFrom (t : BitVec 64) (hi n : Nat) : List (Col × Bool) := (List.range n).map fun i => pairAt t (hi - 8 - 9 * i)
def specOf (t : BitVec 64) : Option Spec :=
  match fld t 58 6 with
  | 0#6 => some (.pairs (pairsFrom t 46 ((fld t 47 2).toNat + 1)))
  | 1#6 => some (.imm (fld t 41 8) (fld t 37 4) (fld t 21 16))
  | 2#6 => some (.ky (fld t 41 8) (fld t 37 4))
  | _ => none
def rowsOf (t : BitVec 64) : Option Rows := (selOf (fld t 51 5)).map fun s => ⟨fld t 56 2, s⟩

def topOf (f : BitVec 4) (d a b : Reg) : Option Instr :=
  (tagOf d).bind fun d =>
    if f.toNat ≤ 3 then
      (tagOf a).bind fun a => (tagOf b).bind fun b =>
        if f = 0 then some (.top (.and d a b)) else if f = 1 then some (.top (.or d a b))
        else if f = 2 then some (.top (.xor d a b)) else some (.top (.andn d a b))
    else if f = 4 then (tagOf a).map fun a => .top (.not d a)
    else if f = 5 then (tagOf a).map fun a => .top (.mov d a)
    else if f = 6 then some (.top (.clr d))
    else if f = 7 then some (.top (.set d))
    else none

def decArray (op : Nat) (d : Reg) (t : BitVec 64) : Option Instr :=
  let a : Reg := fld t 10 6
  let b : Reg := fld t 4 6
  let sp : BitVec 2 := fld t 0 2
  let a4 : Reg := fld t 42 6
  let b4 : Reg := fld t 36 6
  let c4 : Reg := fld t 30 6
  match op with
  | 0x40 => (tagOf d).bind fun d => (specOf t).bind fun s => (rowsOf t).bind fun r =>
      (Comb.of (fld t 49 2)).map fun cb => .pcmp d r cb s
  | 0x41 => (specOf t).bind fun s => (rowsOf t).map fun r => .pset r s
  | 0x42 => (tagOf d).bind fun d => (rowsOf t).bind fun r => (Comb.of (fld t 49 2)).bind fun cb =>
      if fld t 58 6 = 0 ∧ fld t 47 2 ≠ 3 then
        some (.pcs d r cb (pairsFrom t 46 ((fld t 47 2).toNat + 1)) (pairsFrom t 18 ((fld t 19 1).toNat + 1)))
      else none
  | 0x43 => topOf (fld t 0 4) d a b
  | 0x44 => (tagOf d).bind fun d => (tagOf (fld t 26 6)).bind fun a =>
      if fld t 20 2 = 0 then some (.tshf (.up (bitAt t 22) (fld t 0 15)) d a)
      else if fld t 20 2 = 1 then some (.tshf (.dn (bitAt t 22) (fld t 0 15)) d a)
      else if fld t 20 2 = 2 then some (.tshf (.lane (fld t 0 2)) d a)
      else none
  | 0x45 => (tagOf a).bind fun g => (laneOf b).map fun l => .tcnt d g sp l
  | 0x46 => (tagOf a).bind fun g => (laneOf b).map fun l => .tany d g sp l
  | 0x47 => (tagOf a).bind fun g => (laneOf b).map fun l => .tfirst (bitAt t 2) d g sp l
  | 0x48 => if fld t 2 2 = 0 then some (.span sp a b) else if fld t 2 2 = 1 then some (.spanRd d sp) else none
  | 0x49 => if fld t 0 3 = 0 then some (.seg .one) else if fld t 0 3 = 1 then some (.seg .two)
      else if fld t 0 3 = 2 then some (.seg .four) else if fld t 0 3 = 4 then some (.segRd d) else none
  | 0x4A => some (.key sp a)
  | 0x4B => (rowsOf t).bind fun r => if fld t 58 6 = 0 then
      some (.cfill r (fld t 41 8) (fld t 35 6) (if bitAt t 34 then .reg d else .imm (fld t 0 34))) else none
  | 0x4C => some (.cread (bitAt t 24) d a4 (fld t 16 8) (fld t 10 6) (fld t 8 2))
  | 0x4D => some (.cwrite a4 b4 (fld t 16 8) (fld t 10 6) (fld t 8 2))
  | 0x4E => (rowsOf t).bind fun r => if fld t 58 6 = 0 then some (.fmov r (fld t 41 8) (fld t 33 8) (fld t 25 8)) else none
  | 0x4F => (rowsOf t).bind fun r =>
      if fld t 58 6 = 0 then some (.frot r (fld t 45 4) (fld t 37 8) (fld t 29 8) (fld t 21 8)) else none
  | 0x50 => if fld t 24 2 = 1 then some (.ttld (fld t 0 8) (.one a4))
      else if fld t 24 2 = 2 then some (.ttld (fld t 0 8) (.two a4 b4))
      else if fld t 24 2 = 3 then some (.ttld (fld t 0 8) (.three a4 b4 c4)) else none
  | 0x51 => (rowsOf t).bind fun r => if (fld t 58 6).toNat ≤ 1 then
      some (.ttrun (bitAt t 58) r (fld t 43 8) (fld t 38 5) (fld t 32 6) (fld t 24 8) (fld t 16 8) (fld t 8 8) (fld t 0 8))
      else none
  | 0x52 => (tagOf d).map fun g => .tload g (fld t 24 2) (fld t 0 8)
  | 0x53 => (tagOf d).map fun g => .tstore g (fld t 24 2) (fld t 0 8)
  | 0x54 => (rowsOf t).bind fun r =>
      if (fld t 58 6).toNat ≤ 1 then some (.xrow (bitAt t 58) r (fld t 41 8) (fld t 33 8) (fld t 25 8)) else none
  | _ => none

def decMacro (op : Nat) (d : Reg) (t : BitVec 64) : Option Instr :=
  let dc : Col := fld t 43 8
  let ac : Col := fld t 35 8
  let bc : Col := fld t 27 8
  let xc : Col := fld t 19 8
  let f1 := Fmt.of (fld t 15 4)
  let f2 := Fmt.of (fld t 11 4)
  let sat := bitAt t 7
  let form : BitVec 6 := fld t 58 6
  let wa : BitVec 2 := fld t 0 2
  (rowsOf t).bind fun r => (Rnd.of (fld t 8 3)).bind fun rnd =>
  match op with
  | 0x60 => if form = 0 then some (.aadd r dc ac xc f1 rnd sat) else none
  | 0x61 => if form = 0 then some (.asub r dc ac xc f1 rnd sat) else none
  | 0x62 => if form = 0 then some (.aaddk r dc bc xc ⟨f1, rnd, sat⟩) else none
  | 0x63 => if form = 0 then some (.amul r dc ac bc xc f1 rnd sat) else none
  | 0x64 => if form = 0 then some (.amulk r dc ac bc xc f1 rnd sat) else none
  | 0x65 => if form = 0 then some (.amac r dc ac bc xc f1 f2 rnd sat) else none
  | 0x66 => if form = 0 then some (.amack r dc ac bc xc f1 f2 rnd sat wa) else none
  | 0x67 => if form = 0 then some (.afma r dc ac bc xc f1 rnd sat) else none
  | 0x68 => if form = 0 then some (.acvt r dc ac bc xc f1 f2 rnd sat) else none
  | 0x69 => (ACond.of form).bind fun c => (tagOf d).bind fun g => (Comb.of wa).map fun cb => .acmp c g r ac bc xc ⟨f1, rnd, sat⟩ cb
  | 0x6A => if form.toNat ≤ 1 then some (.aminmax (bitAt t 58) r dc ac xc ⟨f1, rnd, sat⟩) else none
  | 0x6B => if form = 0 then some (.ared r dc xc f1 rnd sat) else none
  | 0x6C => if form = 0 then some (.aspmac r dc ac (fld t 27 6) (fld t 33 2) (fld t 1 6) xc f1 f2 ⟨rnd, sat⟩)
      else if form = 1 then some (.aspmacLdx wa) else if form = 2 then some .aspmacLdm else none
  | 0x6D => if form = 0 then some (.alut r dc ac ⟨f2, rnd, sat⟩ wa) else none
  | 0x6E => if form = 0 then some (.aresolve r dc xc wa) else none
  | 0x6F => if form = 0 then some (.aqdec r dc ac bc xc f1 f2 ⟨rnd, sat⟩) else none
  | _ => none

def decTask (op : Nat) (d : Reg) (t : BitVec 64) : Option Instr :=
  let a : Reg := fld t 10 6
  let b : Reg := fld t 4 6
  let a4 : Reg := fld t 42 6
  let b4 : Reg := fld t 36 6
  let c4 : Reg := fld t 30 6
  let a2 : Reg := fld t 26 6
  match op with
  | 0x70 => (Scope.of (fld t 0 3)).map fun s => .cpy s a
  | 0x71 => (Scope.of (fld t 24 3)).bind fun s => (Win.of (fld t 0 3)).map fun w => .afill w (Policy.of (fld t 27 2)) s a4 b4 c4
  | 0x72 => (Scope.of (fld t 24 3)).bind fun s => (Win.of (fld t 0 3)).map fun w => .aspill w (Policy.of (fld t 27 2)) s a4 b4 c4
  | 0x73 => some (.mbwait d a)
  | 0x74 => some (.mbpop d a)
  | 0x75 => some (.msend (fld t 24 4) (fld t 0 7) a4 b4 c4)
  | 0x76 => some (.bar (fld t 0 2) (bitAt t 2) a)
  | 0x77 => some (.larm a)
  | 0x78 => some (.qbind a2 (fld t 20 4) (fld t 0 10))
  | 0x79 => some (.tenq a4 b4 c4)
  | 0x7A => some (.tnext a)
  | 0x7B => some (.tsteal a b)
  | 0x7C => some .tend
  | 0x7D => some (.qstat d a2 (fld t 20 4))
  | _ => none

/-- The candidate instruction of a head and tail whose major code and tail class are right; `none` for a reserved value. -/
def decodeRaw (op : Nat) (d : Reg) (t : BitVec 64) : Option Instr :=
  if op ≤ 0x1F then decScalar op d t
  else if op ≤ 0x2F then decMem op d t
  else if op ≤ 0x3F then decSys op d t
  else if op ≤ 0x5F then decArray op d t
  else if op ≤ 0x6F then decMacro op d t
  else decTask op d t

/-- Decodes a head and its zero-extended tail in the order of R184, the profile check of reason 3 left to the issuing agent.
A bit that R185 requires to be 0 shows as a difference from the encoding of the candidate. So do the RND and SAT of ARESOLVE and of the two
buffer forms of ASPMAC, which name no format: a nonzero RND there, code 4 too, is reason 5 (DEDUCED, log entry 60: R95 has FIELD_SPEC reason 7
for code 4 in any macro). -/
def decode (h : BitVec 16) (t : BitVec 64) : Dec :=
  let op := (h.extractLsb' 9 7).toNat
  if reservedOp op then .ok (.ill h t)
  else if (h.extractLsb' 6 3).toNat ≠ tailClass op then .bad 2
  else match decodeRaw op (h.extractLsb' 0 6) t with
    | none => .bad 4
    | some i =>
      match i.flaw with
      | some r => .bad r
      | none => if encode i = (h, t) then .ok i else .bad 5

/-! ### Instruction lines (R175 to R178) -/

/-- Byte `i` of a line. -/
def lineByte (l : BitVec 512) (i : Nat) : Byte := l.extractLsb' (8 * i) 8
/-- Head count N of a line (R175). -/
def lineN (l : BitVec 512) : Nat := (l.extractLsb' 0 5).toNat
/-- Head `i`, from 1 (R175). -/
def lineHead (l : BitVec 512) (i : Nat) : BitVec 16 := l.extractLsb' (16 * i) 16
/-- Bytes of tail `i` (R177). -/
def tailLen (l : BitVec 512) (i : Nat) : Nat :=
  let tl := ((lineHead l i).extractLsb' 6 3).toNat
  if tl ≤ 4 then 2 * tl else 0
/-- Bytes of the tails 1 to `i`. -/
def tailSum (l : BitVec 512) : Nat → Nat
  | 0 => 0
  | i + 1 => tailSum l i + tailLen l (i + 1)
/-- Tail `i` as one little-endian value, zero-extended (R177). -/
def lineTail (l : BitVec 512) (i : Nat) : BitVec 64 :=
  let n := tailLen l i
  BitVec.ofNat 64 ((l.toNat >>> (8 * (64 - tailSum l i))) % 2 ^ (8 * n))
/-- The lowest nonzero byte among `n` bytes from `lo`. -/
def nonzeroByte (l : BitVec 512) (lo : Nat) : Nat → Option Nat
  | 0 => none
  | n + 1 => if lineByte l lo ≠ 0 then some lo else nonzeroByte l (lo + 1) n
/-- The reason for which a line is illegal, with the gap byte of reason 4 (R178). -/
def lineFlaw (l : BitVec 512) : Option (Nat × Nat) :=
  let n := lineN l
  let s := tailSum l n
  if n = 0 then some (1, 0)
  else if l.extractLsb' 5 11 ≠ 0 then some (2, 0)
  else if 64 < 2 * n + 2 + s then some (3, 0)
  else match nonzeroByte l (2 * n + 2) (64 - s - (2 * n + 2)) with
    | some i => some (4, i)
    | none => none
/-- The line that holds one head and its tail (R175 to R177; DEDUCED, log entry 45). -/
def oneLine (h : BitVec 16) (t : BitVec 64) : BitVec 512 :=
  let tl := (h.extractLsb' 6 3).toNat
  let n := if tl ≤ 4 then 2 * tl else 0
  BitVec.ofNat 512 (1 + h.toNat * 2 ^ 16 + (t.toNat % 2 ^ (8 * n)) * 2 ^ (8 * (64 - n)))

/-- The instruction the decoder reads from the bits of the opcode table: the head in bits 15:0, the tail above it. -/
def decodeTableWord (nbits w : Nat) : Option Instr :=
  let v := w % 2 ^ nbits
  let l := oneLine (BitVec.ofNat 16 v) (BitVec.ofNat 64 (v / 65536))
  match decode (lineHead l 1) (lineTail l 1) with
  | .ok i => some i
  | .bad _ => none

end Sys2Proof
end

