-- ==== Sys2Proof/Machine/State.lean ====
section
/-! DEFINITION. The state of the whole module as plain data, the reasons a step can stop, and the state after reset. -/
namespace Sys2Proof.Machine

/-- Why the machine stops with a fault. -/
inductive Fault where
  /-- A host request names an address that no HDM decoder of the device covers (R14, R409): raised by the meanings of
  HOST_MEM_READ and HOST_MEM_WRITE. Safe: the hardware never receives such a request. -/
  | noSuchAddress
  deriving DecidableEq, Repr

/-- Why an instruction has no meaning here. -/
inductive Refusal where
  /-- The instruction has no meaning yet: raised by a refused arm of `exec`, never by a meaning. Safe: nothing is proved
  about what it does. -/
  | notModelled (mnemonic : String)
  deriving DecidableEq, Repr

/-! ### Small records -/

/-- A permit counter (R397): COUNT; its REFILL stands in the cluster or the stack. -/
structure Permit where
  count : BitVec 8 := 255
  deriving DecidableEq, Repr

/-- A cached leaf (R29): the page shift, the virtual and physical page numbers, its attributes, and its context tag (64 is
the firmware tag of the hub cores, R31). -/
structure TlbEntry where
  shift : Nat
  vpn : Nat
  ppn : Nat
  mt1 : Bool
  gl : Bool
  us : Bool
  ex : Bool
  wr : Bool
  rd : Bool
  tag : Nat
  deriving DecidableEq, Repr

/-- A cache line with its two sectors' valid and dirty bits (R54). Of an MSC line, `host` is the HOST bit and `shared` tells that
what the host still holds is a shared copy (R64); of an island L2 line of the host region, `owned` tells that the device has its
ownership under CXL.cache (R65, R98). A cache is a list of lines, the most recently used first (R53). -/
structure CLine where
  data : BitVec 512 := 0
  valid : BitVec 2 := 0
  dirty : BitVec 2 := 0
  host : Bool := false
  shared : Bool := false
  owned : Bool := false
  deriving DecidableEq, Repr

/-- A task record with what its append added (R153, R157, R160). -/
structure Task where
  ctx : Nat := 0
  anchored : Bool := false
  home : Nat := 0
  queue : Nat := 0
  base : Word := 0
  word1 : Word := 0
  arg0 : Word := 0
  arg1 : Word := 0
  pbase : Nat := 0
  seq : BitVec 32 := 0
  entry : Word := 0
  pri : Nat := 0
  deriving DecidableEq, Repr

/-- LEN of a task record (R153). -/
def Task.len (t : Task) : Nat := (t.word1.extractLsb' 0 13).toNat

/-- A message, completion or notice for a channel of a vcore (R168); `src` is the source number of R142 and `own` tells a
completion or notice, which never counts against the spill queue's capacity; `sender` is the context and vcore that sent it
(R169), `inc` the incarnation of its sender's die, 0 where no die sent it (R126), and `here` tells that it stands at the destination's
mailbox unit (R334). -/
structure Msg where
  ctx : Nat
  vcore : Nat
  ch : Nat
  data : BitVec 512
  src : Nat
  own : Bool
  sender : Option (Nat × Nat) := none
  inc : BitVec 16 := 0
  here : Bool := false
  deriving DecidableEq, Repr

/-- An entry of a context's spill queue (R168, R169); a task keeps the vcore that sent it, for its dead-letter notice. -/
inductive Spill where
  | msg (m : Msg)
  | task (vcore : Nat) (t : Task) (sender : Option (Nat × Nat))
  deriving DecidableEq, Repr

/-- The instruction an agent waits in (R34, R110, R291, R304, R322). -/
inductive WaitKind where
  | waitm | waitc | mbwait | tenq | tsteal | tnext | msend | bar | idle | tlbi | snap | cmaint
  deriving DecidableEq, Repr

/-- A wait in progress: its kind, its limit, the home or level it waits on, whether its condition has been met by another
agent's step, whether its limit has expired, and the records that a waiting TENQ has read (R300). -/
structure Wait where
  kind : WaitKind
  limit : BitVec 32 := 0
  obj : Nat := 0
  won : Bool := false
  late : Bool := false
  tasks : List Task := []
  deriving DecidableEq, Repr

/-- An armed monitor (R110): the line, whether it is held at the MSC, and the return code seen. -/
structure Monitor where
  line : Nat
  msc : Bool
  code : Option Nat := none
  deriving DecidableEq, Repr

/-- An access after its checks: virtual and physical address and the physical page. -/
structure Acc where
  va : Word
  pa : Nat
  page : Nat
  size : Nat
  mt1 : Bool
  deriving DecidableEq, Repr

/-- A load of the instruction in execution that is performed once only, and what it has come to: a .u load of the host region with the
host's answer (R55, R268), or a .u load, or one of the control region, of an instruction that then waits for something else. -/
structure HostLoad where
  acc : Acc
  n : Nat
  ans : Option (BitVec 512) := none
  deriving DecidableEq, Repr

/-- The four information registers of a trap. -/
structure Infos where
  i0 : Word := 0
  i1 : Word := 0
  i2 : Word := 0
  i3 : Word := 0
  deriving DecidableEq, Repr

/-- A trap: its cause, its information registers, and the TRAP_PC where it is not the instruction's own head (R347). -/
structure Trap where
  cause : Nat
  infos : Infos := {}
  pc : Option Word := none
  deriving DecidableEq, Repr

/-- What a walk or walk queue has answered to a waiting access: the VA[63:16], the tag and the access kind it was for, a cause, and for a
page fault its kind in `info.i1` and its level in `info.i2` (R27, R30). -/
structure WalkAnswer where
  page : Word
  tag : Nat
  kind : Nat
  cause : Nat
  info : Infos
  deriving DecidableEq, Repr

/-- The registers, status and pending events that every agent holds (R183, R311, R324). `pend` is a trap that has arisen and is entered
once every instruction before it has written its result (R195, R242). -/
structure Hart where
  regs : FMap Word := []
  pc : Word := 0
  fromPc : Word := 0
  line : Option (Word × BitVec 512) := none
  ie : Bool := true
  pie : Bool := false
  ppriv : Bool := false
  priv : Bool := false
  sreq : Bool := false
  h : Bool := false
  cause : BitVec 8 := 0
  trapPc : Word := 0
  info : Infos := {}
  vecU : Word := 0
  vecS : Word := 0
  deleg : Word := 0
  scratch : Word := 0
  ctxid : BitVec 6 := 0
  root : Word := 0
  evMap : Option (BitVec 32) := none
  evMem : List Infos := []
  evSusp : Option (Nat × Nat × Nat) := none
  wait : Option Wait := none
  monitor : Option Monitor := none
  tlb : List TlbEntry := []
  active : Bool := false
  stopped : Bool := false
  addSeq : BitVec 32 := 0
  slots : FMap Nat := []
  macroP : Permit := {}
  passP : Permit := {}
  tableP : Permit := {}
  memP : Permit := {}
  walkFault : Option WalkAnswer := none
  hostLds : List HostLoad := []
  pend : Option Trap := none
  deriving DecidableEq, Repr

/-- The array and its registers (R218 to R220, R238, R262). -/
structure Arr where
  rows : FMap (BitVec 256) := []
  tags : FMap TagReg := []
  spans : FMap (Nat × Nat) := []
  ky : BitVec 256 := 0
  lanes : LaneMode := .one
  tt : FMap (BitVec 32) := []
  smask : BitVec 128 := 0
  sact : BitVec 1024 := 0
  deriving DecidableEq, Repr

/-- An array instruction in the command queue with the scalar operands it read at issue (R223). -/
structure ArrOp where
  instr : Instr
  x : Word := 0
  y : Word := 0
  z : Word := 0
  deriving DecidableEq, Repr

/-- A store buffer entry (R105, R268); `page` and `size` are the physical page of an alias store (R41), and `shut` tells that
the core has since executed an acquire or a fence, after which nothing merges into the entry. -/
structure SbEntry where
  pa : Nat
  n : Nat
  data : BitVec 512
  pol : Policy
  rel : Option Scope := none
  page : Nat := 0
  size : Nat := 0
  shut : Bool := false
  deriving DecidableEq, Repr

/-- What another agent can meet between two passes of a running macro (R51, R242): the rows and lanes it acts on, the columns of a lane that
it writes, those that it reads or writes, the width of a lane, and by row the columns that other agents have written since its start. -/
structure Midway where
  sel : TagReg
  cols : Nat
  uses : Nat
  w : Nat
  hit : FMap (BitVec 256) := []
  deriving DecidableEq, Repr

/-- Why an engine command stopped at a byte: the parts of its status word, and the failing virtual address (R286, R287). -/
structure EngStop where
  status : Nat := 0
  reason : Nat := 0
  level : Nat := 0
  akind : Nat := 0
  fkind : Nat := 0
  fva : Word := 0
  deriving DecidableEq, Repr

/-- The kind of an engine command (R279). -/
inductive EngKind where | cpy | afill | aspill
  deriving DecidableEq, Repr

/-- An engine command with its captured fields (R282, R285) and its progress: the row and byte reached, what CPY has read
so far, the sectors left dirty in the island L2, what its reads of the present chunk have come to that are performed once only, by
address (R55), what walks have answered (R30), and how it has ended while its message still waits for its writes (R116). For CPY `block` is the parameter block. -/
structure EngCmd where
  kind : EngKind
  seq : BitVec 32
  sc : Scope
  priv : Bool
  pol : Policy := .c
  win : Win := .raw
  block : BitVec 512 := 0
  a : Word := 0
  b : Word := 0
  c : Word := 0
  started : Bool := false
  row : Nat := 0
  byte : Nat := 0
  snap : List (BitVec 512) := []
  dirt : List Nat := []
  ans : List (Nat × BitVec 512) := []
  walked : List WalkAnswer := []
  ended : Option EngStop := none
  deriving DecidableEq, Repr

/-- A mailbox channel (R167). -/
structure Channel where
  slots : List (BitVec 512) := []
  counter : BitVec 32 := 0
  popc : BitVec 32 := 0
  deriving DecidableEq, Repr

/-- What a far core holds besides its hart. `dirtied` is the model's own: the sectors (by number) that stores of this core
made dirty and that no release has yet written back (R104). `mailPtr` is the mailbox unit's pointer (R334), `stopCause` why the
core has stopped: a cause code, or 0x100 for an order (R353, R355), `mid` what other agents meet of a running macro, `acol` the array
cycles that a running pass instruction has made, XROW's readings and landings of columns counted one by one, and `xcol` the source column
that XROW has read last, by row and lane (R223, R237, R241). -/
structure Far where
  arr : Arr := {}
  aflags : BitVec 4 := 0
  aq : List ArrOp := []
  arun : Option ArrOp := none
  aheld : Nat := 0
  mid : Option Midway := none
  acol : Nat := 0
  xcol : FMap (BitVec 4) := []
  vcore : BitVec 12 := 0
  placed : Bool := false
  dom1 : Word := 0
  dom2 : Word := 0
  dom3 : Word := 0
  stealSet : Word := 0
  mbcfg : Word := 0xFFFFFFFFFFFFFFFF
  lrtBase : Word := 0
  sb : List SbEntry := []
  l1d : FMap CLine := []
  dirtied : List Nat := []
  l1i : FMap (BitVec 512) := []
  eng : List EngCmd := []
  engSeq : BitVec 32 := 0
  eheld : Bool := false
  pbCache : List Nat := []
  mail : FMap Channel := []
  mailPtr : Nat := 0
  stopCause : Nat := 0
  held : List Msg := []
  coreQ : List Task := []
  grantHold : List Task := []
  task : Option Task := none
  taskCount : BitVec 32 := 0
  autoHome : Option Nat := none
  stealPtr : Nat := 0
  stealWait : Option (Nat × Nat) := none
  deriving DecidableEq, Repr

/-- A near task context besides its hart (R132, R136). -/
structure NearCtx where
  row : BitVec 8192 := 0
  rowOpen : Bool := false
  task : Option Task := none
  wrote : List Nat := []
  deriving DecidableEq, Repr

/-- A near unit's parts that its two contexts share (R132); `ptr` is the sequencer's round-robin pointer (R133). -/
structure NearUnit where
  tlb : List TlbEntry := []
  wlog : List Nat := []
  ibuf : FMap (BitVec 512) := []
  ptr : Nat := 0
  tableP : Permit := {}
  memP : Permit := {}
  deriving DecidableEq, Repr

/-- A home queue (R156, R157, R331). -/
structure Queue where
  ctx : Option Nat := none
  nearPc : Word := 0
  farPc : Word := 0
  t : Nat := 0
  pri : Nat := 0
  excl : Bool := false
  cap : Nat := 0
  counter : BitVec 32 := 0
  tasks : List Task := []
  age : Nat := 0
  deriving DecidableEq, Repr

/-- Records of one append that travel to a home as one group (R341), with the incarnation of the appender's die (R126). -/
structure Arrival where
  src : Nat
  items : List (Nat × Task)
  inc : BitVec 16 := 0
  deriving DecidableEq, Repr

/-- A pending steal request (R159). -/
structure StealReq where
  core : Nat
  ctx : Nat
  count : Nat
  deriving DecidableEq, Repr

/-- An IDXSUM command (R42, R145); while it runs, the elements already summed and the table as it stood before (R43, R146). -/
structure IdxCmd where
  id : Nat
  src : Nat
  granule : Nat
  page : Nat
  size : Nat
  packet : BitVec 512
  flaw : Nat
  cleaned : Bool := false
  done : Nat := 0
  old : List (Nat × Nat) := []
  deriving DecidableEq, Repr

/-- A home (R156 to R158, R145). -/
structure Home where
  queues : FMap Queue := []
  arrivals : List Arrival := []
  steals : List StealReq := []
  stealPtr : Nat := 0
  qPtr : Nat := 0
  nearPtr : Nat := 0
  running : List Task := []
  idxQ : List IdxCmd := []
  idxRun : Option IdxCmd := none
  idxHeld : Bool := false
  deriving DecidableEq, Repr

/-- A reservation request at a cluster's current arbiter (R337). -/
structure ResReq where
  core : Nat
  copy : Bool
  units : Nat
  pri : Nat
  skipped : Bool := false
  deriving DecidableEq, Repr

/-- A generation of a barrier counter (R172). -/
structure Bar where
  ctx : Nat
  lvl : Nat
  id : Nat
  size : Nat
  cores : List Nat
  comp : List Nat
  deriving DecidableEq, Repr

/-- A cluster; `blkPtr` is the pointer over the cores that take blocks of its queue (R328). -/
structure Cluster where
  tlb : List TlbEntry := []
  queue : List Task := []
  blkPtr : Nat := 0
  bars : List Bar := []
  freq : BitVec 11 := 1300
  bias : BitVec 5 := 0
  busy : Bool := false
  status : BitVec 8 := 0
  oldFreq : BitVec 11 := 1300
  oldBias : BitVec 5 := 0
  budget : BitVec 10 := 128
  heldUnits : Nat := 0
  reqs : List ResReq := []
  arbPtr : Nat := 0
  pMacro : BitVec 7 := 64
  pPass : BitVec 7 := 64
  pTable : BitVec 7 := 64
  pMem : BitVec 7 := 64
  stall : Word := 0
  deriving DecidableEq, Repr

/-- A temperature sensor (R399). -/
structure Sensor where
  seq : BitVec 32 := 0
  trip : Bool := false
  alert : Bool := false
  temp : BitVec 16 := 0
  deriving DecidableEq, Repr

/-- A walk request or a walk in flight (R30): tag, address, root, the accesses attached (by the number of their agent, engine command
or launch) with their kinds, and the TLBIs that have passed it (R34). -/
structure WalkReq where
  tag : Nat
  va : Word
  root : Word
  waiters : List (Nat × Nat)
  kills : List (TlbiOp × Word × Word) := []
  deriving DecidableEq, Repr

/-- A host request (R408). -/
inductive HostReq where
  | read (pa n : Nat)
  | write (pa : Nat) (data : List Byte)
  | snoop (line : Nat) (kind : SnoopKind)
  /-- The hub recalls a host line from a die on behalf of another die (R65): write-back, and invalidation if `drop`. -/
  | recall (line : Nat) (drop : Bool)
  deriving DecidableEq, Repr

/-- A die's island: the island L2, translation cache, walkers, die queue, barrier unit, supply, sensors, hub link;
`walkPtr`, `walkNear` and `blkPtr` are the pointers of the walk-request queue, of its position for near units and of the die queue
(R30, R328). -/
structure Island where
  l2 : FMap CLine := []
  tlb : List TlbEntry := []
  walkQ : List WalkReq := []
  walks : List WalkReq := []
  walkPtr : Nat := 0
  walkNear : Nat := 0
  queue : List Task := []
  blkPtr : Nat := 0
  bars : List Bar := []
  vdd : BitVec 10 := 780
  vddBusy : Bool := false
  vddStatus : BitVec 8 := 0
  oldVdd : BitVec 10 := 780
  sensors : FMap Sensor := []
  forecast : Word := 0
  incCopy : FMap (BitVec 16) := []
  linkLow : Bool := false
  linkWaking : Bool := false
  attempts : Nat := 0
  heldReqs : List HostReq := []
  deriving DecidableEq, Repr

/-- An element held in a sort buffer (R142). -/
structure SortEntry where
  src : Nat
  seq : BitVec 32
  pa : Nat
  op : Nat
  v : BitVec 32
  deriving DecidableEq, Repr

/-- An ALLBANK.FILL command (R41, R148): rows below `next` and those of `ahead` are done. -/
structure FillCmd where
  id : Nat
  src : Nat
  page : Nat
  size : Nat
  pattern : BitVec 512
  next : Nat := 0
  ahead : List Nat := []
  started : Bool := false
  deriving DecidableEq, Repr

/-- A stack's base die. `mark` is the model's own: the number of the first alias command accepted after the last write of EN (R144).
`waveP` is the bank limit read for the wave that waits for its reservation, `waveGrant` that of the wave that holds one (R148, R396). -/
structure Stack where
  msc : FMap CLine := []
  sort : FMap (List SortEntry) := []
  en : Bool := false
  busy : Bool := false
  newEn : Bool := false
  mark : Nat := 0
  splits : BitVec 32 := 0
  wave : BitVec 11 := 1024
  waveQ : List FillCmd := []
  waveP : Option Nat := none
  waveGrant : Option Nat := none
  pTable : BitVec 7 := 64
  pMem : BitVec 7 := 64
  budget : BitVec 10 := 96
  heldUnits : Nat := 0
  arbPtr : Nat := 0
  sensor : Sensor := {}
  forecast : Word := 0
  incCopy : FMap (BitVec 16) := []
  deriving DecidableEq, Repr

/-- The source of an op-8 or op-9 command, the counter bound to it and what it has come to (R45). -/
structure CmdInfo where
  src : Nat := 0
  counter : Option Nat := none
  done : Bool := false
  valid : Bool := true
  deriving DecidableEq, Repr

/-- An alias store accepted by the island fabric and not yet performed at the bank (R39). -/
structure BankCmd where
  src : Nat
  op : Nat
  pa : Nat
  n : Nat
  data : BitVec 512
  page : Nat
  size : Nat
  seq : BitVec 32
  id : Nat := 0
  deriving DecidableEq, Repr

/-- The kind of a remote operation (R277). -/
inductive RemKind where
  | get | put
  | ramo (op : AmoOp)
  deriving DecidableEq, Repr

/-- A GET, PUT or RAMO in flight (R124 to R128), with the incarnations of its issuer's and its target's die at issue. `stray` tells that
its issuer's vcore has left the core with its state lost, so that nothing waits for the reply (R126, R354, R381). -/
structure Remote where
  core : Nat
  kind : RemKind
  va : Word
  pa : Nat
  n : Nat
  d : Reg
  data : Word
  ord : Bool
  inc : BitVec 16
  tinc : BitVec 16
  result : Option Word := none
  lost : Bool := false
  stray : Bool := false
  deriving DecidableEq, Repr

/-- A barrier arrival on its way to its unit (R172). -/
structure BarMsg where
  core : Nat
  ctx : Nat
  lvl : Nat
  id : Nat
  size : Nat
  comp : Bool
  inc : BitVec 16 := 0
  deriving DecidableEq, Repr

/-- A steal request or new count on its way to a home (R332), with the incarnation of its sender's die (R126). -/
structure StealMsg where
  home : Nat
  req : StealReq
  inc : BitVec 16 := 0
  deriving DecidableEq, Repr

/-- A steal grant of a home on its way to a core (R332), with the incarnations of the home's and of the core's die when it left (R126). -/
structure Grant where
  core : Nat
  tasks : List Task
  home : Nat := 0
  inc : BitVec 16 := 0
  cinc : BitVec 16 := 0
  deriving DecidableEq, Repr

/-- What the device has sent to the host (R408 to R411, R417). -/
inductive HostMsg where
  | readData (pa n : Nat) (v : Nat)
  | writeDone (pa : Nat)
  | error (req : HostReq)
  | snoopResp (line : Nat) (data : Option (BitVec 512 × BitVec 2))
  | backInvalidate (line : Nat)
  | backRead (line : Nat)
  | lineWrite (line : Nat) (data : BitVec 512) (sectors : BitVec 2)
  | msix (fn : Nat)
  | internalError (fn : Nat)
  | spdm (index : Nat) (digest : BitVec 256) (signature : List Byte)
  /-- What a read through a BAR of a function has returned (R409). -/
  | barData (fn bar offset n : Nat) (v : Word)
  /-- An entry of the coherent device attribute table (R407). -/
  | cdat (entry : Nat) (content : List Byte)
  deriving DecidableEq, Repr

/-- A device access to the host region that waits for the host (R268, R59). When `cached` it is a line of an island L2: the sectors
`need` that a fill asks for, with ownership if `own`, or the sectors `need` of a write-back. Else it is a .u access; `rel` is the
scope of a release, and `tag` the number of the engine command that made it. -/
structure HostAcc where
  src : Nat
  pa : Nat
  n : Nat
  write : Option (BitVec 512)
  cached : Bool
  need : BitVec 2 := 0
  own : Bool := false
  rel : Option Scope := none
  tag : BitVec 32 := 0
  deriving DecidableEq, Repr

/-- Context states (R151); `exiting` is a context whose EXIT record waits for its near tasks (R413). -/
inductive CtxState where | created | running | suspended | exiting | exited
  deriving DecidableEq, Repr

/-- A suspension in progress (R361). -/
structure Susp where
  reason : Nat
  deadline : Nat
  limit : Nat
  deriving DecidableEq, Repr

/-- A saved vcore (R362); `clusterQ` and `dieQ` are the entries that it had in its cluster's and its die's queue (R160). -/
structure Saved where
  hart : Hart
  far : Far
  clusterQ : List Task := []
  dieQ : List Task := []
  deriving DecidableEq, Repr

/-- A context (R150, R151, R377, R413). `hold` tells that it was suspended for reason 3 and that S has not yet written its CTX_MAPACK
(R380), `noFit` that it did not fit at the last mode change (R388). -/
structure Context where
  st : CtxState := .created
  nv : Nat := 1
  part : Nat := 0
  root : Word := 0
  spillBase : Word := 0
  spillCap : Nat := 0
  saveBase : Word := 0
  vecU : Word := 0
  deleg : Word := 0
  nearVec : Word := 0
  nearDeleg : Word := 0
  lrtBase : Word := 0
  rr : Nat := 0
  ack : BitVec 32 := 1
  pend : Bool := false
  deadline : Nat := 0
  spill : List Spill := []
  held : List Msg := []
  placed : FMap Nat := []
  susp : Option Susp := none
  suspReason : Nat := 0
  hold : Bool := false
  noFit : Bool := false
  saved : FMap (Option Saved) := []
  bars : List (Nat × Bar) := []
  deriving DecidableEq, Repr

/-- A launch in progress (R166): `bases` are the physical anchor bases of the tasks whose anchors have been checked (R18), `next` the first
task not yet appended, `failed` the cause and index with which it ends FAILED, and the context that gets the notice. -/
structure Launch where
  index : Nat
  pa : Nat
  ctx : Nat
  words : List Word
  bases : List Nat := []
  next : Nat := 0
  walked : Option WalkAnswer := none
  failed : Option (Nat × Nat × Option Nat) := none
  deriving DecidableEq, Repr

/-- A service record in progress (R413, R414); `arg` is word 2 as it was captured, and `ended` the status that is still to be written, while
the host holds the record's line (R64). -/
structure SvcRun where
  index : Nat
  pa : Nat
  op : Nat
  ctx : Nat
  arg : Word := 0
  ended : Option Nat := none
  deriving DecidableEq, Repr

/-- What a snapshot latches (R418, R419). -/
structure Snap where
  time : Nat := 0
  harts : FMap Hart := []
  fars : FMap Far := []
  clusters : FMap Cluster := []
  islands : FMap Island := []
  baseDies : FMap Stack := []
  units : FMap NearUnit := []
  ctxs : FMap (Option Context) := []
  acks : FMap (BitVec 32) := []
  rmap : FMap Word := []
  hubRegs : List Word := []
  deriving DecidableEq, Repr

/-- A hub core besides its hart (R420). -/
structure HubCore where
  hirq : BitVec 4 := 0
  en : BitVec 4 := 0
  latch : Bool := false
  deriving DecidableEq, Repr

/-- An error-log record (R358). -/
structure ErrRec where
  w0 : Word := 0
  w1 : Word := 0
  w2 : Word := 0
  w3 : Word := 0
  deriving DecidableEq, Repr

/-- A vcore that a die's reset has taken off its core with its state lost, until it is re-placed (R354, R381). -/
structure Fallen where
  core : Nat
  ctx : Nat
  vcore : Nat
  dom1 : Word
  dom2 : Word
  dom3 : Word
  deriving DecidableEq, Repr

/-- The hub die. `dir` is the host-coherence directory (R65): the numbers of the lines it records, the most recently used first. `svcHeld` lists by
partition the RESUME records that are held (R380). `acks` holds the ACK field of CTX_MAPACK for the ids that no context has (R377).
`linkUp` tells that the host link is trained (R421). -/
structure Hub where
  dir : List Nat := []
  tlb : List TlbEntry := []
  walkQ : List WalkReq := []
  walks : List WalkReq := []
  walkPtr : Nat := 0
  rmap : FMap Word := []
  grace : BitVec 32 := 1300000
  acks : FMap (BitVec 32) := []
  errs : FMap ErrRec := []
  errNext : BitVec 32 := 0
  fallen : List Fallen := []
  suspLimit : FMap (BitVec 32) := []
  partReq : BitVec 3 := 0
  partBusy : Bool := false
  nofit : Word := 0
  bars : List Bar := []
  period : BitVec 16 := 100
  tripC : BitVec 8 := 105
  alertC : BitVec 8 := 92
  therm : Word := 0
  snapBusy : Bool := false
  snapSeq : BitVec 32 := 0
  snap : Snap := {}
  stage : BitVec 4 := 0
  fail : BitVec 4 := 0
  linkUp : Bool := false
  svn : BitVec 32 := 0
  fwDigest : BitVec 256 := 0
  notice : FMap Word := []
  svcBase : FMap Nat := []
  launchBase : FMap Nat := []
  cpPtr : FMap Nat := []
  launches : FMap (Option Launch) := []
  svcPtr : FMap Nat := []
  svcRun : FMap SvcRun := []
  svcHeld : FMap (List SvcRun) := []
  cores : FMap HubCore := []
  deriving DecidableEq, Repr

/-- A sector whose code tells of an error that cannot be corrected (R356): the unit of TRAP_INFO1, the core, die or stack that holds it,
and the sector's number (the row's for an array). -/
structure BadSector where
  unit : Nat
  own : Nat
  sec : Nat
  deriving DecidableEq, Repr

/-- What reaches the machine from outside besides the event rows of the opcode table: an upset of a sector that leaves it with these
bits and an error that cannot be corrected, an error that a code corrects (R356), a supervisor's request to suspend a context
(R361), the arrival of a delivery at its destination's mailbox unit (R334), a host read of `n` bytes through BAR0 or BAR2 of a function
(R408, R409), or a request for an entry of the CDAT over DOE (R407). -/
inductive Outside where
  | upset (unit own sec : Nat) (v : BitVec 256)
  | corrected (unit own sec bit : Nat)
  | suspend (ctx : Nat)
  | reach (k : Nat)
  | barRead (fn bar offset n : Nat)
  | cdat (entry : Nat)
  deriving DecidableEq, Repr

/-- What one turn of the model does: an agent runs its next instruction, a near unit's sequencer chooses which of
its contexts runs one (R133), an event row of the opcode table takes place, or something else reaches the machine from outside.
`dt` is the module time, in nanoseconds, that has passed since the turn before (DESIGN CHOICE, log entries 1 and 9). -/
inductive Turn where
  | agent (a : Agent) (overlap : Bool) (dt : Nat)
  | event (i : Instr) (dt : Nat)
  | near (h : Nat) (overlap : Bool) (dt : Nat)
  | outside (o : Outside) (dt : Nat)
  deriving DecidableEq, Repr

/-- The whole module. `turns`, `focus`, `overlap`, `ticks` and `nextId` are the model's own fields. -/
structure State where
  turns : List Turn := []
  focus : Agent := .far 0
  overlap : Bool := false
  ticks : Nat := 0
  nextId : Nat := 0
  time : Nat := 0
  mem : List Host.Cell := []
  harts : FMap Hart := []
  fars : FMap Far := []
  nears : FMap NearCtx := []
  units : FMap NearUnit := []
  homes : FMap Home := []
  clusters : FMap Cluster := []
  islands : FMap Island := []
  baseDies : FMap Stack := []
  hub : Hub := {}
  ctxs : FMap (Option Context) := []
  fabric : List BankCmd := []
  cmds : FMap CmdInfo := []
  remotes : List Remote := []
  deliveries : List Msg := []
  barMsgs : List BarMsg := []
  stealMsgs : List StealMsg := []
  grants : List Grant := []
  hostReqs : List HostAcc := []
  toHost : List HostMsg := []
  bad : List BadSector := []
  deriving DecidableEq, Repr

/-- The machine right after power-on: every field at the value the manual states for reset, or at the value that the log
names (DESIGN CHOICE, log entries 3 to 8). Units that a sparse map does not list are at their own reset values. -/
def State.reset : State := {}

end Sys2Proof.Machine
end

