-- ==== Sys2Proof/Machine/Maps.lean ====
section
/-! DEFINITION. Finite maps with a default, memory as a canonical list of cells, bytes and bit fields. -/
namespace Sys2Proof.Machine

/-! ### Maps -/

/-- The value at a key; the default of the key where it is not listed. -/
def mget {α : Type} (dflt : Nat → α) : FMap α → Nat → α
  | [], k => dflt k
  | (j, v) :: t, k => if j = k then v else mget dflt t k

/-- Lists a value at a key, keys strictly rising. -/
def mput {α : Type} : FMap α → Nat → α → FMap α
  | [], k, v => [(k, v)]
  | (j, w) :: t, k, v =>
    if k < j then (k, v) :: (j, w) :: t
    else if k = j then (k, v) :: t
    else (j, w) :: mput t k v

/-- Removes a key. -/
def mdel {α : Type} (m : FMap α) (k : Nat) : FMap α := m.filter fun p => p.1 != k

/-- The same map with its keys strictly rising. -/
def mcanon {α : Type} (m : FMap α) : FMap α := m.foldr (fun p t => mput t p.1 p.2) []

/-- Lists a value at a key, or removes the key where the value is the default. -/
def mset {α : Type} [DecidableEq α] (dflt : α) (m : FMap α) (k : Nat) (v : α) : FMap α :=
  if v = dflt then mdel m k else mput m k v

/-- Whether a key is listed. -/
def mhas {α : Type} (m : FMap α) (k : Nat) : Bool := m.any fun p => p.1 == k

/-- Changes every listed value. -/
def mmap {α : Type} (f : Nat → α → α) (m : FMap α) : FMap α := m.map fun p => (p.1, f p.1 p.2)

/-- Keeps the listed entries that satisfy a test. -/
def mfilter {α : Type} (f : Nat → α → Bool) (m : FMap α) : FMap α := m.filter fun p => f p.1 p.2

/-- The keys of a list rise strictly. -/
def rising {α : Type} : List (Nat × α) → Bool
  | [] => true
  | [_] => true
  | a :: b :: t => decide (a.1 < b.1) && rising (b :: t)

/-! ### Lists -/

/-- The list without its element at an index. -/
def dropAt {α : Type} : List α → Nat → List α
  | [], _ => []
  | _ :: t, 0 => t
  | x :: t, n + 1 => x :: dropAt t n

/-- The list with its element at an index replaced. -/
def setAt {α : Type} : List α → Nat → α → List α
  | [], _, _ => []
  | _ :: t, 0, v => v :: t
  | x :: t, n + 1, v => x :: setAt t n v

/-- The first element of `range n`, searched from `p` and wrapping, that satisfies a test (R328). -/
def firstFrom (n p : Nat) (f : Nat → Bool) : Option Nat :=
  ((List.range n).map fun i => (p + i) % n).find? f

/-- The list without repeats. -/
def uniq : List Nat → List Nat
  | [] => []
  | x :: t => if t.any (fun y => y == x) then uniq t else x :: uniq t

/-- The index of the first element that satisfies a test. -/
def indexOf? {α : Type} (f : α → Bool) : List α → Option Nat
  | [] => none
  | x :: t => if f x then some 0 else (indexOf? f t).map (· + 1)

/-! ### Memory (the banks of device memory, R14) -/

/-- What an unlisted byte of device memory reads as (DESIGN CHOICE, log entry 4). -/
def unwritten : Byte := 0

/-- One byte. -/
def memByte (m : List Host.Cell) (a : Nat) : Byte := mget (fun _ => unwritten) m a

/-- The canonical form: addresses strictly rising, no byte listed that equals an unlisted one. -/
def Memory.wf (m : List Host.Cell) : Bool := rising m && m.all fun c => decide (c.2 ≠ unwritten)

/-- `n` bytes from an address as one little-endian number (R8). -/
def memRead (m : List Host.Cell) (a : Nat) : Nat → Nat
  | 0 => 0
  | n + 1 => (memByte m a).toNat + 256 * memRead m (a + 1) n

/-- The cells of the `n` low bytes of a number, little-endian, those equal to an unlisted byte left out. -/
def cellsOf (a : Nat) (n v : Nat) : List Host.Cell :=
  match n with
  | 0 => []
  | n + 1 =>
    if BitVec.ofNat 8 v = unwritten then cellsOf (a + 1) n (v / 256)
    else (a, BitVec.ofNat 8 v) :: cellsOf (a + 1) n (v / 256)
/-- Writes the `n` low bytes of a number from an address, little-endian, and keeps the canonical form. -/
def memWrite (m : List Host.Cell) (a n v : Nat) : List Host.Cell :=
  (m.filter fun c => decide (c.1 < a)) ++ cellsOf a n v ++ m.filter fun c => decide (a + n ≤ c.1)

/-! ### Bytes and fields -/

/-- The mask of the `n` low bytes. -/
def byteMask (n : Nat) : Nat := 2 ^ (8 * n) - 1
/-- `n` bytes of a line from byte `off`. -/
def getBytes (l : BitVec 512) (off n : Nat) : BitVec 512 := (l >>> (8 * off)) &&& BitVec.ofNat 512 (byteMask n)
/-- A line with `n` bytes from byte `off` replaced. -/
def putBytes (l : BitVec 512) (off n : Nat) (v : BitVec 512) : BitVec 512 :=
  let mask := BitVec.ofNat 512 (byteMask n)
  (l &&& ~~~(mask <<< (8 * off))) ||| ((v &&& mask) <<< (8 * off))
/-- Bits [hi:lo] of a word as a number. -/
def bits (w : Word) (hi lo : Nat) : Nat := (w.toNat / 2 ^ lo) % 2 ^ (hi - lo + 1)
/-- A word with bits [hi:lo] replaced. -/
def setBits (w : Word) (hi lo v : Nat) : Word :=
  let m := BitVec.ofNat 64 (2 ^ (hi - lo + 1) - 1)
  (w &&& ~~~(m <<< lo)) ||| ((BitVec.ofNat 64 v &&& m) <<< lo)
/-- Word `i` of a line. -/
def lineWord (l : BitVec 512) (i : Nat) : Word := l.extractLsb' (64 * i) 64
/-- A line of eight words. -/
def lineOfWords (w : Nat → Word) : BitVec 512 := w 7 ++ w 6 ++ w 5 ++ w 4 ++ w 3 ++ w 2 ++ w 1 ++ w 0
/-- Whether bit `i` of a number is 1. -/
def tb (v i : Nat) : Bool := v.testBit i
/-- Population count of the `n` low bits. -/
def popcount (v : Nat) : Nat → Nat
  | 0 => 0
  | n + 1 => v % 2 + popcount (v / 2) n
/-- A word from a Boolean. -/
def boolWord (b : Bool) : Word := if b then 1 else 0

/-- The merge of a store of `n` bytes at byte `off` into a 64-bit register. -/
def mergeReg (old : Word) (off n : Nat) (v : Nat) : Word :=
  let m := BitVec.ofNat 64 (byteMask n)
  (old &&& ~~~(m <<< (8 * off))) ||| ((BitVec.ofNat 64 v &&& m) <<< (8 * off))

end Sys2Proof.Machine
end

