-- ==== Sys2Proof/Machine/Units.lean ====
section
/-! DEFINITION. The accessors of every unit of the module, the numbering of R2 to R4, and the resource map's tests. -/
namespace Sys2Proof.Machine

/-! ### Numbering (R2 to R4, R16, R19, R142) -/

/-- The source number of an agent (R142). -/
def agentKey : Agent → Nat
  | .far p => p
  | .near h c => 4096 + 2 * h + c
  | .hub n => 8192 + n
/-- The die of a far core (R2). -/
def dieOf (core : Nat) : Nat := core / 256
/-- The cluster id of a far core (R2). -/
def clusterOf (core : Nat) : Nat := core / 16
end Sys2Proof.Machine
namespace Sys2Proof
/-- The home island of an agent (R19); a hub core has none. -/
def Agent.island : Agent → Option Nat
  | .far p => some (p / 256)
  | .near h _ => some (h / 64)
  | .hub _ => none
end Sys2Proof
namespace Sys2Proof.Machine
/-- The stack that holds a device address (R4). -/
def stackOf (pa : Nat) : Nat := (pa / 2 ^ 36) % 16
/-- The home of a device address (R3, R4). -/
def homeOf (pa : Nat) : Nat := stackOf pa * 64 + (((pa / 2 ^ 12) % 64) ^^^ ((pa / 2 ^ 18) % 64))
/-- Device memory (R14). -/
def isDevice (pa : Nat) : Bool := pa < 2 ^ 40
/-- The host region (R14). -/
def isHost (pa : Nat) : Bool := 2 ^ 51 ≤ pa && pa < 2 ^ 52
/-- The alias windows (R14, R35). -/
def isAlias (pa : Nat) : Bool := pa / 2 ^ 44 == 0x10
/-- The format windows (R14, R46). -/
def isFormat (pa : Nat) : Bool := pa / 2 ^ 48 == 2 && pa % 2 ^ 48 < 2 ^ 35
/-- The control region (R14). -/
def isControl (pa : Nat) : Bool := pa / 2 ^ 32 == 0x30000
/-- The operation of an alias address (R35). -/
def aliasOp (pa : Nat) : Nat := (pa / 2 ^ 40) % 16
/-- The device offset of an alias address, or the address itself (R35). -/
def deviceOffset (pa : Nat) : Nat := pa % 2 ^ 40
/-- The core and the window of a format-window address (R46). -/
def windowCore (pa : Nat) : Nat := (pa / 2 ^ 23) % 4096
def windowNo (pa : Nat) : Nat := (pa / 2 ^ 20) % 8
/-- The island of a physical address, `none` for the control and host regions (R19). -/
def islandOf (pa : Nat) : Option Nat :=
  if isDevice pa then some (stackOf pa)
  else if isAlias pa then some (stackOf (deviceOffset pa))
  else if isFormat pa then some (dieOf (windowCore pa))
  else none
/-- The number of a 64-byte line. -/
def lineOf (pa : Nat) : Nat := pa / 64
/-- The bank of a device address within its home (R139). -/
def bankOf (pa : Nat) : Nat := ((pa / 2 ^ 24) % 4) * 4 + (pa / 2 ^ 10) % 4
/-- A bank's number within its stack. -/
def bankKey (pa : Nat) : Nat := (homeOf pa % 64) * 16 + bankOf pa

/-! ### Units -/

/-- A hart at reset (R183, R312): hub cores are in S. -/
def hartDefault (k : Nat) : Hart := if 8192 ≤ k then { priv := true } else {}
def State.hart (s : State) (a : Agent) : Hart := mget hartDefault s.harts (agentKey a)
def State.setHart (s : State) (a : Agent) (h : Hart) : State := { s with harts := mput s.harts (agentKey a) h }
def State.updHart (s : State) (a : Agent) (f : Hart → Hart) : State := s.setHart a (f (s.hart a))
def State.far (s : State) (c : Nat) : Far := mget (fun _ => {}) s.fars c
def State.setFar (s : State) (c : Nat) (f : Far) : State := { s with fars := mput s.fars c f }
def State.updFar (s : State) (c : Nat) (f : Far → Far) : State := s.setFar c (f (s.far c))
def State.near (s : State) (h c : Nat) : NearCtx := mget (fun _ => {}) s.nears (2 * h + c)
def State.setNear (s : State) (h c : Nat) (n : NearCtx) : State := { s with nears := mput s.nears (2 * h + c) n }
def State.updNear (s : State) (h c : Nat) (f : NearCtx → NearCtx) : State := s.setNear h c (f (s.near h c))
def State.unit (s : State) (h : Nat) : NearUnit := mget (fun _ => {}) s.units h
def State.setUnit (s : State) (h : Nat) (u : NearUnit) : State := { s with units := mput s.units h u }
def State.updUnit (s : State) (h : Nat) (f : NearUnit → NearUnit) : State := s.setUnit h (f (s.unit h))
def State.home (s : State) (h : Nat) : Home := mget (fun _ => {}) s.homes h
def State.setHome (s : State) (h : Nat) (x : Home) : State := { s with homes := mput s.homes h x }
def State.updHome (s : State) (h : Nat) (f : Home → Home) : State := s.setHome h (f (s.home h))
def State.cluster (s : State) (c : Nat) : Cluster := mget (fun _ => {}) s.clusters c
def State.setCluster (s : State) (c : Nat) (x : Cluster) : State := { s with clusters := mput s.clusters c x }
def State.updCluster (s : State) (c : Nat) (f : Cluster → Cluster) : State := s.setCluster c (f (s.cluster c))
def State.island (s : State) (d : Nat) : Island := mget (fun _ => {}) s.islands d
def State.setIsland (s : State) (d : Nat) (x : Island) : State := { s with islands := mput s.islands d x }
def State.updIsland (s : State) (d : Nat) (f : Island → Island) : State := s.setIsland d (f (s.island d))
def State.stack (s : State) (k : Nat) : Stack := mget (fun _ => {}) s.baseDies k
def State.setStack (s : State) (k : Nat) (x : Stack) : State := { s with baseDies := mput s.baseDies k x }
def State.updStack (s : State) (k : Nat) (f : Stack → Stack) : State := s.setStack k (f (s.stack k))
def State.ctx (s : State) (c : Nat) : Option Context := mget (fun _ => none) s.ctxs c
def State.setCtx (s : State) (c : Nat) (x : Context) : State := { s with ctxs := mput s.ctxs c (some x) }
/-- Changes an existing context. -/
def State.updCtx (s : State) (c : Nat) (f : Context → Context) : State :=
  match s.ctx c with
  | some x => s.setCtx c (f x)
  | none => s
def State.updHub (s : State) (f : Hub → Hub) : State := { s with hub := f s.hub }
/-- A hub core's interrupt registers (R420). -/
def hubCoreDefault (n : Nat) : HubCore := if n = 4 then { en := 0xF } else {}
def State.hubCore (s : State) (n : Nat) : HubCore := mget hubCoreDefault s.hub.cores n
def State.setHubCore (s : State) (n : Nat) (x : HubCore) : State :=
  s.updHub fun h => { h with cores := mput h.cores n x }
/-- A queue of a home; unbound where nothing is listed (R156). -/
def Home.queueAt (x : Home) (q : Nat) : Queue := mget (fun _ => {}) x.queues q
def Home.setQueue (x : Home) (q : Nat) (v : Queue) : Home := { x with queues := mput x.queues q v }
/-- A channel of a mailbox (R167). -/
def Far.channel (f : Far) (ch : Nat) : Channel := mget (fun _ => {}) f.mail ch
def Far.setChannel (f : Far) (ch : Nat) (c : Channel) : Far := { f with mail := mput f.mail ch c }
/-- Depth of a channel (R167). -/
def Far.depth (f : Far) (ch : Nat) : Nat := bits f.mbcfg (4 * ch + 3) (4 * ch) + 1
/-- A scalar register; g0 reads 0 (R183). -/
def Hart.reg (h : Hart) (r : Reg) : Word := if r = 0 then 0 else mget (fun _ => 0) h.regs r.toNat
/-- Writes a scalar register; a write to g0 is ignored (R183). -/
def Hart.setReg (h : Hart) (r : Reg) (v : Word) : Hart := if r = 0 then h else { h with regs := mput h.regs r.toNat v }

/-! ### The resource map (R373, R374) -/

/-- The map words of a fully working module at power-on. -/
def rmapDefault (w : Nat) : Word :=
  if w = 0 then 1
  else if w = 1 then 1
  else if 16 ≤ w ∧ w < 272 then
    match w % 16 with
    | 0 => 0x0000006464F00001
    | 1 => 0x00000000FFFFFFFF
    | 2 | 3 | 4 | 5 | 6 => 0xFFFFFFFFFFFFFFFF
    | 8 => 64
    | 9 => 0x0000000000C805DC
    | _ => 0
  else 0
def State.mapWord (s : State) (w : Nat) : Word := if w < 272 then mget rmapDefault s.hub.rmap w else 0
def State.setMapWord (s : State) (w : Nat) (v : Word) : State := s.updHub fun h => { h with rmap := mput h.rmap w v }
/-- A word of a die's block. -/
def State.dieWord (s : State) (d o : Nat) : Word := s.mapWord (16 + 16 * d + o)
def State.mapVersion (s : State) : BitVec 32 := (s.mapWord 0).extractLsb' 0 32
/-- MODE and the number of partitions (R373, R386). -/
def State.mapMode (s : State) : Nat := bits (s.mapWord 1) 34 32
def State.partCount (s : State) : Nat := 2 ^ s.mapMode
/-- Partition of a die (R386). -/
def State.partOfDie (s : State) (d : Nat) : Nat := bits (s.mapWord 2) (4 * d + 3) (4 * d)
def State.dstate (s : State) (d : Nat) : Nat := bits (s.dieWord d 0) 18 16
def State.incOf (s : State) (d : Nat) : BitVec 16 := (s.dieWord d 0).extractLsb' 0 16
/-- A live core (R374). -/
def State.coreLive (s : State) (c : Nat) : Bool :=
  let d := dieOf c
  let i := c % 256
  s.dstate d == 0 && tb (s.dieWord d 1).toNat (i / 16) && tb (s.dieWord d (2 + i / 64)).toNat (i % 64)
def State.clusterLive (s : State) (c : Nat) : Bool :=
  s.dstate (c / 16) == 0 && tb (s.dieWord (c / 16) 1).toNat (c % 16)
def State.nearLive (s : State) (h : Nat) : Bool := tb (s.dieWord (h / 64) 6).toNat (h % 64)
def State.homeLost (s : State) (h : Nat) : Bool := tb (s.dieWord (h / 64) 7).toNat (h % 64)
/-- An active PCIe function (R386, R409): once the host link is trained, one for each partition; after a failed boot function 0 alone
(R415, R421). -/
def State.fnActive (s : State) (fn : Nat) : Bool := if s.hub.fail = 0 then s.hub.linkUp && decide (fn < s.partCount) else fn == 0
/-- Dies of a partition (R386). -/
def State.partDies (s : State) (p : Nat) : List Nat := (List.range 16).filter fun d => s.partOfDie d == p
/-- Live cores of a partition. -/
def State.partCores (s : State) (p : Nat) : List Nat :=
  (s.partDies p).flatMap fun d => ((List.range 256).map fun i => d * 256 + i).filter s.coreLive

/-! ### Contexts and placement (R5, R150, R152) -/

/-- The context of a vcore's core. -/
def State.coreCtx (s : State) (core : Nat) : Nat := (s.hart (.far core)).ctxid.toNat
/-- The core on which a vcore is placed. -/
def State.placedOn (s : State) (c v : Nat) : Option Nat :=
  match s.ctx c with
  | none => none
  | some x => (x.placed.find? fun p => p.1 == v).map (·.2)
/-- A RUNNING context (R151). -/
def State.running (s : State) (c : Nat) : Bool :=
  match s.ctx c with
  | some x => x.st == .running
  | none => false
/-- A context whose suspension has been requested or is complete takes no task (R361). -/
def State.dispatches (s : State) (c : Nat) : Bool :=
  match s.ctx c with
  | some x => x.st == .running && x.susp.isNone
  | none => false
/-- The context id under which an agent runs. -/
def State.agentCtx (s : State) (a : Agent) : Nat := (s.hart a).ctxid.toNat
/-- The clock counter of the model's free values moves on. -/
def State.tick (s : State) : State := { s with ticks := s.ticks + 1 }

end Sys2Proof.Machine
end

