-- ==== Sys2Proof/Machine/Flags.lean ====
section
/-! DEFINITION. Conditions of compares, the number formats and `Round` of R72 to R94, the conditions they report, and the
element operations of R39. -/
namespace Sys2Proof.Machine

/-! ### Scalar conditions (R186, R202) -/

/-- A condition of BR and CMP on two words. -/
def condHolds (c : Cond) (a b : Word) : Bool :=
  match c with
  | .eq => a == b
  | .ne => a != b
  | .lt => a.slt b
  | .ge => !a.slt b
  | .ltu => a.ult b
  | .geu => !a.ult b

end Sys2Proof.Machine
namespace Sys2Proof
/-! ### Formats (R72, R76) -/

/-- Width of a format in bits. -/
def Fmt.width : Fmt → Nat
  | .i4 | .u4 | .ql4 => 4
  | .i8 | .u8 | .e5m2 | .e4m3 => 8
  | .i16 | .u16 | .fp16 | .bf16 => 16
  | .i32 | .u32 | .fp32 => 32
  | .i64 | .u64 => 64
/-- A signed integer format. -/
def Fmt.signed : Fmt → Bool
  | .i4 | .i8 | .i16 | .i32 | .i64 => true
  | _ => false
/-- Fraction bits p. -/
def Fmt.frac : Fmt → Nat
  | .fp32 => 23 | .fp16 => 10 | .bf16 => 7 | .e5m2 => 2 | .e4m3 => 3
  | _ => 0
/-- Exponent bias. -/
def Fmt.bias : Fmt → Int
  | .fp32 | .bf16 => 127
  | .fp16 | .e5m2 => 15
  | .e4m3 => 7
  | _ => 0
/-- emin = 1 - bias. -/
def Fmt.emin (f : Fmt) : Int := 1 - f.bias
/-- Exponent of the largest finite value. -/
def Fmt.emax : Fmt → Int
  | .fp32 | .bf16 => 127
  | .fp16 | .e5m2 => 15
  | .e4m3 => 8
  | _ => 0
/-- Largest significand at that exponent, in units of the last place: E4M3 keeps its last pattern for NaN. -/
def Fmt.maxSig : Fmt → Nat
  | .e4m3 => 14
  | f => 2 ^ (f.frac + 1) - 1
/-- Position of the sign bit. -/
def Fmt.signPos (f : Fmt) : Nat := f.width - 1
/-- The canonical NaN (R76, R78). -/
def Fmt.nan : Fmt → Nat
  | .fp32 => 0x7FC00000 | .fp16 => 0x7E00 | .bf16 => 0x7FC0 | .e5m2 => 0x7E | .e4m3 => 0x7F
  | _ => 0
/-- The pattern of +Inf. -/
def Fmt.inf : Fmt → Nat
  | .fp32 => 0x7F800000 | .fp16 => 0x7C00 | .bf16 => 0x7F80 | .e5m2 => 0x7C
  | _ => 0
/-- The pattern of the largest finite value. -/
def Fmt.maxFinite : Fmt → Nat
  | .fp32 => 0x7F7FFFFF | .fp16 => 0x7BFF | .bf16 => 0x7F7F | .e5m2 => 0x7B | .e4m3 => 0x7E
  | _ => 0

end Sys2Proof
namespace Sys2Proof.Machine
/-! ### Exact values -/

/-- An exact value (R80): NaN, an infinity, a signed zero, or plus or minus m times 2^e with m > 0. -/
inductive XVal where
  | nan
  | inf (neg : Bool)
  | zero (neg : Bool)
  | fin (neg : Bool) (m : Nat) (e : Int)
  deriving DecidableEq, Repr

/-- The conditions of R82. -/
structure Conds where
  nv : Bool := false
  ovf : Bool := false
  unf : Bool := false
  nx : Bool := false
  deriving DecidableEq, Repr

def Conds.or (a b : Conds) : Conds := ⟨a.nv || b.nv, a.ovf || b.ovf, a.unf || b.unf, a.nx || b.nx⟩
def Conds.invalid (b : Bool) : Conds := { nv := b }
/-- The bits of AFLAGS (R247): NV bit 3, OF bit 2, UF bit 1, NX bit 0. -/
def Conds.code (c : Conds) : BitVec 4 := BitVec.ofBool c.nv ++ BitVec.ofBool c.ovf ++ BitVec.ofBool c.unf ++ BitVec.ofBool c.nx

/-- The exact value of an integer. -/
def XVal.ofInt (i : Int) : XVal := if i = 0 then .zero false else .fin (decide (i < 0)) i.natAbs 0
def XVal.isNeg : XVal → Bool
  | .nan => false | .inf n => n | .zero n => n | .fin n _ _ => n
def XVal.neg : XVal → XVal
  | .nan => .nan | .inf n => .inf (!n) | .zero n => .zero (!n) | .fin n m e => .fin (!n) m e

/-- An integer element read under its format (R74). -/
def intOf (f : Fmt) (b : Nat) : Int :=
  if f.signed && tb b (f.width - 1) then (b : Int) - 2 ^ f.width else b
/-- The low bits of an integer (R74). -/
def wrapInt (w : Nat) (i : Int) : Nat := (i % (2 ^ w : Int)).toNat

/-- The levels of the QL4 codebook in 256ths (R89). -/
def ql4Levels : List Int := [-256, -178, -134, -101, -74, -49, -25, 0, 21, 41, 64, 90, 120, 158, 204, 256]
/-- The exact level of a code; code 7 is +0 (R89). -/
def ql4Val (c : Nat) : XVal :=
  match ql4Levels[c]? with
  | some i => if i = 0 then .zero false else .fin (decide (i < 0)) i.natAbs (-8)
  | none => .zero false

/-- The exact value of an element (R74, R77, R89). -/
def decodeElem (f : Fmt) (b : Nat) : XVal :=
  if f = .ql4 then ql4Val b
  else if f.isInt then .ofInt (intOf f b)
  else
    let p := f.frac
    let s := tb b f.signPos
    let fr := b % 2 ^ p
    let ex := (b / 2 ^ p) % 2 ^ (f.signPos - p)
    let top := 2 ^ (f.signPos - p) - 1
    if f = .e4m3 ∧ ex = top ∧ fr = 7 then .nan
    else if f ≠ .e4m3 ∧ ex = top then (if fr = 0 then .inf s else .nan)
    else if ex = 0 then (if fr = 0 then .zero s else .fin s fr (f.emin - p))
    else .fin s (2 ^ p + fr) ((ex : Int) - f.bias - p)

/-- The exact value of an SC16 scale (R91). -/
def sc16Val (b : Nat) : XVal :=
  let ex := b / 256 % 256
  let fr := b % 256
  if ex = 0 then (if fr = 0 then .zero false else .fin false fr (-134)) else .fin false (256 + fr) ((ex : Int) - 135)

/-! ### Rounding -/

/-- `RoundToInteger` of plus or minus m times 2^s, on magnitudes: the magnitude and whether it is inexact (R80). -/
def roundMag (mode : Rnd) (neg : Bool) (m : Nat) (s : Int) : Nat × Bool :=
  if 0 ≤ s then (m * 2 ^ s.toNat, false)
  else
    let d := 2 ^ (-s).toNat
    let q := m / d
    let r := m % d
    if r = 0 then (q, false)
    else
      let up := match mode with
        | .rtz => false
        | .rup => !neg
        | .rdn => neg
        | .rne | .ef => decide (d < 2 * r) || (decide (2 * r = d) && q % 2 == 1)
      (if up then q + 1 else q, true)

/-- Puts a sign on a pattern. -/
def signed (f : Fmt) (neg : Bool) (mag : Nat) : Nat := if neg then mag + 2 ^ f.signPos else mag

/-- Encodes n times 2^(e - p), with n at most 2^(p+1), as a magnitude pattern. -/
def encodeMag (f : Fmt) (n : Nat) (e : Int) : Nat :=
  let p := f.frac
  if n < 2 ^ p then n
  else if n = 2 ^ (p + 1) then ((e + 1 + f.bias).toNat) * 2 ^ p
  else (e + f.bias).toNat * 2 ^ p + (n - 2 ^ p)

/-- `RoundInt` (R85). -/
def roundInt (v : XVal) (mode : Rnd) (f : Fmt) : Nat × Conds :=
  let lo : Int := if f.signed then -(2 ^ (f.width - 1) : Int) else 0
  let hi : Int := if f.signed then 2 ^ (f.width - 1) - 1 else 2 ^ f.width - 1
  match v with
  | .nan => (0, { nv := true })
  | .inf n => (wrapInt f.width (if n then lo else hi), { nv := true })
  | .zero _ => (0, {})
  | .fin n m e =>
    let (q, nx) := roundMag mode n m e
    let i : Int := if n then -(q : Int) else q
    if i < lo then (wrapInt f.width lo, { nv := true })
    else if hi < i then (wrapInt f.width hi, { nv := true })
    else (wrapInt f.width i, { nx := nx })

/-- `Round` (R80) with the conditions of R82 and whether the overflow branch was taken. -/
def roundF (v : XVal) (mode : Rnd) (f : Fmt) (sat : Bool) : Nat × Conds :=
  match v with
  | .nan => (f.nan, {})
  | .inf n => if f = .e4m3 then ((if sat then signed f n f.maxFinite else f.nan), {}) else (signed f n f.inf, {})
  | .zero n => (signed f n 0, {})
  | .fin neg m ex =>
    let lg : Int := (m.log2 : Int) + ex
    let e := max lg f.emin
    let (n, nx) := roundMag mode neg m (ex - (e - f.frac))
    let e' := if n = 2 ^ (f.frac + 1) then e + 1 else e
    let n' := if n = 2 ^ (f.frac + 1) then 2 ^ f.frac else n
    if f.emax < e' ∨ (e' = f.emax ∧ f.maxSig < n') then
      let toInf := mode = .rne ∨ mode = .ef ∨ (mode = .rup ∧ neg = false) ∨ (mode = .rdn ∧ neg = true)
      let c : Conds := { ovf := true, nx := true }
      if sat then (signed f neg f.maxFinite, c)
      else if toInf then ((if f = .e4m3 then f.nan else signed f neg f.inf), c)
      else (signed f neg f.maxFinite, c)
    else (signed f neg (encodeMag f n e), { nx := nx, unf := nx && decide (lg < f.emin) })

/-- `Round` to any format (R80, R85). -/
def round (v : XVal) (mode : Rnd) (f : Fmt) (sat : Bool) : Nat × Conds :=
  if f.isInt then roundInt v mode f else roundF v mode f sat

/-- `QCode` with its conditions (R90). -/
def qcode (v : XVal) : Nat × Conds :=
  match v with
  | .nan => (7, { nv := true })
  | .inf n => (if n then 0 else 15, { nx := true })
  | .zero _ => (7, {})
  | .fin neg m e =>
    -- v in units of 1/512 above k : compare m * 2^(e+9) with k
    let above := fun (k : Int) =>
      let l : Int := if 0 ≤ e + 9 then m * 2 ^ (e + 9).toNat else m
      let r : Int := if 0 ≤ e + 9 then k else k * 2 ^ (-(e + 9)).toNat
      decide (r < (if neg then -l else l))
    let mids := (List.range 15).map fun i => ql4Levels.getD i 0 + ql4Levels.getD (i + 1) 0
    let c := (mids.filter above).length
    let lv : Int := ql4Levels.getD c 0
    let exact := if 0 ≤ e + 8 then decide ((if neg then -(m : Int) else m) * 2 ^ (e + 8).toNat = lv)
      else decide ((if neg then -(m : Int) else m) = lv * 2 ^ (-(e + 8)).toNat)
    (c, { nx := !exact })

/-! ### Exact arithmetic -/

/-- The exact sum, the sign of an exact zero as R83 says for the mode; true when it is invalid (R84). -/
def xadd (mode : Rnd) (a b : XVal) : XVal × Bool :=
  match a, b with
  | .nan, _ => (.nan, false)
  | _, .nan => (.nan, false)
  | .inf m, .inf n => if m = n then (.inf m, false) else (.nan, true)
  | .inf m, _ => (.inf m, false)
  | _, .inf n => (.inf n, false)
  | .zero m, .zero n => if m = n then (.zero m, false) else (.zero (mode == .rdn), false)
  | .zero _, v => (v, false)
  | v, .zero _ => (v, false)
  | .fin s m e, .fin t n k =>
    let b := min e k
    let x : Int := (if s then -(m : Int) else m) * 2 ^ (e - b).toNat
    let y : Int := (if t then -(n : Int) else n) * 2 ^ (k - b).toNat
    let z := x + y
    if z = 0 then (.zero (mode == .rdn), false) else (.fin (decide (z < 0)) z.natAbs b, false)

/-- The exact product; true when it is invalid (R83, R84). -/
def xmul (a b : XVal) : XVal × Bool :=
  match a, b with
  | .nan, _ => (.nan, false)
  | _, .nan => (.nan, false)
  | .inf _, .zero _ => (.nan, true)
  | .zero _, .inf _ => (.nan, true)
  | .inf m, v => (.inf (m != v.isNeg), false)
  | v, .inf n => (.inf (v.isNeg != n), false)
  | .zero m, v => (.zero (m != v.isNeg), false)
  | v, .zero n => (.zero (v.isNeg != n), false)
  | .fin s m e, .fin t n k => (.fin (s != t) (m * n) (e + k), false)

/-- Order of exact values that are no NaN: less, with -0 equal to +0 (R87). -/
def xlt (a b : XVal) : Bool :=
  match a, b with
  | .nan, _ => false
  | _, .nan => false
  | .inf m, .inf n => m && !n
  | .inf m, _ => m
  | _, .inf n => !n
  | .zero _, .zero _ => false
  | .zero _, .fin n _ _ => !n
  | .fin n _ _, .zero _ => n
  | .fin s m e, .fin t n k =>
    let b := min e k
    decide ((if s then -(m : Int) else m) * 2 ^ (e - b).toNat < (if t then -(n : Int) else n) * 2 ^ (k - b).toNat)
/-- Equality of exact values, a NaN equal to nothing (R87). -/
def xeq (a b : XVal) : Bool :=
  match a, b with
  | .nan, _ => false
  | _, .nan => false
  | a, b => !xlt a b && !xlt b a
/-- The greater or the lesser of two values, -0 below +0, NaN if either is a NaN (R87). -/
def xpick (max : Bool) (a b : XVal) : XVal :=
  match a, b with
  | .nan, _ => .nan
  | _, .nan => .nan
  | .zero m, .zero n => .zero (if max then m && n else m || n)
  | a, b => if xlt a b == max then b else a

/-- A rounded sum in one format. -/
def faddBits (f : Fmt) (a b : Nat) : Nat :=
  (roundF (xadd .rne (decodeElem f a) (decodeElem f b)).1 .rne f false).1
/-- The greater or lesser of two FP32 patterns. -/
def fpickBits (max : Bool) (a b : Nat) : Nat :=
  (roundF (xpick max (decodeElem .fp32 a) (decodeElem .fp32 b)) .rne .fp32 false).1

/-! ### The bank operations of R39 -/

/-- Element size of ops 1 to 7 in bytes (R37). -/
def bankElemBytes (op : Nat) : Nat := if op = 2 ∨ op = 7 then 8 else 4
/-- The new value of an element under op 1 to 7 (R39). -/
def bankElem (op old v : Nat) : Nat :=
  match op with
  | 1 => (old + v) % 2 ^ 32
  | 2 => (old + v) % 2 ^ 64
  | 3 => faddBits .fp32 old v
  | 4 => faddBits .bf16 (old % 2 ^ 16) (v % 2 ^ 16) + 2 ^ 16 * faddBits .bf16 (old / 2 ^ 16 % 2 ^ 16) (v / 2 ^ 16 % 2 ^ 16)
  | 5 => fpickBits true old v
  | 6 => fpickBits false old v
  | _ => old ||| v

/-- The new value of an AMO or RAMO (R272) on n bytes. -/
def amoNew (op : AmoOp) (n old v : Nat) : Nat :=
  let w := 8 * n
  let so : Int := if tb old (w - 1) then (old : Int) - 2 ^ w else old
  let sv : Int := if tb v (w - 1) then (v : Int) - 2 ^ w else v
  match op with
  | .swap => v
  | .add => (old + v) % 2 ^ w
  | .and => old &&& v
  | .or => old ||| v
  | .xor => old ^^^ v
  | .smin => if so ≤ sv then old else v
  | .smax => if sv ≤ so then old else v
  | .umin => min old v
  | .umax => max old v
/-- The new value of an AMOF (R272, R39). -/
def amofNew (op : AmofOp) (old v : Nat) : Nat :=
  match op with
  | .addF32 => bankElem 3 old v
  | .addBf16x2 => bankElem 4 old v
  | .maxF32 => bankElem 5 old v
  | .minF32 => bankElem 6 old v

end Sys2Proof.Machine
end

