-- ==== Sys2Proof/Machine/Log.lean ====
section
/-! DEFINITION. The error log, the hub cores' interrupt requests, the host notices, status notices and the delivery of
messages to mailboxes and spill queues. -/
namespace Sys2Proof.Machine

/-! ### Interrupt requests and host notices (R420, R410) -/

/-- A request of source `k` goes to every hub core (R420). -/
def hirqTo (k : Nat) (x : HubCore) : HubCore :=
  let b : BitVec 4 := 1#4 <<< k
  { x with hirq := x.hirq ||| b, latch := x.latch || (x.en &&& b) != 0 }
def State.hirq (s : State) (k : Nat) : State :=
  (List.range 7).foldl (fun s n => s.setHubCore n (hirqTo k (s.hubCore n))) s
/-- Sets bit `k` of a function's HOST_NOTICE; a change from 0 to 1 raises MSI-X vector 0 (R410). -/
def State.raise (s : State) (fn k : Nat) : State :=
  let v := mget (fun _ => 0) s.hub.notice fn
  let seq : BitVec 32 := v.extractLsb' 32 32 + 1
  let low : BitVec 32 := v.extractLsb' 0 32 ||| (1#32 <<< k)
  let s := s.updHub fun h => { h with notice := mput h.notice fn (seq ++ low) }
  if tb v.toNat k then s else { s with toHost := s.toHost ++ [.msix fn] }
/-- Sets a bit in every active function's notice. -/
def State.raiseAll (s : State) (k : Nat) : State := (List.range s.partCount).foldl (fun s fn => s.raise fn k) s

/-! ### The error log (R357, R358) -/

/-- Source classes of R358. -/
def logClass : Agent → Nat | .far _ => 0 | .near .. => 1 | .hub _ => 2
def logId : Agent → Nat | .far p => p | .near h c => 2 * h + c | .hub n => n
/-- Writes one record and advances ERRLOG_SEQ; kinds 1, 6 and 13 set ERR for the partition of the die (R410); every record
is a request of HIRQ source 3 (R420). -/
def State.log (s : State) (kind unit cls id addr detail die : Nat) : State :=
  let n := s.hub.errNext
  let r : ErrRec := { w0 := BitVec.ofNat 64 s.time
                      w1 := n ++ BitVec.ofNat 8 kind ++ BitVec.ofNat 8 unit ++ BitVec.ofNat 4 cls ++ BitVec.ofNat 12 id
                      w2 := BitVec.ofNat 64 addr, w3 := BitVec.ofNat 64 detail }
  let s := s.updHub fun h => { h with errs := mput h.errs (n.toNat % 4096) r, errNext := n + 1 }
  let s := s.hirq 3
  if kind = 1 ∨ kind = 6 ∨ kind = 13 then s.raise (s.partOfDie die) 3 else s

/-! ### Spill queues and mailboxes (R167 to R169) -/

/-- Whether a spill queue can take one more entry (R150, R168). -/
def Context.spillRoom (x : Context) : Bool := x.spill.length < x.spillCap
/-- Writes a payload into the next slot and counts it; a waiting IDLE of the core ends (R168, R304). -/
def State.slotIn (s : State) (core ch : Nat) (d : BitVec 512) : State :=
  let f := s.far core
  let c := f.channel ch
  let s := s.setFar core (f.setChannel ch { c with slots := c.slots ++ [d], counter := c.counter + 1 })
  let h := s.hart (.far core)
  match h.wait with
  | some w => if w.kind = .idle then s.setHart (.far core) { h with wait := some { w with won := true } } else s
  | none => s
/-- Whether a channel can take a delivery (R167). -/
def State.slotFree (s : State) (core ch : Nat) : Bool :=
  let f := s.far core
  (f.channel ch).slots.length < f.depth ch
/-- A spill entry for a vcore and channel. -/
def Spill.isFor (v ch : Nat) : Spill → Bool
  | .msg m => m.vcore == v && m.ch == ch
  | .task .. => false
/-- A spilled task for a vcore. -/
def Spill.taskFor (v : Nat) : Spill → Bool
  | .msg _ => false
  | .task w _ _ => w == v
/-- The incarnation of a core's die, which every packet that it sends carries (R126). -/
def State.sentInc (s : State) (core : Nat) : BitVec 16 := s.incOf (dieOf core)
/-- The entry of a receiving die's copy, or of the hub's own table, for a sender's die (R126). -/
def State.copyInc (s : State) (d : Option Nat) (sender : Nat) : BitVec 16 :=
  match d with
  | some d => mget (fun _ => 1) (s.island d).incCopy sender
  | none => s.incOf sender
/-- Whether a packet is of an earlier incarnation of its sender's die than the receiver's copy has (R126); 0 is no die's. -/
def State.staleInc (s : State) (d : Option Nat) (sender : Nat) (inc : BitVec 16) : Bool :=
  inc != 0 && decide (inc.toNat < (s.copyInc d sender).toNat)
/-- A packet of an earlier incarnation is dropped at a die, or at the hub, and logged (R126, kind 5). -/
def State.dropStale (s : State) (d : Option Nat) (sender : Nat) (inc : BitVec 16) : State :=
  s.log 5 0 (if d.isSome then 4 else 5) (d.getD 0) 0 (sender * 65536 + inc.toNat) (d.getD 0)
/-- The number of a delivery at a mailbox unit: completions 0, notices 1, a far core's messages 2 and up (R334). -/
def Msg.port (m : Msg) : Nat := if m.own then (if m.ch = 14 then 0 else 1) else 2 + m.src
/-- A delivery that stands at the mailbox unit of a core (R334). -/
def State.atUnit (s : State) (core : Nat) (m : Msg) : Bool := m.here && s.placedOn m.ctx m.vcore == some core
/-- The mailbox unit's pointer moves past the source whose delivery it has accepted (R328, R334). -/
def State.portPast (s : State) (core : Nat) (m : Msg) : State := s.updFar core fun f => { f with mailPtr := (m.port + 1) % 4098 }
/-- What a delivery comes to: done, or it must wait because the spill queue is full. -/
inductive Delivered where
  | done (s : State)
  | full

/-- The layout of a status notice (R170). -/
def noticeData (kind vcore wher : Nat) (body : BitVec 448) : BitVec 512 :=
  body ++ BitVec.ofNat 32 wher ++ BitVec.ofNat 16 vcore ++ BitVec.ofNat 16 kind

/-- A completion or notice is accepted for its vcore: a slot, the mailbox unit's held list, or the context's held list; the message
of an exited or absent context is dropped and logged (R168, R169, kind 11), and so is one of an earlier incarnation (R126). -/
def State.acceptOwn (s : State) (m : Msg) : State :=
  match s.ctx m.ctx with
  | none => s.log 11 0 5 0 0 m.ctx 0
  | some x =>
    if x.st = .exited then s.log 11 0 5 0 0 m.ctx 0
    else match s.placedOn m.ctx m.vcore with
      | some core =>
        if s.staleInc (some (dieOf core)) (dieOf m.src) m.inc then s.dropStale (some (dieOf core)) (dieOf m.src) m.inc
        else
          let s := s.portPast core m
          if (s.far core).held.any (fun h => h.ch == m.ch) || !s.slotFree core m.ch then
            s.updFar core fun f => { f with held := f.held ++ [m] }
          else s.slotIn core m.ch m.data
      | none => s.setCtx m.ctx { x with held := x.held ++ [m] }
/-- A completion or notice reaches its vcore: it is accepted at once, or contends with the deliveries that stand at the mailbox unit
(R334; DEDUCED, log entry 47). -/
def State.deliverOwn (s : State) (m : Msg) : State :=
  match s.placedOn m.ctx m.vcore with
  | some core =>
    if s.deliveries.any (s.atUnit core) then { s with deliveries := s.deliveries ++ [{ m with here := true }] } else s.acceptOwn m
  | none => s.acceptOwn m

/-- A status notice to channel 15 of a vcore (R170, R355). -/
def State.notice (s : State) (ctx vcore kind nvcore wher : Nat) (body : BitVec 448) : State :=
  s.deliverOwn { ctx := ctx, vcore := vcore, ch := 15, data := noticeData kind nvcore wher body, src := 0, own := true }

/-- The vcore of a source that is a far core (R169). -/
def State.senderVcore (s : State) (src : Nat) : Option (Nat × Nat) :=
  if src < 4096 ∧ (s.far src).placed then some (s.coreCtx src, (s.far src).vcore.toNat) else none

/-- A dead-letter notice to the vcore that sent the item, or a log record where the sender is no vcore (R169, R170). -/
def State.deadLetter (s : State) (sender : Option (Nat × Nat)) (kind vcore wher ctx : Nat) (body : BitVec 448) : State :=
  match sender with
  | some (c, v) => s.notice c v kind vcore wher body
  | none => s.log 11 0 5 0 0 ctx 0

/-- A message payload reaches its destination (R153, R168, R169), or is dropped there as of an earlier incarnation (R126). The entries
of a spill queue stand in the model's own list and not in memory (DESIGN CHOICE, log entry 44). -/
def State.deliverMsg (s : State) (m : Msg) : Delivered :=
  let at? := (s.placedOn m.ctx m.vcore).map dieOf
  if m.own then .done (s.acceptOwn m)
  else if s.staleInc at? (dieOf m.src) m.inc then .done (s.dropStale at? (dieOf m.src) m.inc)
  else
    let dead := Delivered.done (s.deadLetter m.sender 1 m.vcore m.ch m.ctx (m.data.extractLsb' 0 448))
    match s.ctx m.ctx with
    | none => dead
    | some x =>
      if x.st = .exited ∨ x.nv ≤ m.vcore then dead
      else
        let spill := if x.spillRoom then Delivered.done (s.setCtx m.ctx { x with spill := x.spill ++ [.msg m] }) else .full
        match s.placedOn m.ctx m.vcore with
        | some core =>
          if x.spill.any (Spill.isFor m.vcore m.ch) || !s.slotFree core m.ch then spill
          else .done ((s.portPast core m).slotIn core m.ch m.data)
        | none => spill

/-- One channel of a placed vcore takes what its free slots allow of its held and spilled deliveries, in order (R168). -/
def State.flushChannel (s : State) (core ch : Nat) : Nat → State
  | 0 => s
  | n + 1 =>
    if !s.slotFree core ch then s
    else
      let f := s.far core
      match f.held.find? (fun m => m.ch == ch) with
      | some m =>
        let s := s.setFar core { f with held := f.held.eraseP fun h => h.ch == ch }
        (s.slotIn core ch m.data).flushChannel core ch n
      | none =>
        let c := s.coreCtx core
        match s.ctx c with
        | none => s
        | some x =>
          let v := f.vcore.toNat
          match x.spill.find? (Spill.isFor v ch) with
          | some (.msg m) =>
            let s := s.setCtx c { x with spill := x.spill.eraseP (Spill.isFor v ch) }
            (s.slotIn core ch m.data).flushChannel core ch n
          | _ => s
/-- Every channel of a mailbox takes what it can. -/
def State.flushMailbox (s : State) (core : Nat) : State := (List.range 16).foldl (fun s ch => s.flushChannel core ch 16) s

/-! ### Far-side queues (R160, R161) -/

/-- The youngest `n` entries of a context, oldest first, and the rest of the queue. -/
def takeYoungest (ctx n : Nat) (q : List Task) : List Task × List Task :=
  let mine := (q.filter fun t => t.ctx == ctx).length
  let skip := mine - n
  let r := q.foldl (fun (acc : Nat × List Task × List Task) t =>
    let (k, tk, rest) := acc
    if t.ctx == ctx then (k + 1, if skip ≤ k then (tk ++ [t], rest) else (tk, rest ++ [t]))
    else (k, tk, rest ++ [t])) (0, [], [])
  (r.2.1, r.2.2)
/-- The oldest `n` entries of a context, in order, and the rest of the queue. -/
def takeOldest (ctx n : Nat) (q : List Task) : List Task × List Task :=
  let r := q.foldl (fun (acc : Nat × List Task × List Task) t =>
    let (k, tk, rest) := acc
    if t.ctx == ctx && k < n then (k + 1, tk ++ [t], rest) else (k, tk, rest ++ [t])) (0, [], [])
  (r.2.1, r.2.2)

/-- Removes a core's steal requests from a home and from the way to it (R333, R301). -/
def State.stealDrop (s : State) (core home : Nat) : State :=
  let s := { s with stealMsgs := s.stealMsgs.filter fun m => !(m.req.core == core && m.home == home) }
  if (s.home home).steals.any (fun r => r.core == core) then
    s.updHome home fun x => { x with steals := x.steals.filter fun r => r.core != core }
  else s
/-- An entry that arrives for a core withdraws its autonomous request, unless its home's grant is already on its way (R333). -/
def State.autoCancel (s : State) (core : Nat) : State :=
  match (s.far core).autoHome with
  | none => s
  | some h =>
    if s.grants.any (fun g => g.core == core && g.home == h) then s else (s.stealDrop core h).updFar core fun f => { f with autoHome := none }
/-- Entries of a context that arrive at a queue level withdraw the autonomous requests of its cores there (R333). -/
def State.autoCancelAll (s : State) (ctx : Nat) (here : Nat → Bool) : State :=
  s.fars.foldl (fun s p => if p.2.autoHome.isSome && p.2.placed && here p.1 && s.coreCtx p.1 == ctx then s.autoCancel p.1 else s) s
/-- Makes room in a full cluster queue by moving a block of the context to the die queue (R161). -/
def State.clusterRoom (s : State) (cl ctx need : Nat) : Option State :=
  let q := (s.cluster cl).queue
  if q.length + need ≤ 64 then some s
  else
    let (up, rest) := takeYoungest ctx 8 q
    let d := s.island (cl / 16)
    if up.isEmpty || 512 < d.queue.length + up.length || 64 < rest.length + need then none
    else some (((s.updCluster cl fun c => { c with queue := rest }).setIsland (cl / 16) { d with queue := d.queue ++ up }).autoCancelAll ctx
      fun k => dieOf k == cl / 16)
/-- Makes room in a full core queue by moving a block to the cluster queue (R161; DEDUCED, log entry 42). -/
def State.coreRoom (s : State) (core ctx : Nat) : Option State :=
  let f := s.far core
  if f.coreQ.length < 8 then some s
  else
    let (up, rest) := takeYoungest ctx 8 f.coreQ
    match s.clusterRoom (clusterOf core) ctx up.length with
    | none => none
    | some s =>
      some (((s.updCluster (clusterOf core) fun c => { c with queue := c.queue ++ up }).updFar core
        fun f => { f with coreQ := rest }).autoCancelAll ctx fun k => clusterOf k == clusterOf core)

/-- A task arrives at a placed core's queues (R161); `none` where every level is full. Every task that reaches the vcore counts for
g5 of the unanchored ones (R154). -/
def State.coreEnqueue (s : State) (core : Nat) (t : Task) : Option State :=
  match s.coreRoom core t.ctx with
  | none => none
  | some s =>
    let f := s.far core
    let t := if t.anchored then t else { t with seq := f.taskCount }
    let f := { f with coreQ := f.coreQ ++ [t], taskCount := f.taskCount + 1 }
    let s := (s.setFar core f).autoCancel core
    let h := s.hart (.far core)
    match h.wait with
    | some w => if w.kind = .idle ∨ w.kind = .tnext then some (s.setHart (.far core) { h with wait := some { w with won := true } }) else some s
    | none => some s

/-- The four words of a task record (R153). -/
def Task.record (t : Task) : BitVec 256 := t.arg1 ++ t.arg0 ++ t.word1 ++ t.base

/-- An unanchored task is delivered to a vcore: its core's queues, else the spill queue, else the sender waits; a vcore at or
above NV and an exited context get a dead-letter notice of kind 2 (R153, R160, R161, R169), whose WHERE, which R170 gives for a task of
a home queue only, is 0 (DESIGN CHOICE, log entry 48). Tasks that wait in the spill queue for the vcore go before it (R364). -/
def State.taskDeliver (s : State) (sender : Option (Nat × Nat)) (vcore : Nat) (t : Task) : Delivered :=
  let dead := Delivered.done (s.deadLetter sender 2 vcore 0 t.ctx (t.record.zeroExtend 448))
  match s.ctx t.ctx with
  | none => dead
  | some x =>
    if x.st = .exited ∨ x.nv ≤ vcore then dead
    else
      let spill := if x.spillRoom then Delivered.done (s.setCtx t.ctx { x with spill := x.spill ++ [.task vcore t sender] }) else .full
      if x.st ≠ .running ∨ x.susp.isSome ∨ x.spill.any (Spill.taskFor vcore) then spill
      else match s.placedOn t.ctx vcore with
        | some core =>
          match s.coreEnqueue core t with
          | some s => .done s
          | none => spill
        | none => spill

/-- Spilled tasks and messages of a placed vcore enter its queues in order, and held notices its mailbox
(R364). -/
def State.redeliver (s : State) (c v core : Nat) : State :=
  match s.ctx c with
  | none => s
  | some x =>
    let mine := x.held.filter fun m => m.vcore == v
    let s := s.setCtx c { x with held := x.held.filter fun m => !(m.vcore == v) }
    let s := s.updFar core fun f => { f with held := f.held ++ mine }
    let s := s.flushMailbox core
    match s.ctx c with
    | none => s
    | some x =>
      x.spill.foldl (fun s e =>
        match e with
        | .task w t o =>
          if w = v then
            match s.coreEnqueue core t with
            | some s => s.updCtx c fun x => { x with spill := x.spill.erase (.task w t o) }
            | none => s
          else s
        | .msg _ => s) s

end Sys2Proof.Machine
end

