-- ==== Sys2Proof/Machine/Memory.lean ====
section
/-! DEFINITION. The banks, the memory-side caches, the island L2s, the L1Ds, the host's copies, the sort buffers and the
monitors: where an access to device memory or to the host region is performed (R53 to R65, R98, R106, R110, R142, R143). -/
namespace Sys2Proof.Machine

/-! ### Results of an operation -/

/-- What an operation comes to: a result, a trap without effect, or a stall in which the instruction stays unissued. -/
inductive Res (α : Type) where
  | ok (a : α) (s : State)
  | trap (t : Trap) (s : State)
  | wait (s : State)

/-- Sequencing. -/
def Res.bind {α β : Type} (r : Res α) (f : α → State → Res β) : Res β :=
  match r with
  | .ok a s => f a s
  | .trap t s => .trap t s
  | .wait s => .wait s
/-- The state of a result. -/
def Res.state {α : Type} : Res α → State | .ok _ s => s | .trap _ s => s | .wait s => s
def Res.isOk {α : Type} : Res α → Bool | .ok .. => true | _ => false

/-- Access kinds of R27. -/
def kLoad : Nat := 0
def kStore : Nat := 1
def kAtomic : Nat := 2
def kFetch : Nat := 3
def kAnchor : Nat := 4

def mkInfos (a b c d : Nat) : Infos := ⟨BitVec.ofNat 64 a, BitVec.ofNat 64 b, BitVec.ofNat 64 c, BitVec.ofNat 64 d⟩

/-- The source class, source and die of a record about a sector in a unit (R358): the core for an L1D, an L1I or an array, the die for an
island L2, else the base die. -/
def errSource (unit own pa : Nat) : Nat × Nat × Nat :=
  match unit with
  | 1 | 2 | 6 => (0, own, dieOf own)
  | 3 => (4, own, own)
  | _ => (3, stackOf pa, stackOf pa)
/-- A record of a kind about a sector in a unit (R356, R358). -/
def State.logSector (s : State) (kind unit own pa detail : Nat) : State :=
  let x := errSource unit own pa
  s.log kind unit x.1 x.2.1 (pa / 32 * 32) detail x.2.2
/-- MEMORY_ERROR with its error-log record (R356, R384): an access of a kind to `pa` meets an error in a unit, which `own` holds where it is
no memory-side cache or bank. -/
def memoryError {α : Type} (s : State) (pa unit kind : Nat) (own : Nat := 0) : Res α :=
  let n := s.hub.errNext
  .trap { cause := 0x0E, infos := mkInfos (pa / 32 * 32) unit n.toNat kind } (s.logSector 1 unit own pa kind)

/-! ### Errors that cannot be corrected (R356) -/

/-- The first sector of a unit, from sector `a` to sector `b`, whose code tells of an error. -/
def State.badIn (s : State) (unit own a b : Nat) : Option Nat :=
  ((s.bad.filter fun x => x.unit == unit && x.own == own && decide (a ≤ x.sec) && decide (x.sec ≤ b)).map (·.sec)).min?
/-- The unit writes a sector anew with a fresh code (R356). -/
def State.freshen (s : State) (unit own sec : Nat) : State :=
  if s.bad.isEmpty then s else { s with bad := s.bad.filter fun x => !(x.unit == unit && x.own == own && x.sec == sec) }
/-- The sectors of a line that a unit writes whole get a fresh code (R356). -/
def State.coverFresh (s : State) (unit own ln : Nat) (cov : BitVec 2) : State :=
  if s.bad.isEmpty then s
  else
    let s := if cov.getLsbD 0 then s.freshen unit own (2 * ln) else s
    if cov.getLsbD 1 then s.freshen unit own (2 * ln + 1) else s
/-- The sectors of a line, as a range, that a mask names. -/
def sectorRange (ln : Nat) (b : BitVec 2) : Nat × Nat := (2 * ln + (if b.getLsbD 0 then 0 else 1), 2 * ln + (if b.getLsbD 1 then 1 else 0))
/-- An error in one of the sectors of a line that an access of a kind reads in a unit: MEMORY_ERROR, and the sector is written anew. -/
def State.checkSectors (s : State) (unit own ln : Nat) (b : BitVec 2) (kind : Nat) : Res Unit :=
  if b = 0 then .ok () s
  else match s.badIn unit own (sectorRange ln b).1 (sectorRange ln b).2 with
    | none => .ok () s
    | some x => memoryError (s.freshen unit own x) (32 * x) unit kind own
/-- An error in a sector that is written back (R356): a record, and an event at the core whose own line it is when that core's access
has caused the write-back (`agent`); the sector is written anew. -/
def State.errorOut (s : State) (unit own ln : Nat) (b : BitVec 2) (agent : Option Agent) : State :=
  if b = 0 then s
  else match s.badIn unit own (sectorRange ln b).1 (sectorRange ln b).2 with
    | none => s
    | some x =>
      let n := s.hub.errNext.toNat
      let s := (s.freshen unit own x).logSector 1 unit own (32 * x) (if agent.isSome then 1 else 0xFF)
      match agent with
      | some a => s.updHart a fun h => { h with evMem := h.evMem ++ [mkInfos (32 * x) unit n 1] }
      | none => s

/-! ### Monitors (R110, R111) -/

/-- The smaller of the return codes seen. -/
def minCode (o : Option Nat) (c : Nat) : Option Nat := some (match o with | some d => min d c | none => c)
/-- A write to a line (code 1) or the loss of the line (code 2) reaches the monitors held at the directory or at the MSC
(DEDUCED, log entry 13). -/
def State.wake (s : State) (msc : Bool) (ln code : Nat) : State :=
  if s.harts.any (fun p => match p.2.monitor with | some m => m.msc == msc && m.line == ln | none => false) then
    { s with harts := mmap (fun _ h => match h.monitor with
        | some m => if m.msc = msc ∧ m.line = ln then { h with monitor := some { m with code := minCode m.code code } } else h
        | none => h) s.harts }
  else s

/-! ### Sort buffers (R142, R143) -/

/-- Serial-number order of two sequence counts: `a` is earlier than `b` or equal (R142). -/
def seqLe (a b : BitVec 32) : Bool := (b - a).toNat < 2 ^ 31
/-- Key order of two entries. -/
def sortLe (a b : SortEntry) : Bool := a.src < b.src || (a.src == b.src && seqLe a.seq b.seq)
/-- Insertion of an entry in key order. -/
def sortInsert (e : SortEntry) : List SortEntry → List SortEntry
  | [] => [e]
  | x :: t => if sortLe x e then x :: sortInsert e t else e :: x :: t
/-- Applies one element to the bank (R39). -/
def applyElem (m : List Host.Cell) (op pa v : Nat) : List Host.Cell :=
  let n := bankElemBytes op
  memWrite m pa n (bankElem op (memRead m pa n) v)
/-- A write to the banks of a lost home is lost with an error of unit 5 (R384). -/
def State.lostWrite (s : State) (pa : Nat) : State := s.log 1 5 3 (stackOf pa) (pa / 32 * 32) 0xFF (stackOf pa)
/-- Applies every held entry of a bank in ascending key order and empties its buffer (R142); those of a lost home are lost (R384). -/
def State.flushBank (s : State) (stk bank : Nat) : State :=
  let q := mget (fun _ => []) (s.stack stk).sort bank
  if q.isEmpty then s
  else if s.homeLost (stk * 64 + bank / 16) then
    (q.foldl (fun s e => s.lostWrite e.pa) s).updStack stk fun x => { x with sort := mdel x.sort bank }
  else
    let sorted : List SortEntry := q.foldl (fun acc e => sortInsert e acc) []
    let s := { s with mem := sorted.foldl (fun (m : List Host.Cell) (e : SortEntry) => applyElem m e.op e.pa e.v.toNat) s.mem }
    s.updStack stk fun x => { x with sort := mdel x.sort bank }
/-- Whether a bank holds an add to one of `n` bytes. -/
def State.heldOn (s : State) (pa n : Nat) : Bool :=
  (mget (fun _ => []) (s.stack (stackOf pa)).sort (bankKey pa)).any fun e => decide (e.pa < pa + n) && decide (pa < e.pa + 4)
/-- The flush before an access that touches a byte of a held location (R143). -/
def State.flushFor (s : State) (pa n : Nat) : State :=
  if s.heldOn pa n then s.flushBank (stackOf pa) (bankKey pa) else s
/-- Flushes every bank of a stack. -/
def State.flushStack (s : State) (stk : Nat) : State :=
  (s.stack stk).sort.foldl (fun s p => s.flushBank stk p.1) s

/-! ### Lines and sectors (R54) -/

/-- The sectors that `n` bytes from byte `off` of a line touch. -/
def sectorsOf (off n : Nat) : BitVec 2 :=
  if n = 0 then 0 else BitVec.ofBool (32 < off + n) ++ BitVec.ofBool (off < 32)
/-- The sectors that `n` bytes from byte `off` cover wholly. -/
def sectorsCovered (off n : Nat) : BitVec 2 :=
  BitVec.ofBool (off ≤ 32 && 64 ≤ off + n) ++ BitVec.ofBool (off == 0 && 32 ≤ n)
/-- The byte mask of the sectors named. -/
def sectorMask (b : BitVec 2) : BitVec 512 :=
  let m : BitVec 512 := BitVec.ofNat 512 (2 ^ 256 - 1)
  (if b.getLsbD 0 then m else 0) ||| (if b.getLsbD 1 then m <<< 256 else 0)
/-- A line with the named sectors taken from other data. -/
def mergeSectors (l d : BitVec 512) (b : BitVec 2) : BitVec 512 := (l &&& ~~~sectorMask b) ||| (d &&& sectorMask b)
def noLine : Nat → CLine := fun _ => {}
/-- The stack of a line number. -/
def lineStack (ln : Nat) : Nat := ln / 2 ^ 30 % 16
/-- Puts a line into a cache, where it becomes the most recently used (R53). -/
def cput {α : Type} (m : FMap α) (k : Nat) (v : α) : FMap α := (k, v) :: m.filter fun p => p.1 != k
/-- The line that a new one displaces: the least recently used of its set, where every way of the set is in use (R53, R54). -/
def victim {α : Type} (same : Nat → Bool) (ways : Nat) (m : FMap α) (k : Nat) : Option Nat :=
  if m.length < ways || mhas m k then none
  else
    let l := m.filter fun p => same p.1
    if l.length < ways then none else l.getLast?.map (·.1)
def State.mscAt (s : State) (ln : Nat) : CLine := mget noLine (s.stack (lineStack ln)).msc ln
def State.setMsc (s : State) (ln : Nat) (l : CLine) : State :=
  s.updStack (lineStack ln) fun x => { x with msc := cput x.msc ln l }
def State.dropMsc (s : State) (ln : Nat) : State := s.updStack (lineStack ln) fun x => { x with msc := mdel x.msc ln }
def State.l2At (s : State) (d ln : Nat) : CLine := mget noLine (s.island d).l2 ln
def State.setL2 (s : State) (d ln : Nat) (l : CLine) : State := s.updIsland d fun x => { x with l2 := cput x.l2 ln l }
def State.l1At (s : State) (c ln : Nat) : CLine := mget noLine (s.far c).l1d ln
/-- Changes an L1D line that is present, or lists it. -/
def State.putL1 (s : State) (c ln : Nat) (l : CLine) : State := s.updFar c fun f => { f with l1d := cput f.l1d ln l }

/-! ### The memory-side cache -/

/-- A back-invalidation request to the host, sent once for each line (R64; DEDUCED, log entry 41). -/
def State.backInvalidate (s : State) (ln : Nat) : State :=
  if s.toHost.any (fun m => m == .backInvalidate ln) then s else { s with toHost := s.toHost ++ [.backInvalidate ln] }
/-- A request to the host to write back its modified copy of a line, of which it may keep a shared one (R64). -/
def State.backRead (s : State) (ln : Nat) : State :=
  if s.toHost.any (fun m => m == .backInvalidate ln || m == .backRead ln) then s else { s with toHost := s.toHost ++ [.backRead ln] }
/-- Two lines fall in one set of a slice: the slices are the homes' (R54). -/
def sameSlice (k ln : Nat) : Bool :=
  homeOf (64 * k) == homeOf (64 * ln) && Config.cacheSet 3 k % 512 == Config.cacheSet 3 ln % 512
/-- The line that a line new to the memory-side cache displaces (R53). -/
def State.mscVictim (s : State) (ln : Nat) : Option Nat := victim (sameSlice ln) 16 (s.stack (lineStack ln)).msc ln
/-- The line whose host copy stands in the way of an access at the memory-side cache: a write waits until the host holds no copy, a
read until a modified copy has been written back; a line that the host holds is never evicted (R64). -/
def State.mscBar (s : State) (ln : Nat) (write : Bool) : Option Nat :=
  let l := s.mscAt ln
  if l.host && (write || !l.shared) then some ln
  else match s.mscVictim ln with
    | some v => if (s.mscAt v).host then some v else none
    | none => none
/-- The hub asks the host for what an access waits for: a read of the line itself leaves the host a shared copy (R64). -/
def State.askHostOff (s : State) (x ln : Nat) (write : Bool) : State :=
  if x = ln && !write then s.backRead x else s.backInvalidate x
/-- Writes the dirty sectors of an MSC line to the banks; the copy stays, clean (R54, R56). Those of a lost home are lost (R384). -/
def State.mscClean (s : State) (ln : Nat) : State :=
  let l := s.mscAt ln
  let lost := s.homeLost (homeOf (64 * ln))
  let out : BitVec 2 := if lost then 0 else l.dirty
  let s := s.errorOut 4 (lineStack ln) ln l.dirty none
  let s := if lost && l.dirty != 0 then s.lostWrite (32 * (sectorRange ln l.dirty).1) else s
  let s := s.coverFresh 5 0 ln out
  let s := if out.getLsbD 0 then { s with mem := memWrite s.mem (64 * ln) 32 (l.data.extractLsb' 0 256).toNat } else s
  let s := if out.getLsbD 1 then { s with mem := memWrite s.mem (64 * ln + 32) 32 (l.data.extractLsb' 256 256).toNat } else s
  if mhas (s.stack (lineStack ln)).msc ln then s.setMsc ln { l with dirty := 0 } else s
/-- Writes back and invalidates an MSC line (R40, R56). -/
def State.mscDrop (s : State) (ln : Nat) : State :=
  if mhas (s.stack (lineStack ln)).msc ln then ((s.mscClean ln).dropMsc ln).wake true ln 2 else s
/-- Makes way for a line that is new to the memory-side cache (R53, R56). -/
def State.mscMake (s : State) (ln : Nat) : State :=
  match s.mscVictim ln with
  | some v => s.mscDrop v
  | none => s
/-- A line with the named sectors filled from the banks. -/
def State.filledMsc (s : State) (ln : Nat) (need : BitVec 2) : CLine :=
  let l := s.mscAt ln
  let miss := need &&& ~~~l.valid
  if miss = 0 then l
  else { l with data := mergeSectors l.data (BitVec.ofNat 512 (memRead s.mem (64 * ln) 64)) miss, valid := l.valid ||| miss }
/-- The sectors that an access needs and that the MSC line lacks. -/
def State.mscMiss (s : State) (ln : Nat) (need : BitVec 2) : BitVec 2 := need &&& ~~~(s.mscAt ln).valid
/-- The flush before an access of `n` bytes at the memory-side cache: a fill touches its whole line (R143). -/
def State.flushTouch (s : State) (pa n : Nat) (need : BitVec 2) : State :=
  if s.mscMiss (lineOf pa) need = 0 then s.flushFor pa n else s.flushFor (64 * lineOf pa) 64
/-- The check of the codes of the sectors that an access reads, in the memory-side cache or the banks (R356). -/
def State.checkMsc (s : State) (ln : Nat) (need : BitVec 2) (kind : Nat) : Res Unit :=
  if s.bad.isEmpty then .ok () s
  else (s.checkSectors 4 (lineStack ln) ln (need &&& (s.mscAt ln).valid) kind).bind fun _ s =>
    s.checkSectors 5 0 ln (s.mscMiss ln need) kind
/-- Reads `n` bytes at the memory-side cache; the line is allocated there (R56, R59). Waits on the host (R64). -/
def State.mscRead (s : State) (pa n kind : Nat) : Res (BitVec 512) :=
  if s.homeLost (homeOf pa) then memoryError s pa 5 kind
  else
    let ln := lineOf pa
    match s.mscBar ln false with
    | some x => .wait (s.askHostOff x ln false)
    | none =>
      (s.checkMsc ln (sectorsOf (pa % 64) n) kind).bind fun _ s =>
        let s := (s.mscMake ln).flushTouch pa n (sectorsOf (pa % 64) n)
        let l := s.filledMsc ln (sectorsOf (pa % 64) n)
        let s := s.coverFresh 4 (lineStack ln) ln (s.mscMiss ln (sectorsOf (pa % 64) n))
        .ok (getBytes l.data (pa % 64) n) (s.setMsc ln l)
/-- Reads the named sectors of a line for an island cache: the memory-side cache or the banks give them, and nothing is allocated
(R59: .c and .g allocate in the island's caches only). -/
def State.mscPeek (s : State) (ln : Nat) (need : BitVec 2) (kind : Nat) : Res (BitVec 512) :=
  if s.homeLost (homeOf (64 * ln)) then memoryError s (64 * ln + (if need = 2 then 32 else 0)) 5 kind
  else if (s.mscAt ln).host && !(s.mscAt ln).shared then .wait (s.backRead ln)
  else
    (s.checkMsc ln need kind).bind fun _ s =>
      let s := if s.mscMiss ln need = 0 then s else s.flushFor (64 * ln) 64
      .ok (s.filledMsc ln need).data s
/-- The line after a write of `n` bytes at the memory-side cache. -/
def State.writtenMsc (s : State) (pa n : Nat) (v : BitVec 512) : CLine :=
  let off := pa % 64
  let sec := sectorsOf off n
  let l := s.filledMsc (lineOf pa) (sec &&& ~~~sectorsCovered off n)
  { l with data := putBytes l.data off n v, valid := l.valid ||| sec, dirty := l.dirty ||| sec }
/-- Writes `n` bytes at the memory-side cache. -/
def State.mscWrite (s : State) (pa n kind : Nat) (v : BitVec 512) : Res Unit :=
  if s.homeLost (homeOf pa) then memoryError s pa 5 kind
  else
    let ln := lineOf pa
    let part := sectorsOf (pa % 64) n &&& ~~~sectorsCovered (pa % 64) n
    match s.mscBar ln true with
    | some x => .wait (s.askHostOff x ln true)
    | none =>
      (s.checkMsc ln part kind).bind fun _ s =>
        let s := (s.mscMake ln).flushTouch pa n part
        let s := s.coverFresh 4 (lineStack ln) ln (s.mscMiss ln part ||| sectorsCovered (pa % 64) n)
        .ok () ((s.setMsc ln (s.writtenMsc pa n v)).wake true ln 1)
/-- Sectors written back from an island cache to the MSC: a write performed there (R110). The caller has waited for the host (R64). -/
def State.mscMerge (s : State) (ln : Nat) (d : BitVec 512) (sec : BitVec 2) : State :=
  if sec = 0 then s
  else if s.homeLost (homeOf (64 * ln)) then s.log 1 5 3 (lineStack ln) (64 * ln) 0xFF (lineStack ln)
  else
    let s := (s.mscMake ln).coverFresh 4 (lineStack ln) ln sec
    let s := if sec.getLsbD 0 then s.flushFor (64 * ln) 32 else s
    let s := if sec.getLsbD 1 then s.flushFor (64 * ln + 32) 32 else s
    let l := s.mscAt ln
    (s.setMsc ln { l with data := mergeSectors l.data d sec, valid := l.valid ||| sec, dirty := l.dirty ||| sec }).wake true ln 1

/-! ### Island caches (R53, R56, R59) -/

/-- The far cores of a die that hold an L1D copy of a line. -/
def State.l1Holders (s : State) (d ln : Nat) : List Nat :=
  (s.fars.filter fun p => p.1 / 256 == d && mhas p.2.l1d ln).map (·.1)
/-- Forgets a line in a parameter-block cache (R282). -/
def State.pbForget (s : State) (c ln : Nat) : State :=
  if (s.far c).pbCache.any (fun b => b == ln) then s.updFar c fun f => { f with pbCache := f.pbCache.filter fun b => b != ln } else s
/-- The agent whose access has caused the write-back of a core's line, when the line is its own (R356). -/
def ownLine (own : Option Agent) (c : Nat) : Option Agent := own.filter fun a => a == .far c
/-- Writes back a core's dirty sectors of a line to the island L2, and drops the copy if asked (R54); `own` is the agent whose access
causes it, none of an eviction (R356). -/
def State.l1Clean (s : State) (c ln : Nat) (drop : Bool) (own : Option Agent := none) : State :=
  let l := s.l1At c ln
  let d := dieOf c
  let u := s.l2At d ln
  let s := s.errorOut 1 c ln l.dirty (ownLine own c)
  let s := if l.dirty = 0 then s
    else (s.coverFresh 3 d ln l.dirty).setL2 d ln { u with data := mergeSectors u.data l.data l.dirty, valid := u.valid ||| l.dirty, dirty := u.dirty ||| l.dirty }
  let s := s.pbForget c ln
  if drop then s.updFar c fun f => { f with l1d := mdel f.l1d ln }
  else if l.dirty = 0 then s else s.putL1 c ln { l with dirty := 0 }
/-- Lists an L1D line: where its set is full, the least recently used line of the set is written back to the L2 and dropped (R53). -/
def State.setL1 (s : State) (c ln : Nat) (l : CLine) : State :=
  (match victim (fun k => Config.cacheSet 1 k % 128 == Config.cacheSet 1 ln % 128) 4 (s.far c).l1d ln with
    | some v => s.l1Clean c v true
    | none => s).putL1 c ln l
/-- Writes back, and drops if asked, every L1D copy of a line in a die. -/
def State.l1CleanAll (s : State) (d ln : Nat) (drop : Bool) (own : Option Agent := none) : State :=
  (s.l1Holders d ln).foldl (fun s c => s.l1Clean c ln drop own) s
/-- As `l1CleanAll` for every core but one. -/
def State.l1CleanOthers (s : State) (c ln : Nat) (drop : Bool) : State :=
  (s.l1Holders (dieOf c) ln).foldl (fun s x => if x = c then s else s.l1Clean x ln drop) s
/-- Whether a line is of the host region. -/
def lineHost (ln : Nat) : Bool := isHost (64 * ln)
/-- Sectors of a line of the host region go to host memory, which performs them when it answers (R65, R69, R104). -/
def State.lineToHost (s : State) (d ln : Nat) (data : BitVec 512) (sec : BitVec 2) : State :=
  if sec = 0 then s
  else { s with toHost := s.toHost ++ [.lineWrite ln data sec]
                hostReqs := s.hostReqs ++ [{ src := 256 * d, pa := 64 * ln, n := 64, write := some data, cached := true, need := sec }] }
/-- A write-back of a host line that the host has not yet performed. -/
def State.lineWriting (s : State) (ln : Nat) : Bool := s.hostReqs.any fun r => r.cached && r.write.isSome && r.pa == 64 * ln
/-- The agent whose access has caused the write-back of an island L2's line, when its own stores have made the line dirty (R356). -/
def State.ownDirty (s : State) (own : Option Agent) (ln : Nat) : Option Agent :=
  own.filter fun a => match a with
    | .far c => (s.far c).dirtied.any fun x => x / 2 == ln
    | _ => false
/-- Writes an L2 line's dirty sectors to the MSC or to host memory; drops the copy if asked (R54, R65). -/
def State.l2Clean (s : State) (d ln : Nat) (drop : Bool) (own : Option Agent := none) : State :=
  let u := s.l2At d ln
  let s := s.errorOut 3 d ln u.dirty (s.ownDirty own ln)
  let s := if u.dirty = 0 then s else if lineHost ln then s.lineToHost d ln u.data u.dirty else s.mscMerge ln u.data u.dirty
  if drop then s.updIsland d fun x => { x with l2 := mdel x.l2 ln }
  else if u.dirty = 0 then s else s.setL2 d ln { u with dirty := 0 }
/-- Every island copy of a line is written back to the MSC, and invalidated if asked (R59). The caller has waited for the host. -/
def State.islandClean (s : State) (d ln : Nat) (drop : Bool) (own : Option Agent := none) : State :=
  (s.l1CleanAll d ln drop own).l2Clean d ln drop own
/-- Whether the island holds any copy of a line. -/
def State.islandHolds (s : State) (d ln : Nat) : Bool := mhas (s.island d).l2 ln || !(s.l1Holders d ln).isEmpty
/-- Whether the island holds a dirty copy of a line. -/
def State.islandDirty (s : State) (d ln : Nat) : Bool :=
  (s.l2At d ln).dirty != 0 || (s.l1Holders d ln).any fun c => (s.l1At c ln).dirty != 0
/-- The line whose host copy stands in the way of the write-back of an island's copies (R64). -/
def State.cleanBar (s : State) (d ln : Nat) : Option Nat :=
  if !lineHost ln && !s.homeLost (homeOf (64 * ln)) && s.islandDirty d ln then s.mscBar ln true else none
/-- As `islandClean`, after the wait for the host that a write-back calls for (R64). -/
def State.cleanTry (s : State) (d ln : Nat) (drop : Bool) (own : Option Agent := none) : Res Unit :=
  match s.cleanBar d ln with
  | some x => .wait (s.backInvalidate x)
  | none => .ok () (s.islandClean d ln drop own)
/-- The ways of an island L2 that the resource map leaves in use (R53, R71, R373). -/
def State.l2Ways (s : State) (d : Nat) : Nat := popcount (bits (s.dieWord d 1) 31 16) 16
/-- Makes way in an island L2 for a line that is new to it: the least recently used line of the set goes, its L1D copies first (R53, R56). -/
def State.l2Room (s : State) (d ln : Nat) : Res Unit :=
  match victim (fun k => Config.cacheSet 2 k % 65536 == Config.cacheSet 2 ln % 65536) (s.l2Ways d) (s.island d).l2 ln with
  | some v => (s.cleanTry d v true).bind fun _ s => .ok () (s.wake false v 2)
  | none => .ok () s

/-! ### Lines of the host region, and the host-coherence directory (R65) -/

/-- Recalls a host line from a die on behalf of another: write-back, and invalidation if asked. -/
def State.recallLine (s : State) (d ln : Nat) (drop : Bool) : State :=
  let s := s.islandClean d ln drop
  let u := s.l2At d ln
  if drop then s.wake false ln 1 else if u.owned then s.setL2 d ln { u with owned := false } else s
/-- Whether the hub cannot snoop a die now: its link is down or wakes (R129). -/
def State.linkBusy (s : State) (d : Nat) : Bool :=
  let x := s.island d
  x.linkLow || x.linkWaking
/-- A recall of a line from one die: performed, or held while the die's link wakes (R129). A die out of reach has nothing to give (R130). -/
def State.recallOne (s : State) (d ln : Nat) (drop : Bool) : Res Unit :=
  if s.dstate d ≠ 0 then .ok () s
  else if s.linkBusy d then
    .wait (if (s.island d).heldReqs.any (fun r => r == .recall ln drop) then s
      else s.updIsland d fun x => { x with heldReqs := x.heldReqs ++ [.recall ln drop], linkWaking := x.linkWaking || x.linkLow })
  else .ok () (s.recallLine d ln drop)
/-- Other dies' copies of a host line: before a read their dirty copies and their ownership go, before a write every copy (R65). -/
def State.hostElsewhere (s : State) (d ln : Nat) (drop : Bool) : Res Unit :=
  (List.range 16).foldl (fun (r : Res Unit) e =>
    r.bind fun _ s =>
      if e = d || !s.islandHolds e ln || (!drop && !s.islandDirty e ln && !(s.l2At e ln).owned) then .ok () s else s.recallOne e ln drop)
    (.ok () s)
/-- An entry of the host-coherence directory that still records something (R65). -/
def State.dirLive (s : State) (ln : Nat) : Bool :=
  if lineHost ln then (List.range 16).any (fun d => s.islandHolds d ln) || s.lineWriting ln else (s.mscAt ln).host
/-- The directory records a line, which becomes its most recently used (R65). -/
def State.dirPut (s : State) (ln : Nat) : State := s.updHub fun h => { h with dir := ln :: h.dir.filter fun x => x != ln }
/-- Makes way in the directory for a new entry: the least recently used entry of a full set is recalled first (R65). -/
def State.dirRoom (s : State) (ln : Nat) : Res Unit :=
  if s.hub.dir.length < 16 || s.hub.dir.any (fun x => x == ln) then .ok () s
  else
    let live := s.hub.dir.filter s.dirLive
    let same := live.filter fun x => Config.cacheSet 4 x % 16384 == Config.cacheSet 4 ln % 16384
    if same.length < 16 then .ok () (s.updHub fun h => { h with dir := live })
    else match same.getLast? with
      | none => .ok () s
      | some v =>
        if lineHost v then
          (s.hostElsewhere 16 v true).bind fun _ s =>
            if s.lineWriting v then .wait s else .ok () (s.updHub fun h => { h with dir := h.dir.filter fun x => x != v })
        else .wait (s.backInvalidate v)
/-- A request to the host for sectors of a line, or for its ownership, made once (R268, R65). -/
def State.askHost (s : State) (src ln : Nat) (need : BitVec 2) (own : Bool) : State :=
  if s.hostReqs.any (fun r => r.cached && r.write.isNone && r.src / 256 == src / 256 && r.pa == 64 * ln &&
      need &&& ~~~r.need == 0 && (r.own || !own)) then s
  else { s with hostReqs := s.hostReqs ++ [{ src := src, pa := 64 * ln, n := 64, write := none, cached := true, need := need, own := own }] }
/-- The L2 line with the named sectors valid: filled from the MSC or the banks, or asked from the host (R54, R56, R64, R65). -/
def State.l2Fill (s : State) (core ln : Nat) (need : BitVec 2) (kind : Nat) : Res CLine :=
  let d := dieOf core
  (s.l2Room d ln).bind fun _ s =>
    let u := s.l2At d ln
    let miss := need &&& ~~~u.valid
    (s.checkSectors 3 d ln (need &&& u.valid) kind).bind fun _ s =>
      if miss = 0 then .ok u (s.setL2 d ln u)
      else if lineHost ln then
        (s.dirRoom ln).bind fun _ s => (s.hostElsewhere d ln false).bind fun _ s => .wait (s.askHost core ln miss false)
      else
        (s.mscPeek ln miss kind).bind fun v s =>
          let u := { u with data := mergeSectors u.data v miss, valid := u.valid ||| miss }
          .ok u ((s.coverFresh 3 d ln miss).setL2 d ln u)
/-- The ownership of a host line before a write: the device obtains it under CXL.cache, and no other die holds the line (R65, R98,
R106). It fills no sector (R54). -/
def State.own (s : State) (core ln : Nat) : Res Unit :=
  let d := dieOf core
  if lineHost ln && !(s.l2At d ln).owned then
    (s.l2Room d ln).bind fun _ s => (s.dirRoom ln).bind fun _ s => (s.hostElsewhere d ln true).bind fun _ s => .wait (s.askHost core ln 0 true)
  else .ok () s

/-- A load at the L1D (.c, R59). -/
def State.loadC (s : State) (core pa n kind : Nat) : Res (BitVec 512) :=
  let ln := lineOf pa
  let sec := sectorsOf (pa % 64) n
  let l := s.l1At core ln
  let miss := sec &&& ~~~l.valid
  (s.checkSectors 1 core ln (sec &&& l.valid) kind).bind fun _ s =>
    if miss = 0 then .ok (getBytes l.data (pa % 64) n) (s.putL1 core ln l)
    else
      ((s.l1CleanOthers core ln false).l2Fill core ln miss kind).bind fun u s =>
        let l := { l with data := mergeSectors l.data u.data miss, valid := l.valid ||| miss }
        .ok (getBytes l.data (pa % 64) n) ((s.coverFresh 1 core ln miss).setL1 core ln l)
/-- A load at the island L2 (.g). -/
def State.loadG (s : State) (core pa n kind : Nat) (own : Option Agent := none) : Res (BitVec 512) :=
  let ln := lineOf pa
  ((s.l1CleanAll (dieOf core) ln false own).l2Fill core ln (sectorsOf (pa % 64) n) kind).bind fun u s =>
    .ok (getBytes u.data (pa % 64) n) s
/-- A load at the MSC with the island's dirty copies written back first (.m). -/
def State.loadM (s : State) (d pa n kind : Nat) (own : Option Agent := none) : Res (BitVec 512) :=
  (s.cleanTry d (lineOf pa) false own).bind fun _ s => s.mscRead pa n kind
/-- Records the sectors a store made dirty (R104). -/
def State.noteDirty (s : State) (core pa n : Nat) : State :=
  let a := pa / 32
  let b := (pa + n - 1) / 32
  s.updFar core fun f => { f with dirtied := (f.dirtied.filter fun x => x != a && x != b) ++ (if a = b then [a] else [a, b]) }
/-- A store at the L1D (.c, R54, R59). -/
def State.storeC (s : State) (core pa n : Nat) (v : BitVec 512) : Res Unit :=
  let ln := lineOf pa
  let off := pa % 64
  let sec := sectorsOf off n
  (s.own core ln).bind fun _ s =>
    let s := s.l1CleanOthers core ln true
    let l := s.l1At core ln
    let need := sec &&& ~~~sectorsCovered off n &&& ~~~l.valid
    (s.l2Fill core ln need kStore).bind fun u s =>
      let d := mergeSectors l.data u.data need
      let l := { l with data := putBytes d off n v, valid := l.valid ||| sec, dirty := l.dirty ||| sec }
      let s := s.coverFresh 1 core ln (need ||| sectorsCovered off n)
      .ok () ((((s.setL1 core ln l).noteDirty core pa n).pbForget core ln).wake false ln 1)
/-- A store at the island L2 (.g): every L1D copy, the issuer's too, is written back and invalidated. -/
def State.storeG (s : State) (core pa n : Nat) (v : BitVec 512) (own : Option Agent := none) : Res Unit :=
  let ln := lineOf pa
  let off := pa % 64
  let sec := sectorsOf off n
  (s.own core ln).bind fun _ s =>
    ((s.l1CleanAll (dieOf core) ln true own).l2Fill core ln (sec &&& ~~~sectorsCovered off n) kStore).bind fun u s =>
      let u := { u with data := putBytes u.data off n v, valid := u.valid ||| sec, dirty := u.dirty ||| sec }
      let s := s.coverFresh 3 (dieOf core) ln (sectorsCovered off n)
      .ok () ((((s.setL2 (dieOf core) ln u).noteDirty core pa n).pbForget core ln).wake false ln 1)
/-- A store at the MSC with every island copy written back and invalidated first (.m). -/
def State.storeM (s : State) (d pa n kind : Nat) (v : BitVec 512) (own : Option Agent := none) : Res Unit :=
  (s.cleanTry d (lineOf pa) true own).bind fun _ s =>
    (s.mscWrite pa n kind v).bind fun _ s => .ok () (s.wake false (lineOf pa) 1)
/-- An atomic at the MSC; `f` maps the old value to the new one, `none` for no write (R106, R272). -/
def State.amoM (s : State) (d pa n : Nat) (f : Nat → Option Nat) (own : Option Agent := none) : Res Nat :=
  let ln := lineOf pa
  match s.mscBar ln true with
  | some x => .wait (s.backInvalidate x)
  | none =>
    (s.cleanTry d ln true own).bind fun _ s =>
      (s.mscRead pa n kAtomic).bind fun v s =>
        match f v.toNat with
        | none => .ok v.toNat s
        | some w => ((s.wake false ln 1).mscWrite pa n kAtomic (BitVec.ofNat 512 w)).bind fun _ s => .ok v.toNat s
/-- An atomic at the MSC that leaves island copies alone: that of a completion counter (R45), and that of a near context at a scope
narrower than PACKAGE, whose copies the written-line log handles as for its stores (R60, R106, R119). -/
def State.amoNear (s : State) (pa n : Nat) (f : Nat → Option Nat) : Res Nat :=
  match s.mscBar (lineOf pa) true with
  | some x => .wait (s.backInvalidate x)
  | none =>
    (s.mscRead pa n kAtomic).bind fun v s =>
      match f v.toNat with
      | none => .ok v.toNat s
      | some w => (s.mscWrite pa n kAtomic (BitVec.ofNat 512 w)).bind fun _ s => .ok v.toNat s
/-- An atomic at the island L2 (R106). -/
def State.amoG (s : State) (core pa n : Nat) (f : Nat → Option Nat) : Res Nat :=
  let ln := lineOf pa
  let d := dieOf core
  (s.own core ln).bind fun _ s =>
    ((s.l1CleanAll d ln true (some (.far core))).l2Fill core ln (sectorsOf (pa % 64) n) kAtomic).bind fun u s =>
      let old := (getBytes u.data (pa % 64) n).toNat
      match f old with
      | none => .ok old s
      | some w =>
        let sec := sectorsOf (pa % 64) n
        let u := { u with data := putBytes u.data (pa % 64) n (BitVec.ofNat 512 w), dirty := u.dirty ||| sec }
        .ok old ((((s.setL2 d ln u).noteDirty core pa n).pbForget core ln).wake false ln 1)

/-! ### The host region performed as .u (R62, R268) -/

/-- A load that the instruction in execution has made already, and that is performed once only. -/
def Hart.loadDone (h : Hart) (acc : Acc) (n : Nat) : Option HostLoad := h.hostLds.find? fun l => l.acc == acc && l.n == n
/-- What it has come to. -/
def HostLoad.result (l : HostLoad) (n : Nat) (s : State) : Res (BitVec 512) :=
  match l.ans with
  | some v => .ok (getBytes v 0 n) s
  | none => .wait s
/-- A .u load of the host region: asked once for each execution of its instruction, then answered by HOST_CACHE_RESPONSE (R55). -/
def State.hostLoad (s : State) (a : Agent) (acc : Acc) (n : Nat) : Res (BitVec 512) :=
  let h := s.hart a
  match h.loadDone acc n with
  | some l => l.result n s
  | none =>
    let s := s.setHart a { h with hostLds := h.hostLds ++ [{ acc := acc, n := n }] }
    .wait { s with hostReqs := s.hostReqs ++ [{ src := agentKey a, pa := acc.pa, n := n, write := none, cached := false }] }
/-- A .u store of the host region: sent to the host, performed when the host answers. -/
def State.hostStore (s : State) (a : Agent) (pa n : Nat) (rel : Option Scope) (v : BitVec 512) : State :=
  { s with hostReqs := s.hostReqs ++ [{ src := agentKey a, pa := pa, n := n, write := some v, cached := false, rel := rel }] }

/-! ### Releases at PACKAGE and SYSTEM scope (R104) -/

/-- Writes one sector that a store of a core made dirty, and that still is, back to the MSC or to host memory; a write-back at the MSC
waits for the host (R64). -/
def State.sectorOut (s : State) (core sec : Nat) (host : Bool) : Res Unit :=
  let ln := sec / 2
  let b : BitVec 2 := if sec % 2 = 0 then 1 else 2
  let d := dieOf core
  let l := s.l1At core ln
  let dirty := (l.dirty ||| (s.l2At d ln).dirty) &&& b
  if dirty = 0 || (lineHost ln && !host) then .ok () s
  else match (if lineHost ln || s.homeLost (homeOf (64 * ln)) then none else s.mscBar ln true) with
    | some x => .wait (s.backInvalidate x)
    | none =>
      let s := s.errorOut 1 core ln (l.dirty &&& b) (some (.far core))
      let s := s.pbForget core ln
      let s := if l.dirty &&& b = 0 then s
        else
          let u := s.l2At d ln
          ((s.coverFresh 3 d ln b).setL2 d ln { u with data := mergeSectors u.data l.data b, valid := u.valid ||| b, dirty := u.dirty ||| b }).putL1 core ln
            { l with dirty := l.dirty &&& ~~~b }
      let u := s.l2At d ln
      if u.dirty &&& b = 0 then .ok () s
      else
        let s := s.errorOut 3 d ln b (some (.far core))
        let s := if lineHost ln then s.lineToHost d ln u.data b else s.mscMerge ln u.data b
        .ok () (s.setL2 d ln { u with dirty := u.dirty &&& ~~~b })
/-- The write-backs of R104 for a far core; at SYSTEM scope those of the host region too, which the host must have performed. -/
def State.writeBacks (s : State) (core : Nat) (host : Bool) : Res Unit :=
  ((s.far core).dirtied.foldl (fun (r : Res Unit) x => r.bind fun _ s => s.sectorOut core x host) (.ok () s)).bind fun _ s =>
    let s := if (s.far core).dirtied.isEmpty then s
      else s.updFar core fun g => { g with dirtied := g.dirtied.filter fun x => lineHost (x / 2) && !host }
    if host && s.hostReqs.any (fun r => r.cached && r.write.isSome && r.src == 256 * dieOf core) then .wait s else .ok () s
/-- The write-backs of R104 for any agent: only far cores have island caches. -/
def State.releaseLines (s : State) (a : Agent) (host : Bool) : Res Unit :=
  match a with
  | .far c => s.writeBacks c host
  | _ => .ok () s

end Sys2Proof.Machine
end

