-- ==== Sys2Proof/Machine/Alias.lean ====
section
/-! DEFINITION. The alias windows: bank operations, ALLBANK.FILL, IDXSUM and completion counters; and the format windows
over a far core's array (R35 to R52, R139 to R149). -/
namespace Sys2Proof.Machine

/-- The kind of a scalar access for the checks of R37, R38 and R46. -/
inductive AccKind where | load | store | atomic | waitm
  deriving DecidableEq, Repr

/-- The first reason of R38 that an alias access meets, after the reserved op. -/
def aliasFlaw (op n : Nat) (k : AccKind) : Option Nat :=
  if 11 ≤ op then some 1
  else if op = 0 then none
  else if op ≤ 7 then
    match k with
    | .load => if n ≤ 8 then none else some 2
    | .store => if n % bankElemBytes op = 0 ∧ 0 < n then none else some 2
    | _ => some 5
  else if op ≤ 9 then
    match k with
    | .store => if n = 64 then none else some 2
    | _ => some 5
  else
    match k with
    | .load | .waitm => if n = 8 then none else some 2
    | .store => if n = 8 ∨ n = 64 then none else some 2
    | .atomic => some 5

/-! ### Format windows (R46 to R51) -/

/-- Bus element bits, array element bits and reach of a window (R48). -/
def winBus (w : Nat) : Nat := if w = 1 ∨ w = 4 then 4 else if w = 6 then 32 else 8
def winArr (w : Nat) : Nat := if w = 0 ∨ w = 4 then 8 else if w = 5 then 32 else 16
def winReach (w : Nat) : Nat := if w = 1 ∨ w = 5 then 0x40000 else if w = 2 ∨ w = 3 ∨ w = 4 then 0x80000 else 0x100000
/-- The first of reasons 5, 2 and 6 that a format-window access meets (R46, R48 to R50). -/
def windowFlaw (w off n : Nat) (k : AccKind) : Option Nat :=
  if k = .atomic ∨ k = .waitm ∨ (w = 5 ∧ k = .load) then some 5
  else if (w = 5 ∧ n ≠ 64) ∨ (w = 6 ∧ n % 4 ≠ 0) then some 2
  else if winReach w < off + n then some 6
  else none
/-- A row of an array. -/
def Arr.row (a : Arr) (r : Nat) : BitVec 256 := mget (fun _ => 0) a.rows r
def Arr.setRow (a : Arr) (r : Nat) (v : BitVec 256) : Arr := { a with rows := mset 0 a.rows r v }
/-- Array element `i` of `s` bits (R47). -/
def Arr.elem (a : Arr) (s i : Nat) : Nat := (a.row (i * s / 256)).toNat / 2 ^ (i * s % 256) % 2 ^ s
def Arr.setElem (a : Arr) (s i v : Nat) : Arr :=
  let r := i * s / 256
  let m : BitVec 256 := BitVec.ofNat 256 (2 ^ s - 1) <<< (i * s % 256)
  a.setRow r ((a.row r &&& ~~~m) ||| ((BitVec.ofNat 256 v <<< (i * s % 256)) &&& m))
/-- The write side of a window (R48). -/
def winWriteConv (w x : Nat) : Nat :=
  match w with
  | 1 => (roundF (ql4Val x) .rne .bf16 false).1
  | 2 => (roundF (decodeElem .e4m3 x) .rne .fp16 false).1
  | 3 => (roundF (decodeElem .e5m2 x) .rne .fp16 false).1
  | 4 => wrapInt 8 (intOf .i4 x)
  | 6 => (roundF (decodeElem .fp32 x) .rne .bf16 false).1
  | _ => x
/-- The read side of a window (R48, R90); a NaN comes out as the canonical one (R78). -/
def winReadConv (w x : Nat) : Nat :=
  match w with
  | 1 => (qcode (decodeElem .bf16 x)).1
  | 2 => (roundF (decodeElem .fp16 x) .rne .e4m3 true).1
  | 3 => (roundF (decodeElem .fp16 x) .rne .e5m2 false).1
  | 4 => wrapInt 4 (max (-8) (min 7 (intOf .i8 x)))
  | 6 => if x / 2 ^ 7 % 256 = 255 ∧ x % 2 ^ 7 ≠ 0 then 0x7FC00000 else x * 2 ^ 16
  | _ => x
/-- Element `j` of an SC16 block (R50). -/
def sc16Elem (v : BitVec 512) (j : Nat) : Nat :=
  (roundF (xmul (ql4Val (v.extractLsb' (4 * j) 4).toNat) (sc16Val (v.extractLsb' 256 16).toNat)).1 .rne .fp32 false).1
/-- Writes `n` bytes at a window offset (R48 to R50). -/
def Arr.winWrite (a : Arr) (w off n : Nat) (v : BitVec 512) : Arr :=
  if w = 5 then (List.range 64).foldl (fun a j => a.setElem 32 (off + j) (sc16Elem v j)) a
  else
    let e := winBus w
    (List.range (8 * n / e)).foldl
      (fun a i => a.setElem (winArr w) (8 * off / e + i) (winWriteConv w (v.toNat / 2 ^ (e * i) % 2 ^ e))) a
/-- Reads `n` bytes at a window offset (R48). -/
def Arr.winRead (a : Arr) (w off n : Nat) : BitVec 512 :=
  let e := winBus w
  BitVec.ofNat 512 ((List.range (8 * n / e)).foldl
    (fun acc i => acc + winReadConv w (a.elem (winArr w) (8 * off / e + i)) * 2 ^ (e * i)) 0)
/-- The rows of the array that `n` bytes at a window offset reach (R48). -/
def winRows (w off n : Nat) : Nat × Nat :=
  let lo := 8 * off / winBus w
  let hi := (8 * (off + n) + winBus w - 1) / winBus w
  if w = 5 then (off / 8, (off + 63) / 8) else (lo * winArr w / 256, (hi * winArr w - 1) / 256)
/-- The parity of rows of an array that a window read, an ASPILL or a save reads (R356): MEMORY_ERROR of unit 6 at the first bad row,
whose address is that of window 0 (DEDUCED, log entry 49). -/
def State.checkRows (s : State) (core lo hi kind : Nat) : Res Unit :=
  match s.badIn 6 core lo hi with
  | none => .ok () s
  | some r => memoryError (s.freshen 6 core r) (2 ^ 49 + core * 2 ^ 23 + 32 * r) 6 kind core
/-- Columns of a lane, as a number, in the lanes of a row that are named. -/
def laneCols (nib cols w : Nat) : BitVec 256 :=
  (List.range 4).foldl (fun acc l => if tb nib l then acc ||| BitVec.ofNat 256 (cols * 2 ^ (l * w)) else acc) 0
/-- The lanes of row `r` on which a running macro acts. -/
def Midway.lanesAt (m : Midway) (r : Nat) : Nat := (m.sel.extractLsb' (4 * r) 4).toNat
/-- Rows with the columns that a running macro writes, in the lanes given, at free values (DESIGN CHOICE, log entry 61). -/
def Midway.blur (m : Midway) (t : Nat) (lanes : List (Nat × Nat)) (a : Arr) : Arr :=
  lanes.foldl (fun a p =>
    let k := laneCols p.2 m.cols m.w
    a.setRow p.1 ((a.row p.1 &&& ~~~k) ||| (Config.midRow t p.1 &&& k))) a
/-- Another agent writes columns of a row while a macro runs. -/
def Midway.strike (m : Midway) (r : Nat) (cols : BitVec 256) : Midway :=
  { m with hit := mput m.hit r (mget (fun _ => 0) m.hit r ||| cols) }
/-- The rows, from the first to the last, that `n` bytes at a window offset reach. -/
def winRowList (w off n : Nat) : List Nat :=
  let p := winRows w off n
  (List.range (p.2 + 1 - p.1)).map (p.1 + ·)
/-- The columns of row `r` that `n` bytes at a window offset reach (R47 to R50). -/
def winCols (w off n r : Nat) : BitVec 256 :=
  let s := winArr w
  let lo := (if w = 5 then off else 8 * off / winBus w) * s - 256 * r
  let hi := min 256 ((if w = 5 then off + 64 else (8 * (off + n) + winBus w - 1) / winBus w) * s - 256 * r)
  BitVec.ofNat 256 (2 ^ hi - 2 ^ lo)
/-- An access by a window to a core's array, between two passes of what runs there (R51). Pass instructions run cycle by cycle, so that the
array holds what stands between their passes. -/
def State.winSee (s : State) (core w off n : Nat) : BitVec 512 × State :=
  let f := s.far core
  match f.mid with
  | none => (f.arr.winRead w off n, s)
  | some m => ((m.blur s.ticks ((winRowList w off n).map fun r => (r, m.lanesAt r)) f.arr).winRead w off n, s.tick)
def State.winPut (s : State) (core w off n : Nat) (v : BitVec 512) : State :=
  s.updFar core fun f => { f with
    arr := f.arr.winWrite w off n v
    mid := f.mid.map fun m => (winRowList w off n).foldl (fun m r => m.strike r (winCols w off n r)) m }
def State.winStore (s : State) (pa n : Nat) (v : BitVec 512) : State := s.winPut (windowCore pa) (windowNo pa) (pa % 2 ^ 20) n v

/-! ### Acceptance by the fabric (R39, R145, R148) -/

/-- Whether the queue a command needs can take it (R145, R148). A fill that runs still has its entry, an IDXSUM that runs has left its
queue (DESIGN CHOICE, log entry 50). -/
def State.fabricRoom (s : State) (op off : Nat) : Bool :=
  let onWay := (s.fabric.filter fun c => c.op == op && (if op = 8 then stackOf c.pa == stackOf off else homeOf c.pa == homeOf off)).length
  if op = 8 then (s.stack (stackOf off)).waveQ.length + onWay < 8
  else if op = 9 then (s.home (homeOf off)).idxQ.length + onWay < 16
  else true
/-- Every alias command of a source has been performed (R118). -/
def State.aliasDone (s : State) (a : Agent) : Bool :=
  let k := agentKey a
  !(s.fabric.any fun c => c.src == k) && !(s.cmds.any fun p => p.2.src == k && !p.2.done)
/-- Whether the order of R100 and R118 lets an alias store leave now: one of op 10 is kept after every earlier alias command of its
source, and one of ops 1 to 9 after every earlier one of op 10. -/
def State.aliasTurn (s : State) (a : Agent) (op : Nat) : Bool :=
  if op = 10 then s.aliasDone a else !(s.fabric.any fun c => c.src == agentKey a && c.op == 10)
/-- The fabric accepts an alias store of ops 1 to 10; floating adds take their sequence numbers (R39, R142); a command of
op 8 or 9 takes the source's slot for its stack (R45). The command's number is `nextId`. A source's stores are accepted in program
order, so its elements are numbered in that order (DEDUCED, log entry 51). -/
def State.fabricAccept (s : State) (a : Agent) (pa n : Nat) (v : BitVec 512) (page size : Nat) : State :=
  let op := aliasOp pa
  let off := deviceOffset pa
  let h := s.hart a
  let id := s.nextId
  let c : BankCmd := { src := agentKey a, op := op, pa := off, n := n, data := v, page := page, size := size, seq := h.addSeq, id := id }
  let s := { s with fabric := s.fabric ++ [c], nextId := id + 1 }
  if op = 3 ∨ op = 4 then s.setHart a { h with addSeq := h.addSeq + BitVec.ofNat 32 (n / 4) }
  else if op = 8 ∨ op = 9 then
    ({ s with cmds := mput s.cmds id { src := agentKey a } }).setHart a { h with slots := mput h.slots (stackOf off) id }
  else s

/-! ### Bank operations (R39, R140, R142) -/

/-- Enters one floating add in the sort buffer of its bank; a full buffer is flushed first and SPLITS rises (R142, R143). -/
def State.sortEnter (s : State) (e : SortEntry) : State :=
  let k := stackOf e.pa
  let b := bankKey e.pa
  let q := mget (fun _ => []) (s.stack k).sort b
  if q.length < 64 then s.updStack k fun x => { x with sort := mput x.sort b (q ++ [e]) }
  else
    let s := s.flushBank k b
    s.updStack k fun x =>
      { x with sort := mput x.sort b [e], splits := if x.splits = 0xFFFFFFFF then x.splits else x.splits + 1 }
/-- Element `i` of a command. -/
def BankCmd.elem (c : BankCmd) (i : Nat) : Nat :=
  let n := bankElemBytes c.op
  (getBytes c.data (n * i) n).toNat
/-- Applies a command of ops 1 to 7 at the bank; `none` while the host holds the line (R64), or, for a floating add accepted after a
write of EN, while EN is changing (R144). The MSC line is written back and is gone afterwards: R40 invalidates what R56 allocates
(DEDUCED, log entry 52). -/
def State.bankApply (s : State) (c : BankCmd) : Option State :=
  let k := stackOf c.pa
  let float := c.op = 3 ∨ c.op = 4
  let ln := lineOf c.pa
  if (s.mscAt ln).host then none
  else if float ∧ (s.stack k).busy ∧ (s.stack k).mark ≤ c.id then none
  else if s.homeLost (homeOf c.pa) then some (s.log 1 5 3 k c.pa 1 k)
  else
    let n := bankElemBytes c.op
    let cnt := c.n / n
    let s := s.mscDrop ln
    let s := if float ∧ (s.stack k).en then
        (List.range cnt).foldl (fun s i => s.sortEnter
          { src := c.src, seq := c.seq + BitVec.ofNat 32 i, pa := c.pa + n * i, op := c.op, v := BitVec.ofNat 32 (c.elem i) }) s
      else
        let s := (s.flushFor c.pa c.n).errorOut 5 0 ln (sectorsOf (c.pa % 64) c.n) none
        { s with mem := (List.range cnt).foldl (fun m i => applyElem m c.op (c.pa + n * i) (c.elem i)) s.mem }
    some (s.wake true ln 1)

/-- What stands in the way of a command at a line: the host is asked to give the line up (R64). -/
def State.askLine (s : State) (pa : Nat) : State :=
  if (s.mscAt (lineOf pa)).host then s.backInvalidate (lineOf pa) else s

/-! ### Completion counters (R45) -/

/-- The atomic rise of a counter at the MSC. -/
def State.raiseCounter (s : State) (pa : Nat) (valid : Bool) : Option State :=
  match s.amoNear pa 8 (fun old => some ((old + (if valid then 1 else 2 ^ 32)) % 2 ^ 64)) with
  | .ok _ s => some s
  | .trap _ s => some s
  | .wait _ => none
/-- A command completes: its counter rises if one is bound (R45). -/
def State.cmdDone (s : State) (id : Nat) : Option State :=
  let c := mget (fun _ => ({} : CmdInfo)) s.cmds id
  let s := { s with cmds := mput s.cmds id { c with done := true } }
  match c.counter with
  | some pa => s.raiseCounter pa c.valid
  | none => some s
/-- A counter that cannot rise now: its line is asked for. -/
def State.askCounter (s : State) (id : Nat) : State :=
  match (mget (fun _ => ({} : CmdInfo)) s.cmds id).counter with
  | some pa => s.askLine pa
  | none => s
/-- A counter packet binds a counter to its source's command, or is dropped and logged (R45, kind 4). -/
def State.bindCounter (s : State) (src pa : Nat) : Option State :=
  let h := mget hartDefault s.harts src
  let k := stackOf pa
  let drop := some (s.log 4 0 3 k pa src k)
  match h.slots.find? (fun p => p.1 == k) with
  | none => drop
  | some (_, id) =>
    let c := mget (fun _ => ({} : CmdInfo)) s.cmds id
    if c.counter.isSome then drop
    else
      let s := { s with cmds := mput s.cmds id { c with counter := some pa } }
      if c.done then s.raiseCounter pa c.valid else some s
/-- Writes a counter (R45): an 8-byte store performed at the MSC. -/
def State.writeCounter (s : State) (pa : Nat) (v : BitVec 512) : Option State :=
  match s.mscWrite pa 8 kStore v with
  | .ok _ s => some s
  | .trap _ s => some s
  | .wait _ => none

/-! ### ALLBANK.FILL (R41, R148, R149) -/

/-- Cleans the page's MSC lines and flushes its banks as a fill is taken (R40, R148). -/
def State.fillTake (s : State) (f : FillCmd) : State :=
  let k := stackOf f.page
  let inPage := fun pa => f.page ≤ pa && pa < f.page + f.size
  let s := ((s.stack k).msc.filter fun p => inPage (64 * p.1)).foldl (fun s p => s.mscDrop p.1) s
  ((s.stack k).sort.filter fun p => p.2.any fun e => inPage e.pa).foldl (fun s p => s.flushBank k p.1) s
/-- The lowest remaining rows from row `r`, at most one for each bank and at most `p` (R148). -/
def waveRows (f : FillCmd) (used : List Nat) (p r : Nat) : Nat → List Nat
  | 0 => []
  | fuel + 1 =>
    if p = 0 then []
    else
      let pa := f.page + 1024 * r
      if f.ahead.any (fun x => x == r) || used.any (fun b => b == bankKey pa) then waveRows f used p (r + 1) fuel
      else r :: waveRows f (bankKey pa :: used) (p - 1) (r + 1) fuel
/-- The first row from `r` on that is not among the rows done ahead. -/
def advanceRow (ahead : List Nat) (r : Nat) : Nat → Nat
  | 0 => r
  | n + 1 => if ahead.any (fun x => x == r) then advanceRow ahead (r + 1) n else r
/-- A 64-byte pattern repeated over a row. -/
def patternRow (p : BitVec 512) : Nat := (List.range 16).foldl (fun acc i => acc + p.toNat * 2 ^ (512 * i)) 0
/-- The bank limit that a wave uses, as it reads at the wave's start (R148, R401). -/
def Stack.waveLimit (x : Stack) : Nat := if x.sensor.trip then min x.wave.toNat 64 else x.wave.toNat
/-- One wave of a fill: the rows it writes. Held adds of a row are flushed first (R143); a row of a lost home is an error (R384). -/
def State.fillRows (s : State) (f : FillCmd) (rows : List Nat) : State :=
  rows.foldl (fun s r =>
    let pa := f.page + 1024 * r
    if s.homeLost (homeOf pa) then s.log 1 5 3 (stackOf pa) pa 0xFF (stackOf pa)
    else
      let s := s.flushFor pa 1024
      let s := (List.range 16).foldl (fun s i => s.coverFresh 5 0 (lineOf pa + i) 3) s
      let s := (List.range 16).foldl (fun s i => (s.mscDrop (lineOf pa + i)).wake true (lineOf pa + i) 1) s
      { s with mem := memWrite s.mem pa 1024 (patternRow f.pattern) }) s
/-- The command after a wave. -/
def FillCmd.after (f : FillCmd) (rows : List Nat) : FillCmd :=
  let ahead := f.ahead ++ rows
  let next := advanceRow ahead f.next ahead.length
  { f with next := next, ahead := ahead.filter fun r => next ≤ r }

/-! ### IDXSUM (R42 to R44, R146) -/

def packetByte (p : BitVec 512) (i n : Nat) : Nat := (getBytes p i n).toNat
/-- The first byte of a table row, as an integer: the table may start before the granule (R43). -/
def idxRow (granule : Nat) (p : BitVec 512) (j : Nat) : Int :=
  let tb : Int := (p.extractLsb' 0 16).toInt
  granule + tb * 64 + packetByte p (8 + 4 * j) 4 * packetByte p 2 2 * 4
/-- The first failing check of R44 in the order of R358 kind 3; 0 when valid. -/
def idxFlaw (granule page size : Nat) (p : BitVec 512) : Nat :=
  let rlen := packetByte p 2 2
  let doff := packetByte p 4 2
  let cnt := packetByte p 6 1
  if rlen = 0 ∨ 1024 < rlen then 1
  else if doff % 4 ≠ 0 ∨ 4096 < doff + 4 * rlen then 2
  else if cnt = 0 ∨ 14 < cnt then 3
  else if 1 < packetByte p 7 1 then 4
  else if (List.range cnt).all (fun j => decide ((page : Int) ≤ idxRow granule p j) &&
      decide (idxRow granule p j + 4 * rlen ≤ (page + size : Nat))) then 0
  else 5
/-- The lines from one address, `n` bytes long. -/
def linesOf (pa n : Nat) : List Nat := (List.range ((pa % 64 + n + 63) / 64)).map fun i => lineOf pa + i
/-- The rows of the table that a command names. -/
def IdxCmd.rows (c : IdxCmd) : List Nat := (List.range (packetByte c.packet 6 1)).map fun j => (idxRow c.granule c.packet j).toNat
/-- The destination's first byte, and the number of elements. -/
def IdxCmd.dst (c : IdxCmd) : Nat := c.granule + packetByte c.packet 4 2
def IdxCmd.len (c : IdxCmd) : Nat := packetByte c.packet 2 2
/-- The lines that a command touches, the destination's first. -/
def IdxCmd.lines (c : IdxCmd) : List Nat := linesOf c.dst (4 * c.len) ++ c.rows.flatMap fun r => linesOf r (4 * c.len)
/-- Step 2 of a command (R146): R40 on every line that it names, and each affected bank is flushed. -/
def State.idxClean (s : State) (lines : List Nat) : State :=
  lines.foldl (fun s ln => (s.flushBank (stackOf (64 * ln)) (bankKey (64 * ln))).mscDrop ln) s
/-- R40 and R143 on the 4-byte elements that a step of the sum reads or writes. -/
def State.idxTouch (s : State) (elems : List Nat) : State := elems.foldl (fun s pa => (s.flushFor pa 4).mscDrop (lineOf pa)) s
/-- An error that a command meets on these lines: a lost home or a sector that cannot be corrected (R131, R384). -/
def State.idxBad (s : State) (lines : List Nat) : Option (Nat × Nat) :=
  match lines.find? fun ln => s.homeLost (homeOf (64 * ln)) with
  | some ln => some (5, 2 * ln)
  | none =>
    if s.bad.isEmpty then none
    else
      (s.bad.find? fun x => ((x.unit == 5 && x.own == 0) || (x.unit == 4 && x.own == lineStack (x.sec / 2))) &&
        lines.any fun ln => ln == x.sec / 2).map fun x => (x.unit, x.sec)
/-- The addresses of element `e`, the destination's first, and their lines. -/
def IdxCmd.elemAt (c : IdxCmd) (e : Nat) : List Nat := (c.dst + 4 * e) :: c.rows.map fun r => r + 4 * e
def IdxCmd.elemLines (c : IdxCmd) (e : Nat) : List Nat := (c.elemAt e).map lineOf
/-- One element of the sum (R43, R146 step 3), indivisible: the table is read as it stood before the command's own writes. -/
def State.idxElem (s : State) (c : IdxCmd) : State × IdxCmd :=
  let e := c.done
  let s := s.idxTouch (c.elemAt e)
  let d := c.dst + 4 * e
  let was := memRead s.mem d 4
  let old := fun pa => match c.old.find? fun p => p.1 == pa with
    | some p => p.2
    | none => memRead s.mem pa 4
  let acc := c.rows.foldl (fun acc r =>
    let v := old (r + 4 * e)
    if packetByte c.packet 7 1 = 0 then faddBits .fp32 acc v else (acc + v) % 2 ^ 32) was
  (({ s with mem := memWrite s.mem d 4 acc }).wake true (lineOf d) 1, { c with done := e + 1, old := (d, was) :: c.old })
/-- The lines that the next step of a running command touches: all of them for the cleaning, then those of its next element. -/
def IdxCmd.stepLines (c : IdxCmd) : List Nat := if c.cleaned then c.elemLines c.done else c.lines

/-! ### The steps of the commands of ops 8 and 9 -/

/-- A unit's request fits the headroom of a current arbiter (R394). -/
def fitsCurrent (units held budget : Nat) : Bool := decide (units + held ≤ budget) || (decide (budget < units) && held == 0)
/-- The first line of a page that the host holds (R64). -/
def State.hostInPage (s : State) (f : FillCmd) : Option Nat :=
  (((s.stack (stackOf f.page)).msc.filter fun p => p.2.host && decide (f.page ≤ 64 * p.1) && decide (64 * p.1 < f.page + f.size)).head?).map (·.1)
/-- The oldest command of the wave queue is taken: its lines are cleaned (R148). -/
def State.fillNext (s : State) (stk : Nat) : State :=
  match (s.stack stk).waveQ with
  | f :: q =>
    if f.started then s
    else match s.hostInPage f with
      | some ln => s.backInvalidate ln
      | none => (s.fillTake f).updStack stk fun x => { x with waveQ := { f with started := true } :: q, waveP := some x.waveLimit }
  | [] => s
/-- ALLBANK_FILL: command `k` of the fabric enters the wave queue, and is taken when it is the oldest. -/
def State.fillEnter (s : State) (k : Nat) : State :=
  match s.fabric[k]? with
  | none => s
  | some c =>
    let stk := stackOf c.pa
    if c.op ≠ 8 ∨ 8 ≤ (s.stack stk).waveQ.length then s
    else
      let s := { s with fabric := dropAt s.fabric k }
      let f : FillCmd := { id := c.id, src := c.src, page := c.page % 2 ^ 40, size := c.size, pattern := c.data }
      (s.updStack stk fun x => { x with waveQ := x.waveQ ++ [f] }).fillNext stk
/-- The contenders of a stack's arbiter: IDXSUM by pseudo-channel, and 64 for the wave controller (R396). -/
def State.stackWants (s : State) (stk i : Nat) : Option Nat :=
  if i < 64 then
    let h := s.home (stk * 64 + i)
    if h.idxRun.isSome && !h.idxHeld then some 1 else none
  else
    let x := s.stack stk
    match x.waveQ with
    | f :: _ => if f.started && x.waveGrant.isNone then x.waveP.map fun p => (p + 31) / 32 else none
    | [] => none
/-- STACK_RESERVATION_GRANT (R396, R328). -/
def State.stackGrant (s : State) (stk : Nat) : State :=
  let x := s.stack stk
  let ready := fun i => match s.stackWants stk i with
    | some u => fitsCurrent u x.heldUnits x.budget.toNat
    | none => false
  match firstFrom 65 x.arbPtr ready with
  | none => s
  | some i =>
    let u := (s.stackWants stk i).getD 0
    let s := s.setStack stk { x with heldUnits := x.heldUnits + u, arbPtr := (i + 1) % 65
                                     waveGrant := if i = 64 then x.waveP else x.waveGrant
                                     waveP := if i = 64 then none else x.waveP }
    if i < 64 then s.updHome (stk * 64 + i) fun h => { h with idxHeld := true } else s
/-- FILL_WAVE (R148): the wave that holds its reservation is written; the last wave completes the command. The next wave reads its
limit as this one ends. Where no wave can be written, a command that has waited for the host (R64) is tried again. -/
def State.fillWave (s : State) (stk : Nat) : State :=
  let x := s.stack stk
  match x.waveGrant, x.waveQ with
  | some p, f :: q =>
    match s.hostInPage f with
    | some ln => s.backInvalidate ln
    | none =>
      let total := f.size / 1024
      let rows := waveRows f [] p f.next (total - f.next)
      let g := f.after rows
      let s' := s.fillRows f rows
      let u := (p + 31) / 32
      if total ≤ g.next then
        match s'.cmdDone f.id with
        | none => s.askCounter f.id
        | some s => (s.updStack stk fun x => { x with waveQ := q, waveGrant := none, heldUnits := x.heldUnits - u }).fillNext stk
      else s'.updStack stk fun x =>
        { x with waveQ := g :: q, waveGrant := none, heldUnits := x.heldUnits - u, waveP := some x.waveLimit }
  | _, _ => s.fillNext stk
/-- IDXSUM: command `k` of the fabric is checked and enters its home's queue; an invalid one ends here (R44, R146). -/
def State.idxEnter (s : State) (k : Nat) : State :=
  match s.fabric[k]? with
  | none => s
  | some c =>
    let h := homeOf c.pa
    if c.op ≠ 9 ∨ 16 ≤ (s.home h).idxQ.length then s
    else
      let granule := c.pa / 4096 * 4096
      let flaw := if s.homeLost h then 6 else idxFlaw granule (c.page % 2 ^ 40) c.size c.data
      let t := { s with fabric := dropAt s.fabric k }
      if flaw = 0 then
        t.updHome h fun x => { x with idxQ := x.idxQ ++
          [{ id := c.id, src := c.src, granule := granule, page := c.page, size := c.size, packet := c.data, flaw := 0 }] }
      else
        let t := { t with cmds := mput t.cmds c.id { mget (fun _ => ({} : CmdInfo)) t.cmds c.id with valid := false } }
        let t := t.log 3 0 3 (stackOf c.pa) c.pa flaw (stackOf c.pa)
        (t.cmdDone c.id).getD (s.askCounter c.id)
/-- The oldest command of a home begins (R145). -/
def State.idxBegin (s : State) (h : Nat) : State :=
  let x := s.home h
  match x.idxRun, x.idxQ with
  | none, c :: q => s.setHome h { x with idxRun := some c, idxQ := q }
  | _, _ => s
/-- A command that meets an error is treated as invalid (R131): its record, and its counter's high half is to rise. -/
def State.idxFail (s : State) (h : Nat) (c : IdxCmd) (unit sec : Nat) : State :=
  let k := stackOf c.granule
  let s := { s with cmds := mput s.cmds c.id { mget (fun _ => ({} : CmdInfo)) s.cmds c.id with valid := false } }
  let s := ((s.freshen unit (if unit = 4 then lineStack (sec / 2) else 0) sec).log 1 unit 3 k (32 * sec) 0xFF k).log 3 0 3 k c.granule 6 k
  s.updHome h fun x => { x with idxRun := some { c with flaw := 7 } }
/-- One step of a home's running command: the cleaning, then element by element (R146). A command whose last element is summed is
marked executed by flaw 7. -/
def State.idxStep (s : State) (h : Nat) : State :=
  let x := s.home h
  match x.idxRun with
  | none => s
  | some c =>
    if !x.idxHeld || c.flaw != 0 then s
    else match c.stepLines.find? fun ln => (s.mscAt ln).host with
      | some ln => s.backInvalidate ln
      | none =>
        match s.idxBad c.stepLines with
        | some (u, sec) => s.idxFail h c u sec
        | none =>
          if !c.cleaned then (s.idxClean c.lines).updHome h fun x => { x with idxRun := some { c with cleaned := true } }
          else
            let r := s.idxElem c
            let g := r.2
            r.1.updHome h fun x => { x with idxRun := some (if c.len ≤ g.done then { g with flaw := 7 } else g) }
def State.idxSteps (s : State) (h : Nat) : Nat → State
  | 0 => s
  | n + 1 => (s.idxStep h).idxSteps h n
/-- IDXSUM_EXECUTE (R146): the oldest command begins, or, once it holds its unit of current, makes one step, so that other accesses may
fall between its elements; when the turn does not overlap it makes all of them. -/
def State.idxExecute (s : State) (h : Nat) : State :=
  let s := s.idxBegin h
  if s.overlap then s.idxStep h
  else s.idxSteps h (match (s.home h).idxRun with | some c => c.len + 1 | none => 0)
/-- IDXSUM_COMPLETE (R146 step 4). -/
def State.idxComplete (s : State) (h : Nat) : State :=
  let x := s.home h
  match x.idxRun with
  | some c =>
    if c.flaw ≠ 7 then s
    else match s.cmdDone c.id with
      | none => s.askCounter c.id
      | some s =>
        let s := s.updHome h fun x => { x with idxRun := none, idxHeld := false }
        s.updStack (h / 64) fun k => { k with heldUnits := k.heldUnits - 1 }
  | none => s
/-- Waves of a stack until its queue is empty or a wave cannot start. -/
def State.fillAll (s : State) (stk : Nat) : Nat → State
  | 0 => s
  | n + 1 =>
    if (s.stack stk).waveQ.isEmpty then s
    else
      let s := ((s.fillNext stk).stackGrant stk).fillWave stk
      s.fillAll stk n
/-- The fabric's last command is applied at once when the turn does not overlap (DESIGN CHOICE, log entry 2). -/
def State.fabricLast (s : State) : State :=
  if s.overlap then s
  else
    match s.fabric.getLast? with
    | none => s
    | some c =>
      let t := { s with fabric := s.fabric.dropLast }
      if c.op ≤ 7 then (t.bankApply c).getD (s.askLine c.pa)
      else if c.op = 8 then
        (s.fillEnter (s.fabric.length - 1)).fillAll (stackOf c.pa) (2 * (c.size / 1024) + 2)
      else if c.op = 9 then
        let h := homeOf c.pa
        let s := s.idxEnter (s.fabric.length - 1)
        (((s.idxBegin h).stackGrant (h / 64)).idxExecute h).idxComplete h
      else if c.n = 8 then (t.writeCounter c.pa c.data).getD (s.askLine c.pa)
      else (t.bindCounter c.src c.pa).getD (s.askLine c.pa)
/-- The bytes that an alias command writes, and those that IDXSUM reads (R100, R118, R344). -/
def cmdBytes (op pa n page size granule : Nat) (packet : BitVec 512) : List (Nat × Nat) :=
  if op = 8 then [(page % 2 ^ 40, size)]
  else if op = 9 then
    let len := 4 * packetByte packet 2 2
    (granule + packetByte packet 4 2, len) ::
      (List.range (packetByte packet 6 1)).map fun j => ((idxRow granule packet j).toNat, len)
  else if op = 10 then [(pa, 8)]
  else [(pa, n)]
/-- Whether a list of byte ranges meets `n` bytes. -/
def touches (l : List (Nat × Nat)) (off n : Nat) : Bool := l.any fun p => decide (p.1 < off + n) && decide (off < p.1 + p.2)
/-- Whether an alias command of a source on these bytes has been accepted and not yet performed (R40, R100, R118): in the fabric, in a
wave queue or in a home's queue. -/
def State.ownOnBytes (s : State) (a : Agent) (off n : Nat) : Bool :=
  let k := agentKey a
  let idx := fun (c : IdxCmd) => c.src == k && touches (cmdBytes 9 0 0 0 0 c.granule c.packet) off n
  (s.fabric.any fun c => c.src == k && touches (cmdBytes c.op c.pa c.n c.page c.size (c.pa / 4096 * 4096) c.data) off n) ||
    (!s.cmds.isEmpty && ((s.baseDies.any fun p => p.2.waveQ.any fun f => f.src == k && touches [(f.page, f.size)] off n) ||
      s.homes.any fun p => p.2.idxQ.any idx || p.2.idxRun.any idx))

end Sys2Proof.Machine
end

