-- ==== Sys2Proof/Machine/Xlat.lean ====
section
/-! DEFINITION. Address translation: page-table walks, permissions, translation caches and walk requests (R13, R22 to R34). -/
namespace Sys2Proof.Machine

/-! ### Entries (R22 to R26) -/

/-- Low bit of the index field of a level and the number of index bits (R22). -/
def levelIndex (va : Word) : Nat → Nat
  | 5 => bits va 63 57
  | 4 => bits va 56 48
  | 3 => bits va 47 39
  | 2 => bits va 38 30
  | 1 => bits va 29 21
  | _ => bits va 20 16
/-- Page bits of a leaf at a level (R22). -/
def pageBits : Nat → Nat
  | 2 => 30
  | 1 => 21
  | _ => 16
/-- The level of a leaf with these page bits. -/
def levelOfShift (sh : Nat) : Nat := if sh = 30 then 2 else if sh = 21 then 1 else 0
/-- A page lies wholly in one assigned range (R14); no page is larger than a range. -/
def assigned (pa : Nat) : Bool := isDevice pa || isAlias pa || isFormat pa || isControl pa || isHost pa
/-- A malformed entry (R25). -/
def malformed (e : Word) (lvl : Nat) : Bool :=
  if e.getLsbD 1 then
    let sh := pageBits lvl
    let page := bits e 51 16 * 2 ^ 16
    bits e 63 52 != 0 || bits e 15 10 != 0 || e.getLsbD 7 || decide (3 ≤ lvl) || decide (2 ≤ bits e 9 8)
      || page % 2 ^ sh != 0 || !assigned page || (e.getLsbD 4 && !(isDevice page || isHost page))
      || (e.getLsbD 5 && isControl page)
  else
    bits e 63 52 != 0 || bits e 7 2 != 0 || lvl == 0 || (decide (2 ≤ lvl) && bits e 11 8 != 0)
      || !isDevice (bits e 51 8 * 2 ^ 8)
/-- The leaf as a cached entry (R29). -/
def leafEntry (e : Word) (lvl : Nat) (va : Word) (tag : Nat) : TlbEntry :=
  let sh := pageBits lvl
  { shift := sh, vpn := va.toNat / 2 ^ sh, ppn := bits e 51 16 * 2 ^ 16 / 2 ^ sh, mt1 := bits e 9 8 == 1,
    gl := e.getLsbD 6, us := e.getLsbD 5, ex := e.getLsbD 4, wr := e.getLsbD 3, rd := e.getLsbD 2, tag := tag }
/-- Permission by the leaf alone; kinds as R27 (R26). -/
def permitted (e : TlbEntry) (kind : Nat) (priv : Bool) : Bool :=
  (priv || e.us) &&
    match kind with
    | 0 | 5 => e.rd
    | 1 | 6 => e.wr
    | 3 => e.ex && !e.mt1 && !(priv && e.us)
    | _ => e.rd && e.wr
/-- The physical address under an entry. -/
def TlbEntry.pa (e : TlbEntry) (va : Word) : Nat := e.ppn * 2 ^ e.shift + va.toNat % 2 ^ e.shift
/-- The physical page and its size. -/
def TlbEntry.page (e : TlbEntry) : Nat := e.ppn * 2 ^ e.shift
def TlbEntry.size (e : TlbEntry) : Nat := 2 ^ e.shift
/-- An entry matches an access (R29). -/
def TlbEntry.hits (e : TlbEntry) (va : Word) (tag : Nat) : Bool :=
  e.vpn == va.toNat / 2 ^ e.shift && (e.gl || e.tag == tag)

/-- PAGE_FAULT (R27); a fetch names its line. -/
def pageFault (va : Word) (fk lvl kind : Nat) : Trap :=
  let v := if kind = 3 then va &&& ~~~63#64 else va
  { cause := 0x06, infos := ⟨v, BitVec.ofNat 64 fk, BitVec.ofNat 64 lvl, BitVec.ofNat 64 kind⟩ }

/-! ### Walks (R27, R28) -/

/-- What a walk finds: a leaf, or a fault kind and level. -/
inductive Walked where
  | leaf (e : TlbEntry)
  | fault (fk lvl : Nat)
  deriving DecidableEq, Repr

/-- Reads entries from a table on down; each is read at the memory-side cache of its home (R28). -/
def State.walkFrom (s : State) (t : Nat) (va : Word) (tag : Nat) : Nat → Res Walked
  | 0 =>
    (s.mscRead (t + 8 * levelIndex va 0) 8 kLoad).bind fun v s =>
      let e := v.extractLsb' 0 64
      if !e.getLsbD 0 then .ok (.fault 1 0) s
      else if malformed e 0 then .ok (.fault 3 0) s
      else .ok (.leaf (leafEntry e 0 va tag)) s
  | lvl + 1 =>
    (s.mscRead (t + 8 * levelIndex va (lvl + 1)) 8 kLoad).bind fun v s =>
      let e := v.extractLsb' 0 64
      if !e.getLsbD 0 then .ok (.fault 1 (lvl + 1)) s
      else if malformed e (lvl + 1) then .ok (.fault 3 (lvl + 1)) s
      else if e.getLsbD 1 then .ok (.leaf (leafEntry e (lvl + 1) va tag)) s
      else s.walkFrom (bits e 51 8 * 2 ^ 8) va tag lvl
/-- A walk from a root register's value (R27, R31). -/
def State.walk (s : State) (root va : Word) (tag : Nat) : Res Walked :=
  let t := bits root 51 10 * 2 ^ 10
  if !isDevice t then .ok (.fault 3 5) s else s.walkFrom t va tag 5

/-! ### Translation caches (R29) -/

/-- Fills a fully associative cache of `cap` entries: the most recently used first (R29). -/
def tlbFull (cap : Nat) (e : TlbEntry) (l : List TlbEntry) : List TlbEntry := (e :: l.filter fun x => x != e).take cap
/-- Fills a set-associative cache (R29): a set that holds more entries than it has ways loses its least recently used one. -/
def tlbPut (cache sets ways : Nat) (e : TlbEntry) (l : List TlbEntry) : List TlbEntry :=
  let l := e :: l.filter fun x => x != e
  if l.length ≤ ways then l
  else
    let set := fun (x : TlbEntry) => Config.tlbSet cache x.shift x.vpn % sets
    let same := l.filter fun x => set x == set e
    if same.length ≤ ways then l
    else match same.getLast? with
      | some v => l.filter fun x => x != v
      | none => l
def clusterTlbPut (e : TlbEntry) (l : List TlbEntry) : List TlbEntry := tlbPut 0 128 8 e l
def islandTlbPut (e : TlbEntry) (l : List TlbEntry) : List TlbEntry := tlbPut 1 1024 16 e l
def hubTlbPut (e : TlbEntry) (l : List TlbEntry) : List TlbEntry := tlbPut 2 64 8 e l
def tlbFind (va : Word) (tag : Nat) (l : List TlbEntry) : Option TlbEntry := l.find? fun e => e.hits va tag
/-- The tag under which an agent's entries stand: 64 is the firmware tag (R31). -/
def State.xlatTag (s : State) (a : Agent) : Nat :=
  match a with
  | .hub _ => 64
  | _ => bits (s.hart a).root 5 0
/-- Fills every cache that an agent looks up (R29). -/
def State.tlbFill (s : State) (a : Agent) (e : TlbEntry) : State :=
  match a with
  | .far c =>
    let s := s.updHart a fun h => { h with tlb := tlbFull 32 e h.tlb }
    let s := s.updCluster (clusterOf c) fun x => { x with tlb := clusterTlbPut e x.tlb }
    s.updIsland (dieOf c) fun x => { x with tlb := islandTlbPut e x.tlb }
  | .near h _ =>
    let s := s.updUnit h fun u => { u with tlb := tlbFull 16 e u.tlb }
    s.updIsland (h / 64) fun x => { x with tlb := islandTlbPut e x.tlb }
  | .hub _ => s.updHub fun x => { x with tlb := hubTlbPut e x.tlb }
/-- A hit fills every cache above the one that holds the entry, where it becomes the most recently used (R29). -/
def State.tlbTouch (s : State) (a : Agent) (va : Word) (tag : Nat) (e : TlbEntry) : State :=
  match a with
  | .far c =>
    let t := s.updHart a fun h => { h with tlb := tlbFull 32 e h.tlb }
    if (tlbFind va tag (s.hart a).tlb).isSome then t
    else
      let t := t.updCluster (clusterOf c) fun x => { x with tlb := clusterTlbPut e x.tlb }
      if (tlbFind va tag (s.cluster (clusterOf c)).tlb).isSome then t
      else t.updIsland (dieOf c) fun x => { x with tlb := islandTlbPut e x.tlb }
  | .near h _ =>
    let t := s.updUnit h fun u => { u with tlb := tlbFull 16 e u.tlb }
    if (tlbFind va tag (s.unit h).tlb).isSome then t
    else t.updIsland (h / 64) fun x => { x with tlb := islandTlbPut e x.tlb }
  | .hub _ => s.updHub fun x => { x with tlb := hubTlbPut e x.tlb }
/-- The lookup of R29 in every cache of an agent's path. -/
def State.tlbLookup (s : State) (a : Agent) (va : Word) (tag : Nat) : Option TlbEntry :=
  match a with
  | .far c =>
    (tlbFind va tag (s.hart a).tlb).or ((tlbFind va tag (s.cluster (clusterOf c)).tlb).or
      (tlbFind va tag (s.island (dieOf c)).tlb))
  | .near h _ => (tlbFind va tag (s.unit h).tlb).or (tlbFind va tag (s.island (h / 64)).tlb)
  | .hub _ => tlbFind va tag s.hub.tlb

/-! ### Walk requests (R30) -/

/-- The walk queue and the walks of an agent's unit: a die 0 to 15, or 16 for the hub. -/
def walkUnit : Agent → Nat
  | .far c => dieOf c
  | .near h _ => h / 64
  | .hub _ => 16
def State.walkQ (s : State) (u : Nat) : List WalkReq := if u < 16 then (s.island u).walkQ else s.hub.walkQ
def State.walksIn (s : State) (u : Nat) : List WalkReq := if u < 16 then (s.island u).walks else s.hub.walks
def State.setWalkQ (s : State) (u : Nat) (q : List WalkReq) : State :=
  if u < 16 then s.updIsland u fun x => { x with walkQ := q } else s.updHub fun x => { x with walkQ := q }
def State.setWalks (s : State) (u : Nat) (q : List WalkReq) : State :=
  if u < 16 then s.updIsland u fun x => { x with walks := q } else s.updHub fun x => { x with walks := q }
/-- A miss attaches to a walk or a request of its tag and VA[63:16]. -/
def WalkReq.covers (w : WalkReq) (tag : Nat) (va : Word) : Bool := w.tag == tag && w.va >>> 16 == va >>> 16
def attachTo (key kind tag : Nat) (va : Word) (q : List WalkReq) : List WalkReq :=
  q.map fun w => if w.covers tag va && !w.waiters.any (fun p => p == (key, kind)) then { w with waiters := w.waiters ++ [(key, kind)] } else w
/-- The walkers of a unit (R30). -/
def walkerCount (u : Nat) : Nat := if u < 16 then 32 else 8
/-- The walk-request queue's pointers move past the requester (R30, R328). Each turn is a cycle of its own, so no two requests reach the queue
in one cycle and the pointers decide nothing (DESIGN CHOICE, log entry 62). -/
def State.walkPast (s : State) (a : Agent) : State :=
  match a with
  | .far c => s.updIsland (dieOf c) fun x => { x with walkPtr := (clusterOf c % 16 + 1) % 17 }
  | .near h c => s.updIsland (h / 64) fun x => { x with walkPtr := 0, walkNear := (h % 64 * 2 + c + 1) % 128 }
  | .hub n => s.updHub fun x => { x with walkPtr := (n + 1) % 7 }
/-- A walk or a request that a miss attaches to stands in a unit. -/
def State.walkCovers (s : State) (u tag : Nat) (va : Word) : Bool :=
  (s.walksIn u).any (fun w => w.covers tag va) || (s.walkQ u).any fun w => w.covers tag va
/-- A miss of an agent's unit, by the number of its access, joins the walk queue, or attaches to what stands there for its page; a full
queue holds it back (R30). -/
def State.walkMissBy (s : State) (a : Agent) (key : Nat) (root : Word) (tag : Nat) (va : Word) (kind : Nat) : State :=
  let u := walkUnit a
  if (s.walksIn u).any (fun w => w.covers tag va) then s.setWalks u (attachTo key kind tag va (s.walksIn u))
  else if (s.walkQ u).any (fun w => w.covers tag va) then s.setWalkQ u (attachTo key kind tag va (s.walkQ u))
  else if (if u < 16 then 512 else 64) ≤ (s.walkQ u).length then s
  else (s.setWalkQ u (s.walkQ u ++ [{ tag := tag, va := va, root := root, waiters := [(key, kind)] }])).walkPast a
/-- A miss of an agent's own access. -/
def State.walkMiss (s : State) (a : Agent) (va : Word) (kind : Nat) : State :=
  s.walkMissBy a (agentKey a) (s.hart a).root (s.xlatTag a) va kind
/-- An access that its agent has given up waits for no walk any more (R30). -/
def dropWaiter (key : Nat) (q : List WalkReq) : List WalkReq := q.map fun w => { w with waiters := w.waiters.filter fun p => p.1 != key }
def waitsIn (key : Nat) (q : List WalkReq) : Bool := q.any fun w => w.waiters.any fun p => p.1 == key
def State.walkForget (s : State) (a : Agent) : State :=
  let u := walkUnit a
  let k := agentKey a
  let s := if waitsIn k (s.walkQ u) then s.setWalkQ u (dropWaiter k (s.walkQ u)) else s
  if waitsIn k (s.walksIn u) then s.setWalks u (dropWaiter k (s.walksIn u)) else s
/-- A walk can start at once and is on its own: no request stands before it and a walker is free (R30). -/
def State.walkFree (s : State) (a : Agent) : Bool :=
  let u := walkUnit a
  (s.walkQ u).isEmpty && decide ((s.walksIn u).length < walkerCount u)

/-- The trap of a walk's answer to an access that waited for it. -/
def WalkAnswer.trap (w : WalkAnswer) (va : Word) (kind : Nat) : Trap :=
  if w.cause = 0x06 then pageFault va w.info.i1.toNat w.info.i2.toNat kind else { cause := w.cause, infos := w.info }
/-- An answer that is for an access of a kind. -/
def walkAnswered (l : List WalkAnswer) (va : Word) (tag kind : Nat) : Option WalkAnswer :=
  l.find? fun w => w.page == va >>> 16 && w.tag == tag && w.kind == kind
/-- The answer of a walk to an access that waited for it. -/
def Hart.walkAnswer (h : Hart) (va : Word) (tag kind : Nat) : Option Trap :=
  (walkAnswered h.walkFault.toList va tag kind).map fun w => w.trap va kind

/-- A miss: the walk is made within the step where a walker is free and nothing stands before it or for its page, and the turn does
not overlap (DESIGN CHOICE, log entry 2); else the miss waits for the walkers (R30). -/
def State.missWalk (s : State) (a : Agent) (key : Nat) (root : Word) (tag : Nat) (priv : Bool) (va : Word) (kind : Nat) : Res TlbEntry :=
  if s.overlap || s.walkCovers (walkUnit a) tag va || !s.walkFree a then .wait (s.walkMissBy a key root tag va kind)
  else
    ((s.walkPast a).walk root va tag).bind fun r s =>
      match r with
      | .fault fk lvl => .trap (pageFault va fk lvl kind) s
      | .leaf e =>
        if permitted e kind priv then .ok e (s.tlbFill a e)
        else .trap (pageFault va 2 (levelOfShift e.shift) kind) s

/-- Translates an access of a kind (R26, R27, R29, R30). -/
def State.translate (s : State) (a : Agent) (va : Word) (kind : Nat) : Res TlbEntry :=
  let h := s.hart a
  let tag := s.xlatTag a
  match s.tlbLookup a va tag with
  | some e =>
    let s := s.tlbTouch a va tag e
    if permitted e kind h.priv then .ok e s else .trap (pageFault va 2 (levelOfShift e.shift) kind) s
  | none =>
    match h.walkAnswer va tag kind with
    | some t => .trap t (s.setHart a { h with walkFault := none })
    | none => s.missWalk a (agentKey a) h.root tag h.priv va kind

/-- Translates on behalf of a unit that has no instruction to stall: an engine command (as its issuer) or a launch, through the caches
of an agent's path under a given root, tag and privilege (R32, R166); `key` is the number of its access and `ans` what walks have
answered to it. -/
def State.translateFor (s : State) (a : Agent) (key : Nat) (ans : List WalkAnswer) (root : Word) (tag : Nat) (priv : Bool) (va : Word)
    (kind : Nat) : Res TlbEntry :=
  match s.tlbLookup a va tag with
  | some e =>
    let s := s.tlbTouch a va tag e
    if permitted e kind priv then .ok e s else .trap (pageFault va 2 (levelOfShift e.shift) kind) s
  | none =>
    match walkAnswered ans va tag kind with
    | some w => .trap (w.trap va kind) s
    | none => s.missWalk a key root tag priv va kind
/-- The numbers of the accesses of engine commands and of launches among the waiters of a walk. -/
def engKey (core : Nat) (seq : BitVec 32) : Nat := 16384 + core * 2 ^ 32 + seq.toNat
def launchKey (hub : Nat) : Nat := 2 ^ 60 + hub

/-! ### TLBI (R33, R34) -/

/-- Whether an entry is removed by TLBI. -/
def tlbiHits (op : TlbiOp) (a b : Word) (e : TlbEntry) : Bool :=
  match op with
  | .va .. => !e.gl && e.vpn == a.toNat / 2 ^ e.shift && e.tag == bits b 5 0
  | .vag _ => e.vpn == a.toNat / 2 ^ e.shift
  | .ctx _ => !e.gl && e.tag == bits b 5 0
  | .all => true
/-- Removes matching entries from every translation cache of the package, and marks the walks in flight that it passes. -/
def State.tlbiRemove (s : State) (op : TlbiOp) (a b : Word) : State :=
  let keep := fun (l : List TlbEntry) => l.filter fun e => !tlbiHits op a b e
  let mark := fun (l : List WalkReq) => l.map fun w => { w with kills := w.kills ++ [(op, a, b)] }
  { s with
    harts := mmap (fun _ h => { h with tlb := keep h.tlb }) s.harts
    units := mmap (fun _ u => { u with tlb := keep u.tlb }) s.units
    clusters := mmap (fun _ c => { c with tlb := keep c.tlb }) s.clusters
    islands := mmap (fun _ i => { i with tlb := keep i.tlb, walks := mark i.walks }) s.islands
    hub := { s.hub with tlb := keep s.hub.tlb, walks := mark s.hub.walks } }

end Sys2Proof.Machine
end

