-- ==== Sys2Proof/Machine/Control.lean ====
section
/-! DEFINITION. Control and status registers as they read (R311, R312, R397, R420) and the control region: its registers'
reads and writes (R15, R141, R147, R338, R357, R360, R377, R387 to R401, R415 to R419). -/
namespace Sys2Proof.Machine

/-! ### CSR reads -/

/-- Whether an event is pending (EVP of R312). -/
def Hart.evp (h : Hart) : Bool := h.evMap.isSome || !h.evMem.isEmpty || h.evSusp.isSome
/-- TSTAT as it reads (R312). -/
def Hart.tstat (h : Hart) : Word :=
  boolWord h.ie ||| (boolWord h.priv <<< 1) ||| (boolWord h.ppriv <<< 2) ||| (boolWord h.pie <<< 3)
    ||| (boolWord h.evp <<< 6) ||| (boolWord h.sreq <<< 7)
/-- CSR numbers that an agent holds (R311, R420). -/
def csrPresent (a : Agent) (n : Nat) : Bool :=
  match a with
  | .far _ => n ≤ 0xA || (0x10 ≤ n && n ≤ 0x1B) || (0x20 ≤ n && n ≤ 0x23)
  | .near .. => n ≤ 7 || n == 9 || n == 0x11 || n == 0x17 || n == 0x22 || n == 0x23
  | .hub _ => n ≤ 6 || n == 8 || n == 0xA || n == 0x12 || n == 0x17 || n == 0x40 || n == 0x41
/-- Reads that need S: those of a register marked RO (S); RW (S) is the privilege that a write needs (R311, DEDUCED, log entry 20). -/
def csrReadS (n : Nat) : Bool := n == 0x12
/-- Writes that need S (R31, R171, R311, R312, R420). -/
def csrWriteS (n : Nat) : Bool :=
  n == 0 || (7 ≤ n && n ≤ 0xA) || n == 0x12 || (0x13 ≤ n && n ≤ 0x15) || n == 0x17 || n == 0x1B || n == 0x41
/-- A permit register (R397). -/
def permitWord (refill : BitVec 7) (p : Permit) : Word := refill.zeroExtend 64 <<< 8 ||| p.count.zeroExtend 64
/-- A CSR as it reads. -/
def State.csrRead (s : State) (a : Agent) (n : Nat) : Word :=
  let h := s.hart a
  let f := match a with | .far c => s.far c | _ => {}
  match n with
  | 0x000 => h.tstat
  | 0x001 => h.cause.zeroExtend 64
  | 0x002 => h.trapPc
  | 0x003 => h.info.i0
  | 0x004 => h.info.i1
  | 0x005 => h.info.i2
  | 0x006 => h.info.i3
  | 0x007 => h.vecU
  | 0x008 => h.vecS
  | 0x009 => h.deleg
  | 0x00A => h.scratch
  | 0x010 => f.vcore.zeroExtend 64
  | 0x011 => h.ctxid.zeroExtend 64
  | 0x012 => match a with
    | .far c => BitVec.ofNat 64 c
    | .near .. => 0
    | .hub k => BitVec.ofNat 64 (4096 + k)
  | 0x013 => f.dom1
  | 0x014 => f.dom2
  | 0x015 => f.dom3
  | 0x016 => f.stealSet
  | 0x017 => h.root
  | 0x018 => f.aflags.zeroExtend 64
  | 0x019 => f.mbcfg
  | 0x01A => match s.ctx h.ctxid.toNat with
    | some x => x.ack.zeroExtend 64
    | none => (mget (fun _ => 1) s.hub.acks h.ctxid.toNat).zeroExtend 64
  | 0x01B => f.lrtBase
  | 0x020 => match a with
    | .far c => permitWord (s.cluster (clusterOf c)).pMacro h.macroP
    | _ => 0
  | 0x021 => match a with
    | .far c => permitWord (s.cluster (clusterOf c)).pPass h.passP
    | _ => 0
  | 0x022 => match a with
    | .far c => permitWord (s.cluster (clusterOf c)).pTable h.tableP
    | .near k _ => permitWord (s.stack (k / 64)).pTable (s.unit k).tableP
    | .hub _ => 0
  | 0x023 => match a with
    | .far c => permitWord (s.cluster (clusterOf c)).pMem h.memP
    | .near k _ => permitWord (s.stack (k / 64)).pMem (s.unit k).memP
    | .hub _ => 0
  | 0x040 => match a with
    | .hub k => (s.hubCore k).hirq.zeroExtend 64
    | _ => 0
  | 0x041 => match a with
    | .hub k => (s.hubCore k).en.zeroExtend 64
    | _ => 0
  | _ => 0

/-! ### Registers of the control region -/

def Sensor.word (x : Sensor) : Word :=
  x.seq.zeroExtend 64 <<< 32 ||| boolWord x.trip <<< 17 ||| boolWord x.alert <<< 16 ||| x.temp.zeroExtend 64
def Island.sensorAt (i : Island) (k : Nat) : Sensor := mget (fun _ => {}) i.sensors k
/-- The refills of a cluster as CL_PERMIT (R397). -/
def permitFields (m p t e : BitVec 7) : Word :=
  e.zeroExtend 64 <<< 24 ||| t.zeroExtend 64 <<< 16 ||| p.zeroExtend 64 <<< 8 ||| m.zeroExtend 64
def currentWord (held : Nat) (budget : BitVec 10) : Word := BitVec.ofNat 64 (held % 1024) <<< 16 ||| budget.zeroExtend 64
/-- Registers of a cluster by number, in address order (R389, R394, R397, R398). -/
def State.clusterReg (s : State) (c k : Nat) : Word :=
  let x := s.cluster c
  match k with
  | 0 => permitFields x.pMacro x.pPass x.pTable x.pMem
  | 1 => x.status.zeroExtend 64 <<< 24 ||| boolWord x.busy <<< 21 ||| x.bias.zeroExtend 64 <<< 16 ||| x.freq.zeroExtend 64
  | 2 => currentWord x.heldUnits x.budget
  | 3 => x.stall
  | _ => 0
/-- DIE_VDD and the four sensors of a die (R389, R399). -/
def State.dieReg (s : State) (d k : Nat) : Word :=
  let x := s.island d
  match k with
  | 0 => x.vddStatus.zeroExtend 64 <<< 24 ||| boolWord x.vddBusy <<< 16 ||| x.vdd.zeroExtend 64
  | 1 | 2 | 3 | 4 => (x.sensorAt (k - 1)).word
  | _ => 0
/-- Registers of a stack in address order (R141, R147, R338, R396, R397, R399). -/
def State.stackReg (s : State) (k r : Nat) : Word :=
  let x := s.stack k
  match r with
  | 0 => x.splits.zeroExtend 64 <<< 32 ||| boolWord x.busy <<< 1 ||| boolWord x.en
  | 1 => x.wave.zeroExtend 64
  | 2 => x.forecast
  | 3 => x.sensor.word
  | 4 => permitFields 0 0 x.pTable x.pMem
  | 5 => currentWord x.heldUnits x.budget
  | _ => 0
def State.thermCfg (s : State) : Word :=
  s.hub.period.zeroExtend 64 <<< 16 ||| s.hub.tripC.zeroExtend 64 <<< 8 ||| s.hub.alertC.zeroExtend 64
def State.partModeWord (s : State) : Word :=
  boolWord s.hub.partBusy <<< 8 ||| s.hub.partReq.zeroExtend 64 <<< 4 ||| BitVec.ofNat 64 s.mapMode
/-- The registers of the hub block of a snapshot (R419). -/
def State.hubBlock (s : State) : List Word :=
  [s.mapWord 0, s.mapWord 1, s.mapWord 2, s.hub.therm, s.hub.errNext.zeroExtend 64, s.partModeWord]

/-- A register of the control region: the block and the index within it. -/
inductive CReg where
  | stack (k r : Nat)
  | forecast (d : Nat)
  | err (n w : Nat)
  | errSeq
  | suspLimit (p : Nat)
  | grace
  | partMode
  | noFit
  | mapack (c : Nat)
  | cluster (c k : Nat)
  | die (d k : Nat)
  | thermCfg
  | thermStat
  | bcast
  | snapCtl
  | snapTime
  | boot
  | snap (b o : Nat)
  | none
  deriving DecidableEq, Repr

/-- The register at an 8-byte aligned offset of the control region; `none` where no register stands (R15). -/
def cregAt (off : Nat) : CReg :=
  let o := off / 8 * 8
  let hi := o / 2 ^ 24
  let lo := o % 2 ^ 24
  if hi = 1 ∧ lo < 0x100000 ∧ lo % 0x10000 < 0x30 then .stack (lo / 0x10000) (lo % 0x10000 / 8)
  else if hi = 2 ∧ lo < 0x100000 ∧ lo % 0x10000 = 0 then .forecast (lo / 0x10000)
  else if hi = 3 ∧ lo < 0x20000 then .err (lo / 32) (lo % 32 / 8)
  else if o = 0x03020000 then .errSeq
  else if hi = 4 ∧ lo < 0x100000 ∧ lo % 0x10000 = 0 then .suspLimit (lo / 0x10000)
  else if o = 0x05000000 then .grace
  else if o = 0x05000008 then .partMode
  else if o = 0x05000010 then .noFit
  else if hi = 5 ∧ 0x100 ≤ lo ∧ lo < 0x300 then .mapack ((lo - 0x100) / 8)
  else if hi = 6 ∧ lo < 0x10000 ∧ lo % 0x100 < 0x20 then .cluster (lo / 0x100) (lo % 0x100 / 8)
  else if hi = 7 ∧ lo < 0x100000 ∧ lo % 0x10000 < 0x28 then .die (lo / 0x10000) (lo % 0x10000 / 8)
  else if o = 0x08000000 then .thermCfg
  else if o = 0x08000008 then .thermStat
  else if o = 0x08000010 then .bcast
  else if o = 0x0A000000 then .snapCtl
  else if o = 0x0A000008 then .snapTime
  else if o = 0x0B000000 then .boot
  else if 0x10 ≤ hi ∧ o < 0x11521000 then .snap ((o - 0x10000000) / 0x1000) (o % 0x1000)
  else .none

/-- The latched module of the last snapshot, as a state that registers read from (R418, R419). -/
def State.latched (s : State) : State :=
  let p := s.hub.snap
  { s with harts := p.harts, fars := p.fars, clusters := p.clusters, islands := p.islands, baseDies := p.baseDies
           units := p.units, ctxs := p.ctxs, hub := { s.hub with rmap := p.rmap, acks := p.acks } }
/-- A word of a snapshot block (R419). A block reads 0 before the first snapshot. -/
def State.snapWord (s : State) (b o : Nat) : Word :=
  let l := s.latched
  if s.hub.snapSeq = 0 then 0
  else if b < 0x1000 then
    let h := l.hart (.far b)
    if o = 0x800 then h.pc
    else if o = 0x808 then boolWord (l.far b).placed ||| boolWord h.stopped <<< 1 ||| boolWord h.wait.isSome <<< 2
    else if o < 0x800 ∧ csrPresent (.far b) (o / 8) then l.csrRead (.far b) (o / 8)
    else 0
  else if b < 0x1400 then
    let home := b - 0x1000
    let c := o / 0x400
    let r := o % 0x400
    if 2 ≤ c then 0
    else if r = 0x3F8 then (l.hart (.near home c)).pc
    else if csrPresent (.near home c) (r / 8) then l.csrRead (.near home c) (r / 8)
    else 0
  else if b < 0x1500 then (if o < 0x20 then l.clusterReg (b - 0x1400) (o / 8) else 0)
  else if b < 0x1510 then
    (if o = 0 then (l.island (b - 0x1500)).forecast else if o ≤ 0x28 then l.dieReg (b - 0x1500) (o / 8 - 1) else 0)
  else if b < 0x1520 then (if o < 0x30 then l.stackReg (b - 0x1510) (o / 8) else 0)
  else if b = 0x1520 then s.hub.snap.hubRegs.getD (o / 8) 0
  else 0

/-- The value of a register (R15: 0 where none stands). -/
def State.cregRead (s : State) : CReg → Word
  | .stack k r => s.stackReg k r
  | .forecast d => (s.island d).forecast
  | .err n w =>
    let r := mget (fun _ => ({} : ErrRec)) s.hub.errs n
    if w = 0 then r.w0 else if w = 1 then r.w1 else if w = 2 then r.w2 else r.w3
  | .errSeq => s.hub.errNext.zeroExtend 64
  | .suspLimit p => (mget (fun _ => 1000000) s.hub.suspLimit p).zeroExtend 64
  | .grace => s.hub.grace.zeroExtend 64
  | .partMode => s.partModeWord
  | .noFit => s.hub.nofit
  | .mapack c =>
    match s.ctx c with
    | some x => boolWord x.pend <<< 32 ||| x.ack.zeroExtend 64
    | none => (mget (fun _ => 1) s.hub.acks c).zeroExtend 64
  | .cluster c k => s.clusterReg c k
  | .die d k => s.dieReg d k
  | .thermCfg => s.thermCfg
  | .thermStat => s.hub.therm
  | .bcast => 0
  | .snapCtl => s.hub.snapSeq.zeroExtend 64 <<< 32 ||| boolWord s.hub.snapBusy
  | .snapTime => BitVec.ofNat 64 s.hub.snap.time
  | .boot => s.hub.svn.zeroExtend 64 <<< 32 ||| s.hub.fail.zeroExtend 64 <<< 4 ||| s.hub.stage.zeroExtend 64
  | .snap b o => s.snapWord b o
  | .none => 0

/-! ### Clock, bias and supply (R389 to R391) -/

/-- The voltage floor of R390. -/
def voltFloor (f : Nat) (b : Int) : Int :=
  let up : Int := 10 * (((16 * (f - 650) + 649) / 650 : Nat) : Int)
  let dn : Int := 10 * (max b 0 / 2)
  let rev : Int := 10 * ((max (-b) 0 + 3) / 4)
  max 620 (620 + up - dn + rev)
/-- The settled frequency, bias and supply (R389). -/
def Cluster.settledFreq (c : Cluster) : Nat := if c.busy then max c.oldFreq.toNat c.freq.toNat else c.freq.toNat
def Cluster.settledBias (c : Cluster) : Int := if c.busy then min c.oldBias.toInt c.bias.toInt else c.bias.toInt
def Island.settledVdd (i : Island) : Nat := if i.vddBusy then min i.oldVdd.toNat i.vdd.toNat else i.vdd.toNat
def State.floorsHold (s : State) (d : Nat) (vdd : Nat) : Bool :=
  (List.range 16).all fun k =>
    let c := s.cluster (16 * d + k)
    decide (voltFloor c.settledFreq c.settledBias ≤ vdd)
/-- A write of CL_CLOCK: the first check that fails gives the STATUS and refuses the request (R391). -/
def State.clClockWrite (s : State) (c : Nat) (v : Word) : State :=
  let x := s.cluster c
  let d := c / 16
  let f := bits v 10 0
  let bb : BitVec 5 := v.extractLsb' 16 5
  let b := bb.toInt
  let w9 := s.dieWord d 9
  let refuse := fun (k : BitVec 8) => s.setCluster c { x with status := k }
  let y : Cluster := { x with freq := BitVec.ofNat 11 f, bias := bb, busy := true, status := 0, oldFreq := x.freq, oldBias := x.bias }
  if f < 650 ∨ 1500 < f ∨ f % 25 ≠ 0 ∨ b < -12 ∨ 8 < b then refuse 1
  else if bits w9 10 0 < f ∨ (bits w9 19 16 : Int) < b ∨ (bits w9 23 20 : Int) < -b then refuse 2
  else if x.busy then refuse 3
  else if 1300 < f ∧ (b < 4 ∨ (List.range 4).any fun k => ((s.island d).sensorAt k).alert) then refuse 4
  else if !(s.setCluster c y).floorsHold d (s.island d).settledVdd then refuse 5
  else if f = x.freq.toNat ∧ bb = x.bias then s.setCluster c { x with status := 0 }
  else s.setCluster c y
/-- A write of DIE_VDD (R391). -/
def State.dieVddWrite (s : State) (d : Nat) (v : Word) : State :=
  let x := s.island d
  let n := bits v 9 0
  let refuse := fun (k : BitVec 8) => s.setIsland d { x with vddStatus := k }
  if n < 620 ∨ 900 < n ∨ n % 10 ≠ 0 then refuse 1
  else if x.vddBusy then refuse 3
  else if !s.floorsHold d (min n x.vdd.toNat) then refuse 5
  else if n = x.vdd.toNat then s.setIsland d { x with vddStatus := 0 }
  else s.setIsland d { x with vdd := BitVec.ofNat 10 n, vddBusy := true, vddStatus := 0, oldVdd := x.vdd }

/-! ### Permits and current (R394, R396, R397) -/

def clamp64 (n : Nat) : BitVec 7 := BitVec.ofNat 7 (min n 64)
def State.clPermitWrite (s : State) (c : Nat) (v : Word) : State :=
  s.updCluster c fun x => { x with pMacro := clamp64 (bits v 6 0), pPass := clamp64 (bits v 14 8)
                                   pTable := clamp64 (bits v 22 16), pMem := clamp64 (bits v 30 24) }
def State.clCurrentWrite (s : State) (c : Nat) (v : Word) : State :=
  s.updCluster c fun x => { x with budget := BitVec.ofNat 10 (max 1 (bits v 9 0)) }
/-- PERMIT_BCAST (R397): ignored where a bit that must be 0 is not. -/
def State.permitBcast (s : State) (v : Word) : State :=
  if bits v 47 42 ≠ 0 ∨ bits v 39 7 ≠ 0 then s
  else
    let r := clamp64 (bits v 6 0)
    (List.range 256).foldl (fun s c =>
      if tb (bits v 63 48) (c / 16) then
        s.updCluster c fun x =>
          match bits v 41 40 with
          | 0 => { x with pMacro := r }
          | 1 => { x with pPass := r }
          | 2 => { x with pTable := r }
          | _ => { x with pMem := r }
      else s) s

/-! ### STACK_DETRED, STACK_WAVE (R141, R144, R147) -/

/-- A floating add for a stack that was accepted before the last write of EN and has not been applied (R144). -/
def State.earlyFloat (s : State) (k : Nat) (c : BankCmd) : Bool :=
  (c.op == 3 || c.op == 4) && stackOf c.pa == k && decide (c.id < (s.stack k).mark)
/-- Applies the floating adds of a stack that the fabric had accepted before the write of EN; one whose line the host holds stays (R64). -/
def State.fabricFloats (s : State) (k : Nat) : State :=
  s.fabric.foldl (fun s c => if s.earlyFloat k c then
    match ({ s with fabric := s.fabric.erase c }).bankApply c with
    | some s => s
    | none => s.askLine c.pa
    else s) s
/-- A write of EN (R144): BUSY; every bank is flushed (R143). A write while BUSY is 1 replaces the value that is to come and leaves BUSY
(DESIGN CHOICE, log entry 53). -/
def State.detredWrite (s : State) (k : Nat) (en : Bool) : State :=
  let s := s.flushStack k
  let n := s.nextId
  s.updStack k fun x => { x with busy := true, newEn := en, mark := n }
/-- The change of EN takes effect (R144), once every add accepted before the write has been applied and every bank flushed. -/
def State.detredDone (s : State) (k : Nat) : State :=
  if !(s.stack k).busy then s
  else
    let s := s.fabricFloats k
    if s.fabric.any (s.earlyFloat k) then s
    else
      let s := s.flushStack k
      s.updStack k fun x => { x with busy := false, en := x.newEn, splits := if x.newEn && !x.en then 0 else x.splits }

/-! ### Suspension requests and acknowledgement (R361, R377, R379, R387) -/

/-- A context event reaches a vcore: an armed monitor returns with code 4 (R111). -/
def Hart.contextEvent (h : Hart) : Hart :=
  { h with monitor := h.monitor.map fun m => { m with code := minCode m.code 4 } }
/-- Every vcore of a context gets SREQ and a pending SUSPEND_NOTICE; the deadline starts (R361 step 1). -/
def State.requestSuspend (s : State) (c reason : Nat) : State :=
  match s.ctx c with
  | none => s
  | some x =>
    if x.st ≠ .running ∨ x.susp.isSome then s
    else
      let lim := (mget (fun _ => 1000000) s.hub.suspLimit x.part).toNat
      let dl := s.time + lim
      let s := s.setCtx c { x with susp := some { reason := reason, deadline := dl, limit := lim }, suspReason := reason, hold := reason == 3 }
      x.placed.foldl (fun s p => s.updHart (.far p.2) fun h =>
        ({ h with sreq := true, evSusp := some (reason, dl, lim) } : Hart).contextEvent) s
/-- A saved vcore whose pending RMAP_CHANGE is withdrawn (R379). -/
def Saved.noMap (x : Saved) : Saved := { x with hart := { x.hart with evMap := none } }
/-- A write of CTX_MAPACK or an RMACK of the current version (R377, R379): RMAP_CHANGE is withdrawn from every vcore of the context, from
the saved ones too. The register of an id that no context has keeps the value. -/
def State.acknowledge (s : State) (c : Nat) (v : BitVec 32) : State :=
  if v ≠ s.mapVersion then s
  else match s.ctx c with
    | none => s.updHub fun h => { h with acks := mput h.acks c v }
    | some x =>
      let s := s.setCtx c { x with ack := v, pend := false, saved := mmap (fun _ o => o.map Saved.noMap) x.saved }
      x.placed.foldl (fun s p => s.updHart (.far p.2) fun h => { h with evMap := none }) s
/-- A write of CTX_MAPACK by S: of the current version, it also lifts the hold of a suspension for reason 3 (R377, R380). -/
def State.mapackWrite (s : State) (c : Nat) (v : BitVec 32) : State :=
  if v = s.mapVersion then (s.acknowledge c v).updCtx c fun x => { x with hold := false } else s
/-- A write of PART_MODE.REQ (R387, R388 steps 1 and 2). -/
def State.partModeWrite (s : State) (v : Word) : State :=
  let r := bits v 6 4
  if s.hub.partBusy ∨ 4 < r ∨ r = s.mapMode then s
  else
    let s := s.updHub fun h => { h with partReq := BitVec.ofNat 3 r, partBusy := true }
    (List.range 64).foldl (fun s c => s.requestSuspend c 2) s

/-! ### Thermal registers (R399, R400) -/

/-- A write of THERM_STAT: SPEND is cleared where the store writes 1 to it. -/
def State.thermStatWrite (s : State) (v : Word) : State :=
  if v.getLsbD 32 then s.updHub fun h => { h with therm := h.therm &&& ~~~(1#64 <<< 32) } else s

/-! ### Writes -/

/-- A write of a whole register value; `raw` holds only the bits that the store named (R15). -/
def State.cregWrite (s : State) (r : CReg) (v raw : Word) : State :=
  match r with
  | .stack k r =>
    match r with
    | 0 => s.detredWrite k (v.getLsbD 0)
    | 1 => s.updStack k fun x => { x with wave := BitVec.ofNat 11 (max 1 (min 1024 (bits v 10 0))) }
    | 4 => s.updStack k fun x => { x with pTable := clamp64 (bits v 22 16), pMem := clamp64 (bits v 30 24) }
    | 5 => s.updStack k fun x => { x with budget := BitVec.ofNat 10 (max 1 (bits v 9 0)) }
    | _ => s
  | .suspLimit p => s.updHub fun h => { h with suspLimit := mput h.suspLimit p (v.extractLsb' 0 32) }
  | .grace => s.updHub fun h => { h with grace := BitVec.ofNat 32 (max 13000 (bits v 31 0)) }
  | .partMode => s.partModeWrite v
  | .mapack c => s.mapackWrite c (v.extractLsb' 0 32)
  | .cluster c k =>
    match k with
    | 0 => s.clPermitWrite c v
    | 1 => s.clClockWrite c v
    | 2 => s.clCurrentWrite c v
    | _ => s
  | .die d k => if k = 0 then s.dieVddWrite d v else s
  | .thermCfg => s.updHub fun h => { h with period := BitVec.ofNat 16 (max 10 (bits v 31 16)), tripC := v.extractLsb' 8 8
                                            alertC := v.extractLsb' 0 8 }
  | .thermStat => s.thermStatWrite raw
  | .bcast => s.permitBcast v
  | .snapCtl | .snapTime | .boot | .snap .. | .forecast _ | .err .. | .errSeq | .noFit | .none => s
/-- Whether the store names the byte of a register's field that acts on being written. -/
def cregNamed (r : CReg) (off n : Nat) : Bool :=
  match r with
  | .stack _ 0 => off % 8 = 0
  | .partMode => off % 8 = 0
  | .mapack _ => off % 8 < 4
  | .cluster _ 1 => off % 8 < 3
  | .die _ 0 => off % 8 < 2
  | _ => 0 < n
/-- A load of `n` bytes of the control region: each byte of the register that holds it, the registers that the access spans read once each
(R15). -/
def State.ctlLoad (s : State) (pa n : Nat) : BitVec 512 :=
  let off := pa % 2 ^ 32
  let span := (List.range ((off % 8 + n + 7) / 8)).foldl (fun acc i => acc + (s.cregRead (cregAt (off + 8 * i))).toNat * 2 ^ (64 * i)) 0
  BitVec.ofNat 512 (span / 2 ^ (8 * (off % 8)) % 2 ^ (8 * n))
/-- A store of `n` bytes, at most 8, within one register. One to STACK_DETRED that does not name EN flushes its banks all the same (R143). -/
def State.ctlStore1 (s : State) (pa n v : Nat) : State :=
  let off := pa % 2 ^ 32
  let r := cregAt off
  if cregNamed r off n then s.cregWrite r (mergeReg (s.cregRead r) (off % 8) n v) (mergeReg 0 (off % 8) n v)
  else match r with
    | .stack k 0 => s.flushStack k
    | _ => s
/-- A store to the control region; a 64-byte store writes eight registers (R15, R289). -/
def State.ctlStore (s : State) (pa n : Nat) (v : BitVec 512) : State :=
  if n ≤ 8 then s.ctlStore1 pa n v.toNat
  else (List.range (n / 8)).foldl (fun s i => s.ctlStore1 (pa + 8 * i) 8 (lineWord v i).toNat) s

end Sys2Proof.Machine
end

