-- ==== Sys2Proof/Machine/Access.lean ====
section
/-! DEFINITION. Scalar accesses: the checks of R20, R21 and R38, where an access is performed (R59 to R62, R402), the store
buffer (R105, R268), the written-line log (R119), and releases and fences (R100, R104, R109). -/
namespace Sys2Proof.Machine

/-! ### Checks -/

def accTrap (cause : Nat) (va : Word) (pa reason kind : Nat) : Trap :=
  { cause := cause, infos := ⟨va, BitVec.ofNat 64 pa, BitVec.ofNat 64 reason, BitVec.ofNat 64 kind⟩ }
/-- MISALIGNED (R267). -/
def misaligned (va : Word) (n kind : Nat) : Trap := accTrap 0x05 va n 0 kind
/-- PROTECTION (R38). -/
def protection (va : Word) (pa reason kind : Nat) : Trap := accTrap 0x07 va pa reason kind
/-- PROTECTION on an instruction operand (R294; DEDUCED, log entry 18). -/
def protOperand (v : Word) (info1 reason info3 : Nat) : Trap := accTrap 0x07 v info1 reason info3

def isFar : Agent → Bool | .far _ => true | _ => false
def isNear : Agent → Bool | .near .. => true | _ => false
def isHub : Agent → Bool | .hub _ => true | _ => false

/-- The first PROTECTION reason of an access after translation (R20, R37, R38, R46, R108, R110). -/
def State.protReason (s : State) (a : Agent) (pa n : Nat) (k : AccKind) (pol : Policy) (mt1 : Bool) : Option Nat :=
  if isAlias pa then aliasFlaw (aliasOp pa) n k
  else if isFormat pa then
    if windowNo pa = 7 then some 1
    else if !s.coreLive (windowCore pa) then some 3
    else if isNear a then some 4
    else windowFlaw (windowNo pa) (pa % 2 ^ 20) n k
  else if isControl pa then (if k = .atomic ∨ k = .waitm then some 5 else none)
  else if isHost pa then
    if k = .waitm then some 5
    else if k = .atomic ∧ (!isFar a ∨ pol = .u ∨ pol = .m ∨ mt1) then some 5
    else none
  else none
/-- REMOTE_ACCESS applies (R20, R402). -/
def remote (a : Agent) (pa : Nat) : Option Nat :=
  match a.island, islandOf pa with
  | some d, some i => if d = i then none else some i
  | _, _ => none

/-- The .u load of the host region that the instruction in execution has already made here (R55). -/
def State.loadMade (s : State) (a : Agent) (va : Word) (n : Nat) (k : AccKind) : Option HostLoad :=
  if k = .load then (s.hart a).hostLds.find? fun l => l.acc.va == va && l.n == n else none
/-- The checks of a scalar access in the order of R21; `align` is false for the accesses that never trap MISALIGNED. A load that the
instruction has already made is not checked again. -/
def State.access (s : State) (a : Agent) (va : Word) (n kind : Nat) (k : AccKind) (pol : Policy) (align : Bool) : Res Acc :=
  match s.loadMade a va n k with
  | some l => .ok l.acc s
  | none =>
  if align ∧ va.toNat % n ≠ 0 then .trap (misaligned va n kind) s
  else
    (s.translate a va kind).bind fun e s =>
      let pa := e.pa va
      match s.protReason a pa n k pol e.mt1 with
      | some r => .trap (protection va pa r kind) s
      | none =>
        match remote a pa with
        | some i => .trap (accTrap 0x08 va pa i kind) s
        | none => .ok { va := va, pa := pa, page := e.page, size := e.size, mt1 := e.mt1 } s

/-- The policy that R62 leaves. -/
def effPol (pol : Policy) (mt1 : Bool) : Policy := if mt1 then .u else pol

/-! ### Loads -/

/-- The physical core that XROW of a core writes to (R241). -/
def ringTo (core : Nat) (prev : Bool) : Nat := core / 16 * 16 + (core % 16 + (if prev then 15 else 1)) % 16
/-- Whether an earlier XROW of a core has still to write its last column to another core's array: it counts as a ST there (R224). -/
def State.xrowTo (s : State) (core nb : Nat) : Bool :=
  ((s.far core).arun.toList ++ (s.far core).aq).any fun o => match o.instr with | .xrow prev .. => ringTo core prev == nb | _ => false
/-- A core's own access to a window waits: to its own array for its array instructions (R51), to a ring neighbour's for an XROW (R224). -/
def State.windowWaits (s : State) (core pa : Nat) : Bool :=
  if windowCore pa = core then !((s.far core).aq.isEmpty && (s.far core).arun.isNone) else s.xrowTo core (windowCore pa)
/-- Whether every earlier array instruction of a core has retired (R51, R115). -/
def State.arrayIdle (s : State) (core : Nat) : Bool := (s.far core).aq.isEmpty && (s.far core).arun.isNone
/-- A .u store of an agent to these bytes of the host region that the host has not yet performed (R100). -/
def State.hostWritingOn (s : State) (a : Agent) (pa n : Nat) : Bool :=
  s.hostReqs.any fun r => !r.cached && r.src == agentKey a && r.write.isSome && decide (r.pa < pa + n) && decide (pa < r.pa + r.n)
/-- A read of a format window, whose rows' parity it checks (R46, R356). -/
def State.winRead (s : State) (pa n : Nat) : Res (BitVec 512) :=
  let r := winRows (windowNo pa) (pa % 2 ^ 20) n
  (s.checkRows (windowCore pa) r.1 r.2 kLoad).bind fun _ s =>
    let v := s.winSee (windowCore pa) (windowNo pa) (pa % 2 ^ 20) n
    .ok v.1 v.2
/-- Performs a load of n bytes, not crossing a line, at its point (R59 to R62, R402). It waits for the agent's own alias commands and
.u host stores on its bytes (R40, R100). -/
def State.loadAt (s : State) (a : Agent) (acc : Acc) (n : Nat) (pol : Policy) : Res (BitVec 512) :=
  let pa := acc.pa
  let p := effPol pol acc.mt1
  if isDevice pa then
    if s.ownOnBytes a pa n then .wait s
    else match a with
    | .far c =>
      match p with
      | .c => s.loadC c pa n kLoad
      | .g => s.loadG c pa n kLoad (some a)
      | _ => s.loadM (dieOf c) pa n kLoad (some a)
    | .near .. => s.mscRead pa n kLoad
    | .hub _ => s.loadM (stackOf pa) pa n kLoad
  else if isHost pa then
    if s.hostWritingOn a pa n then .wait s
    else match a, p with
    | .far c, .c => s.loadC c pa n kLoad
    | .far c, .g => s.loadG c pa n kLoad (some a)
    | _, _ => s.hostLoad a acc n
  else if isAlias pa then
    let off := deviceOffset pa
    if s.ownOnBytes a off n then .wait s
    else if aliasOp pa = 0 then
      match a with
      | .near .. => s.mscRead off n kLoad
      | _ => s.loadM (stackOf off) off n kLoad (some a)
    else s.mscRead off n kLoad
  else if isFormat pa then
    match a with
    | .far c => if s.windowWaits c pa then .wait s else s.winRead pa n
    | _ => s.winRead pa n
  else .ok (s.ctlLoad pa n) s

/-! ### Near stores (R119, R122, R136) -/

/-- The physical anchor range of a task. -/
def Task.anchor (t : Task) : Nat × Nat := (t.pbase, t.len)
/-- Lines that hold one of `n` bytes from `pa` inside or outside an anchor range. -/
def anchorSplit (t : Option Task) (pa n : Nat) : List Nat × List Nat :=
  let lo := match t with | some t => t.pbase | none => 0
  let hi := match t with | some t => t.pbase + t.len | none => 0
  let bytes := (List.range n).map (pa + ·)
  (uniq ((bytes.filter fun b => lo ≤ b && b < hi).map lineOf), uniq ((bytes.filter fun b => !(lo ≤ b && b < hi)).map lineOf))
/-- What a write of a near context adds to the written-line log (R119). -/
def State.nearNew (s : State) (h c pa n : Nat) : List Nat :=
  (anchorSplit (s.near h c).task pa n).2.filter fun l => !(s.unit h).wlog.any fun e => e == l
/-- A full log stalls a write (R119). -/
def State.nearFull (s : State) (h c pa n : Nat) : Bool := decide (256 < (s.unit h).wlog.length + (s.nearNew h c pa n).length)
/-- The log entry or anchor note of a near context's write (R119, R122). -/
def State.nearNote (s : State) (h c pa n : Nat) : State :=
  let new := s.nearNew h c pa n
  let ins := (anchorSplit (s.near h c).task pa n).1
  let s := s.updUnit h fun u => { u with wlog := u.wlog ++ new }
  s.updNear h c fun x => { x with wrote := x.wrote ++ ins.filter fun l => !x.wrote.any fun e => e == l }
/-- A near store at the MSC with its log entry or anchor note; a full log stalls it (R119). -/
def State.nearStore (s : State) (h c pa n : Nat) (v : BitVec 512) : Res Unit :=
  if s.nearFull h c pa n then .wait s
  else (s.mscWrite pa n kStore v).bind fun _ s => .ok () (s.nearNote h c pa n)

/-! ### Stores performed -/

/-- MEMORY_ERROR of a store's fill is an event at the agent (R356). -/
def State.memEvent (s : State) (a : Agent) (i : Infos) : State := s.updHart a fun h => { h with evMem := h.evMem ++ [i] }
/-- An access that is performed as .u, or counts as one for its order (R46, R61, R62). -/
def asU (a : Agent) (pa : Nat) (pol : Policy) : Bool :=
  pol == .u || isControl pa || isFormat pa || (isHost pa && (pol == .m || !isFar a))
/-- A .u store of an agent to the host region that the host has not yet performed (R98, R268). -/
def State.hostWriting (s : State) (a : Agent) : Bool := s.hostReqs.any fun r => !r.cached && r.src == agentKey a && r.write.isSome
/-- A release of an agent among them, at a scope wider than CORE, or at any scope. -/
def State.hostReleasing (s : State) (a : Agent) (wide : Bool) : Bool :=
  s.hostReqs.any fun r => !r.cached && r.src == agentKey a && r.rel.isSome && (!wide || r.rel != some .core)
/-- Performs a store of n bytes at its point; alias stores of ops 1 to 10 are accepted by the fabric in their order, when it has room
(R39, R145). Accesses performed as .u keep their order, and a store stays behind the agent's own alias commands on its bytes (R100). -/
def State.storeAt (s : State) (a : Agent) (pa n : Nat) (pol : Policy) (page size : Nat) (v : BitVec 512) (rel : Option Scope := none) :
    Res Unit :=
  let r :=
    if asU a pa pol && s.hostWriting a then .wait s
    else if isDevice pa ∨ (isAlias pa ∧ aliasOp pa = 0) then
      let off := deviceOffset pa
      let p := if isAlias pa ∧ pol ≠ .u then Policy.m else pol
      if s.ownOnBytes a off n then .wait s
      else match a with
      | .far c =>
        match p with
        | .c => s.storeC c off n v
        | .g => s.storeG c off n v (some a)
        | _ => (s.storeM (stackOf off) off n kStore v (some a)).bind fun _ s => .ok () (s.pbForget c (lineOf off))
      | .near h c => s.nearStore h c off n v
      | .hub _ => s.storeM (stackOf off) off n kStore v
    else if isHost pa then
      if s.hostWritingOn a pa n then .wait s
      else match a, pol with
      | .far c, .c => s.storeC c pa n v
      | .far c, .g => s.storeG c pa n v (some a)
      | _, _ => .ok () (s.hostStore a pa n rel v)
    else if isAlias pa then
      if s.aliasTurn a (aliasOp pa) && s.fabricRoom (aliasOp pa) (deviceOffset pa) then
        .ok () (s.fabricAccept a pa n v page size).fabricLast
      else .wait s
    else if isFormat pa then
      match a with
      | .far c => if s.windowWaits c pa then .wait s else .ok () (s.winStore pa n v)
      | _ => .ok () (s.winStore pa n v)
    else .ok () (s.ctlStore pa n v)
  match r with
  | .trap t s => .ok () (s.memEvent a t.infos)
  | r => r

/-! ### The store buffer (R105, R268) -/

/-- Bytes of two accesses overlap. -/
def overlaps (a n b m : Nat) : Bool := decide (a < b + m) && decide (b < a + n)
/-- An alias command of ops 1 to 10 is a release at ISLAND scope (R40, R118). -/
def aliasRel (pa : Nat) : Bool := isAlias pa && aliasOp pa != 0
/-- An entry as a release, its scope. -/
def SbEntry.relScope (e : SbEntry) : Option Scope := if e.rel.isSome then e.rel else if aliasRel e.pa then some .island else none
/-- An entry that keeps its place among others of its sort: performed as .u, or to a format window. -/
def SbEntry.inOrder (e : SbEntry) : Bool := asU (.far 0) e.pa e.pol
/-- The bytes that an entry writes or, being an alias command, reads, by device offset where it acts on device memory. -/
def SbEntry.ranges (e : SbEntry) : List (Nat × Nat) :=
  let off := if isAlias e.pa then deviceOffset e.pa else e.pa
  if aliasRel e.pa then cmdBytes (aliasOp e.pa) off e.n e.page e.size (off / 4096 * 4096) e.data else [(off, e.n)]
/-- Two entries act on a byte in common. -/
def SbEntry.meets (e x : SbEntry) : Bool := e.ranges.any fun p => touches x.ranges p.1 p.2
/-- Whether entry `k` may leave the buffer: nothing earlier acts on its bytes, a release leaves when nothing stands before it, alias
commands therefore in program order (R100, R105, R145), and a .u, control or window store leaves in order among its sort. A release of
any scope so stays behind every earlier store for every observer, not only for those that R101 names (DESIGN CHOICE, log entry 54). -/
def sbMayLeave (sb : List SbEntry) (k : Nat) : Bool :=
  match sb[k]? with
  | none => false
  | some e =>
    if e.relScope.isSome then k == 0 else (sb.take k).all fun x => !x.meets e && !(e.inOrder && x.inOrder)
/-- A release that is not an alias command waits for the source's alias commands (R118). -/
def sbWaitsAlias (s : State) (core : Nat) (e : SbEntry) : Bool := e.rel.isSome && !s.aliasDone (.far core)
/-- What a release at a scope does before it is performed (R100, R104; DEDUCED, log entry 36): earlier .u host stores are performed, of
a release at CORE scope the earlier releases among them, and the lines that the issuer made dirty are written back. -/
def State.releaseAt (s : State) (a : Agent) (sc : Scope) : Res Unit :=
  if (if sc = .core then s.hostReleasing a false else s.hostWriting a) then .wait s
  else
    match sc with
    | .package => s.releaseLines a false
    | .system => s.releaseLines a true
    | _ => .ok () s
/-- Performs entry `k` of a store buffer; false where it cannot leave now. -/
def State.sbPerform (s : State) (core k : Nat) : State × Bool :=
  match (s.far core).sb[k]? with
  | none => (s, false)
  | some e =>
    if !sbMayLeave (s.far core).sb k || sbWaitsAlias s core e then (s, false)
    else
      let r := (match e.relScope with
        | some sc => s.releaseAt (.far core) sc
        | none => .ok () s).bind fun _ s => s.storeAt (.far core) e.pa e.n e.pol e.page e.size e.data e.rel
      match r with
      | .ok _ s => (s.updFar core fun f => { f with sb := dropAt f.sb k }, true)
      | r => (r.state, false)
/-- Performs entries in order until one cannot leave. -/
def State.sbDrain (s : State) (core : Nat) : Nat → State
  | 0 => s
  | n + 1 =>
    match s.sbPerform core 0 with
    | (s, true) => s.sbDrain core n
    | (s, false) => s
/-- Empties the store buffer of an agent, or stalls. -/
def State.needDrained (s : State) (a : Agent) : Res Unit :=
  match a with
  | .far c =>
    let s := s.sbDrain c (s.far c).sb.length
    if (s.far c).sb.isEmpty then .ok () s else .wait s
  | _ => .ok () s
/-- Whether the store buffer of an agent holds an entry that a test names. -/
def State.sbHas (s : State) (a : Agent) (f : SbEntry → Bool) : Bool :=
  match a with
  | .far c => (s.far c).sb.any f
  | _ => false
/-- Accesses that are performed as .u, or count as such, stay in program order (R46, R100): one waits for the earlier ones. -/
def State.uOrder (s : State) (a : Agent) (pa : Nat) (pol : Policy) (mt1 : Bool) : Res Unit :=
  if asU a pa (effPol pol mt1) && (s.sbHas a SbEntry.inOrder || s.hostWriting a) then .wait s else .ok () s
/-- Merging of R105: the last entry takes a plain store that lies within its bytes, or a release takes one within its own
(DEDUCED, log entry 11). -/
def sbMerge (sb : List SbEntry) (e : SbEntry) : Option (List SbEntry) :=
  match sb.getLast? with
  | none => none
  | some x =>
    if e.rel.isSome ∨ x.shut ∨ x.pol ≠ e.pol ∨ e.pol = .u ∨ !isDevice e.pa ∨ !isDevice x.pa then none
    else if x.pa ≤ e.pa ∧ e.pa + e.n ≤ x.pa + x.n then
      some (sb.dropLast ++ [{ x with data := putBytes x.data (e.pa - x.pa) e.n e.data }])
    else none
/-- An acquire or a fence of an agent: nothing merges into its earlier entries (R105). -/
def State.sbShut (s : State) (a : Agent) : State :=
  match a with
  | .far c =>
    if (s.far c).sb.isEmpty then s
    else s.updFar c fun f => { f with sb := f.sb.map fun e => { e with shut := true } }
  | _ => s
/-- Before an acquire at a scope: earlier releases of the agent have been performed at the narrower of the two scopes (R100). -/
def State.acquireOrder (s : State) (a : Agent) (sc : Scope) : Res Unit :=
  if sc = .core then .ok () (s.sbShut a)
  else
    (if s.sbHas a (fun e => e.relScope.isSome && e.relScope != some Scope.core) then s.needDrained a else .ok () s).bind fun _ s =>
      if s.aliasDone a && !s.hostReleasing a true then .ok () (s.sbShut a) else .wait s
/-- The bytes of the buffer over a loaded value (R268). -/
def sbForward (sb : List SbEntry) (pa n : Nat) (v : BitVec 512) : BitVec 512 :=
  sb.foldl (fun v e =>
    if isDevice e.pa || isHost e.pa then
      (List.range n).foldl (fun v i =>
        if e.pa ≤ pa + i ∧ pa + i < e.pa + e.n then putBytes v i 1 (getBytes e.data (pa + i - e.pa) 1) else v) v
    else v) v
/-- The buffer covers every byte of a load. -/
def sbCovers (sb : List SbEntry) (pa n : Nat) : Bool :=
  (List.range n).all fun i => sb.any fun e => decide (e.pa ≤ pa + i) && decide (pa + i < e.pa + e.n)
/-- A far core's store takes an entry of the buffer, or merges into one while an entry is free (R105, R336); it leaves at once when the
turn does not overlap. A store to the core's own format window issues once every earlier array instruction has retired (R51, R336), one to
a ring neighbour's once every earlier XROW there has (R224).
Hub cores and near contexts perform each store in place, in program order (DESIGN CHOICE, log entry 55: R100 lets a plain store be late). -/
def State.storeIssue (s : State) (a : Agent) (acc : Acc) (n : Nat) (pol : Policy) (rel : Option Scope) (v : BitVec 512) : Res Unit :=
  let p := effPol pol acc.mt1
  match a with
  | .far c =>
    let f := s.far c
    let e : SbEntry := { pa := acc.pa, n := n, data := v, pol := p, rel := rel, page := acc.page, size := acc.size }
    if isFormat acc.pa && s.windowWaits c acc.pa then .wait s
    else if 16 ≤ f.sb.length then .wait (if s.overlap then s else s.sbDrain c 16)
    else match if s.overlap then sbMerge f.sb e else none with
      | some sb => .ok () (s.setFar c { f with sb := sb })
      | none =>
        let s := s.setFar c { f with sb := f.sb ++ [e] }
        .ok () (if s.overlap then s else s.sbDrain c 16)
  | _ =>
    if (rel.isSome && !s.aliasDone a) then .wait s
    else (match (if rel.isSome then rel else if aliasRel acc.pa then some .island else none) with
      | some sc => s.releaseAt a sc
      | none => .ok () s).bind fun _ s => s.storeAt a acc.pa n p acc.page acc.size v rel
/-- A load with the agent's buffered bytes over it. A load that meets an alias or window store of the buffer waits for it. Each load is
performed in its own turn, in program order (DESIGN CHOICE, log entry 55: R100 lets it be performed in another order too). -/
def State.loadIssue (s : State) (a : Agent) (acc : Acc) (n : Nat) (pol : Policy) : Res (BitVec 512) :=
  (s.uOrder a acc.pa pol acc.mt1).bind fun _ s =>
    match a with
    | .far c =>
      let sb := (s.far c).sb
      if sb.isEmpty then s.loadAt a acc n pol
      else
        let off := if isAlias acc.pa then deviceOffset acc.pa else acc.pa
        let clash := sb.any fun e => (isAlias e.pa || isAlias acc.pa || isFormat e.pa) && touches e.ranges off n
        if clash then (s.needDrained a).bind fun _ s => s.loadAt a acc n pol
        else (s.loadAt a acc n pol).bind fun v s => .ok (sbForward sb acc.pa n v) s
    | _ => s.loadAt a acc n pol

/-- A load of an instruction that may wait for something else once it has read: as `loadIssue`, but one performed as .u and one of the control
region is performed once only (R55). -/
def State.loadOnce (s : State) (a : Agent) (acc : Acc) (n : Nat) (pol : Policy) : Res (BitVec 512) :=
  match (s.hart a).loadDone acc n with
  | some l => l.result n s
  | none =>
    (s.loadIssue a acc n pol).bind fun v s =>
      .ok v (if asU a acc.pa (effPol pol acc.mt1) then
          s.updHart a fun h => { h with hostLds := h.hostLds ++ [{ acc := acc, n := n, ans := some v }] }
        else s)

/-! ### Fences (R109, R119, R125) -/

/-- An entry of the written-line log is handled and leaves it (R119): the directory writes back and invalidates the island's copies,
after the host has given up the line where it holds it (R64). -/
def State.wlogOut (s : State) (h ln : Nat) : Res Unit :=
  let d := h / 64
  (if s.islandHolds d ln then (s.cleanTry d ln true).bind fun _ s => .ok () (s.wake false ln 1) else .ok () s).bind fun _ s =>
    .ok () (s.updUnit h fun u => { u with wlog := u.wlog.filter fun l => l != ln })
def State.wlogEmpty (s : State) (h : Nat) : State := (s.unit h).wlog.foldl (fun s ln => (s.wlogOut h ln).state) s
/-- An operation in flight of the vcore that a core holds. -/
def Remote.of (r : Remote) (core : Nat) : Bool := r.core == core && !r.stray
/-- Whether a remote operation of a core is still in flight. -/
def State.remoteBusy (s : State) (core : Nat) : Bool := s.remotes.any fun r => r.of core && !r.lost
/-- Whether a near unit's log keeps a fence of this scope waiting (R119). -/
def State.logged (s : State) (a : Agent) (sc : Scope) : Bool :=
  match a with
  | .near h _ => (sc == .island || sc == .package || sc == .system) && !(s.unit h).wlog.isEmpty
  | _ => false
/-- FENCE at a scope (R109, R118, R324). -/
def State.fence (s : State) (a : Agent) (sc : Scope) : Res Unit :=
  let inner := sc = .core ∧ !(match a with | .far c => (s.far c).sb.any fun e => aliasRel e.pa | _ => false)
  (if inner then .ok () (s.sbShut a) else s.needDrained a).bind fun _ s =>
    if !s.aliasDone a then .wait s
    else
      let s := match a with
        | .near h _ => if s.overlap || !s.logged a sc then s else s.wlogEmpty h
        | _ => s
      let busy := match a with
        | .far c => (sc == .package || sc == .system) && s.remoteBusy c
        | _ => false
      if s.logged a sc || busy then .wait s else s.releaseAt a sc

end Sys2Proof.Machine
end

