-- ==== Sys2Proof/Machine/ArrayPass.lean ====
section
/-! DEFINITION. Array passes as pure functions of the array: rows, lanes, selections, matches, tag logic, field moves and
truth tables (R218 to R241). A row that is not listed holds 0, so what a pass makes of it is computed once for all. -/
namespace Sys2Proof.Machine

/-! ### Lanes (R218, R219) -/

/-- Number of active lanes L. -/
def laneCount : LaneMode → Nat | .one => 1 | .two => 2 | .four => 4
def Arr.lanesN (a : Arr) : Nat := laneCount a.lanes
/-- Columns of a lane W. -/
def Arr.laneW (a : Arr) : Nat := 256 / a.lanesN
/-- `n` columns from column `c` of a lane. -/
def fieldOf (v c n : Nat) : Nat := v / 2 ^ c % 2 ^ n
/-- A lane with `n` columns from column `c` replaced by the low bits of a value. -/
def withField (v c n x : Nat) : Nat := v - fieldOf v c n * 2 ^ c + x % 2 ^ n * 2 ^ c
/-- The lanes of a row. -/
def laneOfRow (row : BitVec 256) (w l : Nat) : Nat := row.toNat / 2 ^ (l * w) % 2 ^ w
def withLane (row : BitVec 256) (w l v : Nat) : BitVec 256 := BitVec.ofNat 256 (withField row.toNat (l * w) w v)

/-! ### Tag bits of all rows -/

/-- The four lane bits of every row equal to a nibble. -/
def allRows (nib : Nat) : TagReg := BitVec.ofNat 131072 ((2 ^ 131072 - 1) / 15 * nib)
/-- The active lanes' bits of the rows of a span. -/
def spanBits (l first count : Nat) : TagReg :=
  BitVec.ofNat 131072 ((2 ^ (4 * count) - 1) / 15 * (2 ^ l - 1) * 2 ^ (4 * first))
def Arr.tag (a : Arr) (t : TagNo) : TagReg := mget (fun _ => 0) a.tags t.toNat
def Arr.setTag (a : Arr) (t : TagNo) (v : TagReg) : Arr := { a with tags := mset 0 a.tags t.toNat v }
/-- A span register (R183, R220). -/
def Arr.spanOf (a : Arr) (ls : BitVec 2) : Nat × Nat := mget (fun _ => (0, 32768)) a.spans ls.toNat
def Arr.spanMask (a : Arr) (ls : BitVec 2) : TagReg := let p := a.spanOf ls; spanBits a.lanesN p.1 p.2
/-- The rows and lanes on which an instruction may act (R220). -/
def Arr.selected (a : Arr) (r : Rows) : TagReg :=
  match r.sel with
  | none => a.spanMask r.span
  | some t => a.spanMask r.span &&& a.tag t
/-- The lane bits of a row. -/
def rowBits (t : TagReg) (r : Nat) : Nat := (t.extractLsb' (4 * r) 4).toNat
/-- The tag bits with a row's lane bits replaced. -/
def withRowBits (t : TagReg) (r nib : Nat) : TagReg :=
  (t &&& ~~~(15#131072 <<< (4 * r))) ||| (BitVec.ofNat 131072 (nib % 16) <<< (4 * r))
/-- A bit for every row and lane, from a test of the lane's contents. -/
def Arr.testRows (a : Arr) (f : Nat → Nat → Bool) : TagReg :=
  let nib := fun row => (List.range a.lanesN).foldl
    (fun acc l => acc + (if f l (laneOfRow row a.laneW l) then 2 ^ l else 0)) 0
  (mcanon a.rows).foldl (fun t p => withRowBits t p.1 (nib p.2)) (allRows (nib 0))
/-! ### A function on every selected lane of every selected row (R242) -/

/-- A lane function on the selected lanes of one row. -/
def rowStep (w l : Nat) (g : Nat → Nat → Nat × Conds) (nib : Nat) (row : BitVec 256) : BitVec 256 × Conds :=
  (List.range l).foldl (fun acc i =>
    if tb nib i then
      let r := g i (laneOfRow row w i)
      (withLane acc.1 w i r.1, acc.2.or r.2)
    else acc) (row, {})
/-- Whether an unlisted row is selected in a lane. -/
def Arr.zeroSelected (a : Arr) (sel : TagReg) (l : Nat) : Bool :=
  ((a.rows.foldl (fun t p => withRowBits t p.1 0) sel) &&& allRows (2 ^ l)) != 0
/-- A row of a map whose unlisted rows hold 0. -/
def putRow (r : Nat) (v : BitVec 256) (m : FMap (BitVec 256)) : FMap (BitVec 256) := if v = 0 then m else (r, v) :: m
/-- `n` rows from row `r`, each changed by a function, where a map lists rows from `r` on. -/
def fillRows (f : Nat → BitVec 256 → BitVec 256) : Nat → Nat → FMap (BitVec 256) → FMap (BitVec 256)
  | 0, _, m => m
  | n + 1, r, m =>
    match m with
    | [] => putRow r (f r 0) (fillRows f n (r + 1) [])
    | (k, v) :: t => if k = r then putRow r (f r v) (fillRows f n (r + 1) t) else putRow r (f r 0) (fillRows f n (r + 1) m)
/-- Acts on every selected row and lane, each on its own; every other bit is unchanged. -/
def Arr.runLanes (a : Arr) (span : Nat × Nat) (sel : TagReg) (g : Nat → Nat → Nat × Conds) : Arr × Conds :=
  let w := a.laneW
  let l := a.lanesN
  let rows := mcanon a.rows
  let listed := rows.map fun p => (p.1, rowStep w l g (rowBits sel p.1) p.2)
  let zero := (List.range l).filter fun i => a.zeroSelected sel i
  let conds := (listed.map fun p => p.2.2) ++ zero.map fun i => (g i 0).2
  let c := conds.foldl Conds.or {}
  if (List.range l).all fun i => (g i 0).1 == 0 then
    ({ a with rows := (listed.filter fun p => p.2.1 != 0).map fun p => (p.1, p.2.1) }, c)
  else
    let below := rows.filter fun p => decide (p.1 < span.1)
    let rest := rows.filter fun p => decide (span.1 ≤ p.1)
    ({ a with rows := below ++ fillRows (fun r v => (rowStep w l g (rowBits sel r) v).1) span.2 span.1 rest }, c)
/-- As `runLanes` for a function that reports nothing. -/
def Arr.runBits (a : Arr) (r : Rows) (sel : TagReg) (g : Nat → Nat → Nat) : Arr :=
  (a.runLanes (a.spanOf r.span) sel fun l v => (g l v, {})).1

/-! ### Column specifications (R221) -/

/-- The columns and key bits that a specification names in a lane. -/
def Arr.specCols (a : Arr) (s : Spec) (l : Nat) : List (Nat × Bool) :=
  match s with
  | .pairs ps => ps.map fun p => (p.1.toNat, p.2)
  | .imm c n1 k => (List.range (n1.toNat + 1)).map fun i => (c.toNat + i, k.getLsbD i)
  | .ky c n1 => (List.range (n1.toNat + 1)).map fun i => (c.toNat + i, a.ky.getLsbD (l * a.laneW + c.toNat + i))
def colsMatch (v : Nat) (cs : List (Nat × Bool)) : Bool := cs.all fun p => tb v p.1 == p.2
def colsWrite (v : Nat) (cs : List (Nat × Bool)) : Nat := cs.foldl (fun v p => withField v p.1 1 p.2.toNat) v
/-- The tag after a pass or a comparison (R226): only the span's rows in active lanes are written. -/
def Arr.combTag (a : Arr) (d : TagNo) (ls : BitVec 2) (comb : Comb) (hit : TagReg) : Arr :=
  let old := a.tag d
  let m := a.spanMask ls
  let new := match comb with
    | .mov => hit
    | .and => old &&& hit
    | .or => old ||| hit
  a.setTag d ((old &&& ~~~m) ||| (new &&& m))
def pairCols (ps : List (Col × Bool)) : List (Nat × Bool) := ps.map fun p => (p.1.toNat, p.2)
/-- PCMP (R226). -/
def Arr.pcmp (a : Arr) (d : TagNo) (r : Rows) (comb : Comb) (s : Spec) : Arr :=
  a.combTag d r.span comb ((a.testRows fun l v => colsMatch v (a.specCols s l)) &&& a.selected r)
/-- PSET (R226). -/
def Arr.pset (a : Arr) (r : Rows) (s : Spec) : Arr :=
  a.runBits r (a.selected r) fun l v => colsWrite v (a.specCols s l)
/-- PCS (R226, R227). -/
def Arr.pcs (a : Arr) (d : TagNo) (r : Rows) (comb : Comb) (cs ws : List (Col × Bool)) : Arr :=
  let hit := (a.testRows fun _ v => colsMatch v (pairCols cs)) &&& a.selected r
  (a.runBits r hit fun _ v => colsWrite v (pairCols ws)).combTag d r.span comb hit

/-! ### Tag logic and reductions (R228 to R230) -/

def Arr.top (a : Arr) (op : TopOp) : Arr :=
  match op with
  | .and d x y => a.setTag d (a.tag x &&& a.tag y)
  | .or d x y => a.setTag d (a.tag x ||| a.tag y)
  | .xor d x y => a.setTag d (a.tag x ^^^ a.tag y)
  | .andn d x y => a.setTag d (a.tag x &&& ~~~a.tag y)
  | .not d x => a.setTag d (~~~a.tag x)
  | .mov d x => a.setTag d (a.tag x)
  | .clr d => a.setTag d 0
  | .set d => a.setTag d (allRows 15)
def Arr.tshf (a : Arr) (op : TshfOp) (d s : TagNo) : Arr :=
  let t := a.tag s
  match op with
  | .up ones k =>
    let low := (allRows 15) >>> (4 * k.toNat)
    a.setTag d ((t >>> (4 * k.toNat)) ||| (if ones then ~~~low else 0))
  | .dn ones k =>
    let high := (allRows 15) <<< (4 * k.toNat)
    a.setTag d ((t <<< (4 * k.toNat)) ||| (if ones then ~~~high else 0))
  | .lane k =>
    let n := a.lanesN
    let idle := t &&& allRows (16 - 2 ^ n)
    a.setTag d ((List.range n).foldl (fun acc l => acc ||| (((t >>> ((l + k.toNat) % n)) &&& allRows 1) <<< l)) idle)
/-- The tag bits of the span's rows in the selected lanes (R230). -/
def Arr.tagBits (a : Arr) (t : TagNo) (ls : BitVec 2) (lane : Option (BitVec 2)) : TagReg :=
  let m := a.tag t &&& a.spanMask ls
  match lane with
  | none => m
  | some l => m &&& allRows (2 ^ l.toNat)
/-- The number of set bits: neighbouring blocks of 1, 2, 4 and so on up to 65,536 bits are added. -/
def countBits (t : TagReg) : Nat :=
  (List.range 17).foldl (fun x k =>
    let b := 2 ^ 2 ^ k
    let m := (2 ^ 131072 - 1) / (b + 1)
    (x &&& m) + (x / b &&& m)) t.toNat
/-- The lowest set bit of a nonzero word. -/
def lowestBit (t : TagReg) : Nat := (t &&& -t).toNat.log2
def Arr.tfirst (a : Arr) (clr : Bool) (t : TagNo) (ls : BitVec 2) (lane : Option (BitVec 2)) : Word × Arr :=
  let m := a.tagBits t ls lane
  if m = 0 then (0xFFFFFFFFFFFFFFFF, a)
  else
    let i := lowestBit m
    (BitVec.ofNat 64 (i / 4 + i % 4 * 65536), if clr then a.setTag t (a.tag t &&& ~~~(1#131072 <<< i)) else a)

/-! ### Fields (R234 to R237) -/

def Arr.cfill (a : Arr) (r : Rows) (c n : Nat) (v : Word) : Arr :=
  a.runBits r (a.selected r) fun _ x => withField x c n v.toNat
def Arr.cread (a : Arr) (sx : Bool) (row c n lane : Nat) : Word :=
  let v := fieldOf (laneOfRow (a.row row) a.laneW lane) c n
  if sx && tb v (n - 1) then BitVec.ofInt 64 ((v : Int) - 2 ^ n) else BitVec.ofNat 64 v
def Arr.cwrite (a : Arr) (row c n lane : Nat) (v : Word) : Arr :=
  let w := a.laneW
  a.setRow row (withLane (a.row row) w lane (withField (laneOfRow (a.row row) w lane) c n v.toNat))
def Arr.tload (a : Arr) (t : TagNo) (ls : BitVec 2) (c : Nat) : Arr :=
  a.combTag t ls .mov (a.testRows fun _ v => tb v c)
def Arr.tstore (a : Arr) (t : TagNo) (ls : BitVec 2) (c : Nat) : Arr :=
  let m := a.spanMask ls
  let r : Rows := ⟨ls, none⟩
  (a.runBits r (m &&& ~~~a.tag t) fun _ v => withField v c 1 0).runBits r (m &&& a.tag t) fun _ v => withField v c 1 1
def Arr.fmov (a : Arr) (r : Rows) (cd cs n : Nat) : Arr :=
  a.runBits r (a.selected r) fun _ v => withField v cd n (fieldOf v cs n)
/-- A row with the selected lanes' destination fields taken from another row. -/
def takeField (w l nib cd cs n : Nat) (row src : BitVec 256) : BitVec 256 :=
  (List.range l).foldl (fun acc i =>
    if tb nib i then withLane acc w i (withField (laneOfRow acc w i) cd n (fieldOf (laneOfRow src w i) cs n)) else acc) row
/-- FROT (R237): only a listed row, or one whose source row is listed, can change. -/
def Arr.frot (a : Arr) (r : Rows) (k cd cs n : Nat) : Arr :=
  let sel := a.selected r
  let d := 2 ^ k
  let keys := a.rows.map (·.1)
  let touched := uniq (keys ++ (keys.filter fun x => d ≤ x).map (· - d))
  touched.foldl (fun b x =>
    if x + d ≤ 32767 then b.setRow x (takeField a.laneW a.lanesN (rowBits sel x) cd cs n (a.row x) (a.row (x + d))) else b) a
/-- The column of a field that moves as the `k`-th (R237): ascending when the destination does not lie above the source, else descending. -/
def moveCol (cd cs n k : Nat) : Nat := if cd ≤ cs then k else n - 1 - k
/-- One of FMOV's two passes on a column (R237): it moves the bits of one value. Which value the first pass moves is the device's choice
(log entry 61). -/
def Arr.fmovPass (a : Arr) (r : Rows) (cd cs : Nat) (first : Bool) : Arr :=
  let b := first == Config.moveOnes
  a.runBits r (a.selected r) fun _ v => if tb v cs == b then withField v cd 1 b.toNat else v
/-- The source column that XROW reads (R241): the lane bits of every row that holds a 1. -/
def Arr.readColumn (a : Arr) (c : Nat) : FMap (BitVec 4) :=
  (mcanon a.rows).foldl (fun m p => mset 0 m p.1 (BitVec.ofNat 4 ((List.range a.lanesN).foldl
    (fun acc l => acc + if tb (laneOfRow p.2 a.laneW l) c then 2 ^ l else 0) 0))) []
/-- A row with a column's bits put into the selected lanes. -/
def landRow (w l nib c bits : Nat) (row : BitVec 256) : BitVec 256 :=
  (List.range l).foldl (fun acc i =>
    if tb nib i then withLane acc w i (withField (laneOfRow acc w i) c 1 (bits / 2 ^ i % 2)) else acc) row
/-- XROW (R241): what the neighbour's array becomes as a column that the issuer has read lands in its column `c`. -/
def Arr.landColumn (a nb : Arr) (r : Rows) (c : Nat) (col : FMap (BitVec 4)) : Arr :=
  let sel := a.selected r
  (uniq (col.map (·.1) ++ nb.rows.map (·.1))).foldl (fun b x =>
    b.setRow x (landRow a.laneW a.lanesN (rowBits sel x) c (mget (fun _ => 0) col x).toNat (b.row x))) nb

/-! ### Truth tables (R238 to R240) -/

def Arr.ttEntry (a : Arr) (e : Nat) : BitVec 32 := mget (fun _ => 0) a.tt e
/-- The terms of an entry: valid, slot, value, from the bit positions given. -/
def ttTerms (e : BitVec 32) (los : List Nat) : List (Nat × Bool) :=
  (los.filter fun lo => e.getLsbD (lo + 3)).map fun lo => ((e.extractLsb' (lo + 1) 2).toNat, e.getLsbD lo)
def ttCompare (e : BitVec 32) : List (Nat × Bool) := ttTerms e [0, 4, 8]
def ttWrite (e : BitVec 32) : List (Nat × Bool) := ttTerms e [12, 16]
/-- The entries that TTLD's registers supply (R239). -/
def ttWords (ws : List Word) : List (BitVec 32) := ws.flatMap fun w => [w.extractLsb' 0 32, w.extractLsb' 32 32]
def Arr.ttld (a : Arr) (e : Nat) (ws : List Word) : Arr :=
  (ttWords ws).zipIdx.foldl (fun a p => { a with tt := mset 0 a.tt (e + p.2) p.1 }) a
/-- One pass of TTRUN on a lane. -/
def ttPass (col : Nat → Nat) (e : BitVec 32) (v : Nat) : Nat :=
  if colsMatch v ((ttCompare e).map fun p => (col p.1, p.2)) then colsWrite v ((ttWrite e).map fun p => (col p.1, p.2)) else v
def Arr.ttrun (a : Arr) (desc : Bool) (r : Rows) (e m n : Nat) (x : Nat → Nat) : Arr :=
  let entries := (List.range m).map fun k => a.ttEntry (e + k)
  a.runBits r (a.selected r) fun _ v =>
    (List.range n).foldl (fun v t =>
      let i := if desc then n - 1 - t else t
      entries.foldl (fun v k => ttPass (fun j => if j < 3 then x j + i else x 3) k v) v) v

end Sys2Proof.Machine
end

