-- ==== Sys2Proof/Machine/ArrayMacro.lean ====
section
/-! DEFINITION. Array macros as pure functions of the array: element operations, field placement, the reduction tree, the
sparse buffer, and the checks of FIELD_SPEC (R222, R242 to R264). -/
namespace Sys2Proof.Machine

/-! ### Element operations -/

/-- Sum or difference (R249). -/
def addElem (f : Fmt) (rnd : Rnd) (sat sub : Bool) (x y : Nat) : Nat × Conds :=
  if f.isInt then (wrapInt f.width (if sub then (x : Int) - y else x + y), {})
  else
    let yv := decodeElem f y
    let s := xadd rnd (decodeElem f x) (if sub then yv.neg else yv)
    let r := roundF s.1 rnd f sat
    (r.1, r.2.or (Conds.invalid s.2))
/-- Product (R251): 2w bits for an integer format. -/
def mulElem (f : Fmt) (rnd : Rnd) (sat : Bool) (x y : Nat) : Nat × Conds :=
  if f.isInt then (wrapInt (2 * f.width) (intOf f x * intOf f y), {})
  else
    let p := xmul (decodeElem f x) (decodeElem f y)
    let r := roundF p.1 rnd f sat
    (r.1, r.2.or (Conds.invalid p.2))
/-- Round(x × y + d, rnd, fd, sat), rounded once (R252 to R254). -/
def fmaElem (fx fy fd : Fmt) (rnd : Rnd) (sat : Bool) (x y d : Nat) : Nat × Conds :=
  let p := xmul (decodeElem fx x) (decodeElem fy y)
  let s := xadd rnd p.1 (decodeElem fd d)
  let r := roundF s.1 rnd fd sat
  (r.1, r.2.or (Conds.invalid (p.2 || s.2)))
/-- The width of a carry-save accumulator (R244). -/
def waOf (c : BitVec 2) : Nat := if c = 0 then 16 else if c = 1 then 24 else 32
/-- One compression step (R248). -/
def compress (wa : Nat) (s c p inj : Nat) : Nat × Nat :=
  let p := p % 2 ^ wa
  ((s ^^^ c) ^^^ p, (2 * (((s &&& c) ||| (s &&& p)) ||| (c &&& p))) % 2 ^ wa + inj)
/-- AMACK on a carry-save accumulator (R253). -/
def macCarry (f : Fmt) (wa : Nat) (d x k : Nat) : Nat :=
  let m := 2 ^ wa
  let s := d % m
  let c := d / m % m
  let r := match f with
    | .i8 =>
      let v := wrapInt wa (intOf .i8 x)
      (List.range 8).foldl (fun (a : Nat × Nat) j =>
        let p := v * 2 ^ j % m
        if !tb k j then compress wa a.1 a.2 0 0
        else if j < 7 then compress wa a.1 a.2 p 0
        else compress wa a.1 a.2 (m - 1 - p) 1) (s, c)
    | .ql4 => compress wa s c (wrapInt wa (ql4Levels.getD x 0 * intOf .i8 k)) 0
    | _ => compress wa s c (wrapInt wa (intOf .i4 x * intOf .i8 k)) 0
  r.1 + r.2 * m
/-- AMAC (R252). -/
def macElem (f1 f2 : Fmt) (rnd : Rnd) (sat : Bool) (d x y : Nat) : Nat × Conds :=
  if f1.isInt then (wrapInt 32 (d + intOf f1 x * intOf f2 y), {}) else fmaElem f1 f2 .fp32 rnd sat x y d
/-- AMACK (R253). -/
def mackElem (f1 f2 : Fmt) (rnd : Rnd) (sat : Bool) (wa d x k : Nat) : Nat × Conds :=
  if f1.carrySave then (macCarry f1 wa d x k, {}) else fmaElem f1 f2 .fp32 rnd sat x k d
/-- Integer conversion (R75). -/
def cvtInt (fs fd : Fmt) (sat : Bool) (x : Nat) : Nat :=
  let v := intOf fs x
  if sat ∧ fd.width ≤ fs.width then
    let lo : Int := if fd.signed then -(2 ^ (fd.width - 1) : Int) else 0
    let hi : Int := if fd.signed then 2 ^ (fd.width - 1) - 1 else 2 ^ fd.width - 1
    wrapInt fd.width (max lo (min hi v))
  else wrapInt fd.width v
/-- ACVT but for rnd:ef (R255). -/
def cvtElem (fs fd : Fmt) (rnd : Rnd) (sat : Bool) (x : Nat) : Nat × Conds :=
  if fs.isInt && fd.isInt then (cvtInt fs fd sat x, {})
  else if fd = .ql4 then qcode (decodeElem fs x)
  else round (decodeElem fs x) rnd fd sat
/-- ConvertEF: the result, the new residue and the conditions (R94). An infinite sum that saturation turns into the largest E4M3 value
leaves residue +0, as the rule's text says, and not s - y, as its pseudocode has it (DEDUCED, log entry 59). -/
def convertEF (fd : Fmt) (sat : Bool) (x res : Nat) : Nat × Nat × Conds :=
  let t := xadd .rne (decodeElem .fp32 x) (decodeElem .fp32 res)
  let s := roundF t.1 .rne .fp32 false
  let sv := decodeElem .fp32 s.1
  let y := roundF sv .rne fd sat
  let yv := decodeElem fd y.1
  let c := (s.2.or y.2).or (Conds.invalid t.2)
  let lost := y.2.ovf || (match sv, yv with
    | .nan, _ | .inf _, _ | _, .nan | _, .inf _ => true
    | _, _ => false)
  (y.1, (if lost then 0 else (roundF (xadd .rne sv yv.neg).1 .rne .fp32 false).1), c)
/-- ACMP's condition (R256, R87). -/
def cmpElem (c : ACond) (f : Fmt) (x y : Nat) : Bool :=
  let a := decodeElem f x
  let b := decodeElem f y
  match c with
  | .eq => xeq a b
  | .ne => !xeq a b
  | .lt => xlt a b
  | .le => xlt a b || xeq a b
  | .gt => xlt b a
  | .ge => xlt b a || xeq a b
/-- AMINMAX (R257). -/
def pickElem (max : Bool) (f : Fmt) (x y : Nat) : Nat := (round (xpick max (decodeElem f x) (decodeElem f y)) .rne f false).1
/-- AQDEC (R261, R93). -/
def qdecElem (fd : Fmt) (code scale super : Nat) : Nat × Conds :=
  let p := xmul (ql4Val code) (sc16Val scale)
  let t := roundF p.1 .rne .fp32 false
  let q := xmul (decodeElem .fp32 t.1) (decodeElem .fp32 super)
  let v := roundF q.1 .rne .fp32 false
  let c := (t.2.or v.2).or (Conds.invalid (p.2 || q.2))
  if fd = .bf16 then
    let b := roundF (decodeElem .fp32 v.1) .rne .bf16 false
    (b.1, c.or b.2)
  else (v.1, c)

/-! ### Fields (R244, R264) -/

/-- The fields of a macro as first column and width; width 0 where the macro has none. -/
structure MFields where
  d : Nat × Nat := (0, 0)
  a : Nat × Nat := (0, 0)
  b : Nat × Nat := (0, 0)
  k : Nat × Nat := (0, 0)
  x : Nat × Nat := (0, 0)
  deriving DecidableEq, Repr

/-- Scratch columns of a sum (R264). -/
def addScratch (f : Fmt) : Nat := if f.isInt then 1 else if f = .fp32 then 64 else 32
def fmaScratch (f : Fmt) : Nat := if f = .fp32 then 128 else 64
def mulScratch (f : Fmt) : Nat := if f.isInt then 4 * f.width + 2 else fmaScratch f
/-- The width of an AMACK or ASPMAC accumulator. -/
def accWidth (f : Fmt) (wa : BitVec 2) : Nat := if f.carrySave then 2 * waOf wa else 32
def accScratch (f : Fmt) : Nat := if f.carrySave then 0 else 40
/-- Where a macro's fields stand. -/
def macroFields : Instr → MFields
  | .aadd _ dc ac xc f _ _ | .asub _ dc ac xc f _ _ =>
    { d := (dc.toNat, f.width), a := (ac.toNat, f.width), x := (xc.toNat, addScratch f) }
  | .aaddk _ dc kc xc f => { d := (dc.toNat, f.fmt.width), k := (kc.toNat, f.fmt.width), x := (xc.toNat, 1) }
  | .amul _ dc ac bc xc f _ _ =>
    { d := (dc.toNat, if f.isInt then 2 * f.width else f.width), a := (ac.toNat, f.width), b := (bc.toNat, f.width)
      x := (xc.toNat, mulScratch f) }
  | .amulk _ dc ac kc xc f _ _ =>
    { d := (dc.toNat, if f.isInt then 2 * f.width else f.width), a := (ac.toNat, f.width), k := (kc.toNat, f.width)
      x := (xc.toNat, mulScratch f) }
  | .amac _ dc ac bc xc f1 f2 _ _ =>
    { d := (dc.toNat, 32), a := (ac.toNat, f1.width), b := (bc.toNat, f2.width)
      x := (xc.toNat, if f1 = .i4 then 18 else if f1.isInt then 34 else 40) }
  | .amack _ dc ac kc xc f1 f2 _ _ wa =>
    { d := (dc.toNat, accWidth f1 wa), a := (ac.toNat, f1.width), k := (kc.toNat, f2.width), x := (xc.toNat, accScratch f1) }
  | .afma _ dc ac bc xc f _ _ =>
    { d := (dc.toNat, f.width), a := (ac.toNat, f.width), b := (bc.toNat, f.width), x := (xc.toNat, fmaScratch f) }
  | .acvt _ dc ac rc xc fs fd rnd _ =>
    { d := (dc.toNat, fd.width), a := (ac.toNat, fs.width), b := if rnd = .ef then (rc.toNat, 32) else (0, 0)
      x := (xc.toNat, if rnd = .ef then 64 else 32) }
  | .acmp _ _ _ ac bc xc f _ => { a := (ac.toNat, f.fmt.width), b := (bc.toNat, f.fmt.width), x := (xc.toNat, 2) }
  | .aminmax _ _ dc ac xc f => { d := (dc.toNat, f.fmt.width), a := (ac.toNat, f.fmt.width), x := (xc.toNat, 2) }
  | .ared _ dc xc f _ _ =>
    { d := (dc.toNat, f.width), x := (xc.toNat, f.width + addScratch f) }
  | .alut _ dc ac f n1 => { d := (dc.toNat, f.fmt.width), a := (ac.toNat, n1.toNat + 1) }
  | .aresolve _ dc xc wa => { d := (dc.toNat, 2 * waOf wa), x := (xc.toNat, 1) }
  | .aqdec _ dc ac bc xc _ fd _ =>
    { d := (dc.toNat, fd.width), a := (ac.toNat, 4), b := (bc.toNat, 16), k := (0, 32), x := (xc.toNat, 48) }
  | .aspmac _ dc ac _ wa m1 xc f1 _ _ =>
    { d := (dc.toNat, accWidth f1 wa), a := (ac.toNat, (m1.toNat + 1) * f1.width), x := (xc.toNat, accScratch f1) }
  | _ => {}

/-! ### Running a macro (R242, R247) -/

/-- A key operand of a lane (R250). -/
def Arr.keyOf (a : Arr) (l : Nat) (k : Nat × Nat) : Nat := fieldOf (a.ky.toNat / 2 ^ (l * a.laneW)) k.1 k.2
/-- A macro whose element function takes the old destination, operands a and b, and the key; the scratch ends at 0. -/
def Arr.runMacro (a : Arr) (r : Rows) (m : MFields) (e : Nat → Nat → Nat → Nat → Nat × Conds) : Arr × Conds :=
  a.runLanes (a.spanOf r.span) (a.selected r) fun l v =>
    let q := e (fieldOf v m.d.1 m.d.2) (fieldOf v m.a.1 m.a.2) (fieldOf v m.b.1 m.b.2) (a.keyOf l m.k)
    (withField (withField v m.d.1 m.d.2 q.1) m.x.1 m.x.2 0, q.2)
/-- ACVT with rnd:ef, which writes the residue field too (R94). -/
def Arr.runEF (a : Arr) (r : Rows) (m : MFields) (fd : Fmt) (sat : Bool) : Arr × Conds :=
  a.runLanes (a.spanOf r.span) (a.selected r) fun _ v =>
    let q := convertEF fd sat (fieldOf v m.a.1 m.a.2) (fieldOf v m.b.1 m.b.2)
    (withField (withField (withField v m.d.1 m.d.2 q.1) m.b.1 m.b.2 q.2.1) m.x.1 m.x.2 0, q.2.2)
/-- ACMP (R256): the tag and the scratch. -/
def Arr.acmp (a : Arr) (c : ACond) (d : TagNo) (r : Rows) (m : MFields) (f : Fmt) (comb : Comb) : Arr :=
  let hit := (a.testRows fun _ v => cmpElem c f (fieldOf v m.a.1 m.a.2) (fieldOf v m.b.1 m.b.2)) &&& a.selected r
  (a.runBits r (a.selected r) fun _ v => withField v m.x.1 m.x.2 0).combTag d r.span comb hit

/-! ### ARED (R258) -/

/-- The tree over rows `i` to `i + 2^lev - 1` of a span, relative to its first row, in one lane: whether the first of them is
then present, its value, and the other rows written. A stretch without a listed row holds only zeros. -/
def redTree (val : Nat → Nat) (sel : Nat → Nat → Bool) (listed : Nat → Nat → Bool) (one : Nat → Bool)
    (add : Nat → Nat → Nat × Conds) (count : Nat) : Nat → Nat → Bool × Nat × List (Nat × Nat) × Conds
  | 0, i => (one i, val i, [], {})
  | lev + 1, i =>
    let n := 2 ^ lev
    if count ≤ i then (false, 0, [], {})
    else if !listed i (2 * n) then (sel i (2 * n), 0, [], {})
    else
      let p := redTree val sel listed one add count lev i
      let q := redTree val sel listed one add count lev (i + n)
      let w := p.2.2.1 ++ (if q.1 then [(i + n, q.2.1)] else []) ++ q.2.2.1
      let c := p.2.2.2.or q.2.2.2
      if i + n < count ∧ q.1 then
        if p.1 then
          let s := add p.2.1 q.2.1
          (true, s.1, w, c.or s.2)
        else (true, q.2.1, w, c)
      else (p.1, p.2.1, w, c)
/-- The mask of the bits of lane `l` in `n` rows from row `r`. -/
def laneRows (l r n : Nat) : TagReg := BitVec.ofNat 131072 ((2 ^ (4 * n) - 1) / 15 * 2 ^ l * 2 ^ (4 * r))
/-- ARED in one lane. -/
def Arr.redLane (a : Arr) (r : Rows) (d : Nat × Nat) (f : Fmt) (rnd : Rnd) (sat : Bool) (l : Nat) : Arr × Conds :=
  let p := a.spanOf r.span
  let bits := a.selected r
  let w := a.laneW
  let keys := a.rows.map fun x => x.1
  let t := redTree (fun i => fieldOf (laneOfRow (a.row (p.1 + i)) w l) d.1 d.2)
    (fun i n => (bits &&& laneRows l (p.1 + i) (min n (p.2 - i))) != 0)
    (fun i n => keys.any fun k => decide (p.1 + i ≤ k) && decide (k < p.1 + i + n))
    (fun i => tb (rowBits bits (p.1 + i)) l && decide (i < p.2)) (addElem f rnd sat false) p.2 15 0
  let put := fun (b : Arr) (i v : Nat) =>
    let row := b.row (p.1 + i)
    b.setRow (p.1 + i) (withLane row w l (withField (laneOfRow row w l) d.1 d.2 v))
  let a := if t.1 then put a 0 t.2.1 else a
  (t.2.2.1.foldl (fun b x => put b x.1 x.2) a, t.2.2.2)
/-- ARED (R258): the scratch ends at 0 in every row of the span. -/
def Arr.ared (a : Arr) (r : Rows) (m : MFields) (f : Fmt) (rnd : Rnd) (sat : Bool) : Arr × Conds :=
  let q := (List.range a.lanesN).foldl (fun (x : Arr × Conds) l =>
    let y := Arr.redLane x.1 r m.d f rnd sat l
    (y.1, x.2.or y.2)) (a, {})
  (q.1.runBits r (q.1.spanMask r.span) fun _ v => withField v m.x.1 m.x.2 0, q.2)

/-! ### Structured sparsity (R262, R263) -/

/-- The positions of the set bits of SMASK. -/
def Arr.maskPos (a : Arr) : List Nat := (List.range 128).filter fun i => a.smask.getLsbD i
/-- An activation. -/
def Arr.act (a : Arr) (q : Nat) : Nat := (a.sact.extractLsb' (8 * q) 8).toNat
/-- ASPMAC on one accumulator: `x` holds the slots (R263). -/
def Arr.spElem (a : Arr) (f1 f2 : Fmt) (rnd : Rnd) (sat : Bool) (wa s0 m d x : Nat) : Nat × Conds :=
  let p := a.maskPos
  let w := f1.width
  let slot := fun k => fieldOf x (k * w) w
  if f1.carrySave then
    ((List.range m).foldl (fun d k => macCarry f1 wa d (slot k) (a.act (p.getD (s0 + k) 0))) d, {})
  else
    let lo := if s0 = 0 then 0 else p.getD (s0 - 1) 0 + 1
    let hi := if s0 + m = p.length then 127 else p.getD (s0 + m) 0 - 1
    (List.range (hi + 1 - lo)).foldl (fun (acc : Nat × Conds) i =>
      let q := lo + i
      let x := match indexOf? (fun y => y == q) ((p.drop s0).take m) with
        | some k => slot k
        | none => 0
      let r := fmaElem f1 f2 .fp32 rnd sat x (a.act q) acc.1
      (r.1, acc.2.or r.2)) (d, {})
def Arr.ldx (a : Arr) (q : Nat) : Arr :=
  let m : BitVec 1024 := (BitVec.ofNat 1024 (2 ^ 256 - 1)) <<< (256 * q)
  { a with sact := (a.sact &&& ~~~m) ||| (a.ky.zeroExtend 1024 <<< (256 * q)) }
def Arr.ldm (a : Arr) : Arr := { a with smask := a.ky.extractLsb' 0 128 }

/-! ### FIELD_SPEC (R222, R245, R246) -/

/-- The accepted formats of each macro (R244, R255). -/
def formatsOk : Instr → Bool
  | .aadd _ _ _ _ f _ _ | .asub _ _ _ _ f _ _ | .ared _ _ _ f _ _ => f.isInt || f == .fp16 || f == .bf16 || f == .fp32
  | .aaddk _ _ _ _ f => f.fmt.isInt
  | .amul _ _ _ _ _ f _ _ | .amulk _ _ _ _ _ f _ _ =>
    (f.isInt && f != .i64 && f != .u64) || f == .fp16 || f == .bf16 || f == .fp32
  | .amac _ _ _ _ _ f1 f2 _ _ =>
    ((f1 == .i4 || f1 == .i8) && f2 == f1) || ((f1 == .e4m3 || f1 == .e5m2) && (f2 == .e4m3 || f2 == .e5m2))
  | .amack _ _ _ _ _ f1 f2 _ _ _ | .aspmac _ _ _ _ _ _ _ f1 f2 _ =>
    (f1.carrySave && f2 == .i8) || ((f1 == .e4m3 || f1 == .e5m2) && (f2 == .e4m3 || f2 == .e5m2))
  | .afma _ _ _ _ _ f _ _ => f == .fp16 || f == .bf16 || f == .fp32
  | .acvt _ _ _ _ _ fs fd _ _ =>
    (fs.isInt && (fd.isInt || fd.isFloat)) || (fs.isFloat && (fd.isInt || fd.isFloat || fd == .ql4)) ||
      (fs == .ql4 && (fd == .fp16 || fd == .bf16 || fd == .fp32))
  | .acmp _ _ _ _ _ _ f _ | .aminmax _ _ _ _ _ f => f.fmt != .ql4
  | .alut _ _ _ f _ => f.fmt.width == 8 || f.fmt.width == 16
  | .aqdec _ _ _ _ _ f1 fd _ => f1 == .ql4 && (fd == .fp32 || fd == .bf16)
  | _ => true
/-- The rounding mode is accepted (R95, R245 reason 7). -/
def roundingOk : Instr → Bool
  | .aadd _ _ _ _ _ rnd _ | .asub _ _ _ _ _ rnd _ | .ared _ _ _ _ rnd _ | .amul _ _ _ _ _ _ rnd _ | .amulk _ _ _ _ _ _ rnd _
  | .amac _ _ _ _ _ _ _ rnd _ | .amack _ _ _ _ _ _ _ rnd _ _ | .afma _ _ _ _ _ _ rnd _ | .acmp _ _ _ _ _ _ ⟨_, rnd, _⟩ _
  | .aaddk _ _ _ _ ⟨_, rnd, _⟩ | .aminmax _ _ _ _ _ ⟨_, rnd, _⟩ | .alut _ _ _ ⟨_, rnd, _⟩ _ => rnd != .ef
  | .acvt _ _ _ _ _ fs fd rnd _ =>
    rnd != .ef || (fs == .fp32 && (fd == .fp16 || fd == .bf16 || fd == .e5m2 || fd == .e4m3))
  | .aqdec _ _ _ _ _ _ _ ⟨rnd, _⟩ | .aspmac _ _ _ _ _ _ _ _ _ ⟨rnd, _⟩ => rnd == .rne
  | _ => true
/-- The lowest column that two fields share. -/
def sharedCol (p q : Nat × Nat) : Option Nat :=
  if p.2 ≠ 0 ∧ q.2 ≠ 0 ∧ p.1 < q.1 + q.2 ∧ q.1 < p.1 + p.2 then some (max p.1 q.1) else none
def minOpt (a b : Option Nat) : Option Nat :=
  match a, b with
  | some x, some y => some (min x y)
  | some x, none => some x
  | none, o => o
/-- The lowest column at which a macro's fields overlap where R246 forbids it. -/
def overlapCol (i : Instr) (m : MFields) : Option Nat :=
  let ab := match i with | .acmp .. => none | _ => sharedCol m.a m.b
  minOpt (minOpt (minOpt (sharedCol m.d m.a) (sharedCol m.d m.b)) (minOpt (sharedCol m.d m.x) ab))
    (minOpt (sharedCol m.a m.x) (sharedCol m.b m.x))
/-- The highest column of a list of fields. -/
def topCol (fs : List (Nat × Nat)) : Nat :=
  (fs.filter fun p => p.2 ≠ 0).foldl (fun t p => max t (p.1 + p.2 - 1)) 0
/-- The first failing check of a macro (R245, R246): reason and TRAP_INFO3 (DEDUCED, log entry 37). -/
def Arr.macroFlaw (a : Arr) (i : Instr) : Option (Nat × Nat) :=
  let m := macroFields i
  let t := (encode i).2
  let top := topCol [m.d, m.a, m.b, m.k, m.x]
  if a.laneW ≤ top then some (1, top)
  else if !formatsOk i then some (6, (t.extractLsb' 11 8).toNat)
  else if !roundingOk i then some (7, (t.extractLsb' 7 4).toNat)
  else match overlapCol i m with
    | some c => some (8, c)
    | none =>
      match i with
      | .aspmac _ _ _ s0 _ m1 .. =>
        let n := a.maskPos.length
        let mm := m1.toNat + 1
        if (n = 1 ∨ n = 2 ∨ n = 4 ∨ n = 8 ∨ n = 16 ∨ n = 32 ∨ n = 64) ∧ s0.toNat + mm ≤ n then none
        else some (9, n + s0.toNat * 2 ^ 8 + mm * 2 ^ 16)
      | _ => none
/-- The columns of a specification. -/
def specFields : Spec → List (Nat × Nat)
  | .pairs ps => ps.map fun p => (p.1.toNat, 1)
  | .imm c n1 _ => [(c.toNat, n1.toNat + 1)]
  | .ky c n1 => [(c.toNat, n1.toNat + 1)]
/-- The fields of a TTRUN: those of the slots that an entry in the range names (R240). -/
def Arr.ttFields (a : Arr) (e m n : Nat) (x : Nat → Nat) : List (Nat × Nat) :=
  let entries := (List.range m).map fun k => a.ttEntry (e + k)
  ((List.range 4).filter fun j => entries.any fun t => (ttCompare t ++ ttWrite t).any fun p => p.1 == j).map fun j =>
    (x j, if j < 3 then n else 1)
/-- The fields that a pass instruction names. -/
def Arr.passFields (a : Arr) : Instr → List (Nat × Nat)
  | .pcmp _ _ _ s | .pset _ s => specFields s
  | .pcs _ _ _ cs ws => (cs ++ ws).map fun p => (p.1.toNat, 1)
  | .cfill _ c n1 _ | .cread _ _ _ c n1 _ | .cwrite _ _ c n1 _ => [(c.toNat, n1.toNat + 1)]
  | .tload _ _ c | .tstore _ _ c => [(c.toNat, 1)]
  | .fmov _ cd cs n1 | .frot _ _ cd cs n1 | .xrow _ _ cd cs n1 => [(cd.toNat, n1.toNat + 1), (cs.toNat, n1.toNat + 1)]
  | .ttrun _ _ e m1 n1 x0 x1 x2 x3 =>
    a.ttFields e.toNat (m1.toNat + 1) (n1.toNat + 1) fun j =>
      if j = 0 then x0.toNat else if j = 1 then x1.toNat else if j = 2 then x2.toNat else x3.toNat
  | _ => []
/-- The lane that an instruction names. -/
def laneNamed : Instr → Option Nat
  | .tcnt _ _ _ l | .tany _ _ _ l | .tfirst _ _ _ _ l => l.map (·.toNat)
  | .cread _ _ _ _ _ l | .cwrite _ _ _ _ l => some l.toNat
  | _ => none
/-- The first failing check of a pass instruction with its scalar operands (R222). -/
def Arr.passFlaw (a : Arr) (i : Instr) (x y : Word) (ws : List Word) : Option (Nat × Nat) :=
  let top := topCol (a.passFields i)
  if a.laneW ≤ top then some (1, top)
  else
    let lane := (laneNamed i).getD 0
    if a.lanesN ≤ lane then some (2, lane)
    else match i with
      | .span .. =>
        if 32767 < x.toNat then some (3, x.toNat)
        else if y = 0 ∨ 32768 < x.toNat + y.toNat then some (3, y.toNat) else none
      | .cread .. | .cwrite .. => if 32767 < x.toNat then some (4, x.toNat) else none
      | .ttld e _ =>
        (indexOf? (fun (v : BitVec 32) => v.extractLsb' 20 12 != 0) (ttWords ws)).map fun k => (5, e.toNat + k)
      | _ => none
/-- Whether an instruction is an array macro. -/
def isMacro : Instr → Bool
  | .aadd .. | .asub .. | .aaddk .. | .amul .. | .amulk .. | .amac .. | .amack .. | .afma .. | .acvt .. | .acmp .. | .aminmax ..
  | .ared .. | .alut .. | .aresolve .. | .aqdec .. | .aspmac .. | .aspmacLdx _ | .aspmacLdm => true
  | _ => false
/-- FIELD_SPEC of an array instruction, against the array that earlier instructions leave (R222, R245). -/
def Arr.fieldSpec (a : Arr) (i : Instr) (x y : Word) (ws : List Word) : Option (Nat × Nat) :=
  if isMacro i then a.macroFlaw i else a.passFlaw i x y ws

end Sys2Proof.Machine
end

