-- ==== Sys2Proof/Machine/ArrayRun.lean ====
section
/-! DEFINITION. The array engine of a far core: what each array instruction does to the array, the command queue, current
reservations of the cluster arbiter, start and retirement (R223, R224, R241, R242, R247, R337, R394, R395), and the parameters of the
engine commands. -/
namespace Sys2Proof.Machine

/-! ### Effects -/

/-- What an array instruction leaves: the array, the conditions of a macro, and a scalar result. XROW acts on the neighbour. -/
structure ArrDone where
  arr : Arr
  conds : Conds := {}
  res : Option (Reg × Word) := none

def ofMacro (r : Arr × Conds) : ArrDone := { arr := r.1, conds := r.2 }
/-- The effect of an array instruction on its own core (R226 to R263). -/
def Arr.effect (a : Arr) (o : ArrOp) : ArrDone :=
  let m := macroFields o.instr
  match o.instr with
  | .pcmp d r cb s => { arr := a.pcmp d r cb s }
  | .pset r s => { arr := a.pset r s }
  | .pcs d r cb cs ws => { arr := a.pcs d r cb cs ws }
  | .top op => { arr := a.top op }
  | .tshf op d t => { arr := a.tshf op d t }
  | .tcnt d t ls ln => { arr := a, res := some (d, BitVec.ofNat 64 (countBits (a.tagBits t ls ln))) }
  | .tany d t ls ln => { arr := a, res := some (d, boolWord (a.tagBits t ls ln != 0)) }
  | .tfirst clr d t ls ln => let p := a.tfirst clr t ls ln; { arr := p.2, res := some (d, p.1) }
  | .span ls _ _ => { arr := { a with spans := mset (0, 32768) a.spans ls.toNat (o.x.toNat, o.y.toNat) } }
  | .spanRd d ls => let p := a.spanOf ls; { arr := a, res := some (d, BitVec.ofNat 64 (p.1 + p.2 * 2 ^ 32)) }
  | .seg l => { arr := { a with lanes := l } }
  | .segRd d => { arr := a, res := some (d, BitVec.ofNat 64 a.lanesN) }
  | .key q _ =>
    let hole : BitVec 256 := (0xFFFFFFFFFFFFFFFF : BitVec 256) <<< (64 * q.toNat)
    { arr := { a with ky := (a.ky &&& ~~~hole) ||| (o.x.zeroExtend 256 <<< (64 * q.toNat)) } }
  | .cfill r c n1 src =>
    { arr := a.cfill r c.toNat (n1.toNat + 1) (match src with | .imm k => k.signExtend 64 | .reg _ => o.x) }
  | .cread sx d _ c n1 ln => { arr := a, res := some (d, a.cread sx o.x.toNat c.toNat (n1.toNat + 1) ln.toNat) }
  | .cwrite _ _ c n1 ln => { arr := a.cwrite o.x.toNat c.toNat (n1.toNat + 1) ln.toNat o.y }
  | .tload t ls c => { arr := a.tload t ls c.toNat }
  | .tstore t ls c => { arr := a.tstore t ls c.toNat }
  | .fmov r cd cs n1 => { arr := a.fmov r cd.toNat cs.toNat (n1.toNat + 1) }
  | .frot r k cd cs n1 => { arr := a.frot r k.toNat cd.toNat cs.toNat (n1.toNat + 1) }
  | .ttld e regs =>
    { arr := a.ttld e.toNat (match regs with | .one _ => [o.x] | .two .. => [o.x, o.y] | .three .. => [o.x, o.y, o.z]) }
  | .ttrun ds r e m1 n1 x0 x1 x2 x3 =>
    { arr := a.ttrun ds r e.toNat (m1.toNat + 1) (n1.toNat + 1) fun j =>
        if j = 0 then x0.toNat else if j = 1 then x1.toNat else if j = 2 then x2.toNat else x3.toNat }
  | .aadd r _ _ _ f rnd sat => ofMacro (a.runMacro r m fun d x _ _ => addElem f rnd sat false d x)
  | .asub r _ _ _ f rnd sat => ofMacro (a.runMacro r m fun d x _ _ => addElem f rnd sat true d x)
  | .aaddk r _ _ _ f => ofMacro (a.runMacro r m fun d _ _ k => ((d + k) % 2 ^ f.fmt.width, {}))
  | .amul r _ _ _ _ f rnd sat => ofMacro (a.runMacro r m fun _ x y _ => mulElem f rnd sat x y)
  | .amulk r _ _ _ _ f rnd sat => ofMacro (a.runMacro r m fun _ x _ k => mulElem f rnd sat x k)
  | .amac r _ _ _ _ f1 f2 rnd sat => ofMacro (a.runMacro r m fun d x y _ => macElem f1 f2 rnd sat d x y)
  | .amack r _ _ _ _ f1 f2 rnd sat wa => ofMacro (a.runMacro r m fun d x _ k => mackElem f1 f2 rnd sat (waOf wa) d x k)
  | .afma r _ _ _ _ f rnd sat => ofMacro (a.runMacro r m fun d x y _ => fmaElem f f f rnd sat x y d)
  | .acvt r _ _ _ _ fs fd rnd sat =>
    if rnd = .ef then ofMacro (a.runEF r m fd sat) else ofMacro (a.runMacro r m fun _ x _ _ => cvtElem fs fd rnd sat x)
  | .acmp c d r _ _ _ f cb => { arr := a.acmp c d r m f.fmt cb }
  | .aminmax mx r _ _ _ f => ofMacro (a.runMacro r m fun d x _ _ => (pickElem mx f.fmt d x, {}))
  | .ared r _ _ f rnd sat => ofMacro (a.ared r m f rnd sat)
  | .alut r _ _ f _ => ofMacro (a.runMacro r m fun _ x _ _ => (fieldOf a.ky.toNat (f.fmt.width * x) f.fmt.width, {}))
  | .aresolve r _ _ wa =>
    ofMacro (a.runMacro r m fun d _ _ _ =>
      let w := waOf wa
      ((d % 2 ^ w + d / 2 ^ w) % 2 ^ w + d / 2 ^ w * 2 ^ w, {}))
  | .aqdec r _ _ _ _ _ fd _ => ofMacro (a.runMacro r m fun _ x y k => qdecElem fd x y k)
  | .aspmac r _ _ s0 wa m1 _ f1 f2 q =>
    ofMacro (a.runMacro r m fun d x _ _ => a.spElem f1 f2 q.rnd q.sat (waOf wa) s0.toNat (m1.toNat + 1) d x)
  | .aspmacLdx q => { arr := a.ldx q.toNat }
  | .aspmacLdm => { arr := a.ldm }
  | _ => { arr := a }

/-- The register that an array instruction writes (R195). -/
def arrDest : Instr → Option Reg
  | .tcnt d .. | .tany d .. | .tfirst _ d .. | .spanRd d _ | .segRd d | .cread _ d .. => some d
  | _ => none
/-- The array that every instruction issued before leaves, as far as the checks at issue read it (R222). -/
def Arr.view (a : Arr) (o : ArrOp) : Arr :=
  match o.instr with
  | .span .. | .seg _ | .key .. | .ttld .. | .aspmacLdm => (a.effect o).arr
  | _ => a
def Far.arrView (f : Far) : Arr := (f.arun.toList ++ f.aq).foldl (fun a o => a.view o) f.arr

/-! ### Retirement (R223, R242, R247) -/

/-- The rows and the fields that a macro writes, but for those that other agents meet whole (R242). -/
def Arr.writesOver (a : Arr) (i : Instr) : Option (TagReg × List (Nat × Nat)) :=
  let m := macroFields i
  match i with
  | .ared r .. => some (a.spanMask r.span, [m.d, m.x])
  | .aadd r .. | .asub r .. | .aaddk r .. | .amul r .. | .amulk r .. | .amac r .. | .amack r .. | .afma r .. | .acmp _ _ r ..
  | .aminmax _ r .. | .alut r .. | .aresolve r .. | .aqdec r .. | .aspmac r .. => some (a.selected r, [m.d, m.x])
  | .acvt r _ _ _ _ _ _ rnd _ => some (a.selected r, [m.d, m.x, if rnd = .ef then m.b else (0, 0)])
  | _ => none
/-- The columns of fields, as a number. -/
def fieldMask (l : List (Nat × Nat)) : Nat := l.foldl (fun acc q => acc ||| ((2 ^ q.2 - 1) * 2 ^ q.1)) 0
/-- What other agents meet between the passes of a macro that starts. -/
def Arr.midway (a : Arr) (i : Instr) : Option Midway :=
  let m := macroFields i
  (a.writesOver i).map fun p =>
    { sel := p.1, w := a.laneW, cols := fieldMask p.2, uses := fieldMask (m.a :: m.b :: p.2) }
/-- The lanes of a row on which a macro acts and of whose fields another agent has written a column since it started (R242). -/
def Midway.struck (m : Midway) (r : Nat) (cols : BitVec 256) : Nat :=
  (List.range 4).foldl (fun acc l =>
    if tb (m.lanesAt r) l && cols &&& laneCols (2 ^ l) m.uses m.w != 0 then acc + 2 ^ l else acc) 0
/-- The rows and lanes whose results are open, since another agent wrote their fields while a macro ran (R51, R242): of ARED also those
that the tree folds them into (R258). -/
def Arr.unsettled (a : Arr) (i : Instr) (m : Midway) : List (Nat × Nat) :=
  let l := (m.hit.map fun p => (p.1, m.struck p.1 p.2)).filter fun p => p.2 != 0
  match i with
  | .ared x .. =>
    let r := (a.spanOf x.span).1
    l.flatMap fun p => (List.range 16).map fun k => (r + (p.1 - r) / 2 ^ k * 2 ^ k, p.2)
  | _ => l
/-- What a macro leaves where its results are open: its written columns there are free, and so is ACMP's tag bit (DESIGN CHOICE, log
entry 61). -/
def Arr.disturbed (a : Arr) (i : Instr) (m : Midway) (t : Nat) (l : List (Nat × Nat)) : Arr :=
  let b := m.blur t l a
  match i with
  | .acmp _ d .. =>
    b.setTag d (l.foldl (fun x p =>
      let k := BitVec.ofNat 4 p.2
      withRowBits x p.1 ((BitVec.ofNat 4 (rowBits x p.1) &&& ~~~k) ||| ((Config.midRow t p.1).extractLsb' 252 4 &&& k)).toNat) (b.tag d))
  | _ => b
/-- An array instruction that is met whole, or a macro, writes its results; where one is open, so are the conditions that the macro adds to
AFLAGS (DESIGN CHOICE, log entry 61). -/
def State.arrayEffect (s : State) (core : Nat) (o : ArrOp) : State :=
  let f := s.far core
  let d := f.arr.effect o
  let free := f.mid.toList.flatMap fun m => f.arr.unsettled o.instr m
  let s := match f.mid, free with
    | some m, _ :: _ =>
      (s.setFar core { f with arr := d.arr.disturbed o.instr m s.ticks free, mid := none
                              aflags := f.aflags ||| (Config.midRow s.ticks 32768).extractLsb' 0 4 }).tick
    | _, _ => s.setFar core { f with arr := d.arr, mid := none, aflags := f.aflags ||| d.conds.code }
  match d.res with
  | some (r, v) => s.updHart (.far core) fun h => h.setReg r v
  | none => s

/-! ### Array cycles (R51, R223) -/

/-- The steps between which other agents' accesses fall: the array cycles of a pass instruction, of XROW for each column its reading and
its landing; a macro makes one (log entry 61). -/
def arraySteps : Instr → Nat
  | .cfill _ _ n1 _ => (n1.toNat + 16) / 16
  | .fmov _ _ _ n1 | .xrow _ _ _ _ n1 => 2 * (n1.toNat + 1)
  | .frot _ _ _ _ n1 => n1.toNat + 1
  | .ttrun _ _ _ m1 n1 .. => (n1.toNat + 1) * (m1.toNat + 1)
  | _ => 1
/-- Array cycle `k` of CFILL, FMOV, FROT or TTRUN (R234, R237, R240). CFILL fills its columns from the lowest on (DESIGN CHOICE, log
entry 61). -/
def Arr.pass (a : Arr) (o : ArrOp) (k : Nat) : Arr :=
  match o.instr with
  | .cfill r c n1 src =>
    let v : Word := match src with | .imm x => x.signExtend 64 | .reg _ => o.x
    a.cfill r (c.toNat + 16 * k) (min 16 (n1.toNat + 1 - 16 * k)) (v >>> (16 * k))
  | .fmov r cd cs n1 =>
    let i := moveCol cd.toNat cs.toNat (n1.toNat + 1) (k / 2)
    a.fmovPass r (cd.toNat + i) (cs.toNat + i) (k % 2 == 0)
  | .frot r e cd cs n1 =>
    let i := moveCol cd.toNat cs.toNat (n1.toNat + 1) k
    a.frot r e.toNat (cd.toNat + i) (cs.toNat + i) 1
  | .ttrun desc r e m1 n1 x0 x1 x2 x3 =>
    let t := k / (m1.toNat + 1)
    let i := if desc then n1.toNat - t else t
    let x := fun j => if j = 0 then x0.toNat else if j = 1 then x1.toNat else if j = 2 then x2.toNat else x3.toNat
    a.runBits r (a.selected r) fun _ v =>
      ttPass (fun j => if j < 3 then x j + i else x 3) (a.ttEntry (e.toNat + k % (m1.toNat + 1))) v
  | _ => a
/-- A column of XROW lands in the neighbour, as a write by another agent (R51, R241). -/
def State.xrowLand (s : State) (core : Nat) (prev : Bool) (r : Rows) (c : Nat) : State :=
  let f := s.far core
  let sel := f.arr.selected r
  s.updFar (ringTo core prev) fun nb => { nb with
    arr := f.arr.landColumn nb.arr r c f.xcol
    mid := nb.mid.map fun m => ((List.range 32768).filter fun x => rowBits sel x != 0).foldl
      (fun m x => m.strike x (laneCols (rowBits sel x) (2 ^ c) f.arr.laneW)) m }
/-- Step `k` of the running instruction. -/
def State.arrayStep (s : State) (core : Nat) (o : ArrOp) (k : Nat) : State :=
  match o.instr with
  | .xrow prev r cd cs n1 =>
    let i := moveCol cd.toNat cs.toNat (n1.toNat + 1) (k / 2)
    if k % 2 = 0 then s.updFar core fun f => { f with xcol := f.arr.readColumn (cs.toNat + i) }
    else s.xrowLand core prev r (cd.toNat + i)
  | .cfill .. | .fmov .. | .frot .. | .ttrun .. => s.updFar core fun f => { f with arr := f.arr.pass o k }
  | _ => s.arrayEffect core o
/-- The next `n` steps of the running instruction. -/
def State.arrayRun (s : State) (core : Nat) (o : ArrOp) : Nat → State
  | 0 => s
  | n + 1 =>
    let k := (s.far core).acol
    ((s.arrayStep core o k).updFar core fun f => { f with acol := k + 1 }).arrayRun core o n
/-- Whether an instruction can be done as a whole: no step of it has been made, and each acts on its own array. -/
def wholeOf (o : ArrOp) (done : Nat) : Bool := done == 0 && (match o.instr with | .xrow .. => false | _ => true)

/-! ### The parameters of the engine commands (R281, R283, R285) -/

def blkSrc (b : BitVec 512) : Word := lineWord b 0
def blkDst (b : BitVec 512) : Word := lineWord b 1
def blkRows (b : BitVec 512) : Nat := bits (lineWord b 2) 47 32
def blkLen (b : BitVec 512) : Nat := bits (lineWord b 2) 31 0
def blkStartRow (b : BitVec 512) : Nat := bits (lineWord b 6) 47 32
def blkStartByte (b : BitVec 512) : Nat := bits (lineWord b 6) 31 0
def blkSpol (b : BitVec 512) : Policy := Policy.of ((lineWord b 5).extractLsb' 0 2)
def blkDpol (b : BitVec 512) : Policy := Policy.of ((lineWord b 5).extractLsb' 2 2)
/-- A reserved field of a parameter block is nonzero. -/
def blkReserved (b : BitVec 512) : Bool :=
  bits (lineWord b 2) 63 48 != 0 || bits (lineWord b 5) 31 4 != 0 || bits (lineWord b 6) 63 48 != 0 || lineWord b 7 != 0
/-- The addresses of byte `x` of row `r` (R281). -/
def blkSrcAt (b : BitVec 512) (r x : Nat) : Word := blkSrc b + BitVec.ofNat 64 r * lineWord b 3 + BitVec.ofNat 64 x
def blkDstAt (b : BitVec 512) (r x : Nat) : Word := blkDst b + BitVec.ofNat 64 r * lineWord b 4 + BitVec.ofNat 64 x
/-- The multiple that AFILL and ASPILL operands must keep. -/
def EngCmd.unit (c : EngCmd) : Nat := if c.win = .sc16 then 64 else 32
/-- A command that ends before any access: its status and record (R283, R285; DEDUCED, log entry 15). -/
def EngCmd.early (c : EngCmd) : Option (EngStop × Nat × Nat) :=
  match c.kind with
  | .cpy =>
    let b := c.block
    let rows := blkRows b
    let len := blkLen b
    let sr := blkStartRow b
    let sb := blkStartByte b
    if blkReserved b then some ({ status := 1, reason := 1 }, sr, sb)
    else if len = 0 ∨ rows = 0 then some ({}, rows, 0)
    else if (sr < rows ∧ len ≤ sb) ∨ rows < sr ∨ (sr = rows ∧ sb ≠ 0) then some ({ status := 1, reason := 3 }, sr, sb)
    else if sr = rows then some ({}, rows, 0)
    else none
  | k =>
    let w := c.win.code.toNat
    let a := c.a.toNat
    let b := c.b.toNat
    let n := c.c.toNat
    if a % c.unit ≠ 0 ∨ b % c.unit ≠ 0 ∨ n % c.unit ≠ 0 then some ({ status := 1, reason := 2 }, 0, 0)
    else if n = 0 then some ({}, 0, 0)
    else if winReach w < b + n then
      some ({ status := 7, reason := 6, fkind := 4, fva := c.a + BitVec.ofNat 64 (winReach w - b) }, 0, 0)
    else if k = .aspill ∧ w = 5 then some ({ status := 7, reason := 5, fkind := 4, fva := c.a }, 0, 0)
    else none

/-! ### Current reservations (R337, R394, R395) -/

/-- The units of current of an array instruction in a lane mode (R395). -/
def arrayUnits (l : LaneMode) (i : Instr) : Nat :=
  let pick := fun (x y z : Nat) => match l with | .one => x | .two => y | .four => z
  match i with
  | .aadd _ _ _ _ f _ _ | .asub _ _ _ _ f _ _ | .acmp _ _ _ _ _ _ ⟨f, _, _⟩ _ | .aminmax _ _ _ _ _ ⟨f, _, _⟩ | .ared _ _ _ f _ _ =>
    if f.isInt then pick 2 3 3 else pick 3 4 4
  | .aaddk .. | .alut .. | .aresolve .. => pick 2 3 3
  | .acvt _ _ _ _ _ fs fd _ _ => if fs.isInt && fd.isInt then pick 2 3 3 else pick 3 4 4
  | .amul _ _ _ _ _ f _ _ | .amulk _ _ _ _ _ f _ _ => if f.isInt then pick 3 3 4 else pick 3 4 4
  | .amac _ _ _ _ _ f _ _ _ | .amack _ _ _ _ _ f _ _ _ _ | .aspmac _ _ _ _ _ _ _ f _ _ =>
    if f.isFloat then pick 3 4 4 else pick 3 3 4
  | .aspmacLdx _ | .aspmacLdm => pick 3 3 4
  | .afma .. | .aqdec .. => pick 3 4 4
  | _ => 2
/-- The reservation that a core's array engine asks for: its oldest queued instruction, when nothing runs and none is held. -/
def Far.arrayWants (f : Far) : Option Nat :=
  match f.arun, f.aq with
  | none, o :: _ => if f.aheld = 0 then some (arrayUnits f.arr.lanes o.instr) else none
  | _, _ => none
/-- The copy engine asks when a command that is to make an access waits to start and the engine holds nothing. -/
def Far.copyWants (f : Far) : Option Nat :=
  if !f.eheld && f.eng.any (fun c => !c.started && c.early.isNone && c.ended.isNone) then some 4 else none
/-- The contenders of a cluster arbiter: 2 × core for the array engine, + 1 for the copy engine. -/
def State.clusterWants (s : State) (cl i : Nat) : Option Nat :=
  let f := s.far (16 * cl + i / 2)
  if i % 2 = 0 then f.arrayWants else f.copyWants
/-- The priority that a request carries (R337). -/
def State.requestPri (s : State) (cl i : Nat) : Nat :=
  match (s.far (16 * cl + i / 2)).task with
  | some t => if t.anchored then t.pri else 0
  | none => 0
/-- Gives a contender its units. -/
def State.giveUnits (s : State) (cl i u : Nat) : State :=
  let s := s.updCluster cl fun c => { c with heldUnits := c.heldUnits + u }
  s.updFar (16 * cl + i / 2) fun f => if i % 2 = 0 then { f with aheld := u } else { f with eheld := true }
/-- The units that a contender asks for. -/
def State.wantUnits (s : State) (cl i : Nat) : Nat := (s.clusterWants cl i).getD 0
/-- The contenders that an earlier grant has skipped, in the order of their places (R337). -/
def State.skippedReqs (s : State) (cl : Nat) : List Nat :=
  ((s.cluster cl).reqs.map fun r => 2 * (r.core % 16) + r.copy.toNat).filter fun i => (s.clusterWants cl i).isSome
/-- The order in which the arbiter considers its contenders (R337): by priority, of each priority the skipped ones in their places and
then the others from the pointer on. -/
def State.reqOrder (s : State) (cl : Nat) : List Nat :=
  let old := s.skippedReqs cl
  let fresh := ((List.range 32).map fun i => ((s.cluster cl).arbPtr + i) % 32).filter fun i =>
    (s.clusterWants cl i).isSome && !old.any (fun j => j == i)
  [3, 2, 1, 0].flatMap fun p => (old ++ fresh).filter fun i => s.requestPri cl i == p
/-- The contender that the arbiter grants: the first whose units fit the headroom. -/
def State.reqWinner (s : State) (cl : Nat) : Option Nat :=
  (s.reqOrder cl).find? fun i => fitsCurrent (s.wantUnits cl i) (s.cluster cl).heldUnits (s.cluster cl).budget.toNat
/-- RESERVATION_GRANT (R337): one request is granted. Those that came before it do not fit: they are skipped and keep their places, and
the pointer goes to the winner's number + 1 but not past one of them (DEDUCED, log entry 17). -/
def State.reservationGrant (s : State) (cl : Nat) : State :=
  let c := s.cluster cl
  let order := s.reqOrder cl
  let note := fun i : Nat =>
    ({ core := 16 * cl + i / 2, copy := i % 2 == 1, units := s.wantUnits cl i, pri := s.requestPri cl i, skipped := true } : ResReq)
  match s.reqWinner cl with
  | none => s.setCluster cl { c with reqs := order.map note }
  | some w =>
    let passed := order.takeWhile fun i => i != w
    let old := s.skippedReqs cl
    let kept := (old.filter fun i => i != w) ++ passed.filter fun i => !old.any fun j => j == i
    let ptr := (((List.range ((w + 32 - c.arbPtr) % 32)).map fun i => (c.arbPtr + i) % 32).find? fun i =>
      passed.any fun j => j == i).getD ((w + 1) % 32)
    (s.setCluster cl { c with reqs := kept.map note, arbPtr := ptr }).giveUnits cl w (s.wantUnits cl w)
/-- A contender asks within a turn that does not overlap: it is granted where the arbiter would choose it. -/
def State.askUnits (s : State) (cl i : Nat) : State := if s.reqWinner cl = some i then s.reservationGrant cl else s
/-- An array engine's units are given back. -/
def State.arrayRelease (s : State) (core : Nat) : State :=
  let u := (s.far core).aheld
  (s.updCluster (clusterOf core) fun c => { c with heldUnits := c.heldUnits - u }).updFar core fun f => { f with aheld := 0 }
/-- A copy engine's units are given back. -/
def State.copyRelease (s : State) (core : Nat) : State :=
  if (s.far core).eheld then
    (s.updCluster (clusterOf core) fun c => { c with heldUnits := c.heldUnits - 4 }).updFar core fun f => { f with eheld := false }
  else s

/-! ### Start and retirement of the queue -/

/-- ARRAY_INSTRUCTION_START (R223): the oldest queued instruction starts once it holds its reservation. -/
def State.arrayStart (s : State) (core : Nat) : State :=
  let f := s.far core
  match f.arun, f.aq with
  | none, o :: q =>
    if f.aheld = 0 then s else s.setFar core { f with aq := q, arun := some o, mid := f.arr.midway o.instr, acol := 0, xcol := [] }
  | _, _ => s
/-- The running instruction leaves the engine; a run of passes keeps its units for the next pass (R395). -/
def State.arrayLeave (s : State) (core : Nat) (o : ArrOp) : State :=
  let run := !isMacro o.instr && (match (s.far core).aq with | n :: _ => !isMacro n.instr | [] => false)
  let s := s.updFar core fun f => { f with arun := none, acol := 0, xcol := [] }
  if run then s else s.arrayRelease core
/-- ARRAY_INSTRUCTION_RETIRE (R223, R241, R242): the running instruction makes at most `cycles` of its steps, so that other accesses may
fall between them, and retires with its last one. One that makes all of them at once has its effect as a whole. -/
def State.arrayRetire (s : State) (core cycles : Nat) : State :=
  let f := s.far core
  match f.arun with
  | none => s
  | some o =>
    let n := arraySteps o.instr
    if n ≤ cycles ∧ wholeOf o f.acol then (s.arrayEffect core o).arrayLeave core o
    else
      let k := min cycles (n - f.acol)
      let s := s.arrayRun core o k
      if n ≤ f.acol + k then s.arrayLeave core o else s
/-- The array engine asks for its units outside the arbiter's own step. -/
def State.arrayAsk (s : State) (core : Nat) : State := s.askUnits (clusterOf core) (2 * (core % 16))
/-- Runs everything that a core's engine holds, as far as the reservations allow (DESIGN CHOICE, log entry 2). -/
def State.arrayDrain (s : State) (core : Nat) : Nat → State
  | 0 => s
  | n + 1 =>
    let f := s.far core
    if f.arun.isNone && f.aq.isEmpty then s
    else (((s.arrayAsk core).arrayStart core).arrayRetire core 2048).arrayDrain core n
/-- Whether an XROW of a core has still to write its last column (R224). -/
def State.xrowBusy (s : State) (core : Nat) : Bool :=
  ((s.far core).arun.toList ++ (s.far core).aq).any fun o => match o.instr with | .xrow .. => true | _ => false

end Sys2Proof.Machine
end

