-- ==== Sys2Proof/Machine/Engine.lean ====
section
/-! DEFINITION. The engine of a far core: CPY, AFILL and ASPILL commands, their accesses, stop points and completion messages
(R32, R114 to R116, R131, R279 to R287). -/
namespace Sys2Proof.Machine

/-! ### How a command ends (R286, R287) -/

def EngKind.code : EngKind → Nat | .cpy => 1 | .afill => 2 | .aspill => 3
/-- The completion message (R286). -/
def engMessage (c : EngCmd) (e : EngStop) (row byte : Nat) : BitVec 512 :=
  let tag := if c.kind = .cpy then (lineWord c.block 5).toNat / 2 ^ 32 else 0
  let w := tag * 2 ^ 32 + e.reason * 2 ^ 24 + e.level * 2 ^ 20 + e.akind * 2 ^ 16 + e.fkind * 2 ^ 12 + c.kind.code * 2 ^ 8 + e.status
  lineOfWords fun i =>
    if i = 0 then BitVec.ofNat 64 w
    else if i = 1 then c.seq.zeroExtend 64
    else if i = 2 then e.fva
    else if i = 3 then BitVec.ofNat 64 (row % 2 ^ 32 + byte % 2 ^ 32 * 2 ^ 32)
    else 0

/-! ### Accesses (R32, R114, R128) -/

/-- What an access of an engine comes to. -/
inductive EngRes (α : Type) where
  | ok (v : α) (s : State)
  | stop (e : EngStop) (s : State)
  | wait (s : State)

/-- Translates and checks one address of an engine access (R27, R30, R128, R283); a die that is isolated sees every other island as
unreachable (R130). -/
def State.engCheck (s : State) (core : Nat) (c : EngCmd) (va : Word) (kind : Nat) : EngRes (Nat × Bool) :=
  let root := (s.hart (.far core)).root
  match s.translateFor (.far core) (engKey core c.seq) c.walked root (bits root 5 0) c.priv va kind with
  | .wait s => .wait s
  | .trap t s =>
    if t.cause = 0x0E then .stop { status := 0x0E, akind := kind, fva := va } s
    else .stop { status := 6, fkind := t.infos.i1.toNat, level := t.infos.i2.toNat, akind := kind, fva := va } s
  | .ok e s =>
    let pa := e.pa va
    if isAlias pa ∨ isFormat pa ∨ isControl pa then .stop { status := 7, reason := 5, fkind := 4, akind := kind, fva := va } s
    else if isDevice pa ∧ stackOf pa ≠ dieOf core ∧ (s.dstate (stackOf pa) ≠ 0 ∨ s.dstate (dieOf core) ≠ 0) then
      .stop { status := 0x0F, akind := kind, fva := va } s
    else .ok (pa, e.mt1) s
/-- The source number under which a core's engine asks the host. -/
def engSrc (core : Nat) : Nat := 16384 + core
/-- An access of a command to the host region that waits for the host. -/
def engHost (core : Nat) (c : EngCmd) (r : HostAcc) : Bool := !r.cached && r.src == engSrc core && r.tag == c.seq
/-- Replaces the command with number `seq` of a core. -/
def State.setEng (s : State) (core : Nat) (c : EngCmd) : State :=
  s.updFar core fun f => { f with eng := f.eng.map fun x => if x.seq = c.seq then c else x }
/-- What the reads of a command that are performed once only have come to, as it stands in the engine (R55). -/
def State.engAnswers (s : State) (core : Nat) (c : EngCmd) : List (Nat × BitVec 512) :=
  ((s.far core).eng.find? fun x => x.seq == c.seq).elim c.ans (·.ans)
/-- The virtual address of the first byte of an access that lies in the sector a MEMORY_ERROR names (R286). -/
def sectorVa (va : Word) (pa : Nat) (t : Trap) : Word := va + BitVec.ofNat 64 (t.infos.i0.toNat - pa)
/-- Reads at most a line of memory at the point of R114; a read performed as .u is performed once only (R55). -/
def State.engRead (s : State) (core : Nat) (c : EngCmd) (pa n : Nat) (pol : Policy) (mt1 : Bool) (va : Word) : EngRes (BitVec 512) :=
  match c.ans.find? fun p => p.1 == pa with
  | some p => .ok (getBytes p.2 0 n) s
  | none =>
    if isHost pa then
      if s.hostReqs.any (fun r => engHost core c r && r.pa == pa && r.write.isNone) then .wait s
      else .wait { s with hostReqs := s.hostReqs ++
        [{ src := engSrc core, pa := pa, n := n, write := none, cached := false, tag := c.seq }] }
    else
      let own := stackOf pa = dieOf core ∧ (pol = .c ∨ pol = .g) ∧ !mt1
      match if own then s.loadG core pa n kLoad else s.loadM (stackOf pa) pa n kLoad with
      | .ok v s => .ok v (if pol = .u ∨ mt1 then s.setEng core { c with ans := s.engAnswers core c ++ [(pa, v)] } else s)
      | .wait s => .wait s
      | .trap t s => .stop { status := 0x0E, akind := 5, fva := sectorVa va pa t } s
/-- Writes the bytes of one sector at the point of R114; true where it is left dirty in the island L2. Such a sector counts for the
command's own message (R116) and not for later releases of the issuer (DESIGN CHOICE, log entry 57). -/
def State.engWrite (s : State) (core : Nat) (c : EngCmd) (pa n : Nat) (pol : Policy) (mt1 : Bool) (va : Word) (v : BitVec 512) :
    EngRes Bool :=
  if isHost pa then
    .ok false { s with hostReqs := s.hostReqs ++
      [{ src := engSrc core, pa := pa, n := n, write := some v, cached := false, tag := c.seq }] }
  else
    let own := stackOf pa = dieOf core ∧ (pol = .c ∨ pol = .g) ∧ !mt1
    let old := (s.far core).dirtied
    match if own then s.storeG core pa n v else s.storeM (stackOf pa) pa n kStore v with
    | .ok _ s => .ok (decide own) (s.updFar core fun f => { f with dirtied := old })
    | .wait s => .wait s
    | .trap t s => .stop { status := 0x0E, akind := 6, fva := sectorVa va pa t } s

/-! ### CPY -/

/-- Bytes from a position to the next destination sector or to the end of the row. -/
def cpyChunk (b : BitVec 512) (row byte : Nat) : Nat := min (32 - (blkDstAt b row byte).toNat % 32) (blkLen b - byte)
/-- The position after a chunk. -/
def cpyNext (b : BitVec 512) (row byte : Nat) : Nat × Nat :=
  let n := cpyChunk b row byte
  if byte + n < blkLen b then (row, byte + n) else (row + 1, 0)
/-- Reads the source bytes of a chunk, in at most two lines. -/
def State.cpyRead (s : State) (core : Nat) (c : EngCmd) (row byte : Nat) : EngRes (BitVec 512 × Bool) :=
  let n := cpyChunk c.block row byte
  let va := blkSrcAt c.block row byte
  let n1 := min n (64 - va.toNat % 64)
  match s.engCheck core c va 5 with
  | .wait s => .wait s
  | .stop e s => .stop e s
  | .ok (pa, mt) s =>
    match s.engRead core c pa n1 (blkSpol c.block) mt va with
    | .wait s => .wait s
    | .stop e s => .stop e s
    | .ok v s =>
      if n1 = n then .ok (v, isHost pa) s
      else
        let vb := va + BitVec.ofNat 64 n1
        match s.engCheck core c vb 5 with
        | .wait s => .wait s
        | .stop e s => .stop e s
        | .ok (pb, mt) s =>
          match s.engRead core c pb (n - n1) (blkSpol c.block) mt vb with
          | .wait s => .wait s
          | .stop e s => .stop e s
          | .ok w s => .ok (v ||| (w <<< (8 * n1)), isHost pa || isHost pb) s
/-- How far the phases of a copy came: all done, stopped at a position, or waiting on another agent. -/
inductive EngRun where
  | done (c : EngCmd) (s : State)
  | stopped (e : EngStop) (c : EngCmd) (s : State)
  | waiting (c : EngCmd) (s : State)
/-- Reads the source once, chunk by chunk, before any write, so that an overlapped byte can get the value its source byte held
before the command (R283); a failing chunk ends the reading. -/
def State.cpyGather (s : State) (core : Nat) (c : EngCmd) (row byte : Nat) : Nat → EngRun
  | 0 => .done c s
  | fuel + 1 =>
    if blkRows c.block ≤ row then .done c s
    else match s.cpyRead core c row byte with
      | .wait s => .waiting { c with ans := s.engAnswers core c } s
      | .stop e s => .stopped e { c with ans := [] } s
      | .ok v s =>
        let p := cpyNext c.block row byte
        let c := { c with snap := c.snap ++ [v.1], ans := [] }
        (s.setEng core c).cpyGather core c p.1 p.2 fuel
/-- The position after `k` chunks. -/
def cpyPos (b : BitVec 512) : Nat → Nat × Nat → Nat × Nat
  | 0, p => p
  | k + 1, p => cpyPos b k (cpyNext b p.1 p.2)
/-- Bytes chosen one by one between the value read before the command and the value read now (DESIGN CHOICE, log entry 3). -/
def chooseBytes (t n : Nat) (a b : BitVec 512) : BitVec 512 :=
  (List.range n).foldl (fun v i => if Config.freeBool (t + i) then putBytes v i 1 (getBytes b i 1) else v) a
/-- What the source chunk at the position of a copy would now read as; no access is made (R55). Where that is not known, the value read
before. -/
def State.cpyNow (s : State) (core : Nat) (c : EngCmd) (v : BitVec 512) : BitVec 512 :=
  match s.engCheck core c (blkSrcAt c.block c.row c.byte) 5 with
  | .ok p t => if isHost p.1 then v else (match t.cpyRead core c c.row c.byte with
      | .ok w _ => w.1
      | _ => v)
  | _ => v
/-- Writes the gathered chunks in order. Of a source byte that the command itself has overwritten, either value may be the one written
(R283). -/
def State.cpyScatter (s : State) (core : Nat) (c : EngCmd) : List (BitVec 512) → EngRun
  | [] => .done c s
  | v :: rest =>
    let n := cpyChunk c.block c.row c.byte
    let va := blkDstAt c.block c.row c.byte
    match s.engCheck core c va 6 with
    | .wait s => .waiting c s
    | .stop e s => .stopped e c s
    | .ok (pa, mt) s =>
      let now := s.cpyNow core c v
      let w := if now = v then v else chooseBytes s.ticks n v now
      match ({ s with ticks := s.ticks + n }).engWrite core c pa n (blkDpol c.block) mt va w with
      | .wait s => .waiting c s
      | .stop e s => .stopped e c s
      | .ok d s =>
        let p := cpyNext c.block c.row c.byte
        s.cpyScatter core { c with row := p.1, byte := p.2, snap := rest, dirt := if d then c.dirt ++ [pa / 32] else c.dirt } rest
/-- The stop at the position of a copy whose source chunk cannot be read: the source's failure, or that of the destination where its first
byte comes before the source byte that fails. Where the same byte fails on both sides, the source's failure is reported (DESIGN CHOICE,
log entry 67: R286 does not say which). -/
def State.cpyFail (s : State) (core : Nat) (c : EngCmd) (e : EngStop) : EngRun :=
  let va := blkDstAt c.block c.row c.byte
  if e.fva = blkSrcAt c.block c.row c.byte then .stopped e c s
  else match s.engCheck core c va 6 with
    | .stop e' s => .stopped e' c s
    | .wait s => .waiting c s
    | .ok (pa, mt) s =>
      match s.engWrite core c pa (cpyChunk c.block c.row c.byte) (blkDpol c.block) mt va 0 with
      | .stop e' s => .stopped e' c s
      | _ => .stopped e c s
/-- The accesses of CPY, from where it stands. -/
def State.cpyRun (s : State) (core : Nat) (c : EngCmd) : EngRun :=
  let b := c.block
  let left := (blkRows b - c.row) * blkLen b
  let at0 := cpyPos b c.snap.length (c.row, c.byte)
  match s.cpyGather core c at0.1 at0.2 left with
  | .waiting c s => .waiting c s
  | .done c s => s.cpyScatter core c c.snap
  | .stopped e c s =>
    match s.cpyScatter core c c.snap with
    | .done c s => s.cpyFail core c e
    | r => r

/-! ### AFILL and ASPILL -/

/-- The memory address of the first byte of an ASPILL whose array element lies in the row that a MEMORY_ERROR of the array names (R286). -/
def spillVa (c : EngCmd) (va : Word) (off : Nat) (t : Trap) : Word :=
  let w := c.win.code.toNat
  va + BitVec.ofNat 64 (t.infos.i0.toNat % 2 ^ 23 / 32 * 256 / winArr w * winBus w / 8 - off)
/-- The accesses of AFILL and ASPILL, a sector or an SC16 block at a time. An SC16 block of which either sector fails is not written, and
the command stops at its first byte (DESIGN CHOICE, log entry 67: the stop point of R287 may lie inside a block, and R50 writes whole
blocks only). -/
def State.arrayCopy (s : State) (core : Nat) (c : EngCmd) : Nat → EngRun
  | 0 => .done c s
  | fuel + 1 =>
    if c.c.toNat ≤ c.byte then .done c s
    else
      let n := c.unit
      let va := c.a + BitVec.ofNat 64 c.byte
      let w := c.win.code.toNat
      let off := c.b.toNat + c.byte
      let kind := if c.kind = .afill then 5 else 6
      match s.engCheck core c va kind with
      | .wait s => .waiting c s
      | .stop e s => .stopped e c s
      | .ok (pa, mt) s =>
        if c.kind = .afill then
          match s.engRead core c pa n c.pol mt va with
          | .wait s => .waiting c s
          | .stop e s => .stopped e c s
          | .ok v s =>
            (s.winPut core w off n v).arrayCopy core { c with byte := c.byte + n, ans := [] } fuel
        else
          let rows := winRows w off n
          match s.checkRows core rows.1 rows.2 kLoad with
          | .trap t s => .stopped { status := 0x0E, akind := 5, fva := spillVa c va off t } c s
          | .wait s => .waiting c s
          | .ok _ s =>
          let r := s.winSee core w off n
          match r.2.engWrite core c pa n c.pol mt va r.1 with
          | .wait s => .waiting c s
          | .stop e s => .stopped e c s
          | .ok d s => s.arrayCopy core { c with byte := c.byte + n, dirt := if d then c.dirt ++ [pa / 32] else c.dirt } fuel
def State.engRun (s : State) (core : Nat) (c : EngCmd) : EngRun :=
  match c.kind with
  | .cpy => s.cpyRun core c
  | _ => s.arrayCopy core c (c.c.toNat / 32 + 1)

/-! ### Issue, start and completion (R115, R116, R279) -/

/-- Delivers a command's message to channel 14 and drops the command; the reservation goes with the last one in progress. -/
def State.engDeliver (s : State) (core : Nat) (c : EngCmd) (e : EngStop) (row byte : Nat) : State :=
  let s := s.updFar core fun f => { f with eng := f.eng.filter fun x => x.seq != c.seq }
  let s := if (s.far core).eng.any (fun x => x.started) then s else s.copyRelease core
  s.deliverOwn { ctx := s.coreCtx core, vcore := (s.far core).vcore.toNat, ch := 14, data := engMessage c e row byte, src := core,
                 own := true, inc := s.sentInc core }
/-- The write-backs of a command's own sectors before its message (R104, R116). -/
def State.engOut (s : State) (core : Nat) (c : EngCmd) : Res Unit :=
  if c.sc = .package ∨ c.sc = .system then c.dirt.foldl (fun (r : Res Unit) x => r.bind fun _ s => s.sectorOut core x false) (.ok () s)
  else .ok () s
/-- The record of a stop at a command's position: a CPY that has done its last byte stands at ROWS. -/
def EngCmd.record (c : EngCmd) : Nat × Nat := if c.kind = .cpy then (c.row, c.byte) else (0, c.byte)
/-- A command that has ended delivers its message once its own writes to the host region are performed and its sectors are written back:
the message is a release that covers them, of a stop too (R116). -/
def State.engClose (s : State) (core : Nat) (c : EngCmd) (e : EngStop) : State :=
  let c := { c with ended := some e }
  if s.hostReqs.any (fun r => engHost core c r && r.write.isSome) then s.setEng core c
  else match s.engOut core c with
    | .ok _ s => s.engDeliver core c e c.record.1 c.record.2
    | r => r.state.setEng core c
/-- A command performs its accesses and completes, as far as the host lets it. All of them, and the message where nothing holds it back,
fall in one step: a mixture of old and new sectors, which R115 allows to other observers, does not arise (DESIGN CHOICE, log entry 56). -/
def State.engFinish (s : State) (core : Nat) (c : EngCmd) : State :=
  match c.ended with
  | some e => s.engClose core c e
  | none =>
    match s.engRun core c with
    | .waiting c s => s.setEng core c
    | .stopped e c s => s.engClose core c e
    | .done c s => s.engClose core c {}
/-- ENGINE_COMMAND_START (R279): a command starts under the engine's reservation. -/
def State.engStart (s : State) (core k : Nat) : State :=
  let f := s.far core
  match f.eng[k]? with
  | none => s
  | some c => if f.eheld then s.setEng core { c with started := true } else s
/-- ENGINE_COMPLETION (R116, R286): a started command, or one that needs no access, ends. -/
def State.engComplete (s : State) (core k : Nat) : State :=
  match (s.far core).eng[k]? with
  | none => s
  | some c =>
    match c.early with
    | some (e, r, b) => s.engDeliver core c e r b
    | none => if c.started || c.ended.isSome then s.engFinish core c else s
/-- The copy engine asks for its units outside the arbiter's own step. -/
def State.engAsk (s : State) (core : Nat) : State := s.askUnits (clusterOf core) (2 * (core % 16) + 1)
/-- Runs what the engine holds, as far as the reservation allows (DESIGN CHOICE, log entry 2). -/
def State.engDrain (s : State) (core : Nat) : State :=
  (List.range (s.far core).eng.length).foldl (fun s _ => (((s.engAsk core).engStart core 0).engComplete core 0)) s
/-- Every command of a core stops (R287, R353, R361): STATUS 0x10 at the first byte not yet performed; of CPY the message names its
destination address (DESIGN CHOICE, log entry 67: R286 does not say which of the two). One whose writes are still on
their way stays until they are performed (R116). -/
def State.engStopAll (s : State) (core : Nat) : State :=
  (s.far core).eng.foldl (fun s c =>
    match c.early with
    | some (e, r, b) => s.engDeliver core c e r b
    | none =>
      let va := if c.kind = .cpy then blkDstAt c.block c.row c.byte else c.a + BitVec.ofNat 64 c.byte
      s.engClose core c (c.ended.getD { status := 0x10, fva := va })) s
/-- A command enters the engine. -/
def State.engIssue (s : State) (core : Nat) (c : EngCmd) : State :=
  let s := s.updFar core fun f =>
    { f with eng := f.eng ++ [{ c with seq := f.engSeq, row := if c.kind = .cpy then blkStartRow c.block else 0
                                       byte := if c.kind = .cpy then blkStartByte c.block else 0 }], engSeq := f.engSeq + 1 }
  if s.overlap then s else s.engDrain core

end Sys2Proof.Machine
end

