-- ==== Sys2Proof/Machine/Remote.lean ====
section
/-! DEFINITION. GET, PUT and RAMO in flight, and barrier units (R124 to R128, R171 to R173, R365). -/
namespace Sys2Proof.Machine

/-! ### Remote operations -/

/-- Replaces the remote operation at an index. -/
def State.setRemote (s : State) (k : Nat) (r : Remote) : State := { s with remotes := setAt s.remotes k r }
def State.dropRemote (s : State) (k : Nat) : State := { s with remotes := dropAt s.remotes k }
/-- The notice of target loss to the issuer's vcore (R128; fields that R170 does not fix are 0, DEDUCED, log entry 21). -/
def State.lossNotice (s : State) (r : Remote) : State :=
  let body : BitVec 448 := if r.kind = .put then r.data.zeroExtend 448 else 0
  if (s.far r.core).placed && !r.stray then s.notice (s.coreCtx r.core) (s.far r.core).vcore.toNat 3 0 0 body else s
/-- A remote operation whose target is lost in flight: a PUT is dropped with its notice, a GET or RAMO is marked (R128). -/
def State.loseRemote (s : State) (k : Nat) (r : Remote) : State :=
  if r.kind = .put ∨ r.stray then (s.dropRemote k).lossNotice r else s.setRemote k { r with lost := true }
/-- The reply of a GET or RAMO stands ready with its value. -/
def State.answer (s : State) (k : Nat) (r : Remote) (v : Nat) : State :=
  s.setRemote k { r with result := some (BitVec.ofNat 64 v) }
/-- The earlier operation of the same issuer and island that an .ord form waits for (R125). -/
def ordBlocked (l : List Remote) (k : Nat) (r : Remote) : Bool :=
  r.ord && (l.take k).any fun x => x.core == r.core && x.stray == r.stray && stackOf x.pa == stackOf r.pa && x.result.isNone && !x.lost
/-- A die becomes unreachable: what is in flight to it is lost (R128, R381), and of an isolated die, whose issuers see every other island
as unreachable, also what is in flight from it (R130). -/
def State.remotesLost (s : State) (d : Nat) (from' : Bool) : State :=
  let hit := fun (r : Remote) => r.result.isNone && !r.lost && (stackOf r.pa == d || (from' && dieOf r.core == d))
  let gone := fun (r : Remote) => hit r && (r.kind == .put || r.stray)
  let puts := s.remotes.filter gone
  let s := { s with remotes := (s.remotes.filter fun r => !gone r).map fun r => if hit r then { r with lost := true } else r }
  puts.foldl (fun s r => s.lossNotice r) s
/-- Whether an operation finds its target, or its issuer's way to it, gone. -/
def State.remoteCut (s : State) (r : Remote) : Bool :=
  let d := stackOf r.pa
  s.dstate d != 0 || (dieOf r.core != d && s.dstate (dieOf r.core) == 1)
/-- REMOTE_OP_PERFORM (R124, R126, R128): operation `k` is performed at the memory-side cache of its home, or its packet is
dropped there; the monitors held there see each of the three (R110). An error on the way is an event at the issuer (DEDUCED, log
entry 22). -/
def State.remotePerform (s : State) (k : Nat) : State :=
  match s.remotes[k]? with
  | none => s
  | some r =>
    let d := stackOf r.pa
    if r.result.isSome || r.lost || ordBlocked s.remotes k r then s
    else if r.inc.toNat < (mget (fun _ => 1) (s.stack d).incCopy (dieOf r.core)).toNat then
      (s.dropRemote k).log 5 0 3 d r.pa (dieOf r.core * 65536 + r.inc.toNat) d
    else if s.remoteCut r then s.loseRemote k r
    else
      let bad := fun (t : Trap) (s : State) => if r.stray then s else s.memEvent (.far r.core) t.infos
      match r.kind with
      | .get =>
        match s.mscRead r.pa r.n kLoad with
        | .ok v s => (s.wake true (lineOf r.pa) 1).answer k r v.toNat
        | .wait s => s
        | .trap t s => (bad t s).answer k r (memRead s.mem r.pa r.n)
      | .put =>
        match s.storeM d r.pa r.n kStore (r.data.zeroExtend 512) with
        | .ok _ s => s.answer k r 0
        | .wait s => s
        | .trap t s => (bad t s).answer k r 0
      | .ramo op =>
        match s.amoM d r.pa r.n fun old => some (amoNew op r.n old (r.data.toNat % 2 ^ (8 * r.n))) with
        | .ok v s => s.answer k r v
        | .wait s => s
        | .trap t s => (bad t s).answer k r (memRead s.mem r.pa r.n)
/-- REMOTE_REPLY (R126, R278): the reply writes its register, or tells that a PUT was accepted. A reply to a request of an earlier
incarnation of the issuer's die is dropped, and so is one that an earlier incarnation of the target's die has sent: a GET or RAMO is
then lost in flight (R128). -/
def State.remoteReply (s : State) (k : Nat) : State :=
  match s.remotes[k]? with
  | none => s
  | some r =>
    match r.result with
    | none => s
    | some v =>
      let at' := some (dieOf r.core)
      let t := s
      let s := s.dropRemote k
      if s.staleInc at' (dieOf r.core) r.inc then s.dropStale at' (dieOf r.core) r.inc
      else if s.staleInc at' (stackOf r.pa) r.tinc then
        (if r.kind = .put ∨ r.stray then s else t.setRemote k { r with lost := true, result := none }).dropStale at' (stackOf r.pa) r.tinc
      else if r.kind = .put ∨ r.stray then s
      else s.updHart (.far r.core) fun h => h.setReg r.d v
/-- Performs and answers the remote operations of a core in order, as far as they can be. -/
def State.remoteDrain (s : State) (core : Nat) : Nat → State
  | 0 => s
  | n + 1 =>
    match indexOf? (fun r => r.of core && !r.lost) s.remotes with
    | none => s
    | some k => ((s.remotePerform k).remoteReply k).remoteDrain core n
/-- The registers that outstanding GETs and RAMOs of a core will write (R195). -/
def State.remoteRegs (s : State) (core : Nat) (lost : Bool) : List Reg :=
  (s.remotes.filter fun r => r.of core && r.kind != .put && r.lost == lost).map (·.d)
/-- ISLAND_UNREACHABLE (R128). -/
def unreachable (island : Nat) (va : Word) (reason kind : Nat) : Trap :=
  { cause := 0x0F, infos := ⟨BitVec.ofNat 64 island, va, BitVec.ofNat 64 reason, BitVec.ofNat 64 kind⟩ }
/-- The reason of R128 for an island that the map shows unreachable. -/
def State.unreachReason (s : State) (d : Nat) : Option Nat :=
  match s.dstate d with
  | 1 => some 1
  | 2 => some 2
  | 3 => some 4
  | _ => none

/-! ### Barrier units (R171, R172) -/

/-- The counters of the unit of a level that a core belongs to. -/
def State.barsAt (s : State) (core lvl : Nat) : List Bar :=
  if lvl = 1 then (s.cluster (clusterOf core)).bars else if lvl = 2 then (s.island (dieOf core)).bars else s.hub.bars
def State.setBars (s : State) (core lvl : Nat) (b : List Bar) : State :=
  if lvl = 1 then s.updCluster (clusterOf core) fun c => { c with bars := b }
  else if lvl = 2 then s.updIsland (dieOf core) fun d => { d with bars := b }
  else s.updHub fun h => { h with bars := b }
/-- A counter of this key. -/
def Bar.is (b : Bar) (ctx lvl id : Nat) : Bool := b.ctx == ctx && b.lvl == lvl && b.id == id
/-- A generation whose arrivals have reached its SIZE. -/
def Bar.full (b : Bar) : Bool := decide (b.size ≤ b.cores.length)
/-- Every MSEND, PUT and alias command of a core has been delivered or performed (R172). -/
def State.sendsDone (s : State) (core : Nat) : Bool :=
  let me := some (s.coreCtx core, (s.far core).vcore.toNat)
  !(s.deliveries.any fun m => m.src == core && !m.own) &&
    !(match s.ctx (s.coreCtx core) with
      | some x => x.spill.any fun e => match e with | .msg m => m.sender == me | .task .. => false
      | none => false) && 
    !(s.remotes.any fun r => r.of core && r.kind == .put && r.result.isNone) && s.aliasDone (.far core)
/-- A full generation leaves: its members' waits end, and the counter is free (R172). -/
def State.barLeave (s : State) (core : Nat) (b : Bar) : State :=
  let s := s.setBars core b.lvl ((s.barsAt core b.lvl).erase b)
  b.cores.foldl (fun s c => s.updHart (.far c) fun h => { h with wait := h.wait.map fun w => { w with won := true } }) s
/-- A full generation may leave when no member arrived with .c, or every member's sends have landed. -/
def State.barCheck (s : State) (core : Nat) (b : Bar) : State :=
  if b.full && (b.comp.isEmpty || b.cores.all s.sendsDone) then s.barLeave core b else s
/-- An arrival reaches its unit (R172). -/
def State.barArrive (s : State) (m : BarMsg) : State :=
  let l := s.barsAt m.core m.lvl
  let add := fun (b : Bar) => { b with cores := b.cores ++ [m.core], comp := if m.comp then b.comp ++ [m.core] else b.comp }
  match l.find? fun b => b.is m.ctx m.lvl m.id && !b.full with
  | some b => (s.setBars m.core m.lvl (l.map fun x => if x = b then add b else x)).barCheck m.core (add b)
  | none =>
    let b := add { ctx := m.ctx, lvl := m.lvl, id := m.id, size := m.size, cores := [], comp := [] }
    (s.setBars m.core m.lvl (l ++ [b])).barCheck m.core b
/-- BARRIER_ARRIVAL: arrival `k` on its way reaches its unit; one of an earlier incarnation is dropped at the hub (R126). -/
def State.barrierArrival (s : State) (k : Nat) : State :=
  match s.barMsgs[k]? with
  | none => s
  | some m =>
    let s := { s with barMsgs := dropAt s.barMsgs k }
    if m.lvl = 3 && s.staleInc none (dieOf m.core) m.inc then s.dropStale none (dieOf m.core) m.inc else s.barArrive m
/-- The generation in which a core waits at a level. -/
def State.barOf (s : State) (core lvl : Nat) : Option Bar := (s.barsAt core lvl).find? fun b => b.cores.any fun c => c == core
/-- Withdraws a core's arrival (R173): from its unit, or while still on its way. -/
def State.barWithdraw (s : State) (core lvl : Nat) : State :=
  let s := { s with barMsgs := s.barMsgs.filter fun m => m.core != core }
  let l := (s.barsAt core lvl).map fun b =>
    if b.cores.any (fun c => c == core) then
      { b with cores := b.cores.filter fun c => c != core, comp := b.comp.filter fun c => c != core } else b
  s.setBars core lvl (l.filter fun b => !b.cores.isEmpty)
/-- The SIZE and ID of a DOM register (R171). -/
def domSize (w : Word) : Nat := bits w 44 32
def domId (w : Word) : Nat := bits w 7 0
def Far.dom (f : Far) (lvl : Nat) : Word := if lvl = 1 then f.dom1 else if lvl = 2 then f.dom2 else f.dom3

end Sys2Proof.Machine
end

