-- ==== Sys2Proof/Machine/Suspend.lean ====
section
/-! DEFINITION. The program counter, quiescing a core, stopping it, and saving and restoring vcores (R113, R180, R181, R317,
R318, R353, R361 to R365). -/
namespace Sys2Proof.Machine

/-! ### The program counter (R180, R181) -/

/-- The head count of the line an agent is in. -/
def Hart.lineHeads (h : Hart) : Nat := match h.line with | some l => lineN l.2 | none => 0
/-- NextPC (R180). -/
def nextPcOf (n : Nat) (pc : Word) : Word :=
  if pc.toNat % 64 < 2 * n then pc + 2 else (pc &&& ~~~63#64) + 66
def Hart.nextPc (h : Hart) : Word := nextPcOf h.lineHeads h.pc
/-- Target (R181), the delta already sign-extended. -/
def targetPc (pc delta : Word) (slot : BitVec 5) : Word := (pc &&& ~~~63#64) + (delta <<< 6) + (slot.zeroExtend 64 <<< 1)
/-- The head at a PC of a line, with its tail. -/
def headAt (l : BitVec 512) (pc : Word) : BitVec 16 × BitVec 64 :=
  let i := pc.toNat % 64 / 2
  (lineHead l i, lineTail l i)
/-- The instruction an agent is at, where its line is held and decodes. -/
def Hart.current (h : Hart) : Option Instr :=
  match h.line with
  | none => none
  | some l =>
    let p := headAt l.2 h.pc
    match decode p.1 p.2 with
    | .ok i => some i
    | .bad _ => none

/-! ### Quiescing a core -/

/-- The hart after an instruction: the PC at a target or at NextPC, and nothing left of the instruction's waits. -/
def Hart.moveOn (h : Hart) (target : Option Word) : Hart :=
  { h with pc := target.getD h.nextPc, fromPc := h.pc, wait := none, monitor := none, walkFault := none, hostLds := [] }
/-- The array instructions issued retire, as far as their reservations are granted now (R242, R395; DESIGN CHOICE, log entry 23). -/
def State.arrayEnd (s : State) (core : Nat) : State := s.arrayDrain core ((s.far core).aq.length + 1)
/-- A TSTEAL that waits and whose request its home has granted, though the grant is still on its way: its condition is met (R292). -/
def State.stealGranted (s : State) (a : Agent) : Bool :=
  match a, (s.hart a).wait with
  | .far c, some w => w.kind == .tsteal && s.grants.any fun g => g.core == c && g.home == w.obj
  | _, _ => false
/-- An MSEND, BAR or TSTEAL whose condition has been met has completed (R292), though its agent has had no turn since. -/
def State.waitDone (s : State) (a : Agent) : State :=
  let h := s.hart a
  match h.wait with
  | some w =>
    if (w.won && (w.kind == .msend || w.kind == .bar || w.kind == .tsteal)) || s.stealGranted a then
      let s := s.setHart a (h.moveOn none)
      match a, w.kind with
      | .far c, .tsteal => s.updFar c fun f => { f with stealWait := none }
      | _, _ => s
    else s
  | none => s
/-- Ends the wait of an agent without effect: a barrier arrival and a steal request are withdrawn (R173, R276, R292). -/
def State.endWait (s : State) (a : Agent) : State :=
  let h := s.hart a
  match h.wait with
  | none => if h.monitor.isSome then s.setHart a { h with monitor := none } else s
  | some w =>
    let s := match a, w.kind with
      | .far c, .bar => s.barWithdraw c w.obj
      | .far c, .tsteal => (s.stealDrop c w.obj).updFar c fun f => { f with stealWait := none }
      | .far c, .msend => { s with deliveries := s.deliveries.filter fun m => !(m.src == c && !m.own) }
      | _, _ => s
    s.updHart a fun h => { h with wait := none, monitor := none }
/-- The notices of a core's GETs and RAMOs lost in flight that no instruction has met (R128). -/
def State.lostNotices (s : State) (core : Nat) : State :=
  (s.remotes.filter fun r => r.of core && r.lost).foldl (fun s r => s.lossNotice r)
    { s with remotes := s.remotes.filter fun r => !(r.of core && r.lost) }
/-- Remote operations end before a save: replies are received, lost ones become notices of kind 3 (R361 step 3). -/
def State.remoteEnd (s : State) (core : Nat) : State :=
  (s.remoteDrain core (2 * s.remotes.length)).lostNotices core
/-- What comes before a save (R113, R361 step 3): true once nothing of the core is in flight. -/
def State.quiesce (s : State) (core : Nat) : State × Bool :=
  let s := (((s.arrayEnd core).engStopAll core).remoteEnd core)
  let a := Agent.far core
  match (s.needDrained a).bind fun _ s => if s.aliasDone a then s.releaseAt a .package else .wait s with
  | .ok _ s => (s, s.arrayIdle core && (s.far core).eng.isEmpty && !(s.remotes.any fun r => r.of core) && (s.hart a).hostLds.isEmpty &&
      (match (s.hart a).wait with | some w => w.kind != .cmaint | none => true))
  | r => (r.state, false)

/-! ### A core that stops (R353, R365) -/

/-- A WAITM that waits returns with a code (R111); nothing where no WAITM waits. -/
def State.waitmEnd (s : State) (a : Agent) (code : Nat) : State :=
  let h := s.hart a
  match h.wait, h.current with
  | some _, some (.waitm _ _ d _ _ _ _) =>
    s.setHart a ((h.setReg d (BitVec.ofNat 64 code)).moveOn none)
  | _, _ => s
/-- The return code of a waiting WAITM when a reason arises: the smallest of those seen (R111). -/
def Hart.waitmSeen (h : Hart) (code : Nat) : Nat :=
  match h.monitor with
  | some m => (minCode m.code code).getD code
  | none => code
/-- A WAITM that waits as its vcore is saved returns first with code 4 or the smaller code it has seen (R113). -/
def State.waitmReturn (s : State) (a : Agent) : State := s.waitmEnd a ((s.hart a).waitmSeen 4)
/-- An agent stops. An instruction that has issued with a load that it makes once only goes on to its end (`State.ready`); a fetch, or a wait,
is given up. -/
def State.halt (s : State) (a : Agent) : State :=
  (s.endWait a).updHart a fun h => { h with stopped := true, hostLds := if h.current.isNone || (s.hart a).wait.isSome then [] else h.hostLds }
/-- A far core stops alone: the array instructions issued retire, stores are performed, engine commands stop, a WAITM that waits returns
(R113), and an arrival of a waiting BAR is withdrawn with a notice of kind 8; one that has not reached its unit is discarded (DEDUCED,
log entry 40). -/
def State.stopCore (s : State) (core cause : Nat) : State :=
  let a := Agent.far core
  let s := (s.waitDone a).waitmReturn a
  let h := s.hart a
  let s := ((s.arrayEnd core).engStopAll core).sbDrain core (s.far core).sb.length
  let s : State := match h.wait with
    | some (w : Wait) =>
      if w.kind = WaitKind.bar then
        let id := domId ((s.far core).dom w.obj)
        let counted := (s.barOf core w.obj).isSome
        let s := s.barWithdraw core w.obj
        let left := match (s.barsAt core w.obj).find? fun b => b.is h.ctxid.toNat w.obj id with
          | some b => b.cores.length
          | none => 0
        if counted then s.notice h.ctxid.toNat 0 8 0 (w.obj * 256 + id) (BitVec.ofNat 448 left) else s
      else s
    | none => s
  ((s.halt a).updFar core fun f => { f with stopCause := cause }).log 9 0 0 core 0 cause (dieOf core)

/-! ### Live-range tables (R318) -/

def itemKind (w : Word) : Nat := bits w 63 60
/-- A well-formed item of a table. -/
def itemOk (w : Word) : Bool :=
  let b := bits w 15 0
  let first := bits w 59 45
  let last := bits w 44 30
  let none := first == 0 && last == 0
  bits w 29 16 == 0 &&
    match itemKind w with
    | 0 => none && bits w 15 12 == 0 && decide (b % 64 ≤ b / 64)
    | 1 => none && bits w 15 8 == 0 && decide (b % 16 ≤ b / 16)
    | 2 => decide (first ≤ last) && decide (b % 256 ≤ b / 256)
    | 3 | 4 | 5 | 6 | 7 => none && b == 0
    | _ => false
/-- Reads 8 bytes at a virtual address as the device does for its own tables (R318): `none` where nothing can be read. -/
def State.tableWord (s : State) (core : Nat) (va : Word) : Res (Option Word) :=
  let a := Agent.far core
  let h := s.hart a
  match s.translateFor a (agentKey a) h.walkFault.toList h.root (bits h.root 5 0) h.priv va kLoad with
  | .ok e s =>
    let pa := e.pa va
    if isDevice pa ∧ pa % 8 = 0 then
      match s.loadM (stackOf pa) pa 8 kLoad with
      | .ok v s => .ok (some (v.extractLsb' 0 64)) s
      | .wait s => .wait s
      | .trap _ s => .ok none s
    else .ok none s
  | .wait s => .wait s
  | .trap _ s => .ok none s
/-- The `n` items of a table from an address on, or `none` where one is malformed. -/
def State.tableItems (s : State) (core : Nat) (va : Word) : Nat → Res (Option (List Word))
  | 0 => .ok (some []) s
  | n + 1 =>
    (s.tableWord core va).bind fun o s =>
      match o with
      | none => .ok none s
      | some w => if itemOk w then (s.tableItems core (va + 8) n).bind fun l s => .ok (l.map (w :: ·)) s else .ok none s
/-- Table `k` of a core, or `none` where it is absent or malformed (R317, R318). -/
def State.liveTable (s : State) (core k : Nat) : Res (Option (List Word)) :=
  let base := (s.far core).lrtBase
  (s.tableWord core (base + BitVec.ofNat 64 (8 * k))).bind fun o s =>
    match o with
    | none => .ok none s
    | some off =>
      (s.tableWord core (base + off)).bind fun o s =>
        match o with
        | none => .ok none s
        | some hd =>
          let n := bits hd 6 0
          if bits hd 63 7 ≠ 0 ∨ n = 0 ∨ 64 < n then .ok none s else s.tableItems core (base + off + 8) n

/-! ### Saving (R317, R362) -/

/-- What a save keeps: everything, what a task boundary keeps, or the items of a live-range table. -/
inductive Keep where
  | full
  | boundary
  | items (l : List Word)
  deriving DecidableEq, Repr

def hasKind (l : List Word) (k : Nat) : Bool := l.any fun w => itemKind w == k
/-- Whether an item of a kind covers number `n`; `m` is the modulus that splits its bounds. -/
def itemHas (l : List Word) (k m n : Nat) : Bool :=
  l.any fun w => itemKind w == k && decide (bits w 15 0 % m ≤ n) && decide (n ≤ bits w 15 0 / m)
/-- The columns of a row that a table saves. -/
def savedColumns (l : List Word) (row : Nat) : BitVec 256 :=
  l.foldl (fun acc w =>
    if itemKind w = 2 ∧ bits w 59 45 ≤ row ∧ row ≤ bits w 44 30 then
      let lo := bits w 15 0 % 256
      let hi := bits w 15 0 / 256
      acc ||| (BitVec.ofNat 256 (2 ^ (hi - lo + 1) - 1) <<< lo)
    else acc) 0
def keepRegs (k : Keep) (r : FMap Word) : FMap Word :=
  match k with
  | .full => r
  | .boundary => mfilter (fun n _ => decide (7 ≤ n)) r
  | .items l => mfilter (fun n _ => itemHas l 0 64 n) r
def keepArr (k : Keep) (a : Arr) : Arr :=
  match k with
  | .items l =>
    { rows := (mmap (fun r v => v &&& savedColumns l r) a.rows).filter fun p => p.2 != 0
      tags := mfilter (fun t _ => itemHas l 1 16 t) a.tags
      spans := if hasKind l 3 then a.spans else []
      ky := if hasKind l 4 then a.ky else 0
      lanes := if hasKind l 5 then a.lanes else .one
      tt := if hasKind l 6 then a.tt else []
      smask := if hasKind l 6 then a.smask else 0
      sact := if hasKind l 6 then a.sact else 0 }
  | _ => a
/-- Slot contents are kept by a full save and by an item of kind q; else they read zero (R317, R362, DEDUCED, log entry 24). -/
def keepMail (k : Keep) (m : FMap Channel) : FMap Channel :=
  let zero := mmap (fun _ c => { c with slots := c.slots.map fun _ => 0 }) m
  match k with
  | .full => m
  | .boundary => zero
  | .items l => if hasKind l 7 then m else zero
/-- The parts of a hart that belong to the core and not to its vcore. -/
def Hart.ofCore (h core : Hart) : Hart :=
  { h with tlb := core.tlb, macroP := core.macroP, passP := core.passP, tableP := core.tableP, memP := core.memP
           addSeq := core.addSeq, slots := core.slots, walkFault := none, line := none, wait := none, monitor := none }
/-- The saved hart. -/
def keepHart (k : Keep) (h : Hart) : Hart :=
  { h.ofCore {} with regs := keepRegs k h.regs, sreq := false, evSusp := none }
/-- The parts of a far core that belong to the core. -/
def Far.ofCore (f core : Far) : Far :=
  { f with sb := core.sb, l1d := core.l1d, dirtied := core.dirtied, l1i := core.l1i, pbCache := [], eng := []
           aq := [], arun := none, aheld := 0, mid := none, acol := 0, xcol := [], eheld := false, mailPtr := core.mailPtr, autoHome := none
           stealWait := none }
def keepFar (k : Keep) (f : Far) : Far :=
  { f.ofCore {} with arr := keepArr k f.arr, mail := keepMail k f.mail, placed := false }
/-- A task waits at a core's side (R161). -/
def State.taskHold (s : State) (core : Nat) (t : Task) : State := s.updFar core fun f => { f with grantHold := f.grantHold ++ [t] }
/-- A task for which no level has room enters its context's spill queue; where that is full too, it waits at the core's side (R161). -/
def State.taskAside (s : State) (core : Nat) (t : Task) : State :=
  match s.ctx t.ctx with
  | some x =>
    if x.spillRoom then s.setCtx t.ctx { x with spill := x.spill ++ [.task (s.far core).vcore.toNat t none] } else s.taskHold core t
  | none => s.taskHold core t
/-- A granted task enters the core's queues, behind what waits already (R161). -/
def State.grantEnter (s : State) (core : Nat) (t : Task) : State :=
  if !(s.far core).grantHold.isEmpty then s.taskHold core t
  else match s.ctx t.ctx with
    | none => s.taskHold core t
    | some x =>
      if x.spill.any (Spill.taskFor (s.far core).vcore.toNat) then s.taskAside core t
      else match s.coreEnqueue core t with
        | some s => s
        | none => s.taskAside core t
/-- The source number of an arrival that a steal grant gave back (R381). -/
def returnSrc : Nat := 65536
/-- A home no longer counts a task as running (R122, R123). -/
def State.taskDone (s : State) (t : Task) : State :=
  if t.anchored then s.updHome t.home fun x => { x with running := x.running.erase t } else s
/-- Granted tasks that no longer have a core are given back to their homes, oldest first (R381). -/
def State.grantBack (s : State) (ts : List Task) : State :=
  ts.reverse.foldl (fun s t => (s.taskDone t).updHome t.home fun x => { x with arrivals := x.arrivals ++ [{ src := returnSrc, items := [(t.queue, t)] }] }) s
/-- The die of whose earlier incarnation a grant is that has crossed the hub: the home's, as its sender, or the core's, as it answers a
request (R126). -/
def State.grantStale (s : State) (g : Grant) : Option (Nat × BitVec 16) :=
  let d := dieOf g.core
  if d = g.home / 64 then none
  else if s.staleInc (some d) (g.home / 64) g.inc then some (g.home / 64, g.inc)
  else if s.staleInc (some d) d g.cinc then some (d, g.cinc)
  else none
/-- A core takes the tasks of a grant: it is live and holds a vcore of their context. -/
def State.grantFits (s : State) (g : Grant) : Bool :=
  s.coreLive g.core && (s.far g.core).placed && g.tasks.all fun t => t.ctx == s.coreCtx g.core
/-- A grant reaches its core's side: one of an earlier incarnation is dropped and logged (R126), one for a core that is not live, or that
holds no vcore of the context, finds no taker; their tasks are given back (R381; DESIGN CHOICE, log entry 69: R292 has granted tasks never
be lost). -/
def State.grantReach (s : State) (g : Grant) : State :=
  match s.grantStale g with
  | some p => (s.grantBack g.tasks).dropStale (some (dieOf g.core)) p.1 p.2
  | none =>
    if s.grantFits g then
      g.tasks.foldl (fun s t => s.grantEnter g.core t) s
    else s.grantBack g.tasks
/-- Delivers the grants on their way to a core before its queues are saved. -/
def State.grantsIn (s : State) (core : Nat) : State :=
  let mine := s.grants.filter fun g => g.core == core
  let s := { s with grants := s.grants.filter fun g => g.core != core }
  mine.foldl (fun s g => s.grantReach g) s
/-- The last vcore of a context in a cluster, or in a die, takes the context's entries of that queue with it: the cluster queue's and the die
queue's (R160, R362). -/
def State.queuesIn (s : State) (core : Nat) : State × List Task × List Task :=
  let c := s.coreCtx core
  let others := fun (same : Nat → Bool) => match s.ctx c with
    | some x => x.placed.any fun p => p.2 != core && same p.2
    | none => false
  let pick := fun (q : List Task) => q.filter fun t => t.ctx == c
  let rest := fun (q : List Task) => q.filter fun t => t.ctx != c
  let cl := clusterOf core
  let low := if others (fun k => clusterOf k == cl) then [] else pick (s.cluster cl).queue
  let s := if low.isEmpty then s else s.updCluster cl fun x => { x with queue := rest x.queue }
  let d := dieOf core
  let high := if others (fun k => dieOf k == d) then [] else pick (s.island d).queue
  (if high.isEmpty then s else s.updIsland d fun x => { x with queue := rest x.queue }, low, high)
/-- Such entries enter the queues of the cluster and the die where the vcore is placed (R363); what they have no room for goes aside
(DESIGN CHOICE, log entry 68). -/
def State.queuesOut (s : State) (core : Nat) (low high : List Task) : State :=
  let c := s.coreCtx core
  let cl := clusterOf core
  let d := dieOf core
  let s := low.foldl (fun s t =>
    if (s.cluster cl).queue.length < 64 then s.updCluster cl fun x => { x with queue := x.queue ++ [t] } else s.taskAside core t) s
  let s := high.foldl (fun s t =>
    if (s.island d).queue.length < 512 then s.updIsland d fun x => { x with queue := x.queue ++ [t] } else s.taskAside core t) s
  let s := if low.isEmpty then s else s.autoCancelAll c fun k => clusterOf k == cl
  if high.isEmpty then s else s.autoCancelAll c fun k => dieOf k == d
/-- Withdraws every steal request of a core. -/
def State.stealsOut (s : State) (core : Nat) : State :=
  let f := s.far core
  let s := match f.autoHome with | some h => s.stealDrop core h | none => s
  match f.stealWait with | some p => s.stealDrop core p.1 | none => s
/-- An array engine's units are given back, and a copy engine's. -/
def State.unitsBack (s : State) (core : Nat) : State := (s.arrayRelease core).copyRelease core
/-- The GETs and RAMOs that are lost go with the vcore that issued them; those in flight answer to nobody. -/
def State.remotesStray (s : State) (core : Nat) : State :=
  if s.remotes.any (fun r => r.of core) then
    { s with remotes := (s.remotes.filter fun r => !(r.of core && r.lost)).map fun r => if r.of core then { r with stray := true } else r }
  else s
/-- Completions and notices that stand at the mailbox unit of a vcore which leaves wait for its next placing, in their order (R169, R366). -/
def State.unitHeld (s : State) (c v : Nat) : State :=
  let mine := fun (m : Msg) => m.own && m.ctx == c && m.vcore == v
  if s.deliveries.any mine then
    ({ s with deliveries := s.deliveries.filter fun m => !mine m }).updCtx c fun x => { x with held := x.held ++ s.deliveries.filter mine }
  else s
/-- Takes a vcore off its core, with or without its state. A core that has stopped stays stopped until it is repaired (R354). -/
def State.unplace (s : State) (c core : Nat) (sv : Option Saved) : State :=
  let s := ((s.unitsBack core).walkForget (.far core)).remotesStray core
  let f := s.far core
  let h := s.hart (.far core)
  let v := f.vcore.toNat
  let s := s.setFar core { ({ arr := f.arr } : Far).ofCore f with stopCause := f.stopCause }
  let s := s.setHart (.far core) { ({} : Hart).ofCore h with stopped := h.stopped }
  (s.updCtx c fun x => { x with placed := mdel x.placed v, saved := match sv with | some y => mput x.saved v (some y) | none => x.saved }).unitHeld c v
/-- A save reads the array: a row whose parity tells of an error only adds a record, since no agent's access reads it (R356). -/
def State.saveParity (s : State) (core : Nat) : State :=
  (s.bad.filter fun x => x.unit == 6 && x.own == core).foldl (fun s x =>
    (s.freshen 6 core x.sec).log 1 6 0 core (2 ^ 49 + core * 2 ^ 23 + 32 * x.sec) 0xFF (dieOf core)) s
/-- Saves a vcore: true when it has been saved (R361 to R365; DESIGN CHOICE, log entry 44). -/
def State.saveVcore (s : State) (core : Nat) (k : Keep) : State × Bool :=
  let a := Agent.far core
  let s := (((s.waitDone a).waitmReturn a).endWait a).stealsOut core |>.grantsIn core
  match s.quiesce core with
  | (s, false) => (s, false)
  | (s, true) =>
    let q := s.queuesIn core
    let s := q.1.saveParity core
    (s.unplace (s.coreCtx core) core
      (some { hart := keepHart k (s.hart a), far := keepFar k (s.far core), clusterQ := q.2.1, dieQ := q.2.2 }), true)

/-! ### Placing (R354, R363, R364, R413) -/

/-- Places a vcore with its state on a core; its held and spilled deliveries follow. -/
def State.placeVcore (s : State) (c v core : Nat) (sv : Saved) : State :=
  let h := s.hart (.far core)
  let f := s.far core
  let s := s.setFar core { sv.far.ofCore f with placed := true, stopCause := 0, vcore := BitVec.ofNat 12 v }
  let s := s.setHart (.far core) { sv.hart.ofCore h with ctxid := BitVec.ofNat 6 c }
  let s := s.updCtx c fun x => { x with placed := mput x.placed v core, saved := mdel x.saved v, st := .running }
  (s.queuesOut core sv.clusterQ sv.dieQ).redeliver c v core
/-- The XLAT_ROOT value of a context (R31, R154). -/
def Context.rootWord (x : Context) (c : Nat) : Word := (x.root &&& 0x000FFFFFFFFFFC00#64) ||| BitVec.ofNat 64 c
/-- A vcore as PLACE starts it (R413); under a suspension request it has SREQ like every vcore of its context (R361). -/
def Context.fresh (x : Context) (c : Nat) (d1 d2 d3 : Word) : Saved :=
  { hart := { ctxid := BitVec.ofNat 6 c, root := x.rootWord c, vecU := x.vecU, deleg := x.deleg, sreq := x.susp.isSome
              evSusp := x.susp.map fun u => (u.reason, u.deadline, u.limit) }
    far := { dom1 := d1, dom2 := d2, dom3 := d3, lrtBase := x.lrtBase } }
/-- RMAP_CHANGE is pending at a vcore whose context has not acknowledged the version (R363, R378). -/
def State.mapEvent (s : State) (core : Nat) : State :=
  s.updHart (.far core) fun h => ({ h with evMap := some s.mapVersion } : Hart).contextEvent
/-- The grace deadline of a context starts (R378): GRACE counts cycles of 1.3 GHz. A deadline that runs is not moved by a later commit, but a
resumption starts it anew. -/
def State.startGrace (s : State) (c : Nat) (anew : Bool) : State :=
  s.updCtx c fun x => if x.pend && !anew then x else { x with pend := true, deadline := s.time + s.hub.grace.toNat * 10 / 13 }
/-- A vcore is placed while its context's ACK differs from the version: the event is pending there, and the deadline runs (R363, R378). -/
def State.mapNew (s : State) (c core : Nat) : State :=
  match s.ctx c with
  | some x => if x.ack ≠ s.mapVersion then (s.mapEvent core).startGrace c false else s
  | none => s

end Sys2Proof.Machine
end

