-- ==== Sys2Proof/Machine/Tasks.lean ====
section
/-! DEFINITION. Home queues and their cycle, far-side queues, dispatch, anchors, retirement and stealing (R121 to R123, R153 to
R162, R331 to R333, R381, R385). -/
namespace Sys2Proof.Machine

/-! ### Home queues (R123, R156 to R158, R331) -/

/-- Effective priority (R331). -/
def Queue.ep (q : Queue) : Nat := min 3 (q.pri + q.age / 4096)
/-- Two physical anchor ranges overlap (R123). -/
def Task.meets (t u : Task) : Bool := decide (t.pbase < u.pbase + u.len) && decide (u.pbase < t.pbase + t.len)
/-- A task is eligible beside the running tasks of its home (R123). -/
def eligible (excl : Bool) (running : List Task) (t : Task) : Bool := !excl || !running.any t.meets
/-- The number among `ks` nearest at or after `p`, counting modulo `n` (R328). -/
def nearestFrom (n p : Nat) (ks : List Nat) : Option Nat :=
  ks.foldl (fun o k => match o with
    | none => some k
    | some j => if (k + n - p) % n < (j + n - p) % n then some k else some j) none
/-- The best of the candidate queues: highest effective priority, ties at or after a pointer (R158, R328). -/
def Home.bestQueue (x : Home) (ptr : Nat) (ok : Nat → Bool) : Option Nat :=
  let c := (List.range 16).filter ok
  let top := c.foldl (fun m q => max m (x.queueAt q).ep) 0
  nearestFrom 16 ptr (c.filter fun q => (x.queueAt q).ep == top)
/-- A task returned from a home: a notice of kind 9 to vcore 0 of its context (R385). -/
def State.returnTask (s : State) (h q : Nat) (t : Task) : State :=
  s.notice t.ctx 0 9 0 (h * 16 + q) ((0 : BitVec 128) ++ t.seq.zeroExtend 64 ++ t.record)
/-- Appends an arriving record to its queue; a queue unbound in the meantime returns or discards it (R157, R300). It then goes on numbering
from where its last binding stood, so that what it returns ascends (R385; DEDUCED, log entry 71). A record whose `keep` is set keeps its
sequence number (R381). -/
def State.appendTask (s : State) (h q : Nat) (keep : Bool) (t : Task) : State :=
  let x := s.home h
  let u := x.queueAt q
  if u.ctx = some t.ctx then
    let t := if keep then t else { t with seq := u.counter, pri := u.pri }
    s.setHome h (x.setQueue q { u with tasks := u.tasks ++ [t], counter := if keep then u.counter else u.counter + 1 })
  else
    match s.ctx t.ctx with
    | some c =>
      if c.st = .exited ∨ c.st = .exiting then s.log 7 0 3 (h / 64) 0 (h * 16 + q) (h / 64)
      else if keep ∨ u.ctx.isSome then s.returnTask h q t
      else (s.setHome h (x.setQueue q { u with counter := u.counter + 1 })).returnTask h q { t with seq := u.counter }
    | none => s.log 7 0 3 (h / 64) 0 (h * 16 + q) (h / 64)
/-- Inserts an arrival by ascending appender, behind equal ones (R330). -/
def arrivalInsert (a : Arrival) : List Arrival → List Arrival
  | [] => [a]
  | x :: t => if x.src ≤ a.src then x :: arrivalInsert a t else a :: x :: t
/-- The die of an appender that has one (R142). -/
def senderDie (src : Nat) : Nat := if src < 4096 then dieOf src else (src - 4096) / 128
/-- Records from another island that an earlier incarnation of its die has sent are dropped and logged (R126, kind 5). -/
def State.arrivalStale (s : State) (h : Nat) (a : Arrival) : Bool :=
  a.inc != 0 && senderDie a.src != h / 64 && decide (a.inc.toNat < (mget (fun _ => 1) (s.stack (h / 64)).incCopy (senderDie a.src)).toNat)
/-- Step 1 of a home cycle (R158, R330). Each cycle takes in every group that has been sent to the home before it: no cycle passes while a group
still travels (DESIGN CHOICE, log entry 70: R330 bounds the time from above only). -/
def State.homeArrive (s : State) (h : Nat) : State :=
  let x := s.home h
  let sorted := x.arrivals.foldl (fun acc a => arrivalInsert a acc) []
  sorted.foldl (fun s a =>
    if s.arrivalStale h a then s.log 5 0 3 (h / 64) 0 (senderDie a.src * 65536 + a.inc.toNat) (h / 64)
    else a.items.foldl (fun s p => s.appendTask h p.1 (a.src == returnSrc) p.2) s) (s.setHome h { x with arrivals := [] })
/-- Takes up to `n` records from the tail, youngest first, until one is ineligible (R158): those taken, what is left youngest
first (DEDUCED, log entry 19). -/
def takeTail (excl : Bool) : Nat → List Task → List Task → List Task × List Task
  | 0, l, _ => ([], l)
  | _ + 1, [], _ => ([], [])
  | n + 1, t :: l, running =>
    if eligible excl running t then
      let r := takeTail excl n l (t :: running)
      (t :: r.1, r.2)
    else ([], t :: l)
/-- Step 2 of a home cycle (R158): the steal request that is next in turn; the queue it took from. -/
def State.homeGrant (s : State) (h : Nat) : State × Option Nat :=
  let x := s.home h
  match nearestFrom 4096 x.stealPtr (x.steals.map (·.core)) with
  | none => (s, none)
  | some core =>
    match x.steals.find? fun r => r.core == core with
    | none => (s, none)
    | some r =>
      let ok := fun q => let u := x.queueAt q
        u.ctx == some r.ctx && s.dispatches r.ctx && decide (u.t < 255) && decide (u.t < u.tasks.length)
      match x.bestQueue x.qPtr ok with
      | none => (s, none)
      | some q =>
        let u := x.queueAt q
        let n := min (u.tasks.length - u.t) (min r.count 8)
        let p := takeTail u.excl n u.tasks.reverse x.running
        if p.1.isEmpty then (s, none)
        else
          let given := p.1.map fun t => { t with entry := u.farPc }
          let x := { x.setQueue q { u with tasks := p.2.reverse } with
            running := x.running ++ given, steals := x.steals.filter fun y => y.core != core
            stealPtr := (core + 1) % 4096, qPtr := (q + 1) % 16 }
          ({ s.setHome h x with grants := s.grants ++ [{ core := core, tasks := given, home := h, inc := s.incOf (h / 64), cinc := s.sentInc core }] }, some q)

/-! ### Anchors (R121, R122, R384) -/

/-- The lines that overlap a task's physical anchor range. -/
def Task.lines (t : Task) : List Nat := if t.anchored then linesOf t.pbase t.len else []
/-- Writes back and drops an island's copies of a line, once the host lets it (R64); at a home whose memory is lost nothing goes to the MSC
(R384). -/
def State.lineOut (s : State) (d ln : Nat) : Res Unit :=
  if s.homeLost (homeOf (64 * ln)) then .ok () ((s.l1CleanAll d ln true).updIsland d fun x => { x with l2 := mdel x.l2 ln })
  else s.cleanTry d ln true
/-- Does an action on each of some lines in turn, as far as none must wait. -/
def eachLine (f : State → Nat → Res Unit) (l : List Nat) (s : State) : Res Unit :=
  l.foldl (fun r ln => r.bind fun _ s => f s ln) (.ok () s)
/-- The anchor clean of a dispatch (R121): a monitor on a line loses it (R111). -/
def State.anchorClean (s : State) (t : Task) : Res Unit :=
  eachLine (fun s ln => (s.lineOut (stackOf t.pbase) ln).bind fun _ s => .ok () (s.wake false ln 2)) t.lines s
/-- The anchor release of a near task on a line that it wrote: copies are invalidated, a write for monitors (R110, R122). -/
def State.wroteOut (s : State) (h ln : Nat) : Res Unit :=
  if s.islandHolds (h / 64) ln then (s.lineOut (h / 64) ln).bind fun _ s => .ok () (s.wake false ln 1) else .ok () s
/-- The anchor release of a near task (R122). -/
def State.anchorNear (s : State) (h c : Nat) : Res Unit := eachLine (fun s ln => s.wroteOut h ln) (s.near h c).wrote s
/-- The dirty sectors of an island L2's line go to the MSC, once the host lets them (R64). -/
def State.l2Out (s : State) (d ln : Nat) : Res Unit :=
  match if (s.l2At d ln).dirty = 0 then none else s.mscBar ln true with
  | some x => .wait (s.backInvalidate x)
  | none => .ok () (s.l2Clean d ln false)
/-- The anchor release of a far task: its core's and the L2's dirty sectors of the range go to the MSC (R122). -/
def State.anchorFar (s : State) (core : Nat) (t : Task) : Res Unit :=
  eachLine (fun s ln =>
    let s := s.l1Clean core ln false (some (.far core))
    if s.homeLost (homeOf (64 * ln)) then .ok () s else s.l2Out (dieOf core) ln) t.lines s

/-! ### Dispatch (R154) -/

/-- The registers of R154 for a task on a runner of kind 1 (near) or 2 (far). -/
def Hart.dispatch (h : Hart) (t : Task) (kind : Word) : Hart :=
  let h := h.setReg 1 (if t.anchored then t.base else 0)
  let h := h.setReg 2 (if t.anchored then BitVec.ofNat 64 t.len else 0)
  let h := ((h.setReg 3 t.arg0).setReg 4 t.arg1).setReg 5 (t.seq.zeroExtend 64)
  { h.setReg 6 kind with pc := t.entry, fromPc := 0, line := none, h := false, active := true, wait := none, monitor := none }
/-- A task whose anchor is clean begins on a near context, which holds nothing of an earlier one (R132, R152, R154, R352). -/
def State.nearDispatch (s : State) (h c : Nat) (t : Task) : State :=
  let a := Agent.near h c
  let o := s.hart a
  let x := (s.ctx t.ctx).getD {}
  let g : Hart := { ctxid := BitVec.ofNat 6 t.ctx, root := x.rootWord t.ctx, vecU := x.nearVec, deleg := x.nearDeleg, addSeq := o.addSeq
                    slots := o.slots }
  (s.setHart a (g.dispatch t 1)).setNear h c { row := (s.near h c).row, rowOpen := false, task := some t, wrote := [] }
/-- A task whose anchor is clean begins on a far core (R121, R154). -/
def State.farDispatch (s : State) (core : Nat) (t : Task) : State :=
  (s.updHart (.far core) fun h => h.dispatch t 2).updFar core fun f => { f with task := some t }
/-- Step 3 of a home cycle for context `c` (R158); the queue it took from. A dispatch whose anchor clean must wait for the host is
tried again in a later cycle (R64). -/
def State.homePlace (s : State) (h c : Nat) : State × Option Nat :=
  let x := s.home h
  if (s.near h c).task.isSome || !s.nearLive h then (s, none)
  else
    let can := fun q => let u := x.queueAt q
      match u.ctx with
      | some k => s.dispatches k && u.tasks.any (eligible u.excl x.running)
      | none => false
    match x.bestQueue x.nearPtr can with
    | none => (s, none)
    | some q =>
      let u := x.queueAt q
      match u.tasks.find? (eligible u.excl x.running) with
      | none => (s, none)
      | some t =>
        let p := { t with entry := u.nearPc }
        match s.anchorClean p with
        | .trap _ s | .wait s => (s, none)
        | .ok _ s =>
          let x := s.home h
          let x := { x.setQueue q { u with tasks := u.tasks.erase t } with running := x.running ++ [p], nearPtr := (q + 1) % 16 }
          ((s.setHome h x).nearDispatch h c p, some q)
/-- Ages at the end of a home cycle (R331). -/
def Home.ageAll (x : Home) (taken : List Nat) : Home :=
  { x with queues := mmap (fun q u =>
      if taken.any (fun k => k == q) || u.tasks.isEmpty then { u with age := 0 } else { u with age := min (u.age + 1) (2 ^ 32 - 1) }) x.queues }
/-- HOME_CYCLE (R158, R331): step 3 for both contexts chooses by the effective priorities of the cycle's start. -/
def State.homeCycle (s : State) (h : Nat) : State :=
  let s := s.homeArrive h
  let (s, g) := s.homeGrant h
  let (s, p) := s.homePlace h 0
  let (s, q) := s.homePlace h 1
  s.updHome h fun x => x.ageAll (g.toList ++ p.toList ++ q.toList)

/-! ### Stealing (R159, R162, R332, R333, R381) -/

/-- STEAL_REQUEST_ARRIVAL: a request, or its new count, becomes pending at its home; one for each core (R159, R301). A new
count that arrives after its request has been granted changes nothing, and one of an earlier incarnation is dropped and logged (R126). -/
def State.stealArrive (s : State) (m : StealMsg) : State :=
  let d := dieOf m.req.core
  if m.inc != 0 && d != m.home / 64 && decide (m.inc.toNat < (mget (fun _ => 1) (s.stack (m.home / 64)).incCopy d).toNat) then
    s.log 5 0 3 (m.home / 64) 0 (d * 65536 + m.inc.toNat) (m.home / 64)
  else if s.grants.any fun g => g.core == m.req.core && g.home == m.home then s
  else s.updHome m.home fun x => { x with steals := (x.steals.filter fun r => r.core != m.req.core) ++ [m.req] }
/-- Posts a request: at once when the turn does not overlap. -/
def State.stealPost (s : State) (core home count : Nat) : State :=
  let m : StealMsg := { home := home, req := { core := core, ctx := s.coreCtx core, count := count }, inc := s.sentInc core }
  if s.overlap then { s with stealMsgs := s.stealMsgs ++ [m] } else s.stealArrive m
/-- STEAL_GRANT_DELIVERY: grant `k` on its way arrives (R332, R161). -/
def State.grantDeliver (s : State) (k : Nat) : State :=
  match s.grants[k]? with
  | none => s
  | some g =>
    let taken := s.grantFits g && (s.grantStale g).isNone
    let s := ({ s with grants := dropAt s.grants k }).grantReach g
    if !taken then s else
    let s := s.updFar g.core fun f => { f with autoHome := if f.autoHome = some g.home then none else f.autoHome }
    let s := { s with stealMsgs := s.stealMsgs.filter fun m => !(m.req.core == g.core && m.home == g.home) }
    s.updHart (.far g.core) fun h => { h with wait := h.wait.map fun w =>
      if w.kind = .tsteal ∧ w.obj = g.home then { w with won := true } else w }
/-- The grants on their way to a core all arrive (DESIGN CHOICE, log entry 2). -/
def State.grantsDrain (s : State) (core : Nat) : Nat → State
  | 0 => s
  | n + 1 =>
    match indexOf? (fun (g : Grant) => g.core == core) s.grants with
    | none => s
    | some k => (s.grantDeliver k).grantsDrain core n
/-- An entry of STEAL_SET (R313). -/
def stealEntry (w : Word) (i : Nat) : Option Nat := if tb w.toNat (16 * i + 15) then some (bits w (16 * i + 9) (16 * i)) else none
/-- Posts the next autonomous request, if none is pending (R162 step 4, R333); an entry whose home a waiting TSTEAL has asked is passed
by, since a core has one request at a home (R159). -/
def State.autoPost (s : State) (core : Nat) : State :=
  let f := s.far core
  if f.autoHome.isSome then s
  else
    match firstFrom 4 f.stealPtr fun i => (stealEntry f.stealSet i).any fun h => !f.stealWait.any fun p => p.1 == h with
    | none => s
    | some i =>
      let home := (stealEntry f.stealSet i).getD 0
      (s.setFar core { f with stealPtr := (i + 1) % 4, autoHome := some home }).stealPost core home 8
/-- AUTO_STEAL_WITHDRAW (R333): a request that has not been granted is withdrawn and one goes to the next entry. -/
def State.autoWithdraw (s : State) (core : Nat) : State :=
  match (s.far core).autoHome with
  | none => s
  | some h =>
    if (s.home h).steals.any (fun r => r.core == core) || s.stealMsgs.any (fun m => m.req.core == core && m.home == h) then
      ((s.stealDrop core h).updFar core fun f => { f with autoHome := none }).autoPost core
    else s

/-! ### The search of a far core (R162) -/

/-- Spilled tasks, and behind them the grant tasks that wait for room, enter the core's queues, in order (R161). -/
def State.queueRefill (s : State) (core : Nat) : State :=
  let v := (s.far core).vcore.toNat
  let s := s.redeliver (s.coreCtx core) v core
  (s.far core).grantHold.foldl (fun s t =>
    match (s.far core).grantHold, s.ctx (s.coreCtx core) with
    | x :: rest, some c =>
      if x = t && !c.spill.any (Spill.taskFor v) then
        match s.coreEnqueue core t with
        | some s => s.updFar core fun f => { f with grantHold := rest }
        | none => s
      else s
    | _, _ => s) s
/-- Steps 1 to 4 of R162: brings entries of the core's context into its core queue. The pointer of the queue a block comes from moves past
the core (R328); turns fall in cycles of their own, so no two cores contend for a block (DESIGN CHOICE, log entry 62). -/
def State.farSearch (s : State) (core : Nat) : State :=
  let ctx := s.coreCtx core
  let fill := fun (s : State) (b : List Task) => (s.updFar core fun f => { f with coreQ := f.coreQ ++ b }).autoCancel core
  if !(s.far core).coreQ.isEmpty then s.autoCancel core
  else
    let cl := clusterOf core
    let p := takeOldest ctx 8 (s.cluster cl).queue
    if !p.1.isEmpty then (fill (s.updCluster cl fun c => { c with queue := p.2, blkPtr := (core % 16 + 1) % 16 }) p.1).queueRefill core
    else
      let d := dieOf core
      let p := takeOldest ctx 8 (s.island d).queue
      if !p.1.isEmpty then (fill (s.updIsland d fun x => { x with queue := p.2, blkPtr := (core % 256 + 1) % 256 }) p.1).queueRefill core
      else
        let s := s.queueRefill core
        if !(s.far core).coreQ.isEmpty then s.autoCancel core
        else
          let s := s.autoPost core
          if s.overlap then s else s.grantsDrain core s.grants.length
/-- FAR_TASK_TAKE (R162, R361): a core without a task takes the next, or its vcore is suspended in its place. -/
def State.farTake (s : State) (core : Nat) : State :=
  let f := s.far core
  let h := s.hart (.far core)
  if !f.placed || f.task.isSome || h.active || h.stopped then s
  else
    let c := h.ctxid.toNat
    match s.ctx c with
    | none => s
    | some x =>
      if x.susp.isSome then (s.saveVcore core .boundary).1
      else if x.st ≠ .running then s
      else
        let s := s.farSearch core
        match (s.far core).coreQ with
        | t :: q =>
          match s.anchorClean t with
          | .ok _ s => ((s.updFar core fun f => { f with coreQ := q }).farDispatch core t).queueRefill core
          | r => r.state
        | [] => s

/-! ### Retirement and aborts (R122, R303, R352) -/

/-- A near task retires after its releases: row closed, context free (R122, R303). -/
def State.nearRetire (s : State) (h c : Nat) : State :=
  let s := match (s.near h c).task with | some t => s.taskDone t | none => s
  (s.updNear h c fun x => { x with rowOpen := false, task := none, wrote := [] }).updHart (.near h c) fun g =>
    { g with active := false, wait := none, monitor := none }
/-- The anchor release of a near task that is aborted: a line whose release must wait for the host leaves with the written-line log (R64). -/
def State.anchorLeave (s : State) (h c : Nat) : State :=
  (s.near h c).wrote.foldl (fun s ln => match s.wroteOut h ln with
    | .ok _ s => s
    | r => r.state.updUnit h fun u => { u with wlog := if u.wlog.any (fun e => e == ln) then u.wlog else u.wlog ++ [ln] }) s
/-- An aborted near task (R352, R355). -/
def State.nearAbort (s : State) (h c cause : Nat) (pc : Word) : State :=
  match (s.near h c).task with
  | none => s
  | some t =>
    let s := (s.anchorLeave h c).nearRetire h c
    let body : BitVec 448 := (0 : BitVec 64) ++ pc ++ BitVec.ofNat 64 cause ++ t.record
    let s := s.notice t.ctx 0 5 0 (h * 16 + t.queue) body
    s.log 10 0 1 (2 * h + c) 0 cause (h / 64)
/-- A far task retires after its releases (R122, R303). -/
def State.farRetire (s : State) (core : Nat) : State :=
  match (s.far core).task with
  | none => s.updHart (.far core) fun h => { h with active := false, wait := none }
  | some t =>
    ((s.taskDone t).updFar core fun f => { f with task := none }).updHart (.far core) fun h =>
      { h with active := false, wait := none, monitor := none }

end Sys2Proof.Machine
end

