-- ==== Sys2Proof/Machine/Operands.lean ====
section
/-! DEFINITION. What an instruction names: its major code, the registers it reads and writes, its profile, privilege and permit
class (R134, R184, R195, R323, R324, R422), and the addresses and immediates of the scalar memory forms (R267). -/
namespace Sys2Proof
/-! ### Major codes (R185) -/

/-- The major code of an instruction; events have none and answer 0. -/
def Instr.major : Instr → Nat
  | .ill h _ => (h.extractLsb' 9 7).toNat
  | .add .. => 0x01 | .sub .. => 0x02 | .and .. => 0x03 | .or .. => 0x04 | .xor .. => 0x05 | .andn .. => 0x06
  | .shl .. => 0x07 | .shr .. => 0x08 | .sha .. => 0x09 | .rot .. => 0x0A | .mul .. => 0x0B | .mulh .. => 0x0C
  | .div .. => 0x0D | .minmax .. => 0x0E | .cmp .. => 0x0F | .addi .. => 0x10 | .li .. => 0x11 | .logi .. => 0x12
  | .shi .. => 0x13 | .bext .. => 0x14 | .bins .. => 0x15 | .bitc .. => 0x16 | .hdrp .. => 0x17 | .hdrx .. => 0x18
  | .sel .. => 0x19 | .addpc .. => 0x1A | .br .. => 0x1B | .brz .. => 0x1C | .jmp .. => 0x1D | .jal .. => 0x1E
  | .jr .. => 0x1F | .ld .. => 0x20 | .st .. => 0x21 | .lda .. => 0x22 | .stl .. => 0x23 | .amo .. => 0x24
  | .cas .. => 0x25 | .amof .. => 0x26 | .fence .. => 0x27 | .waitm .. => 0x28 | .waitc .. => 0x29 | .cmaint .. => 0x2A
  | .get .. => 0x2B | .put .. => 0x2C | .ramo .. => 0x2D | .ldx .. => 0x2E | .stx .. => 0x2F | .csrr .. => 0x30
  | .csrw .. => 0x31 | .csrx .. => 0x32 | .trap .. => 0x33 | .eret => 0x34 | .idle .. => 0x35 | .ckpt .. => 0x36
  | .rmread .. => 0x37 | .rmack .. => 0x38 | .time .. => 0x39 | .snap => 0x3A | .tlbi .. => 0x3B | .ien .. => 0x3C
  | .sysc .. => 0x3D | .nrowOpen .. => 0x3E | .nrowClose => 0x3E | .nlut .. => 0x3F | .pcmp .. => 0x40 | .pset .. => 0x41
  | .pcs .. => 0x42 | .top .. => 0x43 | .tshf .. => 0x44 | .tcnt .. => 0x45 | .tany .. => 0x46 | .tfirst .. => 0x47
  | .span .. => 0x48 | .spanRd .. => 0x48 | .seg .. => 0x49 | .segRd .. => 0x49 | .key .. => 0x4A | .cfill .. => 0x4B
  | .cread .. => 0x4C | .cwrite .. => 0x4D | .fmov .. => 0x4E | .frot .. => 0x4F | .ttld .. => 0x50 | .ttrun .. => 0x51
  | .tload .. => 0x52 | .tstore .. => 0x53 | .xrow .. => 0x54 | .aadd .. => 0x60 | .asub .. => 0x61 | .aaddk .. => 0x62
  | .amul .. => 0x63 | .amulk .. => 0x64 | .amac .. => 0x65 | .amack .. => 0x66 | .afma .. => 0x67 | .acvt .. => 0x68
  | .acmp .. => 0x69 | .aminmax .. => 0x6A | .ared .. => 0x6B | .aspmac .. => 0x6C | .aspmacLdx .. => 0x6C
  | .aspmacLdm => 0x6C | .alut .. => 0x6D | .aresolve .. => 0x6E | .aqdec .. => 0x6F | .cpy .. => 0x70 | .afill .. => 0x71
  | .aspill .. => 0x72 | .mbwait .. => 0x73 | .mbpop .. => 0x74 | .msend .. => 0x75 | .bar .. => 0x76 | .larm .. => 0x77
  | .qbind .. => 0x78 | .tenq .. => 0x79 | .tnext .. => 0x7A | .tsteal .. => 0x7B | .tend => 0x7C | .qstat .. => 0x7D
  | _ => 0
/-- The scalar registers that an instruction reads (R195). -/
def Instr.reads : Instr → List Reg
  | .add _ _ a b | .sub _ _ a b | .and _ _ a b | .or _ _ a b | .xor _ _ a b | .andn _ _ a b | .shl _ _ a b | .shr _ _ a b
  | .sha _ _ a b | .rot _ _ a b | .mul _ _ a b | .mulh _ _ a b | .div _ _ _ _ a b | .minmax _ _ _ _ a b | .cmp _ _ a b => [a, b]
  | .sel _ a b c => [a, b, c]
  | .addi _ _ a _ | .logi _ _ a _ | .shi _ _ _ a _ | .bext _ _ a _ _ | .bitc _ _ a | .hdrx _ a _ _ | .jr _ a => [a]
  | .li f d _ => match f with | .s => [] | _ => [d]
  | .bins d a _ _ | .hdrp d a _ _ => [d, a]
  | .br _ a b _ _ => [a, b]
  | .brz _ a _ _ => [a]
  | .ld _ _ _ _ a _ | .lda _ _ _ _ _ a _ | .get _ _ _ a _ => [a]
  | .st _ _ d a _ | .stl _ _ _ d a _ | .put _ _ d a _ => [d, a]
  | .ldx _ _ _ _ a b _ => [a, b]
  | .stx _ _ d a b _ => [d, a, b]
  | .amo _ _ _ _ _ _ a b | .amof _ _ _ _ _ a b | .ramo _ _ _ _ a b => [a, b]
  | .cas _ _ _ _ d a b _ => [d, a, b]
  | .waitm _ _ _ a b c _ => [a, b, c]
  | .waitc _ _ a b => [a, b]
  | .cmaint _ _ _ a _ => [a]
  | .csrw _ a | .csrx _ _ _ a | .idle a | .rmread _ a => [a]
  | .rmack d => [d]
  | .tlbi op => match op with | .va a b => [a, b] | .vag a => [a] | .ctx b => [b] | .all => []
  | .nrowOpen a _ => [a]
  | .nlut acc d a b => if acc then [d, a, b] else [a, b]
  | .span _ a b | .cwrite a b _ _ _ => [a, b]
  | .key _ a | .cread _ _ a _ _ _ => [a]
  | .cfill _ _ _ src => match src with | .reg g => [g] | .imm _ => []
  | .ttld _ r => match r with | .one a => [a] | .two a b => [a, b] | .three a b c => [a, b, c]
  | .cpy _ a | .mbwait _ a | .mbpop _ a | .bar _ _ a | .larm a | .qbind a _ _ | .qstat _ a _ | .tnext a => [a]
  | .afill _ _ _ a b c | .aspill _ _ _ a b c | .msend _ _ a b c | .tenq a b c => [a, b, c]
  | .tsteal a b => [a, b]
  | _ => []
/-- The scalar register that an instruction writes (R195). -/
def Instr.dest : Instr → Option Reg
  | .add _ d _ _ | .sub _ d _ _ | .and _ d _ _ | .or _ d _ _ | .xor _ d _ _ | .andn _ d _ _ | .shl _ d _ _ | .shr _ d _ _
  | .sha _ d _ _ | .rot _ d _ _ | .mul _ d _ _ | .mulh _ d _ _ | .div _ _ _ d _ _ | .minmax _ _ _ d _ _ | .cmp _ d _ _
  | .sel d _ _ _ | .addi _ d _ _ | .li _ d _ | .logi _ d _ _ | .shi _ _ d _ _ | .bext _ d _ _ _ | .bins d _ _ _ | .bitc _ d _
  | .hdrx d _ _ _ | .hdrp d _ _ _ | .addpc d _ | .jal d _ _ | .jr d _ | .ld _ _ _ d _ _ | .lda _ _ _ _ d _ _
  | .ldx _ _ _ d _ _ _ | .amo _ _ _ _ _ d _ _ | .cas _ _ _ _ d _ _ _ | .amof _ _ _ _ d _ _ | .waitm _ _ d _ _ _ _
  | .get _ _ d _ _ | .ramo _ _ _ d _ _ | .csrr d _ | .csrx _ d _ _ | .rmread d _ | .time d | .ien _ d | .nlut _ d _ _
  | .tcnt d _ _ _ | .tany d _ _ _ | .tfirst _ d _ _ _ | .spanRd d _ | .segRd d | .cread _ d _ _ _ _ | .mbwait d _ | .mbpop d _
  | .qstat d _ _ => some d
  | _ => none
end Sys2Proof
namespace Sys2Proof.Machine

/-! ### Profiles, privilege and permit classes -/

/-- Whether a major code lies in an agent's profile (R134, R184, R323, R324). -/
def inProfile (a : Agent) (op : Nat) : Bool :=
  match a with
  | .far _ => op != 0x3E && op != 0x3F
  | .near .. => decide (op ≤ 0x28) || op == 0x2E || op == 0x2F || (0x30 ≤ op && op ≤ 0x33) || op == 0x39 || op == 0x3E || op == 0x3F
      || op == 0x79 || op == 0x7C || op == 0x7D
  | .hub _ => decide (op ≤ 0x28) || op == 0x2E || op == 0x2F || (0x30 ≤ op && op ≤ 0x35) || op == 0x37 || (0x39 ≤ op && op ≤ 0x3D)
/-- Instructions that trap PRIVILEGE in U (R323). -/
def needsS (op : Nat) : Bool := op == 0x3A || op == 0x3B || op == 0x3C
/-- The permit classes of R422. -/
inductive PermitClass where | arrayMacro | arrayPass | table | memory
  deriving DecidableEq, Repr
def permitClass (op : Nat) : Option PermitClass :=
  if op = 0x6D ∨ op = 0x3F then some .table
  else if 0x60 ≤ op ∧ op ≤ 0x6F then some .arrayMacro
  else if 0x40 ≤ op ∧ op ≤ 0x54 then some .arrayPass
  else if (0x20 ≤ op ∧ op ≤ 0x26) ∨ (0x2A ≤ op ∧ op ≤ 0x2F) ∨ (0x70 ≤ op ∧ op ≤ 0x72) ∨ op = 0x75 ∨ (0x77 ≤ op ∧ op ≤ 0x79) then
    some .memory
  else none

/-! ### Operands of the memory forms (R267, R270) -/

/-- The effective address g[a] + SignExtend(imm) + index (R267). -/
def effAddr {w : Nat} (base : Word) (imm : BitVec w) (index : Word) : Word := base + imm.signExtend 64 + index
/-- A loaded value of n bytes, sign- or zero-extended (R270). -/
def extendLoad (w : Width) (sx : Bool) (v : BitVec 512) : Word :=
  match w with
  | .b => if sx then (v.extractLsb' 0 8).signExtend 64 else (v.extractLsb' 0 8).zeroExtend 64
  | .h => if sx then (v.extractLsb' 0 16).signExtend 64 else (v.extractLsb' 0 16).zeroExtend 64
  | .w => if sx then (v.extractLsb' 0 32).signExtend 64 else (v.extractLsb' 0 32).zeroExtend 64
  | .d => v.extractLsb' 0 64
/-- The low n bytes of a register as a number. -/
def lowBytes (n : Nat) (v : Word) : Nat := v.toNat % 2 ^ (8 * n)
/-- The result of a form with a width bit (R194): 64 bits, or 32 bits sign-extended. -/
def widen (w : Bool) (r : Word) : Word := if w then (r.extractLsb' 0 32).signExtend 64 else r
/-- An operand of a form with a width bit, as a number (R198). -/
def narrow (w : Bool) (v : Word) : Word := if w then (v.extractLsb' 0 32).zeroExtend 64 else v

end Sys2Proof.Machine
end

