-- ==== Sys2Proof/Machine/Ops.lean ====
section
/-! DEFINITION. Taking a trap and returning from one, events at an instruction boundary, instruction fetch, and the frame that
every encoded instruction runs in: profile, privilege, register hazards, permits and the advance of the PC (R70, R178, R182,
R184, R195, R315, R336, R349 to R353, R397). -/
namespace Sys2Proof.Machine

/-! ### Trap entry and return -/

/-- The trap registers after an entry (R349; DEDUCED, log entry 14). -/
def Hart.trapped (h : Hart) (t : Trap) : Hart :=
  { h with cause := BitVec.ofNat 8 t.cause, trapPc := t.pc.getD h.pc, info := t.infos, fromPc := h.pc, line := none, walkFault := none,
           hostLds := [], pend := none }
/-- Entry to the U handler (R349, R352). -/
def Hart.enterU (h : Hart) (t : Trap) : Hart := { h.trapped t with h := true, pc := h.vecU }
/-- Entry to the S handler (R349). -/
def Hart.enterS (h : Hart) (t : Trap) : Hart :=
  { h.trapped t with ppriv := h.priv, pie := h.ie, ie := false, priv := true, pc := h.vecS }
/-- A delegated cause (R348, R349). -/
def Hart.toU (h : Hart) (cause : Nat) : Bool := !h.priv && h.deleg.getLsbD cause && !h.h
/-- The background work of an agent's own array engine and remote operations goes on (DESIGN CHOICE, log entry 2). -/
def State.settle (s : State) (a : Agent) : State :=
  match a with
  | .far c => (s.arrayDrain c ((s.far c).aq.length + 1)).remoteDrain c (2 * s.remotes.length)
  | _ => s
/-- The entry of a trap (R349, R352). A core that it stops stands at its next instruction: at the trapping one, or behind a TRAP or SYSC
(R353, R354). -/
def State.enterTrap (s : State) (a : Agent) (t : Trap) : State :=
  match a with
  | .near n c =>
    let h := s.hart a
    if h.toU t.cause then (s.updNear n c fun x => { x with rowOpen := false }).setHart a (h.enterU t)
    else s.nearAbort n c t.cause (t.pc.getD h.pc)
  | .far c =>
    let h := s.hart a
    if h.toU t.cause then s.setHart a (h.enterU t)
    else if h.priv && !h.ie then (s.setHart a { h.trapped t with pc := t.pc.getD h.pc }).stopCore c t.cause
    else s.setHart a (h.enterS t)
  | .hub _ =>
    let h := s.hart a
    if h.priv && !h.ie then s.setHart a { h.trapped t with stopped := true, pc := t.pc.getD h.pc } else s.setHart a (h.enterS t)
/-- Every instruction before the one at an agent's PC has written its result (R195, R242). -/
def State.trapReady (s : State) : Agent → Bool
  | .far c => s.arrayIdle c && (s.remoteRegs c false).isEmpty
  | _ => true
/-- TakeTrap (R349, R352): the one way into every trap and event. A wait of the agent ends without effect (R276, R292), and a miss that
it has given up waits for no walk; the array
instructions and the GETs and RAMOs issued before write their results first (R195, R242), until when the trap stays pending. -/
def State.takeTrap (s : State) (a : Agent) (t : Trap) : State :=
  let s := (s.endWait a).walkForget a
  let s := if s.overlap then s else s.settle a
  if s.trapReady a then s.enterTrap a t else s.updHart a fun h => { h with pend := some t }
/-- Eret (R315); a hub core stays in S (R324). -/
def Hart.eret (h : Hart) (hub : Bool) : Hart :=
  let g := { h with pc := h.trapPc, fromPc := h.pc, line := none }
  if h.priv then { g with priv := h.ppriv || hub, ie := h.pie } else { g with h := false }

/-! ### Events (R347, R350, R351) -/

/-- An event of a cause may be taken now (R312, R350, DEDUCED, log entry 25). -/
def Hart.takeable (h : Hart) (cause : Nat) : Bool := h.ie && (h.priv || !h.deleg.getLsbD cause || !h.h)
/-- The event that is taken at this boundary, and the hart with it no longer pending. -/
def State.nextEvent (s : State) (a : Agent) : Option (Trap × Hart) :=
  let h := s.hart a
  if h.evMap.isSome && h.takeable 0x0C then
    some ({ cause := 0x0C, infos := ⟨(h.evMap.getD 0).zeroExtend 64, s.csrRead a 0x1A, 0, 0⟩ }, { h with evMap := none })
  else if !h.evMem.isEmpty && h.takeable 0x0E then
    some ({ cause := 0x0E, infos := h.evMem.headD {} }, { h with evMem := h.evMem.tail })
  else if h.evSusp.isSome && h.takeable 0x10 then
    let e := h.evSusp.getD (0, 0, 0)
    some ({ cause := 0x10, infos := mkInfos e.1 e.2.1 e.2.2 0 }, { h with evSusp := none })
  else none
/-- A wait that an event does not end by a trap: it returns first, is not ended by events, or its condition has been met already (R34,
R69, R112, R292, R304, R322). -/
def Hart.waitReturns (h : Hart) : Bool :=
  match h.wait with
  | some w => w.kind == .waitm || w.kind == .idle || w.kind == .tlbi || w.kind == .snap || w.kind == .cmaint || w.won
  | none => false
/-- Whether an instruction of an agent has made a load that is performed once only, and has still to come to its end or to a wait (R55). -/
def Hart.amid (h : Hart) : Bool := !h.hostLds.isEmpty && (h.wait.isNone || h.hostLds.any fun l => l.ans.isNone)
/-- Takes the pending event of an agent at its boundary (R347, R351); no near context ever takes one (R352). No boundary stands within an
instruction that has made a load that is performed once only (R55), nor before a trap that has arisen, nor in a TSTEAL that has been granted
(R292). -/
def State.boundary (s : State) (a : Agent) : Option State :=
  match a with
  | .near .. => none
  | _ =>
    if (s.hart a).waitReturns || s.stealGranted a || (s.hart a).amid || (s.hart a).pend.isSome then none
    else match s.nextEvent a with
      | some (t, h) => some ((s.setHart a h).takeTrap a t)
      | none => none

/-! ### Fetch (R70, R178, R182) -/

/-- A PC that names a head of a line of N heads (R180). -/
def pcValid (n : Nat) (pc : Word) : Bool := pc.toNat % 2 == 0 && decide (2 ≤ pc.toNat % 64) && decide (pc.toNat % 64 ≤ 2 * n)
/-- The checks of a line that control has reached (R178, R182). -/
def State.lineCheck (s : State) (a : Agent) (l : BitVec 512) : Res (BitVec 512) :=
  let h := s.hart a
  match lineFlaw l with
  | some (r, gap) => .trap { cause := 0x02, infos := ⟨h.pc &&& ~~~63#64, BitVec.ofNat 64 r, BitVec.ofNat 64 gap, 0⟩ } s
  | none =>
    if pcValid (lineN l) h.pc then .ok l s
    else .trap { cause := 0x03, infos := ⟨h.fromPc, BitVec.ofNat 64 (lineN l), 0, 0⟩ } s
/-- Fills an L1I: 4 ways, the least recently used line of a full set goes (R53). -/
def l1iPut (m : FMap (BitVec 512)) (ln : Nat) (l : BitVec 512) : FMap (BitVec 512) :=
  cput (match victim (fun k => Config.cacheSet 0 k % 128 == Config.cacheSet 0 ln % 128) 4 m ln with
    | some v => mdel m v
    | none => m) ln l
/-- Fills a near instruction buffer of 32 lines (R53). -/
def ibufPut (m : FMap (BitVec 512)) (ln : Nat) (l : BitVec 512) : FMap (BitVec 512) :=
  cput (if 32 ≤ m.length then m.dropLast else m) ln l
/-- The access of a fetch to the line of an address. -/
def lineAcc (pa : Nat) : Acc := { va := 0, pa := 64 * lineOf pa, page := 0, size := 0, mt1 := false }
/-- Fills from the island L2, the memory-side cache or the host (R70, R196, R324, R402). -/
def State.fillLine (s : State) (a : Agent) (pa : Nat) : Res (BitVec 512) :=
  let ln := lineOf pa
  match a with
  | .far c =>
    match (s.far c).l1i.find? fun p => p.1 == ln with
    | some p => (s.checkSectors 2 c ln 3 kFetch).bind fun _ s => .ok p.2 (s.updFar c fun f => { f with l1i := cput f.l1i ln p.2 })
    | none => (s.loadG c (64 * ln) 64 kFetch (some a)).bind fun l s => .ok l ((s.coverFresh 2 c ln 3).updFar c fun f => { f with l1i := l1iPut f.l1i ln l })
  | .near h _ =>
    match (s.unit h).ibuf.find? fun p => p.1 == ln with
    | some p => .ok p.2 (s.updUnit h fun u => { u with ibuf := ibufPut (mdel u.ibuf ln) ln p.2 })
    | none =>
      (if isHost pa then s.hostLoad a (lineAcc pa) 64 else s.mscRead (64 * ln) 64 kFetch).bind fun l s =>
        .ok l (s.updUnit h fun u => { u with ibuf := ibufPut u.ibuf ln l })
  | .hub _ => if isHost pa then s.hostLoad a (lineAcc pa) 64 else s.loadM (stackOf pa) (64 * ln) 64 kFetch
/-- Fetches the line at an address: translation, the remote check, the fill and the checks of the line (R182). -/
def State.fetchNew (s : State) (a : Agent) (base : Word) : Res (BitVec 512) :=
  (s.translate a base kFetch).bind fun e s =>
    match remote a (e.pa base) with
    | some i => .trap (accTrap 0x08 base (e.pa base) i kFetch) s
    | none => (s.fillLine a (e.pa base)).bind fun l s =>
        (s.lineCheck a l).bind fun l s => .ok l (s.updHart a fun h => { h with line := some (base, l), hostLds := [] })
/-- The line at an agent's PC: the one it is in, or one that it fetches (R70, R182). -/
def State.fetch (s : State) (a : Agent) : Res (BitVec 512) :=
  let h := s.hart a
  let base := h.pc &&& ~~~63#64
  match h.line with
  | some (va, l) => if va = base then s.lineCheck a l else s.fetchNew a base
  | none => s.fetchNew a base

/-! ### ILLEGAL_INSN and PRIVILEGE (R184, R347) -/

/-- The head and tail an agent is at; where no line is held, those of the instruction itself. -/
def State.headHere (s : State) (a : Agent) (i : Instr) : BitVec 16 × BitVec 64 :=
  match (s.hart a).line with
  | some l => headAt l.2 (s.hart a).pc
  | none => encode i
def illegalInsn (p : BitVec 16 × BitVec 64) (reason : Nat) : Trap :=
  { cause := 0x01, infos := ⟨p.1.zeroExtend 64, p.2, BitVec.ofNat 64 reason, 0⟩ }
def privilege (p : BitVec 16 × BitVec 64) (csr : Nat) : Trap :=
  { cause := 0x04, infos := ⟨p.1.zeroExtend 64, p.2, BitVec.ofNat 64 csr, 0⟩ }

/-! ### What an agent does in its turn -/

/-- A turn comes to nothing more, or to an instruction that now runs. -/
inductive Ready where
  | done (s : State)
  | run (i : Instr) (s : State)
  deriving DecidableEq, Repr

/-- A CSR instruction whose CSR number is absent on the issuing agent: reason 4 comes before reason 5 (R184, R310). -/
def absentCsr (a : Agent) (op : Nat) (tail : BitVec 64) : Bool :=
  decide (0x30 ≤ op) && decide (op ≤ 0x32) && !csrPresent a (tail.extractLsb' 0 12).toNat
/-- The instruction of a fetched line at an agent's PC, or its trap (R184). -/
def State.decodeAt (s : State) (a : Agent) (l : BitVec 512) : Ready :=
  let p := headAt l (s.hart a).pc
  match decode p.1 p.2 with
  | .ok i => .run i s
  | .bad r =>
    let op := (p.1.extractLsb' 9 7).toNat
    .done (s.takeTrap a (illegalInsn p (if 3 < r ∧ !inProfile a op then 3 else if r = 5 ∧ absentCsr a op p.2 then 4 else r)))
/-- An agent's turn up to its instruction: a stopped agent does nothing, but that an instruction which has already made a load comes to its
end (R353), an idle far core searches for a task, a trap that has arisen
or a pending event is taken, the line is fetched and the head decoded. -/
def State.ready (s : State) : Ready :=
  let a := s.focus
  let h := s.hart a
  if h.stopped && h.hostLds.isEmpty then .done s
  else if !h.active then .done (match a with | .far c => s.farTake c | _ => s)
  else match h.pend with
    | some t => .done ((s.setHart a { h with pend := none }).takeTrap a t)
    | none =>
      match s.boundary a with
      | some s => .done s
      | none =>
        match s.fetch a with
        | .ok l s => s.decodeAt a l
        | .trap t s => .done (s.takeTrap a t)
        | .wait s => .done s

/-! ### The frame of an encoded instruction -/

/-- Registers with a result still to come (R195). -/
def State.pendingRegs (s : State) (a : Agent) : List Reg :=
  match a with
  | .far c => (((s.far c).arun.toList ++ (s.far c).aq).filterMap fun o => arrDest o.instr) ++ s.remoteRegs c false
  | _ => []
def Instr.regs (i : Instr) : List Reg := i.reads ++ i.dest.toList
/-- An operand or d of the instruction waits for an earlier result (R195). -/
def State.hazard (s : State) (a : Agent) (i : Instr) : Bool :=
  (i.reads ++ i.dest.toList).any fun r => r != 0 && (s.pendingRegs a).any fun p => p == r
/-- A GET or RAMO lost in flight whose result an instruction reads (R128). -/
def State.lostRead (s : State) (a : Agent) (i : Instr) : Option Remote :=
  match a with
  | .far c => s.remotes.find? fun r => r.of c && r.lost && i.reads.any fun x => x == r.d && x != 0
  | _ => none
/-- The register that an instruction writes stands for the result of an operation lost in flight. -/
def Remote.lostAs (r : Remote) (a : Agent) (i : Instr) : Bool := r.lost && !r.stray && Agent.far r.core == a && i.dest == some r.d
def State.lostDest (s : State) (a : Agent) (i : Instr) : Bool := s.remotes.any fun r => r.lostAs a i
/-- From then on it stands for that no longer (R128, R195). -/
def State.overwrites (s : State) (a : Agent) (i : Instr) : State :=
  if s.lostDest a i then { s with remotes := s.remotes.map fun r => if r.lostAs a i then { r with d := 0 } else r } else s
/-- The trap of R128 for an operation lost in flight. -/
def Remote.lossTrap (r : Remote) : Trap := unreachable (stackOf r.pa) r.va 3 (match r.kind with | .get => 0 | .put => 1 | .ramo _ => 2)
/-- The checks and stalls before an instruction's own effect: profile, privilege, register hazards (R184, R195, R323). -/
def State.gate (s : State) (a : Agent) (i : Instr) : Res Unit :=
  if !inProfile a i.major then .trap (illegalInsn (s.headHere a i) 3) s
  else if needsS i.major && !(s.hart a).priv then .trap (privilege (s.headHere a i) 0) s
  else if s.hazard a i then
    if s.overlap then .wait s
    else
      let s := s.settle a
      if s.hazard a i then .wait s else .ok () s
  else match s.lostRead a i with
    | some r => .trap r.lossTrap { s with remotes := s.remotes.erase r }
    | none => .ok () s

/-- Adds a refill to a counter (R397). -/
def Permit.refill (p : Permit) (n : BitVec 7) : Permit := { count := BitVec.ofNat 8 (min 255 (p.count.toNat + n.toNat)) }
/-- PERMIT_REFILL: the end of a 64-cycle window of an agent's clock (R397). -/
def State.permitRefill (s : State) (a : Agent) : State :=
  match a with
  | .far c =>
    let x := s.cluster (clusterOf c)
    s.updHart a fun h => { h with macroP := h.macroP.refill x.pMacro, passP := h.passP.refill x.pPass
                                  tableP := h.tableP.refill x.pTable, memP := h.memP.refill x.pMem }
  | .near k _ =>
    let x := s.stack (k / 64)
    s.updUnit k fun u => { u with tableP := u.tableP.refill x.pTable, memP := u.memP.refill x.pMem }
  | .hub _ => s
def State.permitCount (s : State) (a : Agent) (c : PermitClass) : BitVec 8 :=
  match a, c with
  | .far _, .arrayMacro => (s.hart a).macroP.count
  | .far _, .arrayPass => (s.hart a).passP.count
  | .far _, .table => (s.hart a).tableP.count
  | .far _, .memory => (s.hart a).memP.count
  | .near k _, .table => (s.unit k).tableP.count
  | .near k _, .memory => (s.unit k).memP.count
  | _, _ => 0
def Permit.take (p : Permit) : Permit := { count := p.count - 1 }
def State.permitTake (s : State) (a : Agent) (c : PermitClass) : State :=
  match a, c with
  | .far _, .arrayMacro => s.updHart a fun h => { h with macroP := h.macroP.take }
  | .far _, .arrayPass => s.updHart a fun h => { h with passP := h.passP.take }
  | .far _, .table => s.updHart a fun h => { h with tableP := h.tableP.take }
  | .far _, .memory => s.updHart a fun h => { h with memP := h.memP.take }
  | .near k _, .table => s.updUnit k fun u => { u with tableP := u.tableP.take }
  | .near k _, .memory => s.updUnit k fun u => { u with memP := u.memP.take }
  | _, _ => s
/-- The agents that hold permit counters; a hub core consumes none (R422). -/
def holdsPermits : Agent → Bool | .hub _ => false | _ => true
/-- The permit that an instruction of this major code needs is there: in a turn that does not overlap, windows pass (log
entry 2). -/
def State.permitReady (s : State) (a : Agent) (op : Nat) : Option State :=
  match permitClass op with
  | none => some s
  | some c =>
    if !holdsPermits a || s.permitCount a c != 0 then some s
    else if s.overlap then none
    else
      let s := s.permitRefill a
      if s.permitCount a c != 0 then some s else none
/-- Consumes it in the issue cycle (R336, R397; DEDUCED, log entry 16). -/
def State.permitUse (s : State) (a : Agent) (op : Nat) : State :=
  match permitClass op with
  | none => s
  | some c => if holdsPermits a then s.permitTake a c else s

/-- The PC moves on: to a target, or to NextPC. -/
def State.advance (s : State) (a : Agent) (target : Option Word) : State :=
  s.updHart a fun h => h.moveOn target
/-- An instruction that has issued and is not over: it waits, or it has made a load that is performed once only. -/
def Hart.begun (h : Hart) : Bool := h.wait.isSome || !h.hostLds.isEmpty
/-- An instruction of the agent whose turn it is: its checks, its permit, its own effect, and the advance of the PC, or its
trap, or nothing where it must wait. An instruction that waits has issued, with its permit, when its wait began, or when it made a load that is performed once only (R336, R397). `body`
answers the target of a transfer. -/
def State.perform (s : State) (i : Instr) (body : Agent → State → Res (Option Word)) : State :=
  let a := s.focus
  match s.gate a i with
  | .trap t s => s.takeTrap a t
  | .wait s => s
  | .ok _ s =>
    let issued := (s.hart a).begun
    let use := fun (s : State) => if issued then s else s.permitUse a i.major
    match if issued then some s else s.permitReady a i.major with
    | none => s
    | some s =>
      match body a s with
      | .trap t s => (use s).takeTrap a t
      | .wait s => if (s.hart a).begun then use s else s
      | .ok target s => ((use s).overwrites a i).advance a target
/-- As `perform`, for an instruction that sets the PC and the running task itself. -/
def State.performSelf (s : State) (i : Instr) (body : Agent → State → Res Unit) : State :=
  let a := s.focus
  match s.gate a i with
  | .trap t s => s.takeTrap a t
  | .wait s => s
  | .ok _ s =>
    match body a s with
    | .trap t s => s.takeTrap a t
    | .wait s => s
    | .ok _ s => s

/-- A scalar register of an agent, and a write of one (R183). -/
def State.reg (s : State) (a : Agent) (r : Reg) : Word := (s.hart a).reg r
def State.write (s : State) (a : Agent) (r : Reg) (v : Word) : State := s.updHart a fun h => h.setReg r v

/-- What every encoded instruction answers. -/
def run (i : Instr) (s : State) (body : Agent → State → Res (Option Word)) : Host.Outcome State Fault Refusal :=
  .next (s.perform i body)
/-- What an instruction answers that sets the PC and the running task itself. -/
def runSelf (i : Instr) (s : State) (body : Agent → State → Res Unit) : Host.Outcome State Fault Refusal :=
  .next (s.performSelf i body)
/-- An instruction whose whole effect is a register value, computed from the registers and the PC. -/
def regOp (i : Instr) (d : Reg) (s : State) (f : Hart → Word) : Host.Outcome State Fault Refusal :=
  run i s fun a s => .ok none (s.write a d (f (s.hart a)))
/-- A control transfer: the target, if it is taken, and the link that it writes (R213, R214). -/
def transfer (i : Instr) (s : State) (d : Reg) (f : Hart → Option Word) : Host.Outcome State Fault Refusal :=
  run i s fun a s => .ok (f (s.hart a)) (s.write a d (s.hart a).nextPc)
/-- What an event answers. -/
def runEvent (s : State) : Host.Outcome State Fault Refusal := .next s
/-- What a row answers that writes a register of the control region: after a boot that failed there is no such write (R415). -/
def runWrite (s t : State) : Host.Outcome State Fault Refusal := runEvent (if s.hub.fail = 0 then t else s)

/-! ### Bounded waits (R291, R292) -/

/-- WAIT_EXPIRED (R293). -/
def waitExpired (cls id head tail limit : Nat) : Trap :=
  { cause := 0x0A, infos := ⟨BitVec.ofNat 64 (cls * 2 ^ 60 + id), BitVec.ofNat 64 head, BitVec.ofNat 64 tail, BitVec.ofNat 64 limit⟩ }
/-- A wait whose condition does not hold: armed at the first check, kept while its limit runs, and over when the limit is 0 or
has expired. In a turn that does not overlap, an armed limit expires at the agent's next turn (DESIGN CHOICE, log entry 2). -/
def State.waitOr (s : State) (a : Agent) (k : WaitKind) (limit : BitVec 32) (obj : Nat) (expired : State → Res α) : Res α :=
  let h := s.hart a
  match h.wait with
  | none => if limit = 0 then expired s else .wait (s.setHart a { h with wait := some { kind := k, limit := limit, obj := obj } })
  | some w => if w.late || !s.overlap then expired s else .wait s
/-- WAITM_LIMIT_EXPIRE and WAIT_LIMIT_EXPIRE: the limit of an agent's wait is over. -/
def State.waitLate (s : State) (a : Agent) : State :=
  s.updHart a fun h => { h with wait := h.wait.map fun w => { w with late := true } }

end Sys2Proof.Machine
end

