-- ==== Sys2Proof/Machine/ArrayInsn.lean ====
section
/-! DEFINITION. The array instructions at issue, codes 0x40 to 0x6F: FIELD_SPEC, the ring's checks, the command queue (R222, R223,
R241, R245). What each does to the array as it retires stands in `Arr.effect` and `State.arrayEffect`. -/
namespace Sys2Proof.Machine

/-- FIELD_SPEC (R222). -/
def fieldSpecTrap (p : BitVec 16 × BitVec 64) (flaw : Nat × Nat) : Trap :=
  { cause := 0x0B, infos := ⟨p.1.zeroExtend 64, p.2, BitVec.ofNat 64 flaw.1, BitVec.ofNat 64 flaw.2⟩ }
/-- The reason for which XROW cannot write to its neighbour (R241). -/
def State.ringFlaw (s : State) (core : Nat) (i : Instr) : Option (Nat × Nat) :=
  match i with
  | .xrow prev .. =>
    let n := ringTo core prev
    if !s.coreLive n then some (n, 3)
    else if (s.far n).placed && s.coreCtx n == s.coreCtx core then none
    else some (n, 9)
  | _ => none
/-- The instruction with its scalar operands as it enters the queue (R195, R223). -/
def arrayOp (i : Instr) (v : List Word) : ArrOp := { instr := i, x := v.getD 0 0, y := v.getD 1 0, z := v.getD 2 0 }
/-- The array beside its own that an instruction writes (R241). -/
def ringOf (core : Nat) (i : Instr) : Nat := match i with | .xrow prev .. => ringTo core prev | _ => core
/-- No array instruction starts before the core's earlier stores to its own format windows have been performed (R51), and no XROW before
those to the neighbour's, as it counts as a store there (R224). -/
def State.windowsFirst (s : State) (a : Agent) (c : Nat) (i : Instr) : Res Unit :=
  if s.sbHas a fun e => isFormat e.pa && (windowCore e.pa == c || windowCore e.pa == ringOf c i) then s.needDrained a else .ok () s
/-- An array instruction issues into the engine's queue; where the turn does not overlap, the engine runs it (DESIGN CHOICE, log entry 2). -/
def arrayIssue (i : Instr) (s : State) : Host.Outcome State Fault Refusal :=
  run i s fun a s =>
    match a with
    | .far c =>
      let f := s.far c
      let v := i.reads.map (s.reg a)
      match f.arrView.fieldSpec i (v.getD 0 0) (v.getD 1 0) v with
      | some flaw => .trap (fieldSpecTrap (s.headHere a i) flaw) s
      | none =>
        match s.ringFlaw c i with
        | some (n, r) => .trap (protOperand 0 n r 0) s
        | none =>
          (s.windowsFirst a c i).bind fun _ s =>
            let s := if (s.far c).aq.length < 2 || s.overlap then s else s.arrayDrain c ((s.far c).aq.length + 1)
            let g := s.far c
            if 2 ≤ g.aq.length then .wait s
            else
              let s := s.setFar c { g with aq := g.aq ++ [arrayOp i v] }
              .ok none (if s.overlap then s else s.arrayDrain c 4)
    | _ => .wait s

def execPcmp (d : TagNo) (rows : Rows) (comb : Comb) (spec : Spec) (s : State) : Host.Outcome State Fault Refusal :=
  arrayIssue (.pcmp d rows comb spec) s
def execPset (rows : Rows) (spec : Spec) (s : State) : Host.Outcome State Fault Refusal :=
  arrayIssue (.pset rows spec) s
def execPcs (d : TagNo) (rows : Rows) (comb : Comb) (cmp wr : List (Col × Bool)) (s : State) : Host.Outcome State Fault Refusal :=
  arrayIssue (.pcs d rows comb cmp wr) s
def execTop (op : TopOp) (s : State) : Host.Outcome State Fault Refusal :=
  arrayIssue (.top op) s
def execTshf (op : TshfOp) (d a : TagNo) (s : State) : Host.Outcome State Fault Refusal :=
  arrayIssue (.tshf op d a) s
def execTcnt (d : Reg) (t : TagNo) (span : BitVec 2) (lane : Option (BitVec 2)) (s : State) : Host.Outcome State Fault Refusal :=
  arrayIssue (.tcnt d t span lane) s
def execTany (d : Reg) (t : TagNo) (span : BitVec 2) (lane : Option (BitVec 2)) (s : State) : Host.Outcome State Fault Refusal :=
  arrayIssue (.tany d t span lane) s
def execTfirst (clr : Bool) (d : Reg) (t : TagNo) (span : BitVec 2) (lane : Option (BitVec 2)) (s : State) :
    Host.Outcome State Fault Refusal :=
  arrayIssue (.tfirst clr d t span lane) s
def execSpan (ls : BitVec 2) (a b : Reg) (s : State) : Host.Outcome State Fault Refusal :=
  arrayIssue (.span ls a b) s
def execSpanRd (d : Reg) (ls : BitVec 2) (s : State) : Host.Outcome State Fault Refusal :=
  arrayIssue (.spanRd d ls) s
def execSeg (m : LaneMode) (s : State) : Host.Outcome State Fault Refusal :=
  arrayIssue (.seg m) s
def execSegRd (d : Reg) (s : State) : Host.Outcome State Fault Refusal :=
  arrayIssue (.segRd d) s
def execKey (q : BitVec 2) (a : Reg) (s : State) : Host.Outcome State Fault Refusal :=
  arrayIssue (.key q a) s
def execCfill (rows : Rows) (c : Col) (n1 : BitVec 6) (src : FillSrc) (s : State) : Host.Outcome State Fault Refusal :=
  arrayIssue (.cfill rows c n1 src) s
def execCread (sx : Bool) (d a : Reg) (c : Col) (n1 : BitVec 6) (lane : BitVec 2) (s : State) :
    Host.Outcome State Fault Refusal :=
  arrayIssue (.cread sx d a c n1 lane) s
def execCwrite (a b : Reg) (c : Col) (n1 : BitVec 6) (lane : BitVec 2) (s : State) : Host.Outcome State Fault Refusal :=
  arrayIssue (.cwrite a b c n1 lane) s
def execTload (t : TagNo) (span : BitVec 2) (c : Col) (s : State) : Host.Outcome State Fault Refusal :=
  arrayIssue (.tload t span c) s
def execTstore (t : TagNo) (span : BitVec 2) (c : Col) (s : State) : Host.Outcome State Fault Refusal :=
  arrayIssue (.tstore t span c) s
def execFmov (rows : Rows) (cd cs : Col) (n1 : BitVec 8) (s : State) : Host.Outcome State Fault Refusal :=
  arrayIssue (.fmov rows cd cs n1) s
def execFrot (rows : Rows) (k : BitVec 4) (cd cs : Col) (n1 : BitVec 8) (s : State) : Host.Outcome State Fault Refusal :=
  arrayIssue (.frot rows k cd cs n1) s
def execXrow (prev : Bool) (rows : Rows) (cd cs : Col) (n1 : BitVec 8) (s : State) : Host.Outcome State Fault Refusal :=
  arrayIssue (.xrow prev rows cd cs n1) s
def execTtld (e : BitVec 8) (regs : TtRegs) (s : State) : Host.Outcome State Fault Refusal :=
  arrayIssue (.ttld e regs) s
def execTtrun (desc : Bool) (rows : Rows) (e : BitVec 8) (m1 : BitVec 5) (n1 : BitVec 6) (x0 x1 x2 x3 : Col) (s : State) :
    Host.Outcome State Fault Refusal :=
  arrayIssue (.ttrun desc rows e m1 n1 x0 x1 x2 x3) s
def execAadd (rows : Rows) (dc ac xc : Col) (f : Fmt) (rnd : Rnd) (sat : Bool) (s : State) : Host.Outcome State Fault Refusal :=
  arrayIssue (.aadd rows dc ac xc f rnd sat) s
def execAsub (rows : Rows) (dc ac xc : Col) (f : Fmt) (rnd : Rnd) (sat : Bool) (s : State) : Host.Outcome State Fault Refusal :=
  arrayIssue (.asub rows dc ac xc f rnd sat) s
def execAaddk (rows : Rows) (dc kc xc : Col) (f : FmtRnd) (s : State) : Host.Outcome State Fault Refusal :=
  arrayIssue (.aaddk rows dc kc xc f) s
def execAmul (rows : Rows) (dc ac bc xc : Col) (f : Fmt) (rnd : Rnd) (sat : Bool) (s : State) :
    Host.Outcome State Fault Refusal :=
  arrayIssue (.amul rows dc ac bc xc f rnd sat) s
def execAmulk (rows : Rows) (dc ac kc xc : Col) (f : Fmt) (rnd : Rnd) (sat : Bool) (s : State) :
    Host.Outcome State Fault Refusal :=
  arrayIssue (.amulk rows dc ac kc xc f rnd sat) s
def execAmac (rows : Rows) (dc ac bc xc : Col) (f1 f2 : Fmt) (rnd : Rnd) (sat : Bool) (s : State) :
    Host.Outcome State Fault Refusal :=
  arrayIssue (.amac rows dc ac bc xc f1 f2 rnd sat) s
def execAmack (rows : Rows) (dc ac kc xc : Col) (f1 f2 : Fmt) (rnd : Rnd) (sat : Bool) (wa : BitVec 2) (s : State) :
    Host.Outcome State Fault Refusal :=
  arrayIssue (.amack rows dc ac kc xc f1 f2 rnd sat wa) s
def execAfma (rows : Rows) (dc ac bc xc : Col) (f : Fmt) (rnd : Rnd) (sat : Bool) (s : State) :
    Host.Outcome State Fault Refusal :=
  arrayIssue (.afma rows dc ac bc xc f rnd sat) s
def execAcvt (rows : Rows) (dc ac rc xc : Col) (fs fd : Fmt) (rnd : Rnd) (sat : Bool) (s : State) :
    Host.Outcome State Fault Refusal :=
  arrayIssue (.acvt rows dc ac rc xc fs fd rnd sat) s
def execAcmp (cond : ACond) (d : TagNo) (rows : Rows) (ac bc xc : Col) (f : FmtRnd) (comb : Comb) (s : State) :
    Host.Outcome State Fault Refusal :=
  arrayIssue (.acmp cond d rows ac bc xc f comb) s
def execAminmax (max : Bool) (rows : Rows) (dc ac xc : Col) (f : FmtRnd) (s : State) : Host.Outcome State Fault Refusal :=
  arrayIssue (.aminmax max rows dc ac xc f) s
def execAred (rows : Rows) (dc xc : Col) (f : Fmt) (rnd : Rnd) (sat : Bool) (s : State) : Host.Outcome State Fault Refusal :=
  arrayIssue (.ared rows dc xc f rnd sat) s
def execAlut (rows : Rows) (dc ac : Col) (f : FmtRnd) (n1 : BitVec 2) (s : State) : Host.Outcome State Fault Refusal :=
  arrayIssue (.alut rows dc ac f n1) s
def execAresolve (rows : Rows) (dc xc : Col) (wa : BitVec 2) (s : State) : Host.Outcome State Fault Refusal :=
  arrayIssue (.aresolve rows dc xc wa) s
def execAqdec (rows : Rows) (dc ac bc xc : Col) (f1 f2 : Fmt) (rnd : Rounding) (s : State) : Host.Outcome State Fault Refusal :=
  arrayIssue (.aqdec rows dc ac bc xc f1 f2 rnd) s
def execAspmac (rows : Rows) (dc ac : Col) (s0 : BitVec 6) (wa : BitVec 2) (m1 : BitVec 6) (xc : Col) (f1 f2 : Fmt) (rnd : Rounding) (s : State) :
    Host.Outcome State Fault Refusal :=
  arrayIssue (.aspmac rows dc ac s0 wa m1 xc f1 f2 rnd) s
def execAspmacLdx (q : BitVec 2) (s : State) : Host.Outcome State Fault Refusal :=
  arrayIssue (.aspmacLdx q) s
def execAspmacLdm (s : State) : Host.Outcome State Fault Refusal :=
  arrayIssue .aspmacLdm s

end Sys2Proof.Machine
end

