-- ==== Sys2Proof/Machine/FabricEvents.lean ====
section
/-! DEFINITION. Events of the store buffers, walkers, caches, banks, wave controllers and IDXSUM sequencers (R27, R30, R34, R39
to R45, R56, R105, R119, R142 to R149, R396). An event that is not enabled leaves the module as it is. -/
namespace Sys2Proof.Machine

/-! ### Store buffers and walkers -/

def execStoreBufferDrain (core k : Nat) (s : State) : Host.Outcome State Fault Refusal := runEvent (s.sbPerform core k).1

/-- The agent of a source number (R142). -/
def agentOf (k : Nat) : Agent :=
  if k < 4096 then .far k else if k < 8192 then .near ((k - 4096) / 2) ((k - 4096) % 2) else .hub (k - 8192)
/-- The agent through whose caches an access goes, by the number of the access: an agent's own, an engine command's or a launch's. -/
def walkAgent (k : Nat) : Agent := if k < 16384 then agentOf k else if k < 2 ^ 60 then .far ((k - 16384) / 2 ^ 32) else .hub (k - 2 ^ 60)
/-- The number of the engine command of an access. -/
def walkSeq (k : Nat) : BitVec 32 := BitVec.ofNat 32 (k - 16384)
/-- Whether an attached access is made in S: an engine command has the privilege of its issue (R32), a launch that of U (R166). -/
def State.walkPriv (s : State) (k : Nat) : Bool :=
  if k < 16384 then (s.hart (agentOf k)).priv
  else if k < 2 ^ 60 then (s.far ((k - 16384) / 2 ^ 32)).eng.any fun c => c.seq == walkSeq k && c.priv
  else false
/-- The result of a walk reaches one attached miss. -/
def State.walkTell (s : State) (w : WalkReq) (cause : Nat) (i : Infos) (p : Nat × Nat) : State :=
  let r : WalkAnswer := { page := w.va >>> 16, tag := w.tag, kind := p.2, cause := cause, info := i }
  match walkAgent p.1 with
  | .far c =>
    if p.1 < 16384 then s.updHart (.far c) fun h => { h with walkFault := some r }
    else s.updFar c fun f => { f with eng := f.eng.map fun x => if x.seq == walkSeq p.1 then { x with walked := x.walked ++ [r] } else x }
  | .near h c => s.updHart (.near h c) fun h => { h with walkFault := some r }
  | .hub n =>
    if p.1 < 16384 then s.updHart (.hub n) fun h => { h with walkFault := some r }
    else s.updHub fun h => { h with launches := mmap (fun part o => if part % 4 = n then o.map fun l => { l with walked := some r } else o) h.launches }
/-- A leaf reaches every attached miss: it is installed for those whose access it permits (R26, R27). -/
def State.walkLeaf (s : State) (w : WalkReq) (e : TlbEntry) : State :=
  w.waiters.foldl (fun s p =>
    if permitted e p.2 (s.walkPriv p.1) then s.tlbFill (walkAgent p.1) e
    else s.walkTell w 0x06 (mkInfos 0 2 (levelOfShift e.shift) 0) p) s
/-- The translation cache in front of a unit's walkers. -/
def State.unitTlb (s : State) (u : Nat) : List TlbEntry := if u < 16 then (s.island u).tlb else s.hub.tlb
/-- A free walker takes the oldest request and looks it up again before it walks (R30). -/
def State.walkBegin (s : State) (u : Nat) : State :=
  match s.walkQ u with
  | [] => s
  | w :: q =>
    if walkerCount u ≤ (s.walksIn u).length then s
    else
      let s := s.setWalkQ u q
      match tlbFind w.va w.tag (s.unitTlb u) with
      | some e => s.walkLeaf w e
      | none => s.setWalks u (s.walksIn u ++ [w])
def execWalkStart (unit : Nat) (s : State) : Host.Outcome State Fault Refusal := runEvent (s.walkBegin unit)
/-- The result of walk `w`. One that a TLBI has passed installs nothing and answers no access: all that waited on it walk again (R34;
DEDUCED, log entry 12). -/
def State.walkEnd (s : State) (w : WalkReq) (r : Walked) : State :=
  if !w.kills.isEmpty then s
  else match r with
    | .leaf e => s.walkLeaf w e
    | .fault fk lvl => w.waiters.foldl (fun s p => s.walkTell w 0x06 (mkInfos 0 fk lvl 0) p) s
/-- Walk `k` of a unit ends; it stays while the host holds a line that it reads (R64). It reads the entries of all its levels in this one
step, so that no store of another agent falls between two of them (DESIGN CHOICE, log entry 65: R28 gives each read a time of its own). -/
def State.walkFinish (s : State) (u k : Nat) : State :=
  match (s.walksIn u)[k]? with
  | none => s
  | some w =>
    let t := s.setWalks u (dropAt (s.walksIn u) k)
    match t.walk w.root w.va w.tag with
    | .wait t => t.setWalks u (s.walksIn u)
    | .trap x t => if w.kills.isEmpty then w.waiters.foldl (fun s p => s.walkTell w x.cause x.infos p) t else t
    | .ok r t => t.walkEnd w r
def execWalkComplete (unit k : Nat) (s : State) : Host.Outcome State Fault Refusal := runEvent (s.walkFinish unit k)

/-! ### Caches -/

/-- A cache evicts a line (R56, R64, R111). -/
def State.evict (s : State) (c : CacheId) (ln : Nat) : State :=
  match c with
  | .l1d core => if mhas (s.far core).l1d ln then s.l1Clean core ln true else s
  | .l1i core => s.updFar core fun f => { f with l1i := mdel f.l1i ln }
  | .l2 die => if mhas (s.island die).l2 ln then ((s.cleanTry die ln true).bind fun _ s => .ok () (s.wake false ln 2)).state else s
  | .msc stack =>
    if lineStack ln ≠ stack then s
    else if (s.mscAt ln).host then s.backInvalidate ln else s.mscDrop ln
  | .near home => s.updUnit home fun u => { u with ibuf := mdel u.ibuf ln }
def execCacheEviction (cache : CacheId) (line : Nat) (s : State) : Host.Outcome State Fault Refusal :=
  runEvent (s.evict cache line)
/-- An entry of a written-line log is handled; the host must first give up a line that it holds (R64, R119). -/
def execWrittenLineInvalidate (home line : Nat) (s : State) : Host.Outcome State Fault Refusal :=
  runEvent (if (s.unit home).wlog.any fun l => l == line then (s.wlogOut home line).state else s)

/-! ### Bank operations -/

/-- Command `k` of the fabric is applied at its bank, if it is of this op. -/
def State.bankEvent (s : State) (op k : Nat) : State :=
  match s.fabric[k]? with
  | none => s
  | some c => if c.op = op then (({ s with fabric := dropAt s.fabric k }).bankApply c).getD (s.askLine c.pa) else s
def execBankAddI32 (k : Nat) (s : State) : Host.Outcome State Fault Refusal := runEvent (s.bankEvent 1 k)
def execBankAddI64 (k : Nat) (s : State) : Host.Outcome State Fault Refusal := runEvent (s.bankEvent 2 k)
def execBankAddF32 (k : Nat) (s : State) : Host.Outcome State Fault Refusal := runEvent (s.bankEvent 3 k)
def execBankAddBf16x2 (k : Nat) (s : State) : Host.Outcome State Fault Refusal := runEvent (s.bankEvent 4 k)
def execBankMaxF32 (k : Nat) (s : State) : Host.Outcome State Fault Refusal := runEvent (s.bankEvent 5 k)
def execBankMinF32 (k : Nat) (s : State) : Host.Outcome State Fault Refusal := runEvent (s.bankEvent 6 k)
def execBankOr64 (k : Nat) (s : State) : Host.Outcome State Fault Refusal := runEvent (s.bankEvent 7 k)

/-! ### Waves, IDXSUM and counters -/

def execAllbankFill (k : Nat) (s : State) : Host.Outcome State Fault Refusal := runEvent (s.fillEnter k)
def execFillWave (stack : Nat) (s : State) : Host.Outcome State Fault Refusal := runEvent (s.fillWave stack)
def execStackReservationGrant (stack : Nat) (s : State) : Host.Outcome State Fault Refusal := runEvent (s.stackGrant stack)
def execIdxsum (k : Nat) (s : State) : Host.Outcome State Fault Refusal := runEvent (s.idxEnter k)
def execIdxsumExecute (home : Nat) (s : State) : Host.Outcome State Fault Refusal := runEvent (s.idxExecute home)
def execIdxsumComplete (home : Nat) (s : State) : Host.Outcome State Fault Refusal := runEvent (s.idxComplete home)
/-- Command `k` of the fabric is an op-10 store of `n` bytes, and is performed by `f`. -/
def State.counterEvent (s : State) (n k : Nat) (f : State → BankCmd → Option State) : State :=
  match s.fabric[k]? with
  | none => s
  | some c => if c.op = 10 ∧ c.n = n then (f { s with fabric := dropAt s.fabric k } c).getD (s.askLine c.pa) else s
def execCounterWrite (k : Nat) (s : State) : Host.Outcome State Fault Refusal :=
  runEvent (s.counterEvent 8 k fun s c => s.writeCounter c.pa c.data)
def execCounterPacket (k : Nat) (s : State) : Host.Outcome State Fault Refusal :=
  runEvent (s.counterEvent 64 k fun s c => s.bindCounter c.src c.pa)
def execStackDetredWrite (stack : Nat) (en : Bool) (s : State) : Host.Outcome State Fault Refusal :=
  runWrite s (s.detredWrite stack en)
def execDetredChangeComplete (stack : Nat) (s : State) : Host.Outcome State Fault Refusal := runEvent (s.detredDone stack)

end Sys2Proof.Machine
end

