-- ==== Sys2Proof/Machine/MemInsn.lean ====
section
/-! DEFINITION. Loads, stores, atomics, fences, waits, cache maintenance, and gets, puts and remote atomics: codes 0x20 to 0x2F
(R66 to R69, R99 to R112, R124 to R128, R267 to R278). -/
namespace Sys2Proof.Machine

/-! ### Loads and stores (R267 to R270) -/

/-- A release at CLUSTER scope or wider waits for an XROW of the core (R224). -/
def State.xrowOrder (s : State) (a : Agent) (sc : Scope) : Res Unit :=
  match a with
  | .far c =>
    if sc = .core then .ok () s
    else
      let s := if s.overlap then s else s.arrayDrain c ((s.far c).aq.length + 1)
      if s.xrowBusy c then .wait s else .ok () s
  | _ => .ok () s
/-- A store after its checks; an alias command of ops 1 to 10 is a release at ISLAND scope (R99, R224). -/
def State.storeOrder (s : State) (a : Agent) (acc : Acc) (n : Nat) (pol : Policy) (rel : Option Scope) (v : BitVec 512) : Res Unit :=
  (if aliasRel acc.pa then s.xrowOrder a .island else .ok () s).bind fun _ s => s.storeIssue a acc n pol rel v
/-- A load of a width at an address. -/
def State.loadReg (s : State) (a : Agent) (va : Word) (w : Width) (sx : Bool) (pol : Policy) (d : Reg) : Res (Option Word) :=
  (s.access a va w.bytes kLoad .load pol true).bind fun acc s =>
    (s.loadIssue a acc w.bytes pol).bind fun v s => .ok none (s.write a d (extendLoad w sx v))
/-- A store of a register at an address; `rel` is the scope of a release. -/
def State.storeReg (s : State) (a : Agent) (va : Word) (w : Width) (pol : Policy) (rel : Option Scope) (d : Reg) : Res (Option Word) :=
  (s.access a va w.bytes kStore .store pol true).bind fun acc s =>
    (s.storeOrder a acc w.bytes pol rel (BitVec.ofNat 512 (lowBytes w.bytes (s.reg a d)))).bind fun _ s => .ok none s

def execLd (w : Width) (sx : Bool) (p : Policy) (d a : Reg) (k : BitVec 20) (s : State) : Host.Outcome State Fault Refusal :=
  run (.ld w sx p d a k) s fun x s => s.loadReg x (effAddr (s.reg x a) k 0) w sx p d
def execSt (w : Width) (p : Policy) (d a : Reg) (k : BitVec 20) (s : State) : Host.Outcome State Fault Refusal :=
  run (.st w p d a k) s fun x s => s.storeReg x (effAddr (s.reg x a) k 0) w p none d
def execLda (w : Width) (sx : Bool) (p : Policy) (sc : Scope) (d a : Reg) (k : BitVec 24) (s : State) :
    Host.Outcome State Fault Refusal :=
  run (.lda w sx p sc d a k) s fun x s =>
    (s.acquireOrder x sc).bind fun _ s => s.loadReg x (effAddr (s.reg x a) k 0) w sx p d
def execStl (w : Width) (p : Policy) (sc : Scope) (d a : Reg) (k : BitVec 24) (s : State) : Host.Outcome State Fault Refusal :=
  run (.stl w p sc d a k) s fun x s =>
    (s.xrowOrder x sc).bind fun _ s => s.storeReg x (effAddr (s.reg x a) k 0) w p (some sc) d
/-- The index of LDX and STX (R270). -/
def State.index (s : State) (a : Agent) (b : Reg) (w : Width) : Word := s.reg a b * BitVec.ofNat 64 w.bytes
def execLdx (w : Width) (sx : Bool) (p : Policy) (d a b : Reg) (k : BitVec 24) (s : State) : Host.Outcome State Fault Refusal :=
  run (.ldx w sx p d a b k) s fun x s => s.loadReg x (effAddr (s.reg x a) k (s.index x b w)) w sx p d
def execStx (w : Width) (p : Policy) (d a b : Reg) (k : BitVec 24) (s : State) : Host.Outcome State Fault Refusal :=
  run (.stx w p d a b k) s fun x s => s.storeReg x (effAddr (s.reg x a) k (s.index x b w)) w p none d

/-! ### Atomics (R106, R271, R272) -/

def acquires : Order → Bool | .acq | .ar => true | _ => false
def releases : Order → Bool | .rel | .ar => true | _ => false
/-- Whether an atomic of a far core is performed at the island L2 (R106). -/
def atIsland (pa : Nat) (pol : Policy) (sc : Scope) : Bool :=
  isHost pa || (isDevice pa && (pol == .c || pol == .g) && (sc == .core || sc == .cluster || sc == .island))
/-- An atomic of a near context (R106): at PACKAGE or SYSTEM scope the island copies go first, else the written-line log sees to them
as it does for its stores (R119; DEDUCED, log entry 39). A full log stalls it. -/
def State.nearAtomic (s : State) (h c pa n : Nat) (sc : Scope) (f : Nat → Option Nat) : Res Nat :=
  if s.nearFull h c pa n then .wait s
  else
    (if sc == .package || sc == .system then s.amoM (stackOf pa) pa n f else s.amoNear pa n f).bind fun v s =>
      .ok v (if (f v).isSome then s.nearNote h c pa n else s)
/-- One atomic step at its point; `f` maps the old value to the new one, `none` where nothing is written. -/
def State.atomicAt (s : State) (a : Agent) (acc : Acc) (n : Nat) (pol : Policy) (sc : Scope) (f : Nat → Option Nat) : Res Nat :=
  let off := if isAlias acc.pa then deviceOffset acc.pa else acc.pa
  match a with
  | .far c =>
    if atIsland acc.pa (effPol pol acc.mt1) sc then s.amoG c acc.pa n f
    else (s.amoM (stackOf off) off n f (some a)).bind fun v s => .ok v (s.pbForget c (lineOf off))
  | .near h c => s.nearAtomic h c off n sc f
  | .hub _ => s.amoM (stackOf off) off n f
/-- What must be performed before an atomic of an order and scope (R100, R104). -/
def State.atomicOrder (s : State) (a : Agent) (acc : Acc) (n : Nat) (pol : Policy) (sc : Scope) (ord : Order) : Res Unit :=
  (s.uOrder a acc.pa pol acc.mt1).bind fun _ s =>
    if releases ord then
      (s.xrowOrder a sc).bind fun _ s => (s.needDrained a).bind fun _ s =>
        if s.aliasDone a && !s.hostWritingOn a acc.pa n then s.releaseAt a sc else .wait s
    else
      (if acquires ord then s.acquireOrder a sc else .ok () s).bind fun _ s =>
        let off := if isAlias acc.pa then deviceOffset acc.pa else acc.pa
        match a with
        | .far c =>
          (if (s.far c).sb.any (fun e => touches e.ranges off n) then s.needDrained a else .ok () s).bind fun _ s =>
            if s.ownOnBytes a off n || s.hostWritingOn a acc.pa n then .wait s else .ok () s
        | _ => if s.ownOnBytes a off n then .wait s else .ok () s
/-- An atomic: its checks, its order, its step, and the old value in d. -/
def State.atomic (s : State) (a : Agent) (va : Word) (n : Nat) (pol : Policy) (sc : Scope) (ord : Order) (d : Reg)
    (f : Nat → Option Nat) : Res (Option Word) :=
  (s.access a va n kAtomic .atomic pol true).bind fun acc s =>
    (s.atomicOrder a acc n pol sc ord).bind fun _ s =>
      (s.atomicAt a acc n pol sc f).bind fun old s => .ok none (s.write a d (BitVec.ofNat 64 old))
/-- Bytes of an AMO, CAS or RAMO. -/
def dblBytes (dbl : Bool) : Nat := if dbl then 8 else 4

def execAmo (op : AmoOp) (dbl : Bool) (p : Policy) (sc : Scope) (ord : Order) (d a b : Reg) (s : State) :
    Host.Outcome State Fault Refusal :=
  run (.amo op dbl p sc ord d a b) s fun x s =>
    let n := dblBytes dbl
    let v := lowBytes n (s.reg x b)
    s.atomic x (s.reg x a) n p sc ord d fun old => some (amoNew op n old v)
def execCas (dbl : Bool) (p : Policy) (sc : Scope) (ord : Order) (d a b : Reg) (k : BitVec 24) (s : State) :
    Host.Outcome State Fault Refusal :=
  run (.cas dbl p sc ord d a b k) s fun x s =>
    let n := dblBytes dbl
    let v := lowBytes n (s.reg x b)
    let e := lowBytes n (s.reg x d)
    s.atomic x (effAddr (s.reg x a) k 0) n p sc ord d fun old => if old = e then some v else none
def execAmof (op : AmofOp) (p : Policy) (sc : Scope) (ord : Order) (d a b : Reg) (s : State) : Host.Outcome State Fault Refusal :=
  run (.amof op p sc ord d a b) s fun x s =>
    let v := lowBytes 4 (s.reg x b)
    s.atomic x (s.reg x a) 4 p sc ord d fun old => some (amofNew op old v)

/-! ### FENCE (R109, R128, R273) -/

/-- A GET or RAMO lost in flight, which the next fence of PACKAGE or SYSTEM scope meets (R128). -/
def State.lostAny (s : State) (a : Agent) : Option Remote :=
  match a with
  | .far c => s.remotes.find? fun r => r.of c && r.lost
  | _ => none
def execFence (sc : Scope) (s : State) : Host.Outcome State Fault Refusal :=
  run (.fence sc) s fun x s =>
    (s.xrowOrder x sc).bind fun _ s =>
      let wide := sc == .package || sc == .system
      let s := if wide && !s.overlap then s.settle x else s
      match if wide then s.lostAny x else none with
      | some r => .trap r.lossTrap { s with remotes := s.remotes.erase r }
      | none => (s.fence x sc).bind fun _ s => .ok none s

/-! ### Waits (R110 to R112, R274 to R276) -/

/-- Whether a monitor is held at the memory-side cache (R110). -/
def monitorMsc (a : Agent) (pa : Nat) (p : Policy) : Bool := !isFar a || isAlias pa || p == .m || p == .u
/-- WAITM once it has armed: its return code, if it returns now. -/
def State.waitmCode (s : State) (a : Agent) (m : Monitor) : Option Nat :=
  match m.code with
  | some c => some c
  | none =>
    match (s.hart a).wait with
    | some w => if w.late || !s.overlap then some 3 else none
    | none => some 3
def execWaitm (w : Width) (p : Policy) (d a b c : Reg) (k : BitVec 24) (s : State) : Host.Outcome State Fault Refusal :=
  run (.waitm w p d a b c k) s fun x s =>
    match (s.hart x).monitor with
    | some m =>
      match s.waitmCode x m with
      | some code => .ok none (s.write x d (BitVec.ofNat 64 code))
      | none => .wait s
    | none =>
      let n := w.bytes
      let limit : BitVec 32 := (s.reg x c).extractLsb' 0 32
      (s.access x (effAddr (s.reg x a) k 0) n kLoad .waitm p true).bind fun acc s =>
        (s.loadIssue x acc n p).bind fun v s =>
          if v.toNat ≠ lowBytes n (s.reg x b) then .ok none (s.write x d 0)
          else if limit = 0 then .ok none (s.write x d 3)
          else
            let q := effPol p acc.mt1
            let m : Monitor := { line := lineOf (if isAlias acc.pa then deviceOffset acc.pa else acc.pa), msc := monitorMsc x acc.pa q }
            .wait (s.updHart x fun h => { h with monitor := some m, wait := some { kind := .waitm, limit := limit } })
/-- A bounded wait on the counter of a mailbox channel traps with its head and tail (R276). -/
def State.channelExpired (s : State) (core ch : Nat) (limit : BitVec 32) : Trap :=
  let c := (s.far core).channel ch
  waitExpired 0 ((s.far core).vcore.toNat * 16 + ch) c.popc.toNat c.counter.toNat limit.toNat
def execWaitc (ch : BitVec 4) (sc : Scope) (a b : Reg) (s : State) : Host.Outcome State Fault Refusal :=
  run (.waitc ch sc a b) s fun x s =>
    match x with
    | .far c =>
      let t : BitVec 32 := (s.reg x a).extractLsb' 0 32
      let limit : BitVec 32 := (s.reg x b).extractLsb' 0 32
      if seqLe t ((s.far c).channel ch.toNat).counter then (s.acquireOrder x sc).bind fun _ s => .ok none s
      else s.waitOr x .waitc limit ch.toNat fun s => .trap (s.channelExpired c ch.toNat limit) s
    | _ => .wait s

/-! ### CMAINT (R66 to R69) -/

/-- The first check of R20 that names the address itself (R68). -/
def State.cmReason (s : State) (pa : Nat) : Option Nat :=
  if isAlias pa then (if 11 ≤ aliasOp pa then some 1 else none)
  else if isFormat pa then
    if windowNo pa = 7 then some 1 else if s.coreLive (windowCore pa) then none else some 3
  else none
/-- Every island copy of a line is discarded, dirty sectors included. -/
def State.islandDiscard (s : State) (d ln : Nat) : State :=
  let s := (s.l1Holders d ln).foldl (fun s c => (s.pbForget c ln).updFar c fun f => { f with l1d := mdel f.l1d ln }) s
  s.updIsland d fun x => { x with l2 := mdel x.l2 ln }
/-- A line leaves every L1I of an island and every near instruction buffer of its stack (R67). -/
def State.l1iDrop (s : State) (d ln : Nat) : State :=
  { s with
    fars := mmap (fun c f => if c / 256 = d then { f with l1i := mdel f.l1i ln } else f) s.fars
    units := mmap (fun h u => if h / 64 = d then { u with ibuf := mdel u.ibuf ln } else u) s.units }
/-- CMAINT of an agent on one line of device memory or the host region. A form that invalidates waits until the host holds no copy, and a
write-back does too (R64). -/
def State.cmLine (s : State) (a : Agent) (d : Nat) (op : CmOp) (reach : CmReach) (ln : Nat) : Res Unit :=
  if op != .cln && !lineHost ln && (s.mscAt ln).host then .wait (s.backInvalidate ln)
  else match reach with
    | .l1i => .ok () (s.l1iDrop d ln)
    | r =>
      let held := s.islandHolds d ln
      (match op with
        | .cln => if held then s.cleanTry d ln false (some a) else .ok () s
        | .inv => .ok () (if held then (s.islandDiscard d ln).wake false ln 2 else s)
        | .ci => if held then (s.cleanTry d ln true (some a)).bind fun _ s => .ok () (s.wake false ln 2) else .ok () s).bind fun _ s =>
        .ok () (if r == CmReach.mem && !lineHost ln then (if op = CmOp.cln then s.mscClean ln else s.mscDrop ln) else s)
/-- The progress that a CMAINT under way has made: its first line and the lines done (R69). -/
def State.cmHold (s : State) (a : Agent) (ln k : Nat) : State :=
  s.updHart a fun h => { h with wait := some { kind := .cmaint, obj := 128 * ln + k } }
/-- CMAINT on `n` lines, of which the first `k` are done: each line is handled once. It is not atomic across its lines (R69): in a turn that
overlaps it handles one of them, and accesses of others may fall between. -/
def State.cmLines (s : State) (a : Agent) (d : Nat) (op : CmOp) (reach : CmReach) (ln k : Nat) : Nat → Res Unit
  | 0 => .ok () s
  | n + 1 =>
    match s.cmLine a d op reach (ln + k) with
    | .ok _ s => if s.overlap && n != 0 then .wait (s.cmHold a ln (k + 1)) else s.cmLines a d op reach ln (k + 1) n
    | r => .wait (r.state.cmHold a ln k)
/-- CMAINT completes when its write-backs have been performed, those of host lines at the host too (R69). -/
def State.cmRun (s : State) (a : Agent) (op : CmOp) (reach : CmReach) (ln k n : Nat) : Res Unit :=
  (s.cmLines a ((a.island).getD (lineStack ln)) op reach ln k (n - k)).bind fun _ s =>
    if (List.range n).any fun i => s.lineWriting (ln + i) then .wait (s.cmHold a ln n) else .ok () s
/-- CMAINT is ordered after every earlier access of its issuer (R69). -/
def State.cmOrder (s : State) (a : Agent) : Res Unit :=
  (s.needDrained a).bind fun _ s =>
    let s := if s.overlap then s else s.settle a
    let remote := match a with
      | .far c => s.remoteBusy c
      | _ => false
    if s.aliasDone a && !s.hostWriting a && !remote then .ok () s else .wait s
/-- The lines of an extent (R67). -/
def cmExtent : CmExt → Nat | .line => 1 | .gran => 64
/-- The checks of a CMAINT at an address, and what it does there (R68). -/
def State.cmStart (s : State) (a : Agent) (op : CmOp) (reach : CmReach) (ext : CmExt) (va : Word) : Res Unit :=
  let kind := if op = .cln then kLoad else kStore
  (s.translate a va kind).bind fun e s =>
    let pa := e.pa va
    match s.cmReason pa with
    | some r => .trap (protection va pa r kind) s
    | none =>
      match remote a pa with
      | some i => .trap (accTrap 0x08 va pa i kind) s
      | none => (s.cmOrder a).bind fun _ s => if isDevice pa || isHost pa then s.cmRun a op reach (lineOf pa) 0 (cmExtent ext) else .ok () s
def execCmaint (op : CmOp) (reach : CmReach) (ext : CmExt) (a : Reg) (k : BitVec 20) (s : State) : Host.Outcome State Fault Refusal :=
  run (.cmaint op reach ext a k) s fun x s =>
    (match (s.hart x).wait with
      | some w => s.cmRun x op reach (w.obj / 128) (w.obj % 128) (cmExtent ext)
      | none =>
        let va := effAddr (s.reg x a) k 0
        s.cmStart x op reach ext (if ext = CmExt.gran then va &&& ~~~4095#64 else va)).bind fun _ s => .ok none s

/-! ### GET, PUT and RAMO (R124 to R128, R277, R278) -/

/-- The reason for which an island is unreachable from a core (R128, R130). -/
def State.remoteFlaw (s : State) (core d : Nat) : Option Nat :=
  match s.unreachReason d with
  | some r => some r
  | none => if dieOf core ≠ d ∧ (s.unreachReason (dieOf core)).isSome then some 1 else none
/-- The checks of R278 in order: the physical address. -/
def State.remoteCheck (s : State) (a : Agent) (core : Nat) (va : Word) (n kind : Nat) (put : Bool) : Res Nat :=
  if va.toNat % n ≠ 0 then .trap (misaligned va n kind) s
  else
    (s.translate a va kind).bind fun e s =>
      let pa := e.pa va
      if !isDevice pa then .trap (protection va pa 5 kind) s
      else match s.remoteFlaw core (stackOf pa) with
        | some r => .trap (unreachable (stackOf pa) va r kind) s
        | none => if !put && s.homeLost (homeOf pa) then memoryError s pa 5 kind else .ok pa s
/-- The operations of a core that still await a reply, or acceptance (R278). -/
def State.remoteCount (s : State) (core : Nat) (put : Bool) : Nat :=
  (s.remotes.filter fun r => r.of core && (r.kind == .put) == put && !r.lost).length
/-- Issues a remote operation; where the turn does not overlap it is performed and answered at once. -/
def State.remoteIssue (s : State) (core : Nat) (r : Remote) : Res (Option Word) :=
  if 16 ≤ s.remoteCount core (r.kind == .put) then .wait (if s.overlap then s else s.remoteDrain core (2 * s.remotes.length))
  else
    let s := { s with remotes := s.remotes ++ [r] }
    .ok none (if s.overlap then s else s.remoteDrain core (2 * s.remotes.length))
def execGet (w : Width) (ord : Bool) (d a : Reg) (k : BitVec 24) (s : State) : Host.Outcome State Fault Refusal :=
  run (.get w ord d a k) s fun x s =>
    match x with
    | .far c =>
      let va := effAddr (s.reg x a) k 0
      (s.remoteCheck x c va w.bytes kLoad false).bind fun pa s =>
        s.remoteIssue c { core := c, kind := .get, va := va, pa := pa, n := w.bytes, d := d, data := 0, ord := ord
                          inc := s.incOf (dieOf c), tinc := s.incOf (stackOf pa) }
    | _ => .wait s
def execPut (w : Width) (ord : Bool) (d a : Reg) (k : BitVec 24) (s : State) : Host.Outcome State Fault Refusal :=
  run (.put w ord d a k) s fun x s =>
    match x with
    | .far c =>
      let va := effAddr (s.reg x a) k 0
      (s.remoteCheck x c va w.bytes kStore true).bind fun pa s =>
        s.remoteIssue c { core := c, kind := .put, va := va, pa := pa, n := w.bytes, d := 0
                          data := BitVec.ofNat 64 (lowBytes w.bytes (s.reg x d)), ord := ord
                          inc := s.incOf (dieOf c), tinc := s.incOf (stackOf pa) }
    | _ => .wait s
def execRamo (op : AmoOp) (dbl ord : Bool) (d a b : Reg) (s : State) : Host.Outcome State Fault Refusal :=
  run (.ramo op dbl ord d a b) s fun x s =>
    match x with
    | .far c =>
      let va := s.reg x a
      (s.remoteCheck x c va (dblBytes dbl) kAtomic false).bind fun pa s =>
        s.remoteIssue c { core := c, kind := .ramo op, va := va, pa := pa, n := dblBytes dbl, d := d
                          data := BitVec.ofNat 64 (lowBytes (dblBytes dbl) (s.reg x b)), ord := ord
                          inc := s.incOf (dieOf c), tinc := s.incOf (stackOf pa) }
    | _ => .wait s

end Sys2Proof.Machine
end

