-- ==== Sys2Proof/Machine/SysInsn.lean ====
section
/-! DEFINITION. Control and status registers, traps, checkpoints, the resource map, time, snapshots and TLBI: codes 0x30 to 0x3D
(R31, R33, R34, R304, R310 to R322, R350, R418, R420). -/
namespace Sys2Proof.Machine

/-! ### CSR accesses (R310 to R313) -/

/-- What a write makes of a hart: bits that are read-only keep their value (R31, R312, R348, R350). -/
def Hart.csrWrite (h : Hart) (n : Nat) (v : Word) : Hart :=
  match n with
  | 0x000 => { h with ie := v.getLsbD 0, ppriv := v.getLsbD 2, pie := v.getLsbD 3 }
  | 0x001 => { h with cause := v.extractLsb' 0 8, h := false }
  | 0x002 => { h with trapPc := v }
  | 0x003 => { h with info := { h.info with i0 := v } }
  | 0x004 => { h with info := { h.info with i1 := v } }
  | 0x005 => { h with info := { h.info with i2 := v } }
  | 0x006 => { h with info := { h.info with i3 := v } }
  | 0x007 => { h with vecU := v }
  | 0x008 => { h with vecS := v }
  | 0x009 => { h with deleg := v &&& 0x1FFFE }
  | 0x00A => { h with scratch := v }
  | 0x017 => { h with root := v &&& 0x000FFFFFFFFFFC3F }
  | _ => h
/-- What a write makes of a far core (R171, R247, R313). -/
def Far.csrWrite (f : Far) (n : Nat) (v : Word) : Far :=
  match n with
  | 0x013 => { f with dom1 := v &&& 0x00001FFF000000FF }
  | 0x014 => { f with dom2 := v &&& 0x00001FFF000000FF }
  | 0x015 => { f with dom3 := v &&& 0x00001FFF000000FF }
  | 0x016 => { f with stealSet := v &&& 0x83FF83FF83FF83FF }
  | 0x018 => { f with aflags := v.extractLsb' 0 4 }
  | 0x019 => { f with mbcfg := v }
  | 0x01B => { f with lrtBase := v }
  | _ => f
/-- What a write makes of a hub core (R420). -/
def HubCore.csrWrite (x : HubCore) (n : Nat) (v : Word) : HubCore :=
  match n with
  | 0x040 => { x with hirq := x.hirq &&& ~~~v.extractLsb' 0 4 }
  | 0x041 => { x with en := v.extractLsb' 0 4 }
  | _ => x
/-- A CSR write; a mailbox whose depths change takes what it can (R167, R168). -/
def State.csrWrite (s : State) (a : Agent) (n : Nat) (v : Word) : State :=
  let s := s.updHart a fun h => h.csrWrite n v
  match a with
  | .far c =>
    let s := s.updFar c fun f => f.csrWrite n v
    if n = 0x019 then s.flushMailbox c else s
  | .near .. => s
  | .hub k => s.setHubCore k ((s.hubCore k).csrWrite n v)
/-- The checks of a CSR access: presence, privilege, and the wait of AFLAGS (R247, R310). -/
def State.csrCheck (s : State) (a : Agent) (i : Instr) (n : Nat) (write : Bool) : Res Unit :=
  let s := if n = 0x018 && !s.overlap then s.settle a else s
  if !csrPresent a n then .trap (illegalInsn (s.headHere a i) 4) s
  else if !(s.hart a).priv && (if write then csrWriteS n || csrReadS n else csrReadS n) then .trap (privilege (s.headHere a i) n) s
  else
    match a with
    | .far c => if n = 0x018 && !s.arrayIdle c then .wait s else .ok () s
    | _ => .ok () s
def execCsrr (d : Reg) (csr : BitVec 12) (s : State) : Host.Outcome State Fault Refusal :=
  run (.csrr d csr) s fun x s =>
    (s.csrCheck x (.csrr d csr) csr.toNat false).bind fun _ s => .ok none (s.write x d (s.csrRead x csr.toNat))
def execCsrw (csr : BitVec 12) (a : Reg) (s : State) : Host.Outcome State Fault Refusal :=
  run (.csrw csr a) s fun x s =>
    (s.csrCheck x (.csrw csr a) csr.toNat true).bind fun _ s => .ok none (s.csrWrite x csr.toNat (s.reg x a))
/-- The new value of CSRX (R310). -/
def csrxNew (op : CsrxOp) (old v : Word) : Word :=
  match op with
  | .swap => v
  | .set => old ||| v
  | .clr => old &&& ~~~v
def execCsrx (op : CsrxOp) (d : Reg) (csr : BitVec 12) (a : Reg) (s : State) : Host.Outcome State Fault Refusal :=
  run (.csrx op d csr a) s fun x s =>
    (s.csrCheck x (.csrx op d csr a) csr.toNat true).bind fun _ s =>
      let old := s.csrRead x csr.toNat
      .ok none ((s.csrWrite x csr.toNat (csrxNew op old (s.reg x a))).write x d old)

/-! ### Traps and returns (R314 to R316) -/

/-- TRAP and SYSC: a trap whose TRAP_PC is NextPC (R314). -/
def State.softTrap (s : State) (a : Agent) (cause : Nat) (k : BitVec 20) : Res (Option Word) :=
  let h := s.hart a
  .trap { cause := cause, infos := ⟨k.zeroExtend 64, h.pc, 0, 0⟩, pc := some h.nextPc } s
def execTrap (k : BitVec 20) (s : State) : Host.Outcome State Fault Refusal :=
  run (.trap k) s fun x s => s.softTrap x 0x0D k
def execSysc (k : BitVec 20) (s : State) : Host.Outcome State Fault Refusal :=
  run (.sysc k) s fun x s => s.softTrap x 0x11 k
def execEret (s : State) : Host.Outcome State Fault Refusal :=
  runSelf .eret s fun x s => .ok () (s.updHart x fun h => h.eret (isHub x))
def execIen (en : Bool) (d : Reg) (s : State) : Host.Outcome State Fault Refusal :=
  run (.ien en d) s fun x s =>
    .ok none ((s.write x d (boolWord (s.hart x).ie)).updHart x fun h => { h with ie := en })

/-! ### IDLE and CKPT (R304, R317) -/

/-- Whether IDLE returns: a task, a delivery, a pending event, or the wake latch of a hub core. -/
def State.idleOver (s : State) (a : Agent) : Bool :=
  let h := s.hart a
  h.evp || (match h.wait with | some w => w.won | none => false) ||
    match a with
    | .far c => !(s.far c).coreQ.isEmpty
    | .near .. => false
    | .hub k => (s.hubCore k).latch
/-- The latch of a hub core is cleared as IDLE returns (R420). -/
def State.idleReturn (s : State) (a : Agent) : State :=
  match a with
  | .hub k => s.setHubCore k { s.hubCore k with latch := false }
  | _ => s
def execIdle (a : Reg) (s : State) : Host.Outcome State Fault Refusal :=
  run (.idle a) s fun x s =>
    let s := match x with
      | .far c => if s.dispatches (s.coreCtx c) then s.farSearch c else s
      | _ => s
    if s.idleOver x then .ok none (s.idleReturn x)
    else s.waitOr x .idle ((s.reg x a).extractLsb' 0 32) 0 fun s => .ok none (s.idleReturn x)
/-- CKPT under a suspension request: the vcore is saved at NextPC with the items of its table (R317). -/
def State.checkpoint (s : State) (c : Nat) (k : BitVec 20) : Res Unit :=
  let a := Agent.far c
  let h := s.hart a
  (s.liveTable c k.toNat).bind fun t s =>
    let keep := match t with | some l => Keep.items l | none => .full
    match (s.updHart a fun h => { h with pc := h.nextPc, fromPc := h.pc }).saveVcore c keep with
    | (s, true) => .ok () (if t.isSome then s else s.log 8 0 0 c 0 k.toNat (dieOf c))
    | (s, false) => .wait (s.updHart a fun g => { g with pc := h.pc, fromPc := h.fromPc })
def execCkpt (k : BitVec 20) (s : State) : Host.Outcome State Fault Refusal :=
  runSelf (.ckpt k) s fun x s =>
    match x with
    | .far c => if (s.hart x).sreq then s.checkpoint c k else .ok () (s.advance x none)
    | _ => .wait s

/-! ### The resource map, time and snapshots (R319 to R322, R418) -/

def execRmread (d a : Reg) (s : State) : Host.Outcome State Fault Refusal :=
  run (.rmread d a) s fun x s => .ok none (s.write x d (s.mapWord (bits (s.reg x a) 11 0)))
def execRmack (d : Reg) (s : State) : Host.Outcome State Fault Refusal :=
  run (.rmack d) s fun x s =>
    let v : BitVec 32 := (s.reg x d).extractLsb' 0 32
    if v = s.mapVersion then .ok none (s.acknowledge (s.agentCtx x) v)
    else if seqLe v s.mapVersion then .ok none s
    else .trap (protOperand (v.zeroExtend 64) 0 10 7) s
def execTime (d : Reg) (s : State) : Host.Outcome State Fault Refusal :=
  run (.time d) s fun x s => .ok none (s.write x d (BitVec.ofNat 64 s.time))
/-- A snapshot trigger latches every block, or joins the snapshot in progress (R418; DEDUCED, log entry 43). -/
def State.snapTrigger (s : State) : State :=
  if s.hub.snapBusy then s
  else
    s.updHub fun h => { h with
      snapBusy := true
      snap := { time := s.time, harts := s.harts, fars := s.fars, clusters := s.clusters, islands := s.islands
                baseDies := s.baseDies, units := s.units, ctxs := s.ctxs, acks := s.hub.acks, rmap := s.hub.rmap, hubRegs := s.hubBlock } }
/-- Every block has latched (R418, R410, R420). -/
def State.snapDone (s : State) : State :=
  if s.hub.snapBusy then
    ((s.updHub fun h => { h with snapBusy := false, snapSeq := h.snapSeq + 1 }).raiseAll 2).hirq 1
  else s
def execSnap (s : State) : Host.Outcome State Fault Refusal :=
  run .snap s fun x s =>
    match (s.hart x).wait with
    | some _ =>
      let s := if s.overlap then s else s.snapDone
      if s.hub.snapBusy then .wait s else .ok none s
    | none =>
      let s := s.snapTrigger
      if s.overlap then .wait (s.updHart x fun h => { h with wait := some { kind := .snap } }) else .ok none s.snapDone

/-! ### TLBI (R33, R34) -/

def tlbiRegs : TlbiOp → Reg × Reg
  | .va a b => (a, b)
  | .vag a => (a, 0)
  | .ctx b => (0, b)
  | .all => (0, 0)
/-- Every walk that the removal has passed is over, and every access that was translated before is performed: stores, those to the host
region, alias stores at their banks, and GETs, PUTs and RAMOs (R34 steps 3 and 4). -/
def State.tlbiOver (s : State) : State × Bool :=
  let s := s.fars.foldl (fun s p => s.sbDrain p.1 p.2.sb.length) s
  let walks := (s.islands.flatMap fun p => p.2.walks) ++ s.hub.walks
  (s, walks.all (fun w => w.kills.isEmpty) && s.fars.all (fun p => p.2.sb.isEmpty) && s.hostReqs.all (fun r => r.cached && r.write.isSome) &&
    s.fabric.isEmpty && s.cmds.all (fun p => p.2.done) && s.remotes.all fun r => r.result.isSome || r.lost)
/-- TLBI_COMPLETE: the TLBI of an agent is done everywhere (R34 step 5). -/
def State.tlbiComplete (s : State) (a : Agent) : State :=
  match (s.hart a).wait with
  | some w =>
    if w.kind = .tlbi then
      let r := s.tlbiOver
      if r.2 then r.1.updHart a fun h => { h with wait := some { w with won := true } } else r.1
    else s
  | none => s
def execTlbi (op : TlbiOp) (s : State) : Host.Outcome State Fault Refusal :=
  run (.tlbi op) s fun x s =>
    match (s.hart x).wait with
    | some _ =>
      let s := if s.overlap then s else s.tlbiComplete x
      match (s.hart x).wait with
      | some w => if w.won then (s.fence x .package).bind fun _ s => .ok none s else .wait s
      | none => .wait s
    | none =>
      (s.xrowOrder x .package).bind fun _ s => (s.fence x .package).bind fun _ s =>
        let r := tlbiRegs op
        let s := s.tlbiRemove op (s.reg x r.1) (s.reg x r.2)
        let s := s.updHart x fun h => { h with wait := some { kind := .tlbi } }
        let s := if s.overlap then s else s.tlbiComplete x
        match (s.hart x).wait with
        | some w => if w.won then .ok none s else .wait s
        | none => .wait s

end Sys2Proof.Machine
end

