-- ==== Sys2Proof/Machine/TaskInsn.lean ====
section
/-! DEFINITION. Messages, barriers, launches and tasks at issue: MSEND, BAR, LARM, QBIND, QSTAT, TENQ, TSTEAL, TNEXT, TEND (R117,
R120 to R123, R172, R173, R291 to R303, R305 to R308). -/
namespace Sys2Proof.Machine

/-- An operand or field that is out of range (R294 reason 10). -/
def badOperand (v : Word) (queue : Nat) : Trap := protOperand v queue 10 7
/-- Bytes `0` to `n - 1` at an address, in at most two lines, as .c loads (R306), each once only where it is performed as .u (R55). -/
def State.readBytes (s : State) (a : Agent) (va : Word) (n : Nat) : Res (BitVec 512) :=
  let n1 := min n (64 - va.toNat % 64)
  (s.access a va n1 kLoad .load .c false).bind fun acc s =>
    (s.loadOnce a acc n1 .c).bind fun v s =>
      if n1 = n then .ok v s
      else
        let vb := va + BitVec.ofNat 64 n1
        (s.access a vb (n - n1) kLoad .load .c false).bind fun acc s =>
          (s.loadOnce a acc (n - n1) .c).bind fun w s => .ok (v ||| (w <<< (8 * n1))) s
/-- A release by a far core at a scope: XROWs, stores, alias commands and write-backs before it (R100, R104, R118, R224). -/
def State.release (s : State) (a : Agent) (sc : Scope) : Res Unit :=
  (s.xrowOrder a sc).bind fun _ s => (s.needDrained a).bind fun _ s => if s.aliasDone a then s.releaseAt a sc else .wait s

/-! ### MSEND (R117, R305, R306) -/

/-- The far-core state of a vcore, on its core or saved. -/
def State.vcoreFar (s : State) (c v : Nat) : Far :=
  match s.placedOn c v with
  | some core => s.far core
  | none =>
    match s.ctx c with
    | some x => match mget (fun _ => none) x.saved v with
      | some sv => sv.far
      | none => {}
    | none => {}
/-- The scope of a send (R117); one to a vcore that is not placed, which has no destination core, is a release at PACKAGE scope (DESIGN
CHOICE, log entry 66). -/
def State.sendScope (s : State) (core v : Nat) : Scope :=
  match s.placedOn (s.coreCtx core) v with
  | some d =>
    if d = core then .core
    else if clusterOf d = clusterOf core then .cluster
    else if dieOf d = dieOf core then .island else .package
  | none => .package
/-- WAIT_EXPIRED of MSEND (R293). -/
def State.sendExpired (s : State) (m : Msg) (limit : BitVec 32) : Trap :=
  let c := (s.vcoreFar m.ctx m.vcore).channel m.ch
  waitExpired 0 (m.vcore * 16 + m.ch) c.popc.toNat c.counter.toNat limit.toNat
/-- Delivery `k` is accepted at its destination and the sender's wait ends; `none` while the spill queue is full. -/
def State.deliverEntry (s : State) (k : Nat) : Option State :=
  match s.deliveries[k]? with
  | none => none
  | some m =>
    match ({ s with deliveries := dropAt s.deliveries k }).deliverMsg m with
    | .full => none
    | .done s =>
      if m.own then some s
      else some (s.updHart (.far m.src) fun h =>
        { h with wait := h.wait.map fun w => if w.kind = .msend then { w with won := true } else w })
/-- The deliveries that contend at a core's mailbox unit, by position and source number: the oldest of each source, where it can be
accepted (R334). -/
def State.unitPorts (s : State) (core : Nat) : List (Nat × Nat) :=
  (List.range s.deliveries.length).filterMap fun j =>
    match s.deliveries[j]? with
    | none => none
    | some m =>
      if s.atUnit core m && !(s.deliveries.take j).any (fun x => s.atUnit core x && x.port == m.port) && (s.deliverEntry j).isSome then
        some (m.port, j) else none
/-- A mailbox unit accepts one delivery: that of the first source at or after its pointer (R328, R334). -/
def State.unitAccept (s : State) (core : Nat) : State :=
  let l := s.unitPorts core
  match nearestFrom 4098 (s.far core).mailPtr (l.map (·.1)) with
  | none => s
  | some p =>
    match l.find? fun x => x.1 == p with
    | none => s
    | some x => ((s.deliverEntry x.2).getD s).updFar core fun f => { f with mailPtr := (p + 1) % 4098 }
/-- Delivery `k` reaches its destination's mailbox unit, which accepts one of those that stand there; one for a vcore that is not placed
has no unit to pass (R169). -/
def State.deliverAt (s : State) (k : Nat) : State :=
  match s.deliveries[k]? with
  | none => s
  | some m =>
    match s.placedOn m.ctx m.vcore with
    | some core => ({ s with deliveries := setAt s.deliveries k { m with here := true } }).unitAccept core
    | none => (s.deliverEntry k).getD s
/-- The deliveries of a core's MSEND are made, as far as they can be, in a turn that does not overlap. -/
def State.deliverFor (s : State) (core : Nat) : Nat → State
  | 0 => s
  | n + 1 =>
    match indexOf? (fun (m : Msg) => m.src == core && !m.own) s.deliveries with
    | some k => (s.deliverAt k).deliverFor core n
    | none => s
/-- The wait of an agent has been met. -/
def State.won (s : State) (a : Agent) : Bool := match (s.hart a).wait with | some w => w.won | none => false
/-- Whether MSEND returns, goes on waiting or expires: its limit counts only while its delivery must enter a spill queue that is full
(R306); `late` tells that it is over. -/
def State.sendGo (s : State) (core : Nat) (late : Bool) (limit : BitVec 32) : Res (Option Word) :=
  if s.won (.far core) then .ok none s
  else match indexOf? (fun (m : Msg) => m.src == core && !m.own) s.deliveries with
    | none => .ok none s
    | some k =>
      match s.deliverEntry k, s.deliveries[k]? with
      | none, some m => if late then .trap (s.sendExpired m limit) s else .wait s
      | _, _ => .wait s
/-- A waiting MSEND at its next turn. -/
def State.sendAgain (s : State) (core : Nat) (w : Wait) : Res (Option Word) :=
  (if s.overlap then s else s.deliverFor core s.deliveries.length).sendGo core (w.late || !s.overlap || w.limit == 0) w.limit
/-- A message leaves: it is on its way, or has reached its mailbox unit at once where no limit lets it wait; where the turn does not overlap
it is delivered as far as can be (DESIGN CHOICE, log entry 2). -/
def State.sendOff (s : State) (core : Nat) (m : Msg) (limit : BitVec 32) : State :=
  let s := ({ s with deliveries := s.deliveries ++ [m] }).updHart (.far core) fun h => { h with wait := some { kind := .msend, limit := limit } }
  if !s.overlap then s.deliverFor core s.deliveries.length
  else if limit = 0 then s.deliverAt (s.deliveries.length - 1) else s
def execMsend (ch : BitVec 4) (len : BitVec 7) (a b c : Reg) (s : State) : Host.Outcome State Fault Refusal :=
  run (.msend ch len a b c) s fun x s =>
    match x with
    | .far k =>
      match (s.hart x).wait with
      | some w => s.sendAgain k w
      | none =>
        let limit : BitVec 32 := (s.reg x c).extractLsb' 0 32
        let v := bits (s.reg x a) 11 0
        (s.readBytes x (s.reg x b) len.toNat).bind fun data s =>
          (s.release x (s.sendScope k v)).bind fun _ s =>
            let s := s.sendOff k { ctx := s.coreCtx k, vcore := v, ch := ch.toNat, data := data, src := k, own := false
                                   sender := s.senderVcore k, inc := s.sentInc k } limit
            if s.overlap && limit != 0 then .wait s else s.sendGo k (limit == 0) limit
    | _ => .wait s

/-! ### BAR (R172, R173, R307) -/

def barScope (lvl : Nat) : Scope := if lvl = 1 then .cluster else if lvl = 2 then .island else .package
/-- WAIT_EXPIRED of BAR (R293): the arrivals of the generation without this one, and its SIZE. -/
def State.barExpired (s : State) (core lvl : Nat) (limit : BitVec 32) : Trap :=
  let w := (s.far core).dom lvl
  let ctx := s.coreCtx core
  let p := match s.barOf core lvl with
    | some b => (b.cores.length - 1, b.size)
    | none => match (s.barsAt core lvl).find? fun (b : Bar) => b.is ctx lvl (domId w) && !b.full with
      | some b => (b.cores.length, b.size)
      | none => (0, domSize w)
  waitExpired 3 (lvl * 256 + domId w) p.1 p.2 limit.toNat
/-- A core's arrival reaches its unit, and a full generation that waits for its members' sends is looked at again. -/
def State.barSettle (s : State) (core lvl : Nat) : State :=
  let s := match indexOf? (fun (m : BarMsg) => m.core == core) s.barMsgs with | some k => s.barrierArrival k | none => s
  match s.barOf core lvl with
  | some b => s.barCheck core b
  | none => s
/-- Whether BAR returns, keeps waiting or expires. -/
def State.barGo (s : State) (core lvl : Nat) (limit : BitVec 32) : Res (Option Word) :=
  if s.won (.far core) then .ok none s
  else s.waitOr (.far core) .bar limit lvl fun s => .trap (s.barExpired core lvl limit) s
def execBar (lvl : BitVec 2) (c : Bool) (a : Reg) (s : State) : Host.Outcome State Fault Refusal :=
  run (.bar lvl c a) s fun x s =>
    match x with
    | .far k =>
      let l := lvl.toNat
      let limit : BitVec 32 := (s.reg x a).extractLsb' 0 32
      let w := (s.far k).dom l
      if (s.hart x).wait.isSome then (s.barSettle k l).barGo k l limit
      else if domSize w = 0 then .ok none s
      else
        (s.xrowOrder x (barScope l)).bind fun _ s => (s.needDrained x).bind fun _ s => (s.releaseAt x (barScope l)).bind fun _ s =>
          let m : BarMsg := { core := k, ctx := s.coreCtx k, lvl := l, id := domId w, size := domSize w, comp := c, inc := s.sentInc k }
          let s := s.updHart x fun h => { h with wait := some { kind := .bar, limit := limit, obj := l } }
          if s.overlap && limit != 0 then .wait { s with barMsgs := s.barMsgs ++ [m] }
          else
            let s := s.barArrive m
            if s.won x then .ok none s
            else if limit = 0 then .trap (s.barExpired k l limit) s else .wait s
    | _ => .wait s

/-! ### LARM (R308) -/

def execLarm (a : Reg) (s : State) : Host.Outcome State Fault Refusal :=
  run (.larm a) s fun x s =>
    let va := s.reg x a
    if va.toNat % 128 ≠ 0 then .trap (misaligned va 128 kStore) s
    else
      (s.access x va 8 kStore .store .m false).bind fun acc s =>
        (s.release x .package).bind fun _ s =>
          (s.storeAt x acc.pa 8 (effPol .m acc.mt1) acc.page acc.size 1 (some .package)).bind fun _ s => .ok none s

/-! ### QBIND and QSTAT (R295 to R298) -/

/-- Whether a home may be named by an agent: in its partition, its stack region not lost (R294 reason 13). -/
def State.homeOpen (s : State) (a : Agent) (h : Nat) : Bool :=
  s.partOfDie (h / 64) == s.partOfDie ((a.island).getD 0) && !s.homeLost h
/-- Records on their way to a queue: those of TENQs, and the tasks that launches, their anchors checked, are appending there (R297). -/
def State.onWay (s : State) (h q : Nat) : Nat :=
  ((s.home h).arrivals.map fun a => (a.items.filter fun p => p.1 == q).length).sum
def State.launching (s : State) (h q : Nat) : Nat :=
  (s.hub.launches.map fun p => match p.2 with
    | some l => if bits (l.words.getD 1 0) 19 16 = q ∧ bits (l.words.getD 1 0) 47 32 ≤ l.bases.length then ((l.bases.drop l.next).filter fun b => homeOf b == h).length else 0
    | none => 0).sum
/-- The first nonzero reserved field, or a CAP above 256, of a queue record (R296). -/
def qrecFlaw (r : BitVec 512) : Option Word :=
  let w2 := lineWord r 2
  let cap := bits w2 24 16
  ([bits w2 63 25, bits w2 15 11, (lineWord r 3).toNat, (lineWord r 4).toNat, (lineWord r 5).toNat, (lineWord r 6).toNat,
    (lineWord r 7).toNat, if 256 < cap then cap else 0].find? fun v => v != 0).map (BitVec.ofNat 64)
/-- A queue as its record binds it (R296, R297, R331). -/
def qrecQueue (ctx : Nat) (r : BitVec 512) : Queue :=
  let w2 := lineWord r 2
  { ctx := some ctx, nearPc := lineWord r 0, farPc := lineWord r 1, t := bits w2 7 0, pri := bits w2 9 8, excl := w2.getLsbD 10
    cap := bits w2 24 16 }
def execQbind (a : Reg) (q : BitVec 4) (home : BitVec 10) (s : State) : Host.Outcome State Fault Refusal :=
  run (.qbind a q home) s fun x s =>
    let h := home.toNat
    let n := q.toNat
    let wher := h * 16 + n
    (s.access x (s.reg x a) 64 kLoad .load .c true).bind fun acc s =>
      (s.loadOnce x acc 64 .c).bind fun r s =>
        let u := (s.home h).queueAt n
        let ctx := s.agentCtx x
        let depth := u.tasks.length + s.onWay h n + s.launching h n
        if !s.homeOpen x h then .trap (protOperand (BitVec.ofNat 64 h) wher 13 7) s
        else match qrecFlaw r with
          | some v => .trap (badOperand v wher) s
          | none =>
            if u.ctx.isSome ∧ (u.ctx ≠ some ctx ∨ 0 < depth) then .trap (protOperand (BitVec.ofNat 64 h) wher 12 7) s
            else
              .ok none (s.updHome h fun y => y.setQueue n (if bits (lineWord r 2) 24 16 = 0 then {} else qrecQueue ctx r))
/-- The word of QSTAT (R298). -/
def State.qstatWord (s : State) (ctx h n : Nat) : Word :=
  let x := s.home h
  let u := x.queueAt n
  match u.ctx with
  | none => 0
  | some k =>
    if k ≠ ctx then 1
    else
      let run := x.running.any fun t => t.queue == n
      u.counter.zeroExtend 64 <<< 32 ||| BitVec.ofNat 64 u.tasks.length <<< 23 ||| BitVec.ofNat 64 u.cap <<< 14
        ||| BitVec.ofNat 64 u.t <<< 6 ||| BitVec.ofNat 64 u.pri <<< 4 ||| boolWord u.excl <<< 3 ||| boolWord run <<< 2 ||| 3
def execQstat (d a : Reg) (q : BitVec 4) (s : State) : Host.Outcome State Fault Refusal :=
  run (.qstat d a q) s fun x s =>
    let h := bits (s.reg x a) 9 0
    if s.partOfDie (h / 64) ≠ s.partOfDie ((x.island).getD 0) then
      .trap (protOperand (BitVec.ofNat 64 h) (h * 16 + q.toNat) 13 7) s
    else .ok none (s.write x d (s.qstatWord (s.agentCtx x) h q.toNat))

/-! ### TENQ (R17, R120, R299, R300) -/

/-- ANCHOR_SPAN (R17). -/
def anchorSpan (i : Nat) (base : Word) : Trap := { cause := 0x09, infos := ⟨BitVec.ofNat 64 i, base, 0, 0⟩ }
/-- Test 1 of R17. -/
def spanBad (base : Word) (len : Nat) : Bool := len == 0 || decide (4096 < len) || decide (4096 < base.toNat % 4096 + len)
/-- The words of the `n` records at an address, in order. -/
def State.readRecords (s : State) (a : Agent) (va : Word) : Nat → Res (List (BitVec 256))
  | 0 => .ok [] s
  | n + 1 =>
    (s.access a va 32 kLoad .load .c false).bind fun acc s =>
      (s.loadOnce a acc 32 .c).bind fun v s =>
        (s.readRecords a (va + 32) n).bind fun l s => .ok (v.extractLsb' 0 256 :: l) s
def recWord (r : BitVec 256) (i : Nat) : Word := r.extractLsb' (64 * i) 64
/-- The checks of an anchored record with number `i`; its task (R17, R18, R294, R300). -/
def State.checkAnchor (s : State) (a : Agent) (i : Nat) (r : BitVec 256) : Res Task :=
  let base := recWord r 0
  let w1 := recWord r 1
  let len := bits w1 12 0
  let q := bits w1 19 16
  if spanBad base len then .trap (anchorSpan i base) s
  else
    (s.translate a base kAnchor).bind fun e s =>
      let pa := e.pa base
      if !isDevice pa then .trap (anchorSpan i base) s
      else
        let h := homeOf pa
        let island := (a.island).getD 0
        if !s.homeOpen a h then .trap (protOperand base (h * 16 + q) 13 7) s
        else match s.remoteFlaw (island * 256) (h / 64) with
          | some reason => .trap (unreachable (h / 64) base reason 3) s
          | none =>
            if ((s.home h).queueAt q).ctx ≠ some (s.agentCtx a) then .trap (protOperand (BitVec.ofNat 64 q) (h * 16 + q) 11 4) s
            else .ok { ctx := s.agentCtx a, anchored := true, home := h, queue := q, base := base, word1 := w1, arg0 := recWord r 2
                       arg1 := recWord r 3, pbase := pa } s
/-- The tasks of the records, after every check. -/
def State.checkRecords (s : State) (a : Agent) (i : Nat) : List (BitVec 256) → Res (List Task)
  | [] => .ok [] s
  | r :: l =>
    (if bits (recWord r 1) 12 0 = 0 then
        .ok ({ ctx := s.agentCtx a, base := recWord r 0, word1 := recWord r 1, arg0 := recWord r 2, arg1 := recWord r 3
               entry := recWord r 0 } : Task) s
      else s.checkAnchor a i r).bind fun t s => (s.checkRecords a (i + 1) l).bind fun ts s => .ok (t :: ts) s
/-- The destination vcore of an unanchored task. -/
def Task.vcore (t : Task) : Nat := bits t.word1 43 32
/-- The release of TENQ: the write-backs of R104 whatever its scope, and on a near context an empty written-line log (R120). -/
def State.tenqRelease (s : State) (a : Agent) : Res Unit :=
  let s := match a with
    | .near h _ => if s.overlap then s else s.wlogEmpty h
    | _ => s
  if s.logged a .island then .wait s else s.release a .package
/-- Puts a record into the batch of a home's arrivals. -/
def addItem (h : Nat) (p : Nat × Task) : List (Nat × List (Nat × Task)) → List (Nat × List (Nat × Task))
  | [] => [(h, [p])]
  | x :: l => if x.1 = h then (h, x.2 ++ [p]) :: l else x :: addItem h p l
/-- Records of the batch for a queue. -/
def batched (b : List (Nat × List (Nat × Task))) (h q : Nat) : Nat :=
  (b.map fun x => if x.1 = h then (x.2.filter fun p => p.1 == q).length else 0).sum
/-- Free entries of a home queue, counted against CAP (R300). -/
def State.queueRoom (s : State) (h q extra : Nat) : Bool :=
  let u := (s.home h).queueAt q
  decide (u.tasks.length + s.onWay h q + extra < u.cap)
/-- Reserves a slot for each task in record order: unanchored tasks enter a trial state, anchored ones a batch; or the first
task without a slot. -/
def State.reserve (s : State) (src : Nat) (b : List (Nat × List (Nat × Task))) :
    List Task → Except Task (State × List (Nat × List (Nat × Task)))
  | [] => .ok (s, b)
  | t :: l =>
    if t.anchored then
      if s.queueRoom t.home t.queue (batched b t.home t.queue) then s.reserve src (addItem t.home (t.queue, t) b) l else .error t
    else match s.taskDeliver (s.senderVcore src) t.vcore t with
      | .done s => s.reserve src b l
      | .full => .error t
/-- The appended records leave for their homes; where the turn does not overlap, they arrive (DESIGN CHOICE, log entry 2). -/
def State.sendBatch (s : State) (a : Agent) (b : List (Nat × List (Nat × Task))) : State :=
  let inc := match a.island with | some d => s.incOf d | none => 0
  b.foldl (fun s x =>
    let s := s.updHome x.1 fun h => { h with arrivals := h.arrivals ++ [{ src := agentKey a, items := x.2, inc := inc }] }
    if s.overlap then s else s.homeArrive x.1) s
/-- WAIT_EXPIRED of TENQ at the first record without a slot (R293). -/
def State.tenqExpired (s : State) (t : Task) (limit : BitVec 32) : Trap :=
  if t.anchored then
    let u := (s.home t.home).queueAt t.queue
    waitExpired 1 (t.home * 16 + t.queue) (u.counter - BitVec.ofNat 32 u.tasks.length).toNat u.counter.toNat limit.toNat
  else waitExpired 2 t.vcore 0 0 limit.toNat
/-- Appends every task, or waits for slots. -/
def State.tenqGo (s : State) (a : Agent) (limit : BitVec 32) (ts : List Task) : Res (Option Word) :=
  match s.reserve (agentKey a) [] ts with
  | .ok (s, b) => .ok none (s.sendBatch a b)
  | .error t =>
    match (s.hart a).wait with
    | none =>
      if limit = 0 then .trap (s.tenqExpired t limit) s
      else .wait (s.updHart a fun h => { h with wait := some { kind := .tenq, limit := limit, tasks := ts } })
    | some w => if w.late || !s.overlap then .trap (s.tenqExpired t limit) s else .wait s
def execTenq (a b c : Reg) (s : State) : Host.Outcome State Fault Refusal :=
  run (.tenq a b c) s fun x s =>
    let n := s.reg x b
    let va := s.reg x a
    let limit : BitVec 32 := (s.reg x c).extractLsb' 0 32
    match (s.hart x).wait with
    | some w => s.tenqGo x limit w.tasks
    | none =>
      if 64 < n.toNat then .trap (badOperand n 0) s
      else if n = 0 then .ok none s
      else if va.toNat % 32 ≠ 0 then .trap (misaligned va 32 kLoad) s
      else
        (s.readRecords x va n.toNat).bind fun l s =>
          (s.checkRecords x 0 l).bind fun ts s =>
            (s.tenqRelease x).bind fun _ s => s.tenqGo x limit ts

/-! ### TSTEAL (R159, R292, R293, R301) -/

/-- WAIT_EXPIRED of TSTEAL: the queue that step 2 of R158 would have chosen, or queue 0. -/
def State.stealExpired (s : State) (core home : Nat) (limit : BitVec 32) : Trap :=
  let x := s.home home
  let ctx := s.coreCtx core
  let ok := fun q => let u := x.queueAt q
    u.ctx == some ctx && decide (u.t < 255) && decide (u.t < u.tasks.length)
  let q := (x.bestQueue x.qPtr ok).getD 0
  let u := x.queueAt q
  waitExpired 1 (home * 16 + q) (u.counter - BitVec.ofNat 32 u.tasks.length).toNat u.counter.toNat limit.toNat
/-- Whether a core's request still stands at its home or on the way to it. -/
def State.stealStands (s : State) (core home : Nat) : Bool :=
  (s.home home).steals.any (fun r => r.core == core) || s.stealMsgs.any fun m => m.req.core == core && m.home == home
/-- The home's next cycle, and its grant, within the step (DESIGN CHOICE, log entry 2). -/
def State.stealNow (s : State) (core home : Nat) : State := (s.homeCycle home).grantsDrain core (s.grants.length + 1)
/-- Whether TSTEAL returns, keeps waiting or expires: a request that has been granted never expires (R292). -/
def State.stealGo (s : State) (core home : Nat) (late : Bool) (limit : BitVec 32) : Res (Option Word) :=
  if s.won (.far core) then .ok none (s.updFar core fun f => { f with stealWait := none })
  else if late ∧ s.stealStands core home ∧ !s.stealGranted (.far core) then .trap (s.stealExpired core home limit) s
  else .wait s
def execTsteal (a b : Reg) (s : State) : Host.Outcome State Fault Refusal :=
  run (.tsteal a b) s fun x s =>
    match x with
    | .far c =>
      let va := s.reg x a
      let vb := s.reg x b
      let home := bits va 9 0
      let n := bits vb 3 0
      let limit : BitVec 32 := vb.extractLsb' 32 32
      match (s.hart x).wait with
      | some w =>
        let s := if s.overlap then s else s.stealNow c home
        s.stealGo c home (w.late || !s.overlap) limit
      | none =>
        if n = 0 ∨ 8 < n ∨ bits vb 31 4 ≠ 0 then .trap (badOperand vb 0) s
        else if bits va 63 10 ≠ 0 then .trap (badOperand va 0) s
        else if !s.homeOpen x home then .trap (protOperand (BitVec.ofNat 64 home) 0 13 7) s
        else
          let s := s.updFar c fun f =>
            { f with stealWait := some (home, n), autoHome := if f.autoHome = some home then none else f.autoHome }
          let s := (s.updHart x fun h => { h with wait := some { kind := .tsteal, limit := limit, obj := home } }).stealPost c home n
          if s.overlap && limit != 0 then .wait s
          else
            let s := if s.overlap then s else s.stealNow c home
            s.stealGo c home (limit == 0) limit
    | _ => .wait s

/-! ### TEND and TNEXT (R122, R302, R303) -/

/-- The anchor release of a runner (R122). -/
def State.anchorRelease (s : State) (a : Agent) : Res Unit :=
  match a with
  | .far c => match (s.far c).task with | some t => s.anchorFar c t | none => .ok () s
  | .near h c => s.anchorNear h c
  | .hub _ => .ok () s
/-- What TEND does before its task retires: it waits for the array, the engine, remote operations and the runner's own accesses, and makes
the two releases of R122. A GET or RAMO lost in flight that no instruction of the task has met becomes a notice of kind 3 (DESIGN CHOICE,
log entry 58). -/
def State.tendReady (s : State) (a : Agent) : Res Unit :=
  match a with
  | .far c =>
    let s := if s.overlap then s else (s.settle a).engDrain c
    if !s.arrayIdle c || !(s.far c).eng.isEmpty || s.remoteBusy c then .wait s
    else ((s.lostNotices c).release a .island).bind fun _ s => s.anchorRelease a
  | .near .. => if s.aliasDone a then (s.releaseAt a .island).bind fun _ s => s.anchorRelease a else .wait s
  | .hub _ => .wait s
def execTend (s : State) : Host.Outcome State Fault Refusal :=
  runSelf .tend s fun x s =>
    (s.tendReady x).bind fun _ s =>
      match x with
      | .far c =>
        let s := s.farRetire c
        .ok () (if s.overlap then s else s.farTake c)
      | .near h c => .ok () (s.nearRetire h c)
      | .hub _ => .wait s
def execTnext (a : Reg) (s : State) : Host.Outcome State Fault Refusal :=
  runSelf (.tnext a) s fun x s =>
    match x with
    | .far c =>
      let s := s.farSearch c
      let limit : BitVec 32 := (s.reg x a).extractLsb' 0 32
      if (s.far c).coreQ.isEmpty then
        s.waitOr x .tnext limit 0 fun s => .trap (waitExpired 2 (s.far c).vcore.toNat 0 0 limit.toNat) s
      else (s.tendReady x).bind fun _ s => .ok () ((s.farRetire c).farTake c)
    | _ => .wait s

end Sys2Proof.Machine
end

