-- ==== Sys2Proof/Machine/CoreEvents.lean ====
section
/-! DEFINITION. Events of the agents: monitors, limits, remote operations, deliveries, arrivals, the array and copy engines, homes,
steals, launches, events taken at a boundary, and stops (R111, R124 to R126, R156 to R172, R223, R242, R279, R286, R292, R329 to R337,
R350 to R353, R397). An event that is not enabled leaves the module as it is. -/
namespace Sys2Proof.Machine

/-! ### Waits (R34, R111, R292) -/

/-- A monitor that has seen a write or lost its line returns its WAITM with that code. -/
def State.monitorWake (s : State) (a : Agent) : State :=
  match (s.hart a).monitor with
  | some m => match m.code with
    | some c => s.waitmEnd a c
    | none => s
  | none => s
def execWaitmWake (ag : Agent) (s : State) : Host.Outcome State Fault Refusal := runEvent (s.monitorWake ag)
def execWaitmLimitExpire (ag : Agent) (s : State) : Host.Outcome State Fault Refusal :=
  runEvent (s.waitmEnd ag ((s.hart ag).waitmSeen 3))
/-- The limit of a wait other than WAITM is over: its instruction traps, or returns, at the agent's next turn. -/
def execWaitLimitExpire (ag : Agent) (s : State) : Host.Outcome State Fault Refusal := runEvent (s.waitLate ag)
def execTlbiComplete (ag : Agent) (s : State) : Host.Outcome State Fault Refusal := runEvent (s.tlbiComplete ag)

/-! ### Remote operations, messages and barriers -/

def execRemoteOpPerform (k : Nat) (s : State) : Host.Outcome State Fault Refusal := runEvent (s.remotePerform k)
def execRemoteReply (k : Nat) (s : State) : Host.Outcome State Fault Refusal := runEvent (s.remoteReply k)
def execMailboxDelivery (k : Nat) (s : State) : Host.Outcome State Fault Refusal := runEvent (s.deliverAt k)
def execBarrierArrival (k : Nat) (s : State) : Host.Outcome State Fault Refusal := runEvent (s.barrierArrival k)

/-! ### The array and copy engines -/

def execArrayInstructionStart (core : Nat) (s : State) : Host.Outcome State Fault Refusal := runEvent (s.arrayStart core)
def execArrayInstructionRetire (core : Nat) (s : State) : Host.Outcome State Fault Refusal := runEvent (s.arrayRetire core 1)
def execReservationGrant (cluster : Nat) (s : State) : Host.Outcome State Fault Refusal := runEvent (s.reservationGrant cluster)
def execPermitRefill (ag : Agent) (s : State) : Host.Outcome State Fault Refusal := runEvent (s.permitRefill ag)
def execEngineCommandStart (core k : Nat) (s : State) : Host.Outcome State Fault Refusal := runEvent (s.engStart core k)
def execEngineCompletion (core k : Nat) (s : State) : Host.Outcome State Fault Refusal := runEvent (s.engComplete core k)

/-! ### Homes and far cores -/

def execHomeCycle (home : Nat) (s : State) : Host.Outcome State Fault Refusal := runEvent (s.homeCycle home)
def execStealGrantDelivery (k : Nat) (s : State) : Host.Outcome State Fault Refusal := runEvent (s.grantDeliver k)
/-- Steal message `k` on its way reaches its home. -/
def execStealRequestArrival (k : Nat) (s : State) : Host.Outcome State Fault Refusal :=
  runEvent (match s.stealMsgs[k]? with
    | some m => ({ s with stealMsgs := dropAt s.stealMsgs k }).stealArrive m
    | none => s)
def execFarTaskTake (core : Nat) (s : State) : Host.Outcome State Fault Refusal := runEvent (s.farTake core)
def execAutoStealWithdraw (core : Nat) (s : State) : Host.Outcome State Fault Refusal := runEvent (s.autoWithdraw core)

/-! ### Launches (R163 to R166, R309, R329) -/

/-- A word of device memory as it stands at its memory-side cache. -/
def State.pointWord (s : State) (pa : Nat) : Word :=
  (getBytes (s.filledMsc (lineOf pa) (sectorsOf (pa % 64) 8)).data (pa % 64) 8).extractLsb' 0 64
/-- The address of record `i` of a partition's pool (DESIGN CHOICE, log entry 8). -/
def State.launchPa (s : State) (part i : Nat) : Nat := mget (fun _ => 0) s.hub.launchBase part + 128 * i
/-- A record that the command processor may take: ARMED, and not of a context that is suspended or being suspended (R164, R361). -/
def State.launchArmed (s : State) (part i : Nat) : Bool :=
  let pa := s.launchPa part i
  let c := bits (s.pointWord (pa + 56)) 5 0
  bits (s.pointWord pa) 3 0 == 1 &&
    match s.ctx c with
    | some x => x.st != .suspended && x.susp.isNone
    | none => true
/-- The hub core that serves a partition is taking no record (R329). -/
def State.launchFree (s : State) (part : Nat) : Bool :=
  s.hub.launches.all fun p => p.2.isNone || p.1 % 4 != part % 4
def Launch.word (l : Launch) (i : Nat) : Word := l.words.getD i 0
def Launch.len (l : Launch) : Nat := bits (l.word 1) 12 0
def Launch.queue (l : Launch) : Nat := bits (l.word 1) 19 16
def Launch.count (l : Launch) : Nat := bits (l.word 1) 47 32
/-- The arm word of a taken record. -/
def Launch.taken (l : Launch) : Word := (l.word 0 &&& ~~~15#64) ||| 2#64
/-- The first reserved field that is not 0 (R309 CAUSE 5). -/
def Launch.reserved (l : Launch) : Bool :=
  let w0 := l.word 0
  let w1 := l.word 1
  bits w0 63 48 != 0 || bits w0 23 4 != 0 || bits w1 63 48 != 0 || bits w1 31 20 != 0 || bits w1 15 13 != 0
    || bits (l.word 7) 63 6 != 0 || (l.words.drop 8).any fun w => w != 0
/-- A compare-and-swap of an arm word at SYSTEM scope (R164). -/
def State.armSwap (s : State) (pa : Nat) (old new : Word) : Res Nat :=
  s.amoM (stackOf pa) pa 8 fun v => if v = old.toNat then some new.toNat else none
/-- A launch that stands in the hub (R166). -/
def State.setLaunch (s : State) (part : Nat) (l : Launch) : State := s.updHub fun h => { h with launches := mput h.launches part (some l) }
def State.dropLaunch (s : State) (part : Nat) : State := s.updHub fun h => { h with launches := mdel h.launches part }
/-- A record ends FAILED, with its notice of kind 4 (R166, R170); it waits for the host where the arm word's line calls for it (R64). -/
def State.launchFail (s : State) (part : Nat) (l : Launch) (cause idx : Nat) (dest : Option Nat) : State :=
  let w := BitVec.ofNat 64 (idx * 2 ^ 32 + cause * 2 ^ 24 + 4)
  match s.armSwap l.pa l.taken w with
  | .wait s => s.setLaunch part { l with failed := some (cause, idx, dest) }
  | r =>
    let s := r.state.dropLaunch part
    match dest, r.isOk with
    | some c, true => s.notice c 0 4 0 l.index (w.zeroExtend 448)
    | _, _ => s
/-- Checks the anchor of task `i`: its physical base, or the cause of a failure (R17, R166). -/
def State.launchCheck (s : State) (hub : Nat) (l : Launch) (x : Context) (i : Nat) : Res (Except Nat Nat) :=
  let b := l.word 2 + BitVec.ofNat 64 i * l.word 3
  if spanBad b l.len then .ok (.error 1) s
  else
    match s.translateFor (.hub hub) (launchKey hub) l.walked.toList (x.rootWord l.ctx) l.ctx false b kAnchor with
    | .wait s => .wait s
    | .trap _ s => .ok (.error 2) s
    | .ok e s =>
      let pa := e.pa b
      let h := homeOf pa
      .ok (if !isDevice pa then .error 1
        else if ((s.home h).queueAt l.queue).ctx ≠ some l.ctx ∨ s.homeLost h then .error 3 else .ok pa) s
/-- Checks the anchors in order from the first that is not checked yet, as far as no translation must wait: the launch with what has been
checked, and the cause and the first failing task (R18, R166). -/
def State.launchChecks (s : State) (hub : Nat) (l : Launch) (x : Context) : Nat → State × Launch × Option (Nat × Nat)
  | 0 => (s, l, none)
  | n + 1 =>
    let i := l.bases.length
    if l.count ≤ i then (s, l, none)
    else match s.launchCheck hub l x i with
      | .ok (.ok pa) s => s.launchChecks hub { l with bases := l.bases ++ [pa] } x n
      | .ok (.error c) s => (s, l, some (c, i))
      | r => (r.state, l, none)
/-- Task `i` of a launch (R166). -/
def Launch.task (l : Launch) (i nv rr : Nat) : Task :=
  let arg1 := l.word 5 + BitVec.ofNat 64 i
  if l.len = 0 then
    { ctx := l.ctx, base := l.word 6, word1 := BitVec.ofNat 64 ((rr + i) % nv) <<< 32, arg0 := l.word 4, arg1 := arg1, entry := l.word 6 }
  else
    let pa := l.bases.getD i 0
    { ctx := l.ctx, anchored := true, home := homeOf pa, queue := l.queue, base := l.word 2 + BitVec.ofNat 64 i * l.word 3
      word1 := BitVec.ofNat 64 (l.len + l.queue * 2 ^ 16), arg0 := l.word 4, arg1 := arg1, pbase := pa }
/-- Appends or delivers the tasks from `next` on while there is room; one whose queue has been unbound is dropped (R151, R166). -/
def State.launchGo (s : State) (hub : Nat) (l : Launch) (x : Context) : Nat → State × Launch
  | 0 => (s, l)
  | n + 1 =>
    if l.count ≤ l.next then (s, l)
    else
      let t := l.task l.next (max 1 x.nv) x.rr
      if t.anchored then
        if ((s.home t.home).queueAt t.queue).ctx ≠ some t.ctx then s.launchGo hub { l with next := l.next + 1 } x n
        else if s.queueRoom t.home t.queue 0 then
          (s.updHome t.home fun h => { h with arrivals := h.arrivals ++ [{ src := 8192 + hub, items := [(t.queue, t)] }] }).launchGo hub
            { l with next := l.next + 1 } x n
        else (s, l)
      else match s.taskDeliver none t.vcore t with
        | .done s => s.launchGo hub { l with next := l.next + 1 } x n
        | .full => (s, l)
/-- A checked launch goes on: its tasks are appended while there is room; after the last the arm word becomes DONE, unless it has been
written again (R164, R166). -/
def State.launchOn (s : State) (part : Nat) (l : Launch) : State :=
  let x := (s.ctx l.ctx).getD {}
  let p := s.launchGo (part % 4) l x (l.count - l.next)
  if p.2.next < l.count then p.1.setLaunch part p.2
  else match p.1.armSwap l.pa l.taken 3 with
    | .wait s => s.setLaunch part p.2
    | r =>
      let s := r.state.dropLaunch part
      if l.len = 0 then s.updCtx l.ctx fun c => { c with rr := (c.rr + l.count) % max 1 c.nv } else s
/-- The sixteen words of a record, acquired at its memory-side cache. -/
def State.recordWords (s : State) (pa : Nat) : Res (List Word) :=
  (s.loadM (stackOf pa) pa 64 kLoad).bind fun v s =>
    (s.loadM (stackOf pa) (pa + 64) 64 kLoad).bind fun w s =>
      .ok ((List.range 8).map (lineWord v) ++ (List.range 8).map (lineWord w)) s
/-- The first reason for which a taken record fails before its anchors are looked at, and the context that gets the notice (R166, R309;
DEDUCED, log entry 26). -/
def State.launchFlaw (s : State) (assigned : Nat) (l : Launch) : Option (Nat × Nat × Option Nat) :=
  if l.reserved then some (5, 0, some assigned)
  else if l.ctx ≠ assigned then some (6, 0, some assigned)
  else match s.ctx l.ctx with
    | none => some (4, 0, none)
    | some x => if x.st = .exited then some (4, 0, none) else none
/-- The tasks of a launch whose anchors are still to be checked. -/
def Launch.unchecked (l : Launch) : Bool := l.len != 0 && decide (l.bases.length < l.count)
/-- A taken record is checked and launched, or fails, as far as it can go now (R166). -/
def State.launchStep (s : State) (part : Nat) (l : Launch) : State :=
  match l.failed with
  | some f => s.launchFail part l f.1 f.2.1 f.2.2
  | none =>
    if !l.unchecked then s.launchOn part l
    else
      let p := s.launchChecks (part % 4) l ((s.ctx l.ctx).getD {}) l.count
      match p.2.2 with
      | some e => p.1.launchFail part p.2.1 e.1 e.2 (some l.ctx)
      | none => if p.2.1.unchecked then p.1.setLaunch part p.2.1 else p.1.launchOn part p.2.1
/-- The command processor takes record `i` of a partition of the mode in force, once the module is up (R329, R386, R421); `assigned` is
the context that the hub has assigned to that index. -/
def State.launchTake (s : State) (part i assigned : Nat) : State :=
  let ptr := mget (fun _ => 0) s.hub.cpPtr part
  if s.hub.partBusy || s.hub.stage != 3 || decide (s.partCount ≤ part) || !s.launchFree part ||
      firstFrom 4096 ptr (s.launchArmed part) != some i then s
  else
    let pa := s.launchPa part i
    let r := (s.recordWords pa).bind fun ws s =>
      let l : Launch := { index := i, pa := pa, ctx := bits (ws.getD 7 0) 5 0, words := ws }
      (s.armSwap pa (l.word 0) l.taken).bind fun old s =>
        let s := s.updHub fun h => { h with cpPtr := mput h.cpPtr part ((i + 1) % 4096) }
        if old = (l.word 0).toNat then
          let l := { l with failed := s.launchFlaw assigned l }
          .ok () ((s.setLaunch part l).launchStep part l)
        else .ok () s
    r.state
def execLaunchTake (part index : Nat) (assigned : Nat) (s : State) : Host.Outcome State Fault Refusal :=
  runEvent (s.launchTake part index assigned)
def execLaunchResume (part : Nat) (s : State) : Host.Outcome State Fault Refusal :=
  runEvent (match mget (fun _ => none) s.hub.launches part with
    | some l => s.launchStep part l
    | none => s)

/-! ### Events at a boundary, and stops (R350, R351, R353) -/

/-- An agent at an instruction boundary takes its pending event. -/
def execTakeEvent (ag : Agent) (s : State) : Host.Outcome State Fault Refusal :=
  runEvent (if (s.hart ag).stopped || !(s.hart ag).active then s else (s.boundary ag).getD s)
/-- A far core stops by order of a supervisor, or for an uncorrectable error; one that lies in the store buffer discards its
entries (R353, R358 kind 12). -/
def State.coreStop (s : State) (core : Nat) (order sbLost : Bool) : State :=
  if (s.hart (.far core)).stopped || !s.coreLive core then s
  else
    let n := (s.far core).sb.length
    let s := if sbLost then (s.updFar core fun f => { f with sb := [] }).log 12 0 0 core 0 n (dieOf core) else s
    s.stopCore core (if order then 0x100 else 0x0E)
def execCoreStop (core : Nat) (order sbLost : Bool) (s : State) : Host.Outcome State Fault Refusal :=
  runEvent (s.coreStop core order sbLost)

end Sys2Proof.Machine
end

