-- ==== Sys2Proof/Machine/MapEvents.lean ====
section
/-! DEFINITION. Commits of the resource map and what follows from them, dies that are lost and rejoin, stopped cores, suspension and
resumption, and partition modes (R71, R126, R130, R354, R359 to R365, R375 to R388, R392). An event that is not enabled leaves the
module as it is. -/
namespace Sys2Proof.Machine

/-! ### Commits (R375, R377, R378, R410) -/

/-- The version of the next commit; it skips 0. -/
def nextVersion (v : BitVec 32) : BitVec 32 := if v + 1 = 0 then 1 else v + 1
/-- RMAP_CHANGE and the grace deadline of a running context whose ACK differs from the version (R363, R378). -/
def State.mapTell (s : State) (c : Nat) : State :=
  match s.ctx c with
  | none => s
  | some x =>
    if x.st = .running ∧ x.ack ≠ s.mapVersion then (x.placed.foldl (fun s p => s.mapEvent p.2) s).startGrace c false else s
/-- The end of a commit whose words have been set: VERSION rises, contexts are told, and MAP is set for the host. -/
def State.commit (s : State) : State :=
  let s := s.setMapWord 0 ((nextVersion s.mapVersion).zeroExtend 64)
  ((List.range 64).foldl (fun s c => s.mapTell c) s).raiseAll 1
def State.setDieWord (s : State) (d o : Nat) (v : Word) : State := s.setMapWord (16 + 16 * d + o) v
def State.setDstate (s : State) (d v : Nat) : State := s.setDieWord d 0 (setBits (s.dieWord d 0) 18 16 v)

/-! ### What a commit brings with it -/

/-- What a commit of a degradation or repair makes of word `o` of a die block: fields that belong to a die's loss and rejoin keep their
value, L2 ways are only taken out of use, memory is only lost (R376), and a value out of a field's range is no map (R374). -/
def mapSet (o : Nat) (old v : Word) : Word :=
  let put := fun (m : Word) => (old &&& ~~~m) ||| (v &&& m)
  match o with
  | 0 => if bits v 39 32 ≤ 100 ∧ bits v 31 24 ≤ 100 then put 0x000000FFFFF00000 else old
  | 1 => put 0x000000000000FFFF &&& (v ||| ~~~0x00000000FFFF0000#64)
  | 2 | 3 | 4 | 5 | 6 => v
  | 7 => old ||| v
  | 9 =>
    if bits v 23 20 ≤ 12 ∧ bits v 19 16 ≤ 8 ∧ 650 ≤ bits v 10 0 ∧ bits v 10 0 ≤ 1500 ∧ bits v 10 0 % 25 = 0 then put 0x0000000000FF07FF
    else old
  | _ => old
/-- The words of a commit are set; word 8 follows from LOSTHOME and KLINKW (R374). -/
def State.setChanges (s : State) (l : List (Nat × Word)) : State :=
  let s := l.foldl (fun s p =>
    if p.1 < 16 ∨ 272 ≤ p.1 then s else s.setMapWord p.1 (mapSet (p.1 % 16) (s.mapWord p.1) p.2)) s
  (List.range 16).foldl (fun s d =>
    let lost := popcount (s.dieWord d 7).toNat 64
    let st := if lost = 64 ∨ bits (s.dieWord d 0) 23 22 = 0 then 2 else if lost = 0 then 0 else 1
    s.setDieWord d 8 (BitVec.ofNat 64 (st * 128 + (64 - lost)))) s
/-- Inserts a task by ascending sequence number. -/
def seqInsert (t : Task) : List Task → List Task
  | [] => [t]
  | x :: l => if seqLe x.seq t.seq then x :: seqInsert t l else t :: x :: l
/-- Unbinds a queue and returns its tasks in ascending sequence (R383, R385). Its numbering goes on for what arrives later (DEDUCED, log
entry 71). -/
def State.unbindReturn (s : State) (h q : Nat) : State :=
  let u := (s.home h).queueAt q
  if u.ctx.isNone then s
  else (u.tasks.foldl (fun l t => seqInsert t l) []).foldl (fun s t => s.returnTask h q t)
    (s.updHome h fun x => x.setQueue q { counter := u.counter })
/-- The near tasks of a home are aborted (R352, R383, R384). -/
def State.abortHome (s : State) (h : Nat) : State := (List.range 2).foldl (fun s c => s.nearAbort h c 0 (s.hart (.near h c)).pc) s
/-- A home's near unit is lost (R383). -/
def State.nearLost (s : State) (h : Nat) : State :=
  (List.range 16).foldl (fun s q => if ((s.home h).queueAt q).t = 255 then s.unbindReturn h q else s) (s.abortHome h)
/-- A home's memory is lost (R384). -/
def State.memoryLost (s : State) (h : Nat) : State :=
  (List.range 16).foldl (fun s q => s.unbindReturn h q) (s.abortHome h)
/-- The highest frequency at or below `f` whose floor holds at a supply, in steps of 25 MHz down to 650. -/
def fitFreq (b : Int) (vdd : Nat) (f : Nat) : Nat → Nat
  | 0 => f
  | n + 1 => if voltFloor f b ≤ vdd ∨ f ≤ 650 then f else fitFreq b vdd (f - 25) n
/-- A cluster above a ceiling moves to it within the commit, to a clock that the bias and the supply allow (R390 to R392). -/
def State.ceilCluster (s : State) (c : Nat) : State :=
  let x := s.cluster c
  let w := s.dieWord (c / 16) 9
  let b : Int := max (-(bits w 23 20 : Int)) (min (bits w 19 16 : Int) x.bias.toInt)
  if x.freq.toNat ≤ bits w 10 0 ∧ b = x.bias.toInt then s
  else
    let top := min x.freq.toNat (if b < 4 then min 1300 (bits w 10 0) else bits w 10 0)
    let f := fitFreq b (s.island (c / 16)).settledVdd top 34
    s.setCluster c { x with freq := BitVec.ofNat 11 f, bias := BitVec.ofInt 5 b, busy := false, oldFreq := BitVec.ofNat 11 f
                            oldBias := BitVec.ofInt 5 b }
/-- The lines of an island L2 that stand in ways taken out of use (which those are is the device's choice), and those that the ways left
cannot hold, the least recently used of their sets (R71). -/
def State.waysLines (s : State) (d old new : Nat) : List Nat :=
  let gone := fun ln => (List.range 16).any fun w => tb old w && !tb new w && Config.inWay d w ln
  let set := fun ln => Config.cacheSet 2 ln % 65536
  ((s.island d).l2.foldl (fun (acc : List Nat × List Nat) p =>
    if gone p.1 || decide (popcount new 16 ≤ (acc.1.filter fun x => set x == set p.1).length) then (acc.1, acc.2 ++ [p.1])
    else (acc.1 ++ [p.1], acc.2)) ([], [])).2
/-- Before ways of an island L2 are removed their lines are written back, once the host lets them (R64), and leave (R71, R111). -/
def State.waysOut (s : State) (d : Nat) (new : Word) : Res Unit :=
  let was := bits (s.dieWord d 1) 31 16
  if was = bits new 31 16 then .ok () s
  else (s.waysLines d was (bits new 31 16)).foldl (fun (r : Res Unit) ln =>
    r.bind fun _ s => (s.cleanTry d ln true).bind fun _ s => .ok () (s.wake false ln 2)) (.ok () s)
/-- Homes whose bit of a die word is 1 in `a` and 0 in `b`. -/
def homesOf (d : Nat) (a b : Word) : List Nat := ((List.range 64).filter fun p => tb a.toNat p && !tb b.toNat p).map fun p => 64 * d + p
/-- MAP_COMMIT (R375, R376): the words change, and near units, homes, clocks and L2 ways follow. A list that changes no word is no
commit. -/
def State.mapCommit (s : State) (l : List (Nat × Word)) : State :=
  let t := s.setChanges l
  let dies := List.range 16
  if t.hub.rmap = s.hub.rmap || dies.all fun d => (List.range 16).all fun o => t.dieWord d o == s.dieWord d o then s
  else
    match dies.foldl (fun (r : Res Unit) d => r.bind fun _ s => s.waysOut d (t.dieWord d 1)) (.ok () s) with
    | .ok _ u =>
      let near := dies.flatMap fun d => homesOf d (s.dieWord d 6) (t.dieWord d 6)
      let lost := dies.flatMap fun d => homesOf d (t.dieWord d 7) (s.dieWord d 7)
      let s := (u.setChanges l).commit
      let s := near.foldl (fun s h => s.nearLost h) s
      let s := lost.foldl (fun s h => s.memoryLost h) s
      (List.range 256).foldl (fun s c => s.ceilCluster c) s
    | r => r.state
def execMapCommit (changes : List (Nat × Word)) (s : State) : Host.Outcome State Fault Refusal := runEvent (s.mapCommit changes)
/-- The grace deadline of a context passes (R380). -/
def State.graceExpire (s : State) (c : Nat) : State :=
  match s.ctx c with
  | some x => if x.pend ∧ x.deadline ≤ s.time then s.requestSuspend c 3 else s
  | none => s
def execMapGraceExpire (ctx : Nat) (s : State) : Host.Outcome State Fault Refusal := runEvent (s.graceExpire ctx)
def execCtxMapackWrite (ctx : Nat) (v : Word) (s : State) : Host.Outcome State Fault Refusal :=
  runWrite s (s.mapackWrite ctx (v.extractLsb' 0 32))

/-! ### Vcores whose state is lost or moves (R354, R355, R381) -/

/-- The tasks that a core holds and that its homes count as running no longer run. -/
def State.tasksLost (s : State) (core : Nat) : State :=
  let f := s.far core
  (f.task.toList ++ f.coreQ ++ f.grantHold).foldl (fun s t => s.taskDone t) s
/-- The notice of kind 6 for a vcore whose state, as it was, is lost (R355). It goes out once the vcore is off its core. -/
def State.faultNotice (s : State) (c : Nat) (f : Far) : State :=
  let msgs := (f.mail.map fun p => p.2.slots.length).sum + f.held.length
  let run : BitVec 256 := match f.task with | some t => t.record | none => 0
  let body : BitVec 448 := (0 : BitVec 64) ++ BitVec.ofNat 64 (f.coreQ.length + f.grantHold.length) ++ BitVec.ofNat 64 f.stopCause ++ run
  s.notice c 0 6 f.vcore.toNat msgs body
/-- A vcore's state goes: its tasks no longer run, its steal requests are withdrawn, and it is off its core. -/
def State.dropVcore (s : State) (core : Nat) : State := ((s.tasksLost core).stealsOut core).unplace (s.coreCtx core) core none
/-- A vcore of a die that is reset becomes unplaced without its state (R381). -/
def State.loseVcore (s : State) (core : Nat) : State :=
  let f := s.far core
  let c := s.coreCtx core
  if !f.placed then s
  else (s.dropVcore core).updHub fun h =>
    { h with fallen := h.fallen ++ [{ core := core, ctx := c, vcore := f.vcore.toNat, dom1 := f.dom1, dom2 := f.dom2, dom3 := f.dom3 }] }
/-- What a supervisor can read of a stopped core: everything, once what was in flight has ended (R113, R354). Granted tasks on their way
to the core are given back (R381); entries that stand higher up go with a vcore that leaves (R160). -/
def State.readVcore (s : State) (core : Nat) (away : Bool) : State × Option Saved :=
  let s := s.stealsOut core
  let s := (s.grants.filter fun g => g.core == core).foldl (fun s g => s.grantBack g.tasks)
    { s with grants := s.grants.filter fun g => g.core != core }
  match s.quiesce core with
  | (s, false) => (s, none)
  | (s, true) =>
    let q := if away then s.queuesIn core else (s, [], [])
    (q.1, some { hart := { q.1.hart (.far core) with stopped := false }, far := q.1.far core, clusterQ := q.2.1, dieQ := q.2.2 })
/-- A vcore that starts anew under R354. -/
def State.freshVcore (s : State) (core : Nat) : Saved :=
  let c := s.coreCtx core
  let f := s.far core
  ((s.ctx c).getD {}).fresh c f.dom1 f.dom2 f.dom3
/-- The notice of kind 7: the map version after the action. -/
def State.keptNotice (s : State) (c v core : Nat) : State := s.notice c v 7 v core (s.mapVersion.zeroExtend 448)
/-- Sets or clears a core's bit in the live mask. -/
def State.setLive (s : State) (core : Nat) (live : Bool) : State :=
  let d := dieOf core
  let o := 2 + core % 256 / 64
  let b : Word := 1#64 <<< (core % 64)
  s.setDieWord d o (if live then s.dieWord d o ||| b else s.dieWord d o &&& ~~~b)
/-- A vcore goes from one core to another, or to the same, with the state read, or anew; the tasks and messages of lost state are gone. -/
def State.moveVcore (s : State) (core target : Nat) (sv : Option Saved) : State :=
  let c := s.coreCtx core
  let f := s.far core
  let v := f.vcore.toNat
  match sv with
  | some sv => (((s.unplace c core none).placeVcore c v target sv).keptNotice c v target).mapNew c target
  | none =>
    let sv := s.freshVcore core
    (((s.dropVcore core).placeVcore c v target sv).faultNotice c f).mapNew c target
/-- The live mask loses the stopped core, and the vcore goes to a target: nothing happens while state that is to be read is not at
rest. `back` tells that the core has been tested and returns to the mask (R354). -/
def State.takeCore (s : State) (core target : Nat) (readable back : Bool) : State :=
  let p := if readable && (s.far core).placed then s.readVcore core (core != target) else (s, none)
  if readable && (s.far core).placed && p.2.isNone then p.1
  else
    let s := (p.1.setLive core false).commit
    let s := if back then ((s.setLive core true).commit).updHart (.far core) fun h => { h with stopped := false } else s
    if (s.far core).placed then s.moveVcore core target p.2
    else if back then s.updFar core fun f => { f with stopCause := 0 }
    else s
/-- A core whose vcore ends with its context (R413). -/
def State.coreEnds (s : State) (core : Nat) : Bool :=
  (s.far core).placed && match s.ctx (s.coreCtx core) with | some x => x.st == .exiting | none => false
/-- SUPERVISOR_REPAIR (R354): the core leaves the live mask, is reset and tested, and returns; its vcore goes on there
(DEDUCED, log entry 29). -/
def State.repair (s : State) (core : Nat) (readable : Bool) : State :=
  if (s.hart (.far core)).stopped && !s.coreEnds core then s.takeCore core core readable true else s
def execSupervisorRepair (core : Nat) (readable : Bool) (s : State) : Host.Outcome State Fault Refusal :=
  runEvent (s.repair core readable)
/-- A live and free core of a context's partition that is to take a vcore from another core. -/
def State.spareFor (s : State) (ctx core target : Nat) : Bool :=
  s.coreLive target && !(s.far target).placed && !(s.hart (.far target)).stopped && target != core
    && match s.ctx ctx with | some x => s.partOfDie (dieOf target) == x.part | none => false
/-- A vcore that its die's reset has taken off a core starts anew on another (R354, R381). One whose context does not run now stays without a
core. -/
def State.raiseFallen (s : State) (w : Fallen) (target : Nat) : State :=
  match s.ctx w.ctx with
  | some x =>
    if x.st = .running ∧ (s.placedOn w.ctx w.vcore).isNone then
      ((s.updHub fun h => { h with fallen := h.fallen.filter fun x => x != w }).placeVcore w.ctx w.vcore target
        (x.fresh w.ctx w.dom1 w.dom2 w.dom3)).mapNew w.ctx target
    else s
  | none => s
/-- SUPERVISOR_REPLACE (R354, R381): the vcore of a stopped core, of a core of an isolated die, or of one whose die was reset, goes to
another live and free core of its context's partition. -/
def State.replaceVcore (s : State) (core target : Nat) (readable : Bool) : State :=
  if (s.far core).placed then
    if !s.spareFor (s.coreCtx core) core target || s.coreEnds core then s
    else if (s.hart (.far core)).stopped then s.takeCore core target readable false
    else if s.dstate (dieOf core) = 1 then (s.stopCore core 0x100).takeCore core target readable false
    else s
  else match s.hub.fallen.find? fun w => w.core == core && s.spareFor w.ctx core target with
    | some w => s.raiseFallen w target
    | none => s
def execSupervisorReplace (core target : Nat) (readable : Bool) (s : State) : Host.Outcome State Fault Refusal :=
  runEvent (s.replaceVcore core target readable)

/-! ### Dies (R126, R130, R365, R382, R411) -/

/-- A host request completes with an error status (R130, R411): a read with all ones, a snoop as a miss, a write dropped. A recall of the
hub's own has no one to answer. -/
def State.hostError (s : State) (d : Nat) (r : HostReq) : State :=
  let fail := fun (cls pa : Nat) (answer : HostMsg) =>
    ({ s with toHost := s.toHost ++ [answer, HostMsg.internalError (s.partOfDie d)] }).log 13 0 5 0 pa (d * 256 + cls) d
  match r with
  | .read pa n => fail 1 pa (.readData pa n (2 ^ (8 * n) - 1))
  | .write pa _ => fail 2 pa (.error r)
  | .snoop ln _ => fail 3 (64 * ln) (.snoopResp ln none)
  | .recall .. => s
/-- Every held request of a die ends with an error status. -/
def State.heldError (s : State) (d : Nat) : State :=
  (s.island d).heldReqs.foldl (fun s r => s.hostError d r) (s.updIsland d fun x => { x with heldReqs := [] })
/-- Barrier counters of a die that is reset: its own are lost, and its cores' arrivals at level 3 are withdrawn, each with a notice
of kind 8 (R365). -/
def State.barsReset (s : State) (d : Nat) : State :=
  let tell := fun (s : State) (b : Bar) (left : Nat) => s.notice b.ctx 0 8 0 (b.lvl * 256 + b.id) (BitVec.ofNat 448 left)
  let own := (s.island d).bars ++ (List.range 16).flatMap fun k => (s.cluster (16 * d + k)).bars
  let s := own.foldl (fun s b => tell s b 0) s
  let cut := fun (b : Bar) => { b with cores := b.cores.filter fun c => dieOf c != d, comp := b.comp.filter fun c => dieOf c != d }
  let hit := s.hub.bars.filter fun b => b.cores.any fun c => dieOf c == d
  let s := hit.foldl (fun s b => tell s b (cut b).cores.length) s
  { s.updHub fun h => { h with bars := (h.bars.map cut).filter fun b => !b.cores.isEmpty } with
    barMsgs := s.barMsgs.filter fun m => dieOf m.core != d }
/-- Lines that only a die's caches held dirty are lost, each with a record of kind 6 (R130). -/
def State.linesLost (s : State) (d : Nat) : State :=
  let l2 := ((s.island d).l2.filter fun p => p.2.dirty != 0).map (·.1)
  let l1 := (s.fars.filter fun p => dieOf p.1 == d).flatMap fun p => (p.2.l1d.filter fun q => q.2.dirty != 0).map (·.1)
  (uniq (l2 ++ l1)).foldl (fun s ln => s.log 6 0 4 d (64 * ln) d d) s
/-- A die is reset (R130, R381): its vcores lose their state, its caches and queues are gone, and every unit of it is at its reset
values; it keeps its copy of the incarnations (DEDUCED, log entry 28). From the commit on its vcores count as unplaced. What its cores have
sent is still on its way, and is dropped where it arrives (R126). -/
def State.dieReset (s : State) (d : Nat) : State :=
  let s := ((s.heldError d).linesLost d).setDstate d 2 |>.commit
  let cores := (List.range 256).map fun i => 256 * d + i
  let lost := cores.filterMap fun c => if (s.far c).placed then some (s.coreCtx c, s.far c) else none
  let s := cores.foldl (fun s c => s.loseVcore c) s
  let s := (s.remotesLost d false).barsReset d
  let s := ((s.island d).queue ++ (List.range 16).flatMap fun k => (s.cluster (16 * d + k)).queue).foldl (fun s t => s.taskDone t) s
  let here := fun k => decide (k < 4096) && dieOf k == d
  let s := { s with
    harts := mfilter (fun k _ => !here k) s.harts
    fars := mfilter (fun k _ => !here k) s.fars
    clusters := mfilter (fun k _ => k / 16 != d) s.clusters
    islands := mput s.islands d { incCopy := (s.island d).incCopy }
    hostReqs := s.hostReqs.filter fun r => r.write.isSome || !(here r.src || (16384 ≤ r.src && dieOf (r.src - 16384) == d))
    bad := s.bad.filter fun x => !((x.unit == 1 || x.unit == 2 || x.unit == 6) && dieOf x.own == d) && !(x.unit == 3 && x.own == d) }
  lost.foldl (fun s p => s.faultNotice p.1 p.2) s
def execHeartbeatMissing (die : Nat) (s : State) : Host.Outcome State Fault Refusal :=
  runEvent (if s.dstate die = 0 ∨ s.dstate die = 1 then s.dieReset die else s)
/-- A die is isolated after its link has failed; what is in flight over it is lost (R128, R130). -/
def State.isolate (s : State) (d : Nat) : State := (((s.heldError d).setDstate d 1).commit).remotesLost d true
/-- The round-robin pointers of a die's units are 0 (R328, R382). -/
def State.pointersZero (s : State) (d : Nat) : State :=
  { s.updIsland d fun x => { x with walkPtr := 0, walkNear := 0, blkPtr := 0 } with
    clusters := mmap (fun k x => if k / 16 = d then { x with blkPtr := 0, arbPtr := 0 } else x) s.clusters
    fars := mmap (fun k x => if dieOf k = d then { x with mailPtr := 0, stealPtr := 0 } else x) s.fars }
/-- DIE_REJOIN (R126, R382): a reset die comes back with a new incarnation and the masks of its self-test, or is retired. -/
def State.rejoin (s : State) (d : Nat) (ways cl : BitVec 16) (core : BitVec 256) : State :=
  if s.dstate d ≠ 2 then s
  else if s.incOf d = 0xFFFF then (s.setDstate d 3).commit
  else
    let inc := s.incOf d + 1
    let s := (List.range 16).foldl (fun s k =>
      (s.updStack k fun x => { x with incCopy := mput x.incCopy d inc }).updIsland k fun x => { x with incCopy := mput x.incCopy d inc }) s
    let s := s.pointersZero d
    let s := s.setDieWord d 0 (setBits (setBits (s.dieWord d 0) 18 16 0) 15 0 inc.toNat)
    let s := s.setDieWord d 1 (setBits (setBits (s.dieWord d 1) 31 16 ways.toNat) 15 0 cl.toNat)
    ((List.range 4).foldl (fun s k => s.setDieWord d (2 + k) (core.extractLsb' (64 * k) 64)) s).commit
def execDieRejoin (die : Nat) (l2ways livecl : BitVec 16) (livecore : BitVec 256) (s : State) : Host.Outcome State Fault Refusal :=
  runEvent (if die < 16 then s.rejoin die l2ways livecl livecore else s)

/-! ### Suspension and resumption (R361 to R365) -/

/-- The near contexts that run a task of a context. -/
def State.nearTasks (s : State) (c : Nat) : List (Nat × Nat) :=
  (s.nears.filter fun p => match p.2.task with | some t => t.ctx == c | none => false).map fun p => (p.1 / 2, p.1 % 2)
/-- The deadline of a suspension (R361): vcores not yet saved are saved in full, and near tasks still running are aborted
(DEDUCED, log entry 35). -/
def State.suspendDeadline (s : State) (c : Nat) : State :=
  match s.ctx c with
  | none => s
  | some x =>
    match x.susp with
    | none => s
    | some u =>
      if s.time < u.deadline then s
      else
        let s := x.placed.foldl (fun s p => if (s.hart (.far p.2)).stopped then s else (s.saveVcore p.2 .full).1) s
        (s.nearTasks c).foldl (fun s n => s.nearAbort n.1 n.2 0 (s.hart (.near n.1 n.2)).pc) s
def execSuspendDeadline (ctx : Nat) (s : State) : Host.Outcome State Fault Refusal := runEvent (s.suspendDeadline ctx)
/-- The counters of a context leave their units with the number of the unit (R365). -/
def State.barsOut (s : State) (c : Nat) : State × List (Nat × Bar) :=
  let mine := fun (b : Bar) => b.ctx == c
  let l := (s.clusters.flatMap fun p => (p.2.bars.filter mine).map fun b => (p.1, b))
    ++ (s.islands.flatMap fun p => (p.2.bars.filter mine).map fun b => (p.1, b)) ++ (s.hub.bars.filter mine).map fun b => (0, b)
  ({ s with
      clusters := mmap (fun _ x => { x with bars := x.bars.filter fun b => !mine b }) s.clusters
      islands := mmap (fun _ x => { x with bars := x.bars.filter fun b => !mine b }) s.islands
      hub := { s.hub with bars := s.hub.bars.filter fun b => !mine b } }, l)
/-- Counters return to the unit of their level and domain. -/
def State.barsIn (s : State) (l : List (Nat × Bar)) : State :=
  l.foldl (fun s p =>
    if p.2.lvl = 1 then s.updCluster p.1 fun x => { x with bars := x.bars ++ [p.2] }
    else if p.2.lvl = 2 then s.updIsland p.1 fun x => { x with bars := x.bars ++ [p.2] }
    else s.updHub fun h => { h with bars := h.bars ++ [p.2] }) s
/-- SUSPENSION_COMPLETE (R361 step 5). -/
def State.suspensionDone (s : State) (c : Nat) : State :=
  match s.ctx c with
  | none => s
  | some x =>
    if x.st ≠ .running ∨ x.susp.isNone ∨ !x.placed.isEmpty ∨ !(s.nearTasks c).isEmpty then s
    else
      let p := s.barsOut c
      p.1.updCtx c fun x => { x with st := .suspended, susp := none, bars := p.2 }
def execSuspensionComplete (ctx : Nat) (s : State) : Host.Outcome State Fault Refusal := runEvent (s.suspensionDone ctx)
/-- A core that can take a vcore of a partition (R359, R413). -/
def State.coreFree (s : State) (part core : Nat) : Bool :=
  decide (core < 4096) && s.coreLive core && !(s.far core).placed && !(s.hart (.far core)).stopped && s.partOfDie (dieOf core) == part
/-- Whether a suspended context may resume now: its partition holds it, it fitted at the last mode change, and after a suspension for
reason 3 S has written its CTX_MAPACK (R363, R380, R388). -/
def State.mayResume (s : State) (x : Context) : Bool :=
  x.st == .suspended && decide (x.part < s.partCount) && !x.noFit && !x.hold && !s.hub.partBusy
/-- CONTEXT_RESUME (R363): the saved vcores are placed, in ascending order, on the cores named. Where the map version differs from ACK,
RMAP_CHANGE is pending at each, and the grace deadline starts now (R378). -/
def State.resume (s : State) (c : Nat) (cores : List Nat) : State :=
  match s.ctx c with
  | none => s
  | some x =>
    let saved := x.saved.filterMap fun p => p.2.map fun sv => (p.1, sv)
    if !s.mayResume x || cores.length != saved.length || (uniq cores).length != cores.length || !cores.all (s.coreFree x.part) then s
    else
      let s := s.updCtx c fun x => { x with st := .running, suspReason := 0, bars := [] }
      let s := (saved.zip cores).foldl (fun s p => s.placeVcore c p.1.1 p.2 p.1.2) s
      let s := s.barsIn x.bars
      if x.ack = s.mapVersion then s else ((saved.zip cores).foldl (fun s p => s.mapEvent p.2) s).startGrace c true
def execContextResume (ctx : Nat) (cores : List Nat) (s : State) : Host.Outcome State Fault Refusal := runEvent (s.resume ctx cores)

/-! ### Partition modes (R386 to R388) -/

def execPartModeWrite (v : Word) (s : State) : Host.Outcome State Fault Refusal := runWrite s (s.partModeWrite v)
/-- Every context is quiet (R388 step 3). -/
def State.allQuiet (s : State) : Bool :=
  s.ctxs.all (fun p => match p.2 with
    | some x => x.st == .suspended || x.st == .created || x.st == .exited
    | none => true) && s.nears.all fun p => p.2.task.isNone
/-- Whether a context does not fit the mode (R388 step 5). -/
def State.unfit (s : State) (x : Context) : Bool :=
  (x.st == .suspended || x.st == .created) && !(decide (x.part < s.partCount) && decide (x.nv ≤ (s.partCores x.part).length))
/-- The contexts that do not fit. -/
def State.noFit (s : State) : Word :=
  BitVec.ofNat 64 (((List.range 64).filter fun c => match s.ctx c with | some x => s.unfit x | none => false).map (2 ^ ·)).sum
/-- Every context keeps whether it fits. -/
def State.noteFit (s : State) : State :=
  { s with ctxs := mmap (fun _ o => o.map fun x => { x with noFit := s.unfit x }) s.ctxs }
/-- PART_MODE_APPLY (R388 steps 4 and 5; DEDUCED, log entry 30). -/
def State.partModeApply (s : State) : State :=
  if !s.hub.partBusy || !s.allQuiet then s
  else
    let old := s.partCount
    let r := s.hub.partReq.toNat
    let s := s.setMapWord 1 (BitVec.ofNat 64 (r * 2 ^ 32 + (bits (s.mapWord 1) 31 0 + 1) % 2 ^ 32))
    let s := s.setMapWord 2 (BitVec.ofNat 64 ((List.range 16).map fun d => d * 2 ^ r / 16 * 16 ^ d).sum)
    let s := s.commit
    let s := (List.range (max old s.partCount)).foldl (fun s fn => s.updHub fun h => { h with notice := mdel h.notice fn }) s
    (s.noteFit.updHub fun h => { h with nofit := s.noFit, partBusy := false }).raiseAll 0
def execPartModeApply (s : State) : Host.Outcome State Fault Refusal := runEvent s.partModeApply

/-! ### Power gating (R71) -/

/-- The array of a power-gated core: its contents are not kept (DESIGN CHOICE, log entry 3). -/
def gatedRows (t : Nat) : FMap (BitVec 256) :=
  ((List.range 32768).map fun r => (r, Config.freeRow t r)).filter fun p => p.2 != 0
/-- CORE_POWER_GATE: a core without a vcore writes back its L1D, and keeps neither its caches nor its array (R71, R359). -/
def State.powerGate (s : State) (core : Nat) : State :=
  if (s.far core).placed then s
  else
    let s := (s.far core).l1d.foldl (fun s p => s.l1Clean core p.1 true) s
    let s := { s with bad := s.bad.filter fun x => !((x.unit == 1 || x.unit == 2 || x.unit == 6) && x.own == core) }
    (s.updFar core fun f => { f with l1i := [], arr := { f.arr with rows := gatedRows s.ticks } }).tick
def execCorePowerGate (core : Nat) (s : State) : Host.Outcome State Fault Refusal := runEvent (s.powerGate core)

end Sys2Proof.Machine
end

