-- ==== Sys2Proof/Machine/HostEvents.lean ====
section
/-! DEFINITION. The host: CXL.mem requests, snoops, back-invalidation and its answers, the hub links of the dies, HOST_NOTICE and the
measurements (R64, R65, R98, R129, R130, R268, R408 to R411, R417). An event that is not enabled leaves the module as it is. -/
namespace Sys2Proof.Machine

/-! ### Requests performed (R64, R65, R408) -/

/-- The line that a host access displaces at the memory-side cache, where another copy of the host's keeps it there (R64). -/
def State.hostVictim (s : State) (ln : Nat) : Option Nat := (s.mscVictim ln).filter fun v => (s.mscAt v).host
/-- An error that cannot be corrected adds a record only: a host access has no agent that traps (R356), and nothing is poisoned (R131).
Each of a line's two sectors may have one. -/
def State.hostCheck (s : State) (ln : Nat) (need : BitVec 2) : State :=
  let s := (s.checkMsc ln need 0xFF).state
  (s.checkMsc ln need 0xFF).state
/-- A CXL.mem read of `n` bytes of one line, performed at its memory-side cache with the island's dirty copies written back; a
read of the whole line gives the host a cached copy, which the directory records (R65; DEDUCED, log entry 31). -/
def State.hostRead (s : State) (pa n : Nat) : Res Unit :=
  let ln := lineOf pa
  let need := sectorsOf (pa % 64) n
  let send := fun (s : State) (v : Nat) => { s with toHost := s.toHost ++ [.readData pa n v] }
  if s.homeLost (homeOf pa) then .ok () (send (s.log 1 5 3 (stackOf pa) pa 0xFF (stackOf pa)) (memRead s.mem pa n))
  else
    (s.cleanTry (stackOf pa) ln false).bind fun _ s =>
      (if n = 64 then s.dirRoom ln else .ok () s).bind fun _ s =>
        match s.hostVictim ln with
        | some v => .wait (s.backInvalidate v)
        | none =>
          let s := ((s.hostCheck ln need).mscMake ln).flushTouch pa n need
          let l := s.filledMsc ln need
          let s := s.coverFresh 4 (lineStack ln) ln (s.mscMiss ln need)
          let s := s.setMsc ln (if n = 64 then { l with host := true, shared := false } else l)
          .ok () (send (if n = 64 then s.dirPut ln else s) (getBytes l.data (pa % 64) n).toNat)
/-- A CXL.mem write within one line, performed at its memory-side cache with every island copy written back and invalidated. -/
def State.hostWrite (s : State) (pa : Nat) (data : List Byte) : Res Unit :=
  let ln := lineOf pa
  let n := data.length
  let part := sectorsOf (pa % 64) n &&& ~~~sectorsCovered (pa % 64) n
  let v : Nat := data.foldr (fun b acc => b.toNat + 256 * acc) 0
  let send := fun (s : State) => { s with toHost := s.toHost ++ [.writeDone pa] }
  (s.cleanTry (stackOf pa) ln true).bind fun _ s =>
    if s.homeLost (homeOf pa) then .ok () (send ((s.wake false ln 1).log 1 5 3 (stackOf pa) pa 0xFF (stackOf pa)))
    else match s.hostVictim ln with
      | some v => .wait (s.backInvalidate v)
      | none =>
        let s := (((s.wake false ln 1).hostCheck ln part).mscMake ln).flushTouch pa n part
        let s := s.coverFresh 4 (lineStack ln) ln (s.mscMiss ln part ||| sectorsCovered (pa % 64) n)
        .ok () (send ((s.setMsc ln (s.writtenMsc pa n (BitVec.ofNat 512 v))).wake true ln 1))
/-- A snoop of a host line in one island that holds it (R65): its dirty sectors go to the host in the answer, the device's ownership
ends, and an invalidating snoop drops the copies. -/
def State.snoopIsland (s : State) (d ln : Nat) (kind : SnoopKind) : State :=
  let inv := kind == .invalidate
  let s := s.l1CleanAll d ln inv
  let u := s.l2At d ln
  let s := s.errorOut 3 d ln u.dirty none
  let s := if inv then (s.updIsland d fun x => { x with l2 := mdel x.l2 ln }).wake false ln 1
    else if mhas (s.island d).l2 ln then s.setL2 d ln { u with dirty := 0, owned := false } else s
  { s with toHost := s.toHost ++ [.snoopResp ln (if u.dirty = 0 then none else some (u.data, u.dirty))] }
/-- A host request reaches its die, which is live and awake. -/
def State.hostPerform (s : State) (d : Nat) (r : HostReq) : Res Unit :=
  match r with
  | .read pa n => s.hostRead pa n
  | .write pa data => s.hostWrite pa data
  | .snoop ln kind => .ok () (s.snoopIsland d ln kind)
  | .recall ln drop => .ok () (s.recallLine d ln drop)
/-- The line that a host request names. -/
def HostReq.line : HostReq → Nat
  | .read pa _ => lineOf pa
  | .write pa _ => lineOf pa
  | .snoop ln _ => ln
  | .recall ln _ => ln
/-- A request joins those that a die's link holds, and wakes the link. -/
def State.holdReq (s : State) (d : Nat) (r : HostReq) : State :=
  s.updIsland d fun x => { x with heldReqs := x.heldReqs ++ [r], linkWaking := x.linkWaking || x.linkLow }
/-- A host request goes on, or is held: behind an earlier one to its line (R408), or while it waits for the host (R64). -/
def State.hostTry (s : State) (d : Nat) (r : HostReq) : State :=
  if (s.island d).heldReqs.any fun q => q.line == r.line then s.holdReq d r
  else match s.hostPerform d r with
    | .ok _ s => s
    | q => q.state.holdReq d r
/-- A host request for a die: held while its link wakes, answered with an error status while the die is out of reach (R129, R130).
Before STAGE is 3 it is held (R421). -/
def State.hostRequest (s : State) (d : Nat) (r : HostReq) : State :=
  if s.hub.stage ≠ 3 then s.holdReq d r
  else if s.dstate d ≠ 0 then s.hostError d r
  else if s.linkBusy d then s.holdReq d r
  else s.hostTry d r
/-- Held requests of a die proceed in order, as far as they can; those for a die out of reach are answered with an error status (R411). -/
def State.heldGo (s : State) (d : Nat) : State :=
  if (s.island d).heldReqs.isEmpty || s.hub.stage != 3 then s
  else if s.dstate d ≠ 0 then s.heldError d
  else if s.linkBusy d then s
  else (s.island d).heldReqs.foldl (fun s r => s.hostTry d r) (s.updIsland d fun x => { x with heldReqs := [] })
/-- What the host has answered lets held requests of every die go on. -/
def State.heldAll (s : State) : State := (List.range 16).foldl (fun s d => s.heldGo d) s

/-- HOST_MEM_READ: one request names bytes of one line (DEDUCED, log entry 31). -/
def execHostMemRead (pa n : Nat) (s : State) : Host.Outcome State Fault Refusal :=
  if !isDevice pa then .fault .noSuchAddress
  else runEvent (if n = 0 ∨ 64 < pa % 64 + n then s else s.hostRequest (stackOf pa) (.read pa n))
def execHostMemWrite (pa : Nat) (data : List Byte) (s : State) : Host.Outcome State Fault Refusal :=
  if !isDevice pa then .fault .noSuchAddress
  else runEvent (if data.isEmpty ∨ 64 < pa % 64 + data.length then s else s.hostRequest (stackOf pa) (.write pa data))
/-- HOST_SNOOP: the islands that hold the line, or a miss (R65). -/
def State.hostSnoop (s : State) (ln : Nat) (kind : SnoopKind) : State :=
  if !lineHost ln then s
  else
    let dies := (List.range 16).filter fun d => s.islandHolds d ln
    if dies.isEmpty then { s with toHost := s.toHost ++ [.snoopResp ln none] }
    else dies.foldl (fun s d => s.hostRequest d (.snoop ln kind)) s
def execHostSnoop (line : Nat) (kind : SnoopKind) (s : State) : Host.Outcome State Fault Refusal := runEvent (s.hostSnoop line kind)

/-! ### Links (R129, R130) -/

/-- The link of a die comes up; what was held for it proceeds in order. -/
def State.linkUp (s : State) (d : Nat) : State :=
  (s.updIsland d fun x => { x with linkLow := false, linkWaking := false, attempts := 0 }).heldGo d
def execLinkWake (die : Nat) (s : State) : Host.Outcome State Fault Refusal :=
  runEvent (if (s.island die).linkLow && s.dstate die == 0 then s.linkUp die else s)
/-- LINK_RETRAIN: an attempt on a link that has not woken succeeds, or fails; the third failure isolates the die. -/
def State.retrain (s : State) (d : Nat) (ok : Bool) : State :=
  let x := s.island d
  if !x.linkWaking || s.dstate d != 0 then s
  else if ok then s.linkUp d
  else if x.attempts < 2 then s.setIsland d { x with attempts := x.attempts + 1 }
  else (s.setIsland d { x with attempts := 0, linkWaking := false, linkLow := false }).isolate d
def execLinkRetrain (die : Nat) (ok : Bool) (s : State) : Host.Outcome State Fault Refusal := runEvent (s.retrain die ok)
def execLinkLowPowerEntry (die : Nat) (s : State) : Host.Outcome State Fault Refusal :=
  runEvent (if s.dstate die = 0 ∧ !(s.island die).linkWaking then s.updIsland die fun x => { x with linkLow := true } else s)

/-! ### Answers of the host (R64, R65, R268) -/

/-- Data that the host had changed come back: a host write of the whole line. -/
def State.hostBack (s : State) (ln : Nat) (v : BitVec 512) : State :=
  let s := s.islandClean (lineStack ln) ln true
  if s.homeLost (homeOf (64 * ln)) then s.log 1 5 3 (lineStack ln) (64 * ln) 0xFF (lineStack ln)
  else
    let s := (s.flushFor (64 * ln) 64).coverFresh 4 (lineStack ln) ln 3
    ((s.setMsc ln { s.mscAt ln with data := v, valid := 3, dirty := 3 }).wake false ln 1).wake true ln 1
/-- HOST_BI_RESPONSE: the host answers what it was asked for a line, with its data where it had changed them. It gives the line up; asked
only for a write-back, it may `keep` a shared copy (R64; DEDUCED, log entry 41). -/
def State.biResponse (s : State) (ln : Nat) (keep : Bool) (data : Option (BitVec 512)) : State :=
  let asked := fun (m : HostMsg) => s.toHost.any fun x => x == m
  let read := asked (.backRead ln)
  if if keep then !read else !(read || asked (.backInvalidate ln)) then s
  else
    let s := { s with toHost := s.toHost.filter fun m => m != HostMsg.backRead ln && (keep || m != HostMsg.backInvalidate ln) }
    let s := s.setMsc ln { s.mscAt ln with host := keep, shared := keep }
    (match data with
      | none => s
      | some v => s.hostBack ln v).heldAll
def execHostBiResponse (line : Nat) (data : BiAnswer) (s : State) : Host.Outcome State Fault Refusal :=
  runEvent (s.biResponse line data.keep data.data)
/-- The host's answer enters an island L2: the sectors asked for that it still lacks, or the line's ownership (R54, R65). The directory
records the line. -/
def State.hostFill (s : State) (r : HostAcc) (data : BitVec 512) : Res Unit :=
  let d := dieOf r.src
  let ln := lineOf r.pa
  (s.hostElsewhere d ln r.own).bind fun _ s =>
    if s.lineWriting ln then .wait s
    else (s.l2Room d ln).bind fun _ s =>
      (s.dirRoom ln).bind fun _ s =>
        let u := s.l2At d ln
        let miss := r.need &&& ~~~u.valid
        let s := (s.coverFresh 3 d ln miss).setL2 d ln
          { u with data := mergeSectors u.data data miss, valid := u.valid ||| miss, owned := u.owned || r.own }
        .ok () (s.dirPut ln)
/-- A .u load of the host region is answered at the agent or the engine command that made it. -/
def State.hostAnswer (s : State) (r : HostAcc) (data : BitVec 512) : State :=
  if 16384 ≤ r.src then
    s.updFar (r.src - 16384) fun f => { f with eng := f.eng.map fun c => if c.seq = r.tag then { c with ans := c.ans ++ [(r.pa, data)] } else c }
  else
    s.updHart (agentOf r.src) fun h =>
      match indexOf? (fun (l : HostLoad) => l.acc.pa == r.pa && l.n == r.n && l.ans.isNone) h.hostLds with
      | some i => { h with hostLds := h.hostLds.modify i fun l => { l with ans := some data } }
      | none => h
/-- HOST_CACHE_RESPONSE: request `k` of the device is answered; the requests of a line are answered in order, its write-backs first. -/
def State.cacheResponse (s : State) (k : Nat) (data : BitVec 512) : State :=
  match s.hostReqs[k]? with
  | none => s
  | some r =>
    let s' := { s with hostReqs := dropAt s.hostReqs k }
    if r.write.isSome then s'.heldAll
    else if !r.cached then s'.hostAnswer r data
    else if (s.hostReqs.take k).any fun q => q.cached && q.pa == r.pa then s
    else match s'.hostFill r data with
      | .ok _ t => t.heldAll
      | q => { q.state with hostReqs := s.hostReqs ++ q.state.hostReqs.drop (s.hostReqs.length - 1) }
def execHostCacheResponse (k : Nat) (data : BitVec 512) (s : State) : Host.Outcome State Fault Refusal :=
  runEvent (s.cacheResponse k data)

/-! ### Notices (R410, R420) -/

/-- A host write of HOST_NOTICE of an active function clears the bits written as 1; it is a request of HIRQ source 2. After a failed boot no
function has BAR2 (R409, R415). -/
def State.noticeWrite (s : State) (fn : Nat) (v : Word) : State :=
  if !s.fnActive fn || s.hub.fail != 0 then s
  else
    let w := mget (fun _ => 0) s.hub.notice fn
    (s.updHub fun h => { h with notice := mput h.notice fn (w &&& ~~~(v &&& 31)) }).hirq 2
def execHostNoticeWrite (fn : Nat) (v : Word) (s : State) : Host.Outcome State Fault Refusal := runEvent (s.noticeWrite fn v)

end Sys2Proof.Machine
end

