-- ==== Sys2Proof/Machine/BootEvents.lean ====
section
/-! DEFINITION. Power-on, bring-up, measurements, snapshots and writes of control registers by the host (R15, R408, R415 to R421). An
event that is not enabled leaves the module as it is. -/
namespace Sys2Proof.Machine

/-! ### SHA-256 (R415, R417; PRESUMED, log entry 32) -/

abbrev W32 := BitVec 32
/-- The largest `r` below 2 to the `n` with `r` to the power `k` at most `x`. -/
def rootFloor (k x n : Nat) : Nat :=
  (List.range n).foldl (fun r i =>
    let t := r + 2 ^ (n - 1 - i)
    if t ^ k ≤ x then t else r) 0
/-- The primes below a bound. -/
def primesBelow (n : Nat) : List Nat :=
  (List.range n).filter fun p => decide (2 ≤ p) && (List.range 18).all fun d => d < 2 || p ≤ d || p % d != 0
/-- The first 32 bits of the fractional part of the `k`-th root of a number. -/
def rootBits (k p : Nat) : W32 := BitVec.ofNat 32 (rootFloor k (p * 2 ^ (32 * k)) 40)
/-- The exclusive or of a word rotated right by each amount. -/
def spin (x : W32) (l : List Nat) : W32 := (l.map x.rotateRight).foldl (· ^^^ ·) 0
/-- The word that follows sixteen of the message schedule. -/
def shaFollow (w : List W32) : W32 :=
  let lo := w.getD 1 0
  let hi := w.getD 14 0
  w.headD 0 + w.getD 9 0 + (spin lo [7, 18] ^^^ (lo >>> 3)) + (spin hi [17, 19] ^^^ (hi >>> 10))
/-- One round on the eight working words. -/
def shaTurn (v : List W32) (kw : W32) : List W32 :=
  let at' := fun i => v.getD i 0
  let choose := fun (m x y : W32) => y ^^^ (m &&& (x ^^^ y))
  let most := choose (at' 0 ^^^ at' 1) (at' 2) (at' 1)
  let t := at' 7 + spin (at' 4) [6, 11, 25] + choose (at' 4) (at' 5) (at' 6) + kw
  (t + spin (at' 0) [2, 13, 22] + most) :: at' 0 :: at' 1 :: at' 2 :: (at' 3 + t) :: (v.drop 4).take 3
/-- The rounds of one block: each takes the oldest of the sixteen schedule words, and the next one joins them. -/
def shaRounds : List W32 → List W32 → List W32 → List W32
  | [], _, v => v
  | k :: ks, w, v => shaRounds ks (w.tail ++ [shaFollow w]) (shaTurn v (k + w.headD 0))
/-- A digest as eight words, after one more block of sixteen. -/
def shaAbsorb (ks : List W32) (h w : List W32) : List W32 := List.zipWith (· + ·) h (shaRounds ks w h)
/-- Word `i` of a message of bytes with its end mark and its length in bits, most significant byte first. -/
def shaWord (m : List Byte) (len : Nat) (i : Nat) : W32 :=
  let byte := fun j => if j < m.length then (m.getD j 0).toNat else if j = m.length then 0x80 else if len - 8 ≤ j then 8 * m.length / 2 ^ (8 * (len - 1 - j)) % 256 else 0
  BitVec.ofNat 32 ((List.range 4).foldl (fun a j => 256 * a + byte (4 * i + j)) 0)
/-- SHA-256 of a message. -/
def sha256 (m : List Byte) : BitVec 256 :=
  let n := (m.length + 72) / 64
  let ps := primesBelow 312
  let ks := ps.map (rootBits 3)
  let h := (List.range n).foldl (fun h b => shaAbsorb ks h ((List.range 16).map fun i => shaWord m (64 * n) (16 * b + i))) ((ps.take 8).map (rootBits 2))
  BitVec.ofNat 256 (h.foldl (fun a x => 2 ^ 32 * a + x.toNat) 0)

/-! ### The boot ROM and bring-up (R415, R416, R421) -/

/-- A hub core begins to run the firmware, which supplies its entry and its page-table root (DESIGN CHOICE, log entry 38). -/
def State.startHub (s : State) (n : Nat) : State :=
  s.updHart (.hub n) fun h => { h with active := true, pc := Config.firmwareEntry n, root := Config.firmwareRoot n }
/-- BOOT_ROM: `readOk` tells whether the flash could be read; `image` is what it holds. The first failing step is recorded. The digest is kept
as it is computed, so that measurement 1 reports the image that was read (R417). -/
def State.bootRom (s : State) (readOk : Bool) (image : List Byte) : State :=
  if s.hub.stage ≠ 0 ∨ s.hub.fail ≠ 0 then s
  else
    let digest := sha256 (image.drop 512)
    let fail := fun (k : BitVec 4) (v : BitVec 256) => s.updHub fun h => { h with fail := k, fwDigest := v }
    let svn : BitVec 32 := BitVec.ofNat 32 (((image.drop 384).take 4).foldr (fun b acc => b.toNat + 256 * acc) 0)
    if !readOk then fail 1 0
    else if image.length < 512 then fail 2 0
    else if !Config.verifyFirmware digest (image.take 384) then fail 3 digest
    else if svn < Config.fusedMinimum then fail 4 digest
    else (s.updHub fun h => { h with stage := 1, svn := svn, fwDigest := digest }).startHub 4
def execBootRom (readOk : Bool) (image : List Byte) (s : State) : Host.Outcome State Fault Refusal := runEvent (s.bootRom readOk image)
/-- A list of pool bases, one for each partition in order. -/
def basesOf (l : List Nat) : FMap Nat := (List.range l.length).map fun i => (i, l.getD i 0)
/-- The firmware's place for the pool of a partition: device memory of a stack that the partition holds in some mode in which there is such a
partition, and at bring-up, where the mode has one, of a stack of that partition (R412; DESIGN CHOICE, log entry 8). -/
def State.poolFits (s : State) (p b : Nat) : Bool :=
  b % 8192 == 0 && isDevice b && if p < s.partCount then s.partOfDie (stackOf b) == p
    else [2, 4, 8, 16].any fun m => decide (p < m) && stackOf b * m / 16 == p
/-- What the firmware's self-test has found enters the map: VERSION 1 and MODE 0; no cluster runs above its ceiling (R392, R421 step 2). -/
def State.mapBuilt (s : State) (tested : List (Nat × Word)) : State :=
  ((List.range 256).foldl (fun s c => s.ceilCluster c) (s.setChanges tested)).updHub fun h => { h with stage := 2 }
/-- The pools stand, the other hub cores start, and requests held till then proceed (R412, R421 step 4). -/
def State.ready3 (s : State) (pools : Pools) : State :=
  let ok := pools.svc.length == 16 && pools.launch.length == 16 && (List.range 16).all (fun p => s.poolFits p (pools.svc.getD p 0))
    && pools.launch.all fun b => b % 128 == 0 && isDevice (b + 4096 * 128 - 1)
  if !ok then s
  else
    let s := [0, 1, 2, 3, 5, 6].foldl (fun s n => s.startHub n) s
    let s := (s.updHub fun h => { h with stage := 3, svcBase := basesOf pools.svc, launchBase := basesOf pools.launch }).raise 0 0
    s.heldAll
/-- BRING_UP: the next of the steps that follow the boot ROM: the map is built, then the host link is trained and function 0 is active, then
the pools and the hub cores are ready (R421). -/
def State.bringUp (s : State) (tested : List (Nat × Word)) (pools : Pools) : State :=
  if s.hub.stage = 1 then s.mapBuilt tested
  else if s.hub.stage ≠ 2 then s
  else if !s.hub.linkUp then s.updHub fun h => { h with linkUp := true }
  else s.ready3 pools
def execBringUp (tested : List (Nat × Word)) (pools : Pools) (s : State) : Host.Outcome State Fault Refusal :=
  runEvent (s.bringUp tested pools)

/-! ### Measurements (R417) -/

/-- The bytes of a word, least significant first. -/
def wordBytes (w : Word) : List Byte := (List.range 8).map fun i => w.extractLsb' (8 * i) 8
/-- The digest of a measurement index. -/
def State.measure (s : State) (index : Nat) : Option (BitVec 256) :=
  match index with
  | 1 => some s.hub.fwDigest
  | 2 => some Config.bootRomDigest
  | 3 => some (sha256 (wordBytes (s.mapWord 0)))
  | 4 => some (sha256 (wordBytes (s.mapWord 1)))
  | _ => none
/-- SPDM_REQUEST: a signed measurement, once function 0 is active. -/
def State.spdm (s : State) (index : Nat) : State :=
  if !s.fnActive 0 then s
  else match s.measure index with
    | some d => { s with toHost := s.toHost ++ [.spdm index d (Config.sign d)] }
    | none => s
def execSpdmRequest (index : Nat) (s : State) : Host.Outcome State Fault Refusal := runEvent (s.spdm index)

/-! ### Snapshots and control registers (R15, R408, R418) -/

def execSnapTrig (s : State) : Host.Outcome State Fault Refusal := runEvent s.snapTrigger
def execSnapshotComplete (s : State) : Host.Outcome State Fault Refusal := runEvent s.snapDone
/-- An access of the host to a BAR: naturally aligned, of 1, 2, 4 or 8 bytes (DESIGN CHOICE, log entry 38). -/
def barFits (offset n : Nat) : Bool := (n == 1 || n == 2 || n == 4 || n == 8) && offset % n == 0
/-- CONTROL_REGISTER_WRITE: a write through BAR0 of function 0, once it is active; after a failed boot BAR0 reaches only BOOT_STAT (R409,
R415). -/
def execControlRegisterWrite (offset n : Nat) (v : Word) (s : State) : Host.Outcome State Fault Refusal :=
  runWrite s (if barFits offset n && decide (offset < 2 ^ 32) && s.fnActive 0 then s.ctlStore1 (0x3000000000000 + offset) n v.toNat else s)
/-- What BAR0 reads: the control region, or, after a failed boot, BOOT_STAT alone (R408, R415). -/
def State.bar0Word (s : State) (offset n : Nat) : Word :=
  if s.hub.fail ≠ 0 ∧ offset / 8 ≠ 0x0B000000 / 8 then 0 else (s.ctlLoad (0x3000000000000 + offset) n).extractLsb' 0 64
/-- A register of BAR2 of a function: HOST_NOTICE, then SVC_BASE, which reads 0 before STAGE is 3 (R409, R410, R412). -/
def State.bar2Reg (s : State) (fn k : Nat) : Word :=
  match k with
  | 0 => mget (fun _ => 0) s.hub.notice fn
  | 1 => if s.hub.stage = 3 then BitVec.ofNat 64 (mget (fun _ => 0) s.hub.svcBase fn) else 0
  | _ => 0
/-- A host read through a BAR of an active function is answered; another has no such BAR (R409). -/
def State.barRead (s : State) (fn bar offset n : Nat) : State :=
  let answer := fun (v : Word) => { s with toHost := s.toHost ++ [.barData fn bar offset n v] }
  if !barFits offset n || !s.fnActive fn then s
  else if bar = 0 ∧ fn = 0 ∧ offset < 2 ^ 32 then answer (s.bar0Word offset n)
  else if bar = 2 ∧ offset < 4096 ∧ s.hub.fail = 0 then
    answer ((s.bar2Reg fn (offset / 8) >>> (8 * (offset % 8))) &&& BitVec.ofNat 64 (2 ^ (8 * n) - 1))
  else s
/-- An entry of the CDAT is asked for over DOE of function 0, once it is active (R407; what it holds is `Config.cdat`). -/
def State.cdatRead (s : State) (entry : Nat) : State :=
  if s.fnActive 0 then { s with toHost := s.toHost ++ [.cdat entry (Config.cdat entry)] } else s

end Sys2Proof.Machine
end

