-- ==== Sys2Proof/Machine/Branch.lean ====
section
/-! DEFINITION. Branches and jumps, and the fetch of an instruction line (R70, R178, R180 to R182, R213 to R215). -/
namespace Sys2Proof.Machine

/-- Target of a branch tail at an agent's PC (R181). -/
def Hart.target {n : Nat} (h : Hart) (delta : BitVec n) (slot : BitVec 5) : Word := targetPc h.pc (delta.signExtend 64) slot

def execBr (c : Cond) (a b : Reg) (delta : BitVec 11) (slot : BitVec 5) (s : State) : Host.Outcome State Fault Refusal :=
  transfer (.br c a b delta slot) s 0 fun h => if condHolds c (h.reg a) (h.reg b) then some (h.target delta slot) else none
def execBrz (nz : Bool) (a : Reg) (delta : BitVec 20) (slot : BitVec 5) (s : State) : Host.Outcome State Fault Refusal :=
  transfer (.brz nz a delta slot) s 0 fun h => if (h.reg a == 0) == !nz then some (h.target delta slot) else none
def execJmp (delta : BitVec 27) (slot : BitVec 5) (s : State) : Host.Outcome State Fault Refusal :=
  transfer (.jmp delta slot) s 0 fun h => some (h.target delta slot)
def execJal (d : Reg) (delta : BitVec 27) (slot : BitVec 5) (s : State) : Host.Outcome State Fault Refusal :=
  transfer (.jal d delta slot) s d fun h => some (h.target delta slot)
def execJr (d a : Reg) (s : State) : Host.Outcome State Fault Refusal :=
  transfer (.jr d a) s d fun h => some (h.reg a)
/-- LINE_FETCH: the line at an active agent's PC is fetched and checked, or its trap is taken (R70, R182, R196). -/
def execLineFetch (ag : Agent) (s : State) : Host.Outcome State Fault Refusal :=
  runEvent (
    if !(s.hart ag).active || (s.hart ag).stopped then s
    else match s.fetch ag with
      | .ok _ s => s
      | .trap t s => s.takeTrap ag t
      | .wait s => s)

end Sys2Proof.Machine
end

