-- ==== Sys2Proof/Machine/EngineInsn.lean ====
section
/-! DEFINITION. Engine commands at issue and the collection of mailbox messages: CPY, AFILL, ASPILL, MBWAIT, MBPOP (R115, R276,
R279 to R289). -/
namespace Sys2Proof.Machine

/-- The release that a command's issue is, at its scope (R115, R224). -/
def State.engRelease (s : State) (a : Agent) (sc : Scope) : Res Unit :=
  (s.xrowOrder a sc).bind fun _ s =>
    (s.needDrained a).bind fun _ s => if s.aliasDone a then s.releaseAt a sc else .wait s
/-- A command enters the engine when one of its 8 places is free (R279). -/
def State.engAccept (s : State) (core : Nat) (c : EngCmd) : Res (Option Word) :=
  let s := if 8 ≤ (s.far core).eng.length && !s.overlap then s.engDrain core else s
  if 8 ≤ (s.far core).eng.length then .wait s
  else (s.engRelease (.far core) c.sc).bind fun _ s => .ok none (s.engIssue core c)
/-- A block enters the parameter-block cache of its core (R282). -/
def State.pbKeep (s : State) (core pa : Nat) : State :=
  if isDevice pa || isHost pa then
    s.updFar core fun f => { f with pbCache := (lineOf pa :: f.pbCache.filter fun l => l != lineOf pa).take 8 }
  else s
def execCpy (sc : Scope) (a : Reg) (s : State) : Host.Outcome State Fault Refusal :=
  run (.cpy sc a) s fun x s =>
    match x with
    | .far c =>
      (s.access x (s.reg x a) 64 kLoad .load .c true).bind fun acc s =>
        (s.loadOnce x acc 64 .c).bind fun v s =>
          (s.pbKeep c acc.pa).engAccept c { kind := .cpy, seq := 0, sc := sc, priv := (s.hart x).priv, block := v }
    | _ => .wait s
/-- AFILL and ASPILL wait until every earlier array instruction of the core has retired (R115, R285). -/
def State.arrayCommand (s : State) (core : Nat) (c : EngCmd) : Res (Option Word) :=
  let s := if s.overlap then s else s.arrayDrain core ((s.far core).aq.length + 1)
  if s.arrayIdle core then s.engAccept core c else .wait s
def execAfill (win : Win) (p : Policy) (sc : Scope) (a b c : Reg) (s : State) : Host.Outcome State Fault Refusal :=
  run (.afill win p sc a b c) s fun x s =>
    match x with
    | .far k =>
      s.arrayCommand k { kind := .afill, seq := 0, sc := sc, priv := (s.hart x).priv, pol := p, win := win
                         a := s.reg x a, b := s.reg x b, c := s.reg x c }
    | _ => .wait s
def execAspill (win : Win) (p : Policy) (sc : Scope) (a b c : Reg) (s : State) : Host.Outcome State Fault Refusal :=
  run (.aspill win p sc a b c) s fun x s =>
    match x with
    | .far k =>
      s.arrayCommand k { kind := .aspill, seq := 0, sc := sc, priv := (s.hart x).priv, pol := p, win := win
                         a := s.reg x a, b := s.reg x b, c := s.reg x c }
    | _ => .wait s

/-! ### MBWAIT and MBPOP (R288, R289) -/

def execMbwait (d a : Reg) (s : State) : Host.Outcome State Fault Refusal :=
  run (.mbwait d a) s fun x s =>
    match x with
    | .far c =>
      let n := ((s.far c).channel 14).slots.length
      let limit : BitVec 32 := (s.reg x a).extractLsb' 0 32
      if 0 < n then (s.acquireOrder x .system).bind fun _ s => .ok none (s.write x d (BitVec.ofNat 64 n))
      else s.waitOr x .mbwait limit 14 fun s => .trap (s.channelExpired c 14 limit) s
    | _ => .wait s
/-- The oldest slot of a channel is popped; what waits for room follows (R168, R289). -/
def State.popSlot (s : State) (core ch : Nat) : State :=
  let s := s.updFar core fun f =>
    let c := f.channel ch
    f.setChannel ch { c with slots := c.slots.tail, popc := c.popc + 1 }
  s.flushChannel core ch 16
def execMbpop (d a : Reg) (s : State) : Host.Outcome State Fault Refusal :=
  run (.mbpop d a) s fun x s =>
    match x with
    | .far c =>
      let v := s.reg x a
      let ch := bits v 3 0
      let m := v &&& ~~~63#64
      match ((s.far c).channel ch).slots with
      | [] => .ok none (s.write x d (BitVec.allOnes 64))
      | msg :: _ =>
        (if m = 0 then .ok () s
          else (s.access x m 64 kStore .store .c true).bind fun acc s => s.storeOrder x acc 64 .c none msg).bind fun _ s =>
            .ok none ((s.popSlot c ch).write x d (lineWord msg 0))
    | _ => .wait s

end Sys2Proof.Machine
end

