-- ==== Sys2Proof/Machine/NearInsn.lean ====
section
/-! DEFINITION. The open row of a near context and its table lookups: NROW and NLUT (R136 to R138). -/
namespace Sys2Proof.Machine

/-- The lines of a row, read at the memory-side cache into the row buffer, the highest line first in the sum. -/
def State.readRow (s : State) (pa : Nat) : Nat → Res (BitVec 8192)
  | 0 => .ok 0 s
  | n + 1 =>
    (s.readRow pa n).bind fun r s =>
      (s.mscRead (pa + 64 * n) 64 kLoad).bind fun v s => .ok (r ||| (v.zeroExtend 8192 <<< (512 * n))) s
/-- Entry `k` of table `t` of a row buffer (R138). -/
def rowEntry (row : BitVec 8192) (t k : Nat) : Nat := (row.extractLsb' (8 * (32 * t + 2 * k)) 16).toNat
/-- The sixteen additions of NLUT in their fixed order (R138). -/
def lookupSum (row : BitVec 8192) (t : Nat) (w : Word) (acc : Nat) : Nat :=
  (List.range 16).foldl (fun acc j => faddBits .fp32 acc (rowEntry row t (bits w (4 * j + 3) (4 * j)) * 2 ^ 16)) acc

/-- The checks of R20 that NROW makes after translation (R137). -/
def State.rowReason (s : State) (pa : Nat) : Option Nat :=
  if isAlias pa then (if 11 ≤ aliasOp pa then some 1 else none)
  else if isFormat pa then
    if windowNo pa = 7 then some 1 else if s.coreLive (windowCore pa) then some 4 else some 3
  else none
/-- NROW.open: translation, R20, the home's row, and the copy (R137); a load, it stays behind the context's own alias commands on the
row's bytes (R99, R100). -/
def State.openRow (s : State) (a : Agent) (h c : Nat) (va : Word) : Res (Option Word) :=
  (s.translate a va kLoad).bind fun e s =>
    let pa := e.pa va
    match s.rowReason pa with
    | some r => .trap (protection va pa r kLoad) s
    | none =>
      match remote a pa with
      | some i => .trap (accTrap 0x08 va pa i kLoad) s
      | none =>
        if !isDevice pa || homeOf pa != h then .trap (protection va pa 8 kLoad) s
        else if s.ownOnBytes a pa 1024 then .wait s
        else (s.readRow pa 16).bind fun r s => .ok none (s.updNear h c fun n => { n with row := r, rowOpen := true })
def execNrowOpen (a : Reg) (k : BitVec 20) (s : State) : Host.Outcome State Fault Refusal :=
  run (.nrowOpen a k) s fun x s =>
    match x with
    | .near h c => s.openRow x h c (effAddr (s.reg x a) k 0 &&& ~~~1023#64)
    | _ => .wait s
def execNrowClose (s : State) : Host.Outcome State Fault Refusal :=
  run .nrowClose s fun x s =>
    match x with
    | .near h c => .ok none (s.updNear h c fun n => { n with rowOpen := false })
    | _ => .wait s
def execNlut (acc : Bool) (d a b : Reg) (s : State) : Host.Outcome State Fault Refusal :=
  run (.nlut acc d a b) s fun x s =>
    match x with
    | .near h c =>
      let n := s.near h c
      if !n.rowOpen then .trap (protOperand 0 0 7 0) s
      else
        let start := if acc then lowBytes 4 (s.reg x d) else 0
        .ok none (s.write x d (BitVec.ofNat 64 (lookupSum n.row (bits (s.reg x b) 4 0) (s.reg x a) start)))
    | _ => .wait s

end Sys2Proof.Machine
end

