-- ==== Sys2Proof/Machine/PowerEvents.lean ====
section
/-! DEFINITION. Clocks, supplies, current, permits, stall samples, forecasts and temperatures (R338, R339, R389 to R401). An event that
is not enabled leaves the module as it is. -/
namespace Sys2Proof.Machine

/-! ### Clocks, supplies, current and permits (R389 to R397) -/

def execClClockWrite (cluster : Nat) (v : Word) (s : State) : Host.Outcome State Fault Refusal :=
  runWrite s (if cluster < 256 then s.clClockWrite cluster v else s)
def execDieVddWrite (die : Nat) (v : Word) (s : State) : Host.Outcome State Fault Refusal :=
  runWrite s (if die < 16 then s.dieVddWrite die v else s)
/-- A frequency or bias change has settled (R389). -/
def execClockChangeComplete (cluster : Nat) (s : State) : Host.Outcome State Fault Refusal :=
  runEvent (s.updCluster cluster fun x => { x with busy := false, oldFreq := x.freq, oldBias := x.bias })
/-- A supply ramp has settled (R389). -/
def execVddRampComplete (die : Nat) (s : State) : Host.Outcome State Fault Refusal :=
  runEvent (s.updIsland die fun x => { x with vddBusy := false, oldVdd := x.vdd })
def execClCurrentWrite (cluster : Nat) (v : Word) (s : State) : Host.Outcome State Fault Refusal :=
  runWrite s (if cluster < 256 then s.clCurrentWrite cluster v else s)
def execClPermitWrite (cluster : Nat) (v : Word) (s : State) : Host.Outcome State Fault Refusal :=
  runWrite s (if cluster < 256 then s.clPermitWrite cluster v else s)
def execPermitBcastWrite (v : Word) (s : State) : Host.Outcome State Fault Refusal := runWrite s (s.permitBcast v)

/-! ### Stall samples (R398) -/

/-- A cluster copies the counts of its interval, with the next sample number. -/
def execStallSample (cluster : Nat) (cyc pstall rstall : BitVec 20) (s : State) : Host.Outcome State Fault Refusal :=
  runEvent (s.updCluster cluster fun x =>
    let n : BitVec 4 := x.stall.extractLsb' 60 4 + 1
    { x with stall := n ++ cyc ++ pstall ++ rstall })

/-! ### The activity forecast (R338, R339) -/

/-- Q of a cluster. -/
def State.demand (s : State) (cl : Nat) : Nat :=
  let cores := (List.range 16).map fun k => 16 * cl + k
  let d := cl / 16
  let live := ((List.range 16).filter fun k => s.clusterLive (16 * d + k)).length
  (cores.map fun c => (s.far c).coreQ.length).sum + (s.cluster cl).queue.length
    + (cores.filter fun c => (s.far c).task.isSome).length + (s.grants.filter fun g => clusterOf g.core == cl).length
    + (s.island d).queue.length / live
/-- FC of a cluster. -/
def State.forecastOf (s : State) (cl : Nat) : Nat := min 15 ((15 * s.demand cl + 15) / 16)
/-- ACTIVITY_FORECAST of a die. -/
def State.dieForecast (s : State) (d : Nat) : Word :=
  BitVec.ofNat 64 ((List.range 16).map fun c => s.forecastOf (16 * d + c) * 16 ^ c).sum
/-- Tasks of a home that are eligible beside those running (R123). -/
def Home.eligibleCount (x : Home) : Nat :=
  (x.queues.map fun p => (p.2.tasks.filter (eligible p.2.excl x.running)).length).sum
/-- STACK_FORECAST of a stack. -/
def State.stackForecast (s : State) (k : Nat) : Word :=
  let homes := (List.range 64).map fun p => 64 * k + p
  let depth := (homes.map fun h => ((s.home h).queues.map fun p => p.2.tasks.length).sum).sum
  let busy := (homes.map fun h => ((List.range 2).filter fun c => (s.near h c).task.isSome).length).sum
  let near := busy + (homes.map fun h => min 2 (s.home h).eligibleCount).sum
  BitVec.ofNat 64 (min 128 near * 2 ^ 16 + min 0xFFFF depth)
/-- Both registers of every die and stack are rewritten from the queue depths of this moment. -/
def State.forecasts (s : State) : State :=
  (List.range 16).foldl (fun t d =>
    (t.updIsland d fun x => { x with forecast := s.dieForecast d }).updStack d fun x => { x with forecast := s.stackForecast d }) s
def execForecastUpdate (s : State) : Host.Outcome State Fault Refusal := runEvent s.forecasts

/-! ### Temperatures (R399 to R401) -/

/-- A sensor after a sample. -/
def Sensor.sample (x : Sensor) (trip alert : Nat) (t : BitVec 16) : Sensor :=
  { seq := x.seq + 1, temp := t, alert := decide ((16 * alert : Int) ≤ t.toInt)
    trip := if (16 * trip : Int) ≤ t.toInt then true else if t.toInt < 16 * ((trip : Int) - 5) then false else x.trip }
/-- Sensor `i` of the 80: four on each die, then one on each stack. -/
def State.sensor (s : State) (i : Nat) : Sensor := if i < 64 then (s.island (i / 4)).sensorAt (i % 4) else (s.stack (i - 64)).sensor
def State.setSensor (s : State) (i : Nat) (x : Sensor) : State :=
  if i < 64 then s.updIsland (i / 4) fun d => { d with sensors := mput d.sensors (i % 4) x }
  else s.updStack (i - 64) fun k => { k with sensor := x }
/-- The hottest sensor; the lowest index wins a tie. -/
def State.hottest (s : State) : Nat :=
  (List.range 80).foldl (fun b i => if (s.sensor b).temp.toInt < (s.sensor i).temp.toInt then i else b) 0
/-- THERM_STAT after a sample. -/
def State.thermAfter (s : State) : Word :=
  let all := (List.range 80).map s.sensor
  let h := s.hottest
  let seq : BitVec 24 := s.hub.therm.extractLsb' 40 24 + 1
  seq.zeroExtend 64 <<< 40 ||| 1#64 <<< 32 ||| boolWord (all.any (·.trip)) <<< 25 ||| boolWord (all.any (·.alert)) <<< 24
    ||| BitVec.ofNat 64 h <<< 16 ||| (s.sensor h).temp.zeroExtend 64
/-- THERMAL_SAMPLE (R400): every sensor, then THERM_STAT, then the request of HIRQ source 0 (DESIGN CHOICE, log entry 33). -/
def State.thermalSample (s : State) (temps : List (BitVec 16)) : State :=
  if temps.length ≠ 80 then s
  else
    let s := (List.range 80).foldl (fun s i =>
      s.setSensor i ((s.sensor i).sample s.hub.tripC.toNat s.hub.alertC.toNat (temps.getD i 0))) s
    (s.updHub fun h => { h with therm := s.thermAfter }).hirq 0
def execThermalSample (temps : List (BitVec 16)) (s : State) : Host.Outcome State Fault Refusal := runEvent (s.thermalSample temps)
def execThermStatWrite (v : Word) (s : State) : Host.Outcome State Fault Refusal := runWrite s (s.thermStatWrite v)

end Sys2Proof.Machine
end

