-- ==== Sys2Proof/Machine/Scalar.lean ====
section
/-! DEFINITION. The scalar instructions, codes 0x01 to 0x1A but for branches, and the codes that always trap (R184, R194 to
R212). -/
namespace Sys2Proof.Machine

/-! ### Results -/

/-- A form with a width bit: on 64 bits, or on 32 bits with the result sign-extended (R194, R198). -/
def alu (w : Bool) (f : (n : Nat) → BitVec n → BitVec n → BitVec n) (x y : Word) : Word :=
  if w then (f 32 (x.extractLsb' 0 32) (y.extractLsb' 0 32)).signExtend 64 else f 64 x y
/-- A shift or rotation by a count modulo the width (R198, R207). -/
def shiftBy (op : ShOp) (n : Nat) (x y : BitVec n) : BitVec n :=
  let k := y.toNat % n
  match op with
  | .shl => x <<< k
  | .shr => x >>> k
  | .sha => x.sshiftRight k
  | .rot => x.rotateRight k
/-- The high half of a product (R199). -/
def mulHigh (m : MulhMode) (x y : Word) : Word :=
  let p : BitVec 128 := match m with
    | .ss => x.signExtend 128 * y.signExtend 128
    | .uu => x.zeroExtend 128 * y.zeroExtend 128
    | .su => x.signExtend 128 * y.zeroExtend 128
  p.extractLsb' 64 64
/-- Quotient or remainder (R200). -/
def divide (u rem : Bool) (n : Nat) (x y : BitVec n) : BitVec n :=
  if y = 0 then (if rem then x else BitVec.allOnes n)
  else if u then (if rem then x % y else x / y)
  else if rem then x.srem y else x.sdiv y
/-- The lesser or the greater (R201). -/
def pick (u max : Bool) (n : Nat) (x y : BitVec n) : BitVec n :=
  let less := if u then x.ult y else x.slt y
  if less != max then x else y
/-- LI (R205). -/
def loadImm (f : LiForm) (old : Word) (k : BitVec 24) : Word :=
  match f with
  | .s => k.signExtend 64
  | .m => (old <<< 24) ||| k.zeroExtend 64
  | .h => (old <<< 16) ||| (k.extractLsb' 0 16).zeroExtend 64
/-- LOGI (R206). -/
def logic (op : LogOp) (x y : Word) : Word :=
  match op with
  | .and => x &&& y
  | .or => x ||| y
  | .xor => x ^^^ y
/-- The `len` low bits. -/
def lowMask (len : Nat) : Word := BitVec.ofNat 64 (2 ^ len - 1)
/-- BEXT (R208). -/
def extractField (sx : Bool) (lo len : Nat) (x : Word) : Word :=
  let v := (x >>> lo) &&& lowMask len
  if sx then (v <<< (64 - len)).sshiftRight (64 - len) else v
/-- BINS and HDRP: the field takes the low bits of a value (R208, R210). -/
def insertField (lo len : Nat) (old x : Word) : Word :=
  (old &&& ~~~(lowMask len <<< lo)) ||| ((x &&& lowMask len) <<< lo)
/-- BITC (R209). -/
def bitCount (op : BitcOp) (x : Word) : Nat :=
  match op with
  | .pop => popcount x.toNat 64
  | .clz => if x = 0 then 64 else 63 - x.toNat.log2
  | .ctz => if x = 0 then 64 else (x &&& -x).toNat.log2
/-- Bits [hi:lo] of a field of a record layout, as low bit and length (R211). -/
def layoutBits (l f : Nat) : Nat × Nat :=
  match l, f with
  | 0, 0 => (9, 7) | 0, 1 => (6, 3) | 0, 2 => (0, 6)
  | 1, 0 => (32, 12) | 1, 1 => (16, 4) | 1, 2 => (0, 13)
  | 2, 0 => (32, 16) | 2, 1 => (24, 8) | 2, 2 => (0, 4)
  | 3, 0 => (16, 36) | 3, 1 => (8, 2) | 3, 2 => (6, 1) | 3, 3 => (5, 1) | 3, 4 => (4, 1) | 3, 5 => (3, 1) | 3, 6 => (2, 1)
  | 3, 7 => (1, 1) | 3, 8 => (0, 1)
  | 4, 0 => (8, 4) | 4, 1 => (4, 4) | 4, 2 => (0, 4) | 4, 3 => (4, 8)
  | 5, 0 => (36, 4) | 5, 3 => (0, 12)
  | 6, 0 => (32, 13) | 6, 1 => (0, 8)
  | _, _ => (0, 0)
/-- The value of a field of a record layout (R210, R211). -/
def fieldValue (l f : Nat) (x : Word) : Word :=
  let pchan := ((x >>> 12) ^^^ (x >>> 18)) &&& 63
  if l = 5 ∧ f = 1 then pchan
  else if l = 5 ∧ f = 2 then (((x >>> 36) &&& 15) * 64) + pchan
  else
    let b := layoutBits l f
    extractField false b.1 b.2 x

/-! ### Meanings -/

/-- Reserved codes trap ILLEGAL_INSN with reason 1 (R184). -/
def execIll (head : BitVec 16) (tail : BitVec 64) (s : State) : Host.Outcome State Fault Refusal :=
  .next (s.takeTrap s.focus (illegalInsn (s.headHere s.focus (.ill head tail)) 1))
def execAdd (w : Bool) (d a b : Reg) (s : State) : Host.Outcome State Fault Refusal :=
  regOp (.add w d a b) d s fun h => alu w (fun _ x y => x + y) (h.reg a) (h.reg b)
def execSub (w : Bool) (d a b : Reg) (s : State) : Host.Outcome State Fault Refusal :=
  regOp (.sub w d a b) d s fun h => alu w (fun _ x y => x - y) (h.reg a) (h.reg b)
def execAnd (w : Bool) (d a b : Reg) (s : State) : Host.Outcome State Fault Refusal :=
  regOp (.and w d a b) d s fun h => alu w (fun _ x y => x &&& y) (h.reg a) (h.reg b)
def execOr (w : Bool) (d a b : Reg) (s : State) : Host.Outcome State Fault Refusal :=
  regOp (.or w d a b) d s fun h => alu w (fun _ x y => x ||| y) (h.reg a) (h.reg b)
def execXor (w : Bool) (d a b : Reg) (s : State) : Host.Outcome State Fault Refusal :=
  regOp (.xor w d a b) d s fun h => alu w (fun _ x y => x ^^^ y) (h.reg a) (h.reg b)
def execAndn (w : Bool) (d a b : Reg) (s : State) : Host.Outcome State Fault Refusal :=
  regOp (.andn w d a b) d s fun h => alu w (fun _ x y => x &&& ~~~y) (h.reg a) (h.reg b)
def execShl (w : Bool) (d a b : Reg) (s : State) : Host.Outcome State Fault Refusal :=
  regOp (.shl w d a b) d s fun h => alu w (shiftBy .shl) (h.reg a) (h.reg b)
def execShr (w : Bool) (d a b : Reg) (s : State) : Host.Outcome State Fault Refusal :=
  regOp (.shr w d a b) d s fun h => alu w (shiftBy .shr) (h.reg a) (h.reg b)
def execSha (w : Bool) (d a b : Reg) (s : State) : Host.Outcome State Fault Refusal :=
  regOp (.sha w d a b) d s fun h => alu w (shiftBy .sha) (h.reg a) (h.reg b)
def execRot (w : Bool) (d a b : Reg) (s : State) : Host.Outcome State Fault Refusal :=
  regOp (.rot w d a b) d s fun h => alu w (shiftBy .rot) (h.reg a) (h.reg b)
def execMul (w : Bool) (d a b : Reg) (s : State) : Host.Outcome State Fault Refusal :=
  regOp (.mul w d a b) d s fun h => alu w (fun _ x y => x * y) (h.reg a) (h.reg b)
def execMulh (m : MulhMode) (d a b : Reg) (s : State) : Host.Outcome State Fault Refusal :=
  regOp (.mulh m d a b) d s fun h => mulHigh m (h.reg a) (h.reg b)
def execDiv (w u rem : Bool) (d a b : Reg) (s : State) : Host.Outcome State Fault Refusal :=
  regOp (.div w u rem d a b) d s fun h => alu w (divide u rem) (h.reg a) (h.reg b)
def execMinmax (w u max : Bool) (d a b : Reg) (s : State) : Host.Outcome State Fault Refusal :=
  regOp (.minmax w u max d a b) d s fun h => alu w (pick u max) (h.reg a) (h.reg b)
def execCmp (c : Cond) (d a b : Reg) (s : State) : Host.Outcome State Fault Refusal :=
  regOp (.cmp c d a b) d s fun h => boolWord (condHolds c (h.reg a) (h.reg b))
def execSel (d a b c : Reg) (s : State) : Host.Outcome State Fault Refusal :=
  regOp (.sel d a b c) d s fun h => if h.reg a ≠ 0 then h.reg b else h.reg c
def execAddi (w : Bool) (d a : Reg) (k : BitVec 20) (s : State) : Host.Outcome State Fault Refusal :=
  regOp (.addi w d a k) d s fun h => alu w (fun _ x y => x + y) (h.reg a) (k.signExtend 64)
def execLi (f : LiForm) (d : Reg) (k : BitVec 24) (s : State) : Host.Outcome State Fault Refusal :=
  regOp (.li f d k) d s fun h => loadImm f (h.reg d) k
def execLogi (op : LogOp) (d a : Reg) (k : BitVec 20) (s : State) : Host.Outcome State Fault Refusal :=
  regOp (.logi op d a k) d s fun h => logic op (h.reg a) (k.signExtend 64)
def execShi (op : ShOp) (w : Bool) (d a : Reg) (n : BitVec 6) (s : State) : Host.Outcome State Fault Refusal :=
  regOp (.shi op w d a n) d s fun h => alu w (shiftBy op) (h.reg a) (n.zeroExtend 64)
def execBext (sx : Bool) (d a : Reg) (lo : BitVec 6) (len : BitVec 7) (s : State) : Host.Outcome State Fault Refusal :=
  regOp (.bext sx d a lo len) d s fun h => extractField sx lo.toNat len.toNat (h.reg a)
def execBins (d a : Reg) (lo : BitVec 6) (len : BitVec 7) (s : State) : Host.Outcome State Fault Refusal :=
  regOp (.bins d a lo len) d s fun h => insertField lo.toNat len.toNat (h.reg d) (h.reg a)
def execBitc (op : BitcOp) (d a : Reg) (s : State) : Host.Outcome State Fault Refusal :=
  regOp (.bitc op d a) d s fun h => BitVec.ofNat 64 (bitCount op (h.reg a))
def execHdrx (d a : Reg) (layout : BitVec 6) (field : BitVec 8) (s : State) : Host.Outcome State Fault Refusal :=
  regOp (.hdrx d a layout field) d s fun h => fieldValue layout.toNat field.toNat (h.reg a)
def execHdrp (d a : Reg) (layout : BitVec 6) (field : BitVec 8) (s : State) : Host.Outcome State Fault Refusal :=
  regOp (.hdrp d a layout field) d s fun h =>
    let b := layoutBits layout.toNat field.toNat
    insertField b.1 b.2 (h.reg d) (h.reg a)
def execAddpc (d : Reg) (k : BitVec 26) (s : State) : Host.Outcome State Fault Refusal :=
  regOp (.addpc d k) d s fun h => h.pc + k.signExtend 64

end Sys2Proof.Machine
end

