-- ==== Sys2Proof/Machine/ServiceEvents.lean ====
section
/-! DEFINITION. Service records: CREATE, PLACE, SUSPEND, RESUME, EXIT and MAPACK (R150, R151, R412 to R414). -/
namespace Sys2Proof.Machine

/-! ### Records (R412, R414) -/

def State.svcPa (s : State) (part i : Nat) : Nat := mget (fun _ => 0) s.hub.svcBase part + 128 * i
/-- A record that the supervisor core may take: ARMED, not held back by a mode change, and not one that is taken already and held, whose STATE
no write changes (R414). -/
def State.svcArmed (s : State) (part i : Nat) : Bool :=
  let pa := s.svcPa part i
  let op := bits (s.pointWord (pa + 8)) 7 0
  bits (s.pointWord pa) 3 0 == 1 && !((mget (fun _ => []) s.hub.svcHeld part).any fun r => r.index == i) && !(s.hub.partBusy && (op == 1 || op == 2 || op == 4))
def State.setSvc (s : State) (part : Nat) (r : SvcRun) : State := s.updHub fun h => { h with svcRun := mput h.svcRun part r }
/-- Writes CTX for a CREATE that is done, then STATUS and STATE, once the host lets go of the line (R64); SVC is set in the notice of an
active function (R409, R410). -/
def State.svcEnd (s : State) (part : Nat) (r : SvcRun) (status : Nat) : State :=
  let st := if status = 0 then 3 else 4
  let q := (if r.op = 1 ∧ status = 0 then s.storeM (stackOf r.pa) (r.pa + 9) 1 kStore (BitVec.ofNat 512 r.ctx) else .ok () s).bind fun _ s =>
    s.storeM (stackOf r.pa) r.pa 8 kStore (BitVec.ofNat 512 (status * 2 ^ 32 + st))
  match q with
  | .wait s => s.setSvc part { r with ended := some status }
  | q =>
    let s := q.state.updHub fun h => { h with svcRun := mdel h.svcRun part }
    if part < s.partCount then s.raise part 4 else s
/-- A reserved OP, or a reserved field or an unused word that is not 0 (STATUS 1). -/
def svcReserved (ws : List Word) : Bool :=
  let w := fun i => ws.getD i 0
  let op := bits (w 1) 7 0
  let used := match op with | 1 => 12 | 2 => 3 | _ => 2
  bits (w 0) 31 4 != 0 || bits (w 1) 63 14 != 0 || op == 0 || decide (6 < op) || (ws.drop used).any (fun x => x != 0)
    || (op == 1 && (bits (w 2) 63 52 != 0 || bits (w 2) 9 0 != 0 || bits (w 3) 63 13 != 0 || bits (w 5) 63 16 != 0))

/-! ### CREATE (R413) -/

/-- `n` bytes from an address lie in device memory of the partition. -/
def State.inPart (s : State) (part pa n : Nat) : Bool :=
  decide (pa + n ≤ 2 ^ 40) && s.partOfDie (stackOf pa) == part && s.partOfDie (stackOf (pa + n - 1)) == part
/-- The lowest free context id. -/
def State.freeCtx (s : State) : Option Nat :=
  (List.range 64).find? fun c => match s.ctx c with | none => true | some x => x.st == .exited
/-- A context as CREATE makes it. -/
def newContext (ws : List Word) (part : Nat) (ack : BitVec 32) : Context :=
  let w := fun i => ws.getD i 0
  { nv := bits (w 3) 12 0, part := part, root := w 2, spillBase := w 4, spillCap := bits (w 5) 15 0, saveBase := w 6, vecU := w 7
    deleg := w 8 &&& 0x1FFFE, nearVec := w 9, nearDeleg := w 10 &&& 0x1FFFE, lrtBase := w 11, ack := ack }
/-- CREATE: its status and the id of the context made, and the state after it. -/
def State.svcCreate (s : State) (part : Nat) (ws : List Word) : State × Nat × Nat :=
  let w := fun i => (ws.getD i 0).toNat
  let nv := bits (ws.getD 3 0) 12 0
  match s.freeCtx with
  | none => (s, 2, 0)
  | some c =>
    if nv = 0 ∨ 4096 < nv then (s, 1, 0)
    else if !s.inPart part (w 2) 1024 || !s.inPart part (w 4) 1 || w 6 % 65536 != 0 || !s.inPart part (w 6) (nv * 1344 * 1024) then (s, 5, 0)
    else ((s.tlbiRemove (.ctx 0) 0 (BitVec.ofNat 64 c)).setCtx c (newContext ws part s.mapVersion), 0, c)

/-! ### PLACE (R413) -/

/-- A vcore chosen for a core, with its DOM registers. -/
structure Choice where
  vcore : Nat
  core : Nat
  dom : Nat → Word

/-- The core and DOM value of each placed or chosen member of a context at a level. -/
def State.members (s : State) (x : Context) (l : List Choice) (lvl : Nat) : List (Nat × Word) :=
  x.placed.map (fun p => (p.2, (s.far p.2).dom lvl)) ++ l.map fun c => (c.core, c.dom lvl)
/-- A core lies in the cluster and the die of every member placed earlier of its domains (R413). -/
def State.domFits (s : State) (x : Context) (l : List Choice) (dom : Nat → Word) (core : Nat) : Bool :=
  let same := fun (lvl : Nat) (unit : Nat → Nat) =>
    domSize (dom lvl) == 0 || (s.members x l lvl).all fun m =>
      domSize m.2 == 0 || domId m.2 != domId (dom lvl) || unit m.1 == unit core
  same 1 clusterOf && same 2 dieOf
/-- An entry of a placement list: the core asked for, and the values of DOM1 to DOM3. -/
abbrev Wanted := Nat × (Nat → Word)
def wantedOf (w : BitVec 512) : Wanted := (bits (lineWord w 0) 11 0, fun lvl => lineWord w lvl &&& 0x00001FFF000000FF)
/-- Reads entries of a placement list from vcore `v` on, as the hub cores read (R402, R413). -/
def State.placeList (s : State) (base v : Nat) : Nat → Res (List Wanted)
  | 0 => .ok [] s
  | n + 1 =>
    let pa := base + 32 * v
    (s.loadM (stackOf pa) pa 32 kLoad).bind fun w s => (s.placeList base (v + 1) n).bind fun l s => .ok (wantedOf w :: l) s
/-- Chooses cores for the unplaced vcores from `v` on, in ascending order, or a status. -/
def State.placeChoose (s : State) (x : Context) (part v : Nat) (l : List Choice) : List Wanted → Except Nat (List Choice)
  | [] => .ok l
  | e :: es =>
    if mhas x.placed v then s.placeChoose x part (v + 1) l es
    else
      let free := fun c => s.coreFree part c && !l.any fun d => d.core == c
      let fits := fun c => free c && s.domFits x l e.2 c
      if e.1 = 0xFFF then
        match (List.range 4096).find? fits with
        | some c => s.placeChoose x part (v + 1) (l ++ [⟨v, c, e.2⟩]) es
        | none => .error (if (List.range 4096).any free then 6 else 3)
      else if fits e.1 then s.placeChoose x part (v + 1) (l ++ [⟨v, e.1, e.2⟩]) es
      else .error 6
/-- PLACE: every unplaced vcore starts anew on its core; RMAP_CHANGE is pending at it where ACK differs from the version (R378). While the host
holds a line of the list, the record stays in progress (R64). -/
def State.svcPlace (s : State) (part : Nat) (r : SvcRun) (x : Context) : State × Option Nat :=
  let base := r.arg.toNat
  if base % 32 ≠ 0 ∨ !s.inPart part base (32 * x.nv) then (s, some 5)
  else match s.placeList base 0 x.nv with
    | .ok es s =>
      match s.placeChoose x part 0 [] es with
      | .error k => (s, some k)
      | .ok l =>
        (l.foldl (fun s c =>
          (s.placeVcore r.ctx c.vcore c.core (x.fresh r.ctx (c.dom 1) (c.dom 2) (c.dom 3))).mapNew r.ctx c.core) s, some 0)
    | q => (q.state, none)

/-! ### EXIT and the other operations (R151, R413) -/

/-- A vcore ends (R413): it stops at its next instruction boundary, its array instruction retires, its stores are performed and its engine
commands stop, and then it leaves its core with nothing saved. What cannot end now is tried again as the record is looked at. A core that
had stopped alone stays stopped (R354). -/
def State.exitVcore (s : State) (c core : Nat) : State :=
  let a := Agent.far core
  let s := ((s.waitDone a).arrayEnd core).halt a
  let s := (s.engStopAll core).remoteDrain core (2 * s.remotes.length)
  match s.needDrained a with
  | .ok _ s =>
    if s.arrayIdle core && (s.far core).eng.isEmpty && (s.hart a).hostLds.isEmpty then
      let s := (s.stealsOut core).tasksLost core
      let f := s.far core
      ((s.unplace c core none).updHart a fun h => { h with stopped := f.stopCause != 0 }).updCtx c fun x => { x with held := x.held ++ f.held }
    else s
  | r => r.state
/-- A queue of an exited context is unbound; its tasks are discarded with one record (R151). -/
def State.exitQueue (s : State) (c h q : Nat) : State :=
  let u := (s.home h).queueAt q
  if u.ctx ≠ some c then s
  else
    let s := s.updHome h fun x => x.setQueue q {}
    if u.tasks.isEmpty then s else s.log 7 0 3 (h / 64) 0 (h * 16 + q) (h / 64)
/-- Entries of a context in far-side queues are gone with it, with no notice and no record (DESIGN CHOICE, log entry 68: R151 speaks of home
queues alone). -/
def State.exitFar (s : State) (c : Nat) : State :=
  let gone := (s.clusters.flatMap fun p => p.2.queue) ++ s.islands.flatMap fun p => p.2.queue
  let s := (gone.filter fun t => t.ctx == c).foldl (fun s t => s.taskDone t) s
  { s with
    clusters := mmap (fun _ x => { x with queue := x.queue.filter fun t => t.ctx != c }) s.clusters
    islands := mmap (fun _ x => { x with queue := x.queue.filter fun t => t.ctx != c }) s.islands }
/-- The placed vcores of an exiting context end. -/
def State.exitCores (s : State) (c : Nat) (x : Context) : State := x.placed.foldl (fun s p => s.exitVcore c p.2) s
/-- EXIT begins: the vcores end and the queues of the context are unbound. -/
def State.exitBegin (s : State) (c : Nat) (x : Context) : State :=
  let s := s.updCtx c fun x => { x with st := .exiting, susp := none, pend := false }
  let s := s.homes.foldl (fun s p => (List.range 16).foldl (fun s q => s.exitQueue c p.1 q) s) s
  (s.exitFar c).exitCores c x
/-- What a launch of an exited context still holds is dropped (R151). -/
def State.exitLaunch (s : State) (c part : Nat) : State :=
  match mget (fun _ => none) s.hub.launches part with
  | some l => if l.ctx = c then s.launchStep part l else s
  | none => s
/-- What its spill queue still holds is dropped as the context becomes EXITED, each with a dead-letter notice to its sender; completions and
notices that wait for it have none, and each leaves a record (R151, R169). -/
def State.exitEnd (s : State) (c : Nat) : State :=
  match s.ctx c with
  | none => s
  | some x =>
    let s := (s.barsOut c).1.setCtx c { x with st := .exited, spill := [], held := [], saved := [], bars := [] }
    let s := s.updHub fun h => { h with fallen := h.fallen.filter fun w => w.ctx != c }
    let s := x.spill.foldl (fun s e => match e with
      | .msg m => s.deadLetter m.sender 1 m.vcore m.ch c (m.data.extractLsb' 0 448)
      | .task v t sender => (s.taskDone t).deadLetter sender 2 v 0 c (t.record.zeroExtend 448)) s
    let s := x.held.foldl (fun s _ => s.log 11 0 5 0 0 c 0) s
    s.exitLaunch c x.part
/-- The lowest live and free cores of a partition for `n` saved vcores. -/
def State.lowestCores (s : State) (part n : Nat) : List Nat := ((List.range 4096).filter (s.coreFree part)).take n
/-- The operation of a record on an existing context: its status, `none` while it is in progress. -/
def State.svcOp (s : State) (part : Nat) (r : SvcRun) (x : Context) : State × Option Nat :=
  let c := r.ctx
  match r.op with
  | 2 =>
    if x.st = .created ∨ x.st = .running then s.svcPlace part r x else (s, some 4)
  | 3 => if x.st = .running then (s.requestSuspend c 4, none) else (s, some 4)
  | 4 =>
    let n := (x.saved.filter fun p => p.2.isSome).length
    let cores := s.lowestCores part n
    if !s.mayResume x then (s, some 4) else if cores.length < n then (s, some 3) else (s.resume c cores, some 0)
  | 5 => if x.st = .created ∨ x.st = .running ∨ x.st = .suspended then (s.exitBegin c x, none) else (s, some 4)
  | _ =>
    if x.st = .created ∨ x.st = .running ∨ x.st = .suspended then (s.mapackWrite c s.mapVersion, some 0) else (s, some 4)
/-- A record in progress is looked at again: PLACE may go on, SUSPEND is DONE once the context is SUSPENDED, EXIT once no vcore of it is placed and no near
task of it runs. -/
def State.svcCheck (s : State) (part : Nat) (r : SvcRun) : State :=
  match r.ended, s.ctx r.ctx with
  | some k, _ => s.svcEnd part r k
  | none, none => s.svcEnd part r 0
  | none, some x =>
    if r.op = 2 then
      match s.svcOp part r x with
      | (s, some k) => s.svcEnd part r k
      | (s, none) => s
    else if r.op = 3 then (if x.st = .suspended then s.svcEnd part r 0 else s)
    else
      let s := s.exitCores r.ctx x
      if ((s.ctx r.ctx).getD {}).placed.isEmpty && (s.nearTasks r.ctx).isEmpty then (s.exitEnd r.ctx).svcEnd part r 0 else s
/-- A RESUME record waits for a write of CTX_MAPACK (R380). -/
def State.svcHolds (s : State) (r : SvcRun) : Bool :=
  r.op == 4 && match s.ctx r.ctx with | some x => x.st == .suspended && x.hold | none => false
/-- An operation on an existing context is begun. A RESUME of a context whose hold stands is set aside, and other records of the partition go
on (R380; DEDUCED, log entry 63). -/
def State.svcBegin (s : State) (part : Nat) (r : SvcRun) : State :=
  match s.ctx r.ctx with
  | none => s.svcEnd part r 7
  | some x =>
    if x.part ≠ part ∨ x.st = .exited then s.svcEnd part r 7
    else if s.svcHolds r then s.updHub fun h => { h with svcHeld := mput h.svcHeld part (mget (fun _ => []) h.svcHeld part ++ [r]) }
    else match s.svcOp part r x with
      | (s, some k) => s.svcEnd part r k
      | (s, none) => if r.op = 2 then s.setSvc part r else (s.setSvc part r).svcCheck part r
/-- A captured record is performed (DEDUCED, log entry 27). -/
def State.svcBody (s : State) (part : Nat) (r : SvcRun) (ws : List Word) : State :=
  if svcReserved ws then s.svcEnd part r 1
  else if r.op = 1 then let p := s.svcCreate part ws; p.1.svcEnd part { r with ctx := p.2.2 } p.2.1
  else s.svcBegin part r
/-- The first held RESUME record of a partition that is held no longer. -/
def State.svcReady (s : State) (part : Nat) : Option SvcRun :=
  if s.hub.partBusy then none else (mget (fun _ => []) s.hub.svcHeld part).find? fun r => !s.svcHolds r
/-- The next ARMED record of a partition of the mode in force is taken (R386, R414). -/
def State.svcNext (s : State) (part : Nat) : State :=
  match firstFrom 64 (mget (fun _ => 0) s.hub.svcPtr part) (s.svcArmed part) with
  | none => s
  | some i =>
    let pa := s.svcPa part i
    let q := (s.recordWords pa).bind fun ws s =>
      let w0 := ws.getD 0 0
      let w1 := ws.getD 1 0
      (s.armSwap pa w0 ((w0 &&& ~~~15#64) ||| 2#64)).bind fun old s =>
        let s := s.updHub fun h => { h with svcPtr := mput h.svcPtr part ((i + 1) % 64) }
        if old ≠ w0.toNat then .ok () s
        else .ok () (s.svcBody part { index := i, pa := pa, op := bits w1 7 0, ctx := bits w1 13 8, arg := ws.getD 2 0 } ws)
    q.state
/-- SERVICE_RECORD_TAKE: the record in progress is looked at again, a held RESUME goes on, or the next ARMED record of the partition is
taken (R380, R386, R414). -/
def State.serviceTake (s : State) (part : Nat) : State :=
  if s.hub.stage ≠ 3 then s
  else match s.hub.svcRun.find? fun p => p.1 == part with
    | some p => s.svcCheck part p.2
    | none =>
      if s.partCount ≤ part then s
      else match s.svcReady part with
        | some r =>
          (s.updHub fun h => { h with svcHeld := mput h.svcHeld part ((mget (fun _ => []) h.svcHeld part).erase r) }).svcBegin part r
        | none => s.svcNext part
def execServiceRecordTake (part : Nat) (s : State) : Host.Outcome State Fault Refusal := runEvent (s.serviceTake part)

end Sys2Proof.Machine
end

