-- ==== Sys2Proof/Machine/Dispatch.lean ====
section
/-! DEFINITION. The meaning of every row of the opcode table, one arm for each constructor. -/
namespace Sys2Proof.Machine
open Sys2Proof

def exec (i : Instr) (s : State) : Host.Outcome State Fault Refusal :=
  match i with
  | .ill head tail => Sys2Proof.Machine.execIll head tail s
  | .add w d a b => Sys2Proof.Machine.execAdd w d a b s
  | .sub w d a b => Sys2Proof.Machine.execSub w d a b s
  | .and w d a b => Sys2Proof.Machine.execAnd w d a b s
  | .or w d a b => Sys2Proof.Machine.execOr w d a b s
  | .xor w d a b => Sys2Proof.Machine.execXor w d a b s
  | .andn w d a b => Sys2Proof.Machine.execAndn w d a b s
  | .shl w d a b => Sys2Proof.Machine.execShl w d a b s
  | .shr w d a b => Sys2Proof.Machine.execShr w d a b s
  | .sha w d a b => Sys2Proof.Machine.execSha w d a b s
  | .rot w d a b => Sys2Proof.Machine.execRot w d a b s
  | .mul w d a b => Sys2Proof.Machine.execMul w d a b s
  | .mulh m d a b => Sys2Proof.Machine.execMulh m d a b s
  | .div w u rem d a b => Sys2Proof.Machine.execDiv w u rem d a b s
  | .minmax w u max d a b => Sys2Proof.Machine.execMinmax w u max d a b s
  | .cmp c d a b => Sys2Proof.Machine.execCmp c d a b s
  | .sel d a b c => Sys2Proof.Machine.execSel d a b c s
  | .addi w d a k => Sys2Proof.Machine.execAddi w d a k s
  | .li f d k => Sys2Proof.Machine.execLi f d k s
  | .logi op d a k => Sys2Proof.Machine.execLogi op d a k s
  | .shi op w d a cnt => Sys2Proof.Machine.execShi op w d a cnt s
  | .bext sx d a lo len => Sys2Proof.Machine.execBext sx d a lo len s
  | .bins d a lo len => Sys2Proof.Machine.execBins d a lo len s
  | .bitc op d a => Sys2Proof.Machine.execBitc op d a s
  | .hdrx d a layout field => Sys2Proof.Machine.execHdrx d a layout field s
  | .hdrp d a layout field => Sys2Proof.Machine.execHdrp d a layout field s
  | .addpc d k => Sys2Proof.Machine.execAddpc d k s
  | .br c a b delta slot => Sys2Proof.Machine.execBr c a b delta slot s
  | .brz nz a delta slot => Sys2Proof.Machine.execBrz nz a delta slot s
  | .jmp delta slot => Sys2Proof.Machine.execJmp delta slot s
  | .jal d delta slot => Sys2Proof.Machine.execJal d delta slot s
  | .jr d a => Sys2Proof.Machine.execJr d a s
  | .lineFetch ag => Sys2Proof.Machine.execLineFetch ag s
  | .ld w sx p d a k => Sys2Proof.Machine.execLd w sx p d a k s
  | .st w p d a k => Sys2Proof.Machine.execSt w p d a k s
  | .lda w sx p sc d a k => Sys2Proof.Machine.execLda w sx p sc d a k s
  | .stl w p sc d a k => Sys2Proof.Machine.execStl w p sc d a k s
  | .ldx w sx p d a b k => Sys2Proof.Machine.execLdx w sx p d a b k s
  | .stx w p d a b k => Sys2Proof.Machine.execStx w p d a b k s
  | .amo op dbl p sc ord d a b => Sys2Proof.Machine.execAmo op dbl p sc ord d a b s
  | .cas dbl p sc ord d a b k => Sys2Proof.Machine.execCas dbl p sc ord d a b k s
  | .amof op p sc ord d a b => Sys2Proof.Machine.execAmof op p sc ord d a b s
  | .fence sc => Sys2Proof.Machine.execFence sc s
  | .waitm w p d a b c k => Sys2Proof.Machine.execWaitm w p d a b c k s
  | .waitmWake ag => Sys2Proof.Machine.execWaitmWake ag s
  | .waitmLimitExpire ag => Sys2Proof.Machine.execWaitmLimitExpire ag s
  | .waitc ch sc a b => Sys2Proof.Machine.execWaitc ch sc a b s
  | .cmaint op reach ext a k => Sys2Proof.Machine.execCmaint op reach ext a k s
  | .get w ord d a k => Sys2Proof.Machine.execGet w ord d a k s
  | .put w ord d a k => Sys2Proof.Machine.execPut w ord d a k s
  | .ramo op dbl ord d a b => Sys2Proof.Machine.execRamo op dbl ord d a b s
  | .remoteOpPerform k => Sys2Proof.Machine.execRemoteOpPerform k s
  | .remoteReply k => Sys2Proof.Machine.execRemoteReply k s
  | .csrr d csr => Sys2Proof.Machine.execCsrr d csr s
  | .csrw csr a => Sys2Proof.Machine.execCsrw csr a s
  | .csrx op d csr a => Sys2Proof.Machine.execCsrx op d csr a s
  | .trap k => Sys2Proof.Machine.execTrap k s
  | .sysc k => Sys2Proof.Machine.execSysc k s
  | .eret => Sys2Proof.Machine.execEret s
  | .idle a => Sys2Proof.Machine.execIdle a s
  | .ckpt k => Sys2Proof.Machine.execCkpt k s
  | .rmread d a => Sys2Proof.Machine.execRmread d a s
  | .rmack d => Sys2Proof.Machine.execRmack d s
  | .time d => Sys2Proof.Machine.execTime d s
  | .snap => Sys2Proof.Machine.execSnap s
  | .tlbi op => Sys2Proof.Machine.execTlbi op s
  | .tlbiComplete ag => Sys2Proof.Machine.execTlbiComplete ag s
  | .ien en d => Sys2Proof.Machine.execIen en d s
  | .nrowOpen a k => Sys2Proof.Machine.execNrowOpen a k s
  | .nrowClose => Sys2Proof.Machine.execNrowClose s
  | .nlut acc d a b => Sys2Proof.Machine.execNlut acc d a b s
  | .pcmp d rows comb spec => Sys2Proof.Machine.execPcmp d rows comb spec s
  | .pset rows spec => Sys2Proof.Machine.execPset rows spec s
  | .pcs d rows comb cmp wr => Sys2Proof.Machine.execPcs d rows comb cmp wr s
  | .top op => Sys2Proof.Machine.execTop op s
  | .tshf op d a => Sys2Proof.Machine.execTshf op d a s
  | .tcnt d t span lane => Sys2Proof.Machine.execTcnt d t span lane s
  | .tany d t span lane => Sys2Proof.Machine.execTany d t span lane s
  | .tfirst clr d t span lane => Sys2Proof.Machine.execTfirst clr d t span lane s
  | .span ls a b => Sys2Proof.Machine.execSpan ls a b s
  | .spanRd d ls => Sys2Proof.Machine.execSpanRd d ls s
  | .seg m => Sys2Proof.Machine.execSeg m s
  | .segRd d => Sys2Proof.Machine.execSegRd d s
  | .key q a => Sys2Proof.Machine.execKey q a s
  | .cfill rows c n1 src => Sys2Proof.Machine.execCfill rows c n1 src s
  | .cread sx d a c n1 lane => Sys2Proof.Machine.execCread sx d a c n1 lane s
  | .cwrite a b c n1 lane => Sys2Proof.Machine.execCwrite a b c n1 lane s
  | .tload t span c => Sys2Proof.Machine.execTload t span c s
  | .tstore t span c => Sys2Proof.Machine.execTstore t span c s
  | .fmov rows cd cs n1 => Sys2Proof.Machine.execFmov rows cd cs n1 s
  | .frot rows k cd cs n1 => Sys2Proof.Machine.execFrot rows k cd cs n1 s
  | .xrow prev rows cd cs n1 => Sys2Proof.Machine.execXrow prev rows cd cs n1 s
  | .ttld e regs => Sys2Proof.Machine.execTtld e regs s
  | .ttrun desc rows e m1 n1 x0 x1 x2 x3 => Sys2Proof.Machine.execTtrun desc rows e m1 n1 x0 x1 x2 x3 s
  | .arrayInstructionStart core => Sys2Proof.Machine.execArrayInstructionStart core s
  | .arrayInstructionRetire core => Sys2Proof.Machine.execArrayInstructionRetire core s
  | .aadd rows dc ac xc f rnd sat => Sys2Proof.Machine.execAadd rows dc ac xc f rnd sat s
  | .asub rows dc ac xc f rnd sat => Sys2Proof.Machine.execAsub rows dc ac xc f rnd sat s
  | .aaddk rows dc kc xc f => Sys2Proof.Machine.execAaddk rows dc kc xc f s
  | .amul rows dc ac bc xc f rnd sat => Sys2Proof.Machine.execAmul rows dc ac bc xc f rnd sat s
  | .amulk rows dc ac kc xc f rnd sat => Sys2Proof.Machine.execAmulk rows dc ac kc xc f rnd sat s
  | .amac rows dc ac bc xc f1 f2 rnd sat => Sys2Proof.Machine.execAmac rows dc ac bc xc f1 f2 rnd sat s
  | .amack rows dc ac kc xc f1 f2 rnd sat wa => Sys2Proof.Machine.execAmack rows dc ac kc xc f1 f2 rnd sat wa s
  | .afma rows dc ac bc xc f rnd sat => Sys2Proof.Machine.execAfma rows dc ac bc xc f rnd sat s
  | .acvt rows dc ac rc xc fs fd rnd sat => Sys2Proof.Machine.execAcvt rows dc ac rc xc fs fd rnd sat s
  | .acmp cond d rows ac bc xc f comb => Sys2Proof.Machine.execAcmp cond d rows ac bc xc f comb s
  | .aminmax max rows dc ac xc f => Sys2Proof.Machine.execAminmax max rows dc ac xc f s
  | .ared rows dc xc f rnd sat => Sys2Proof.Machine.execAred rows dc xc f rnd sat s
  | .alut rows dc ac f n1 => Sys2Proof.Machine.execAlut rows dc ac f n1 s
  | .aresolve rows dc xc wa => Sys2Proof.Machine.execAresolve rows dc xc wa s
  | .aqdec rows dc ac bc xc f1 f2 rnd => Sys2Proof.Machine.execAqdec rows dc ac bc xc f1 f2 rnd s
  | .aspmac rows dc ac s0 wa m1 xc f1 f2 rnd => Sys2Proof.Machine.execAspmac rows dc ac s0 wa m1 xc f1 f2 rnd s
  | .aspmacLdx q => Sys2Proof.Machine.execAspmacLdx q s
  | .aspmacLdm => Sys2Proof.Machine.execAspmacLdm s
  | .reservationGrant cluster => Sys2Proof.Machine.execReservationGrant cluster s
  | .stackReservationGrant stack => Sys2Proof.Machine.execStackReservationGrant stack s
  | .permitRefill ag => Sys2Proof.Machine.execPermitRefill ag s
  | .cpy sc a => Sys2Proof.Machine.execCpy sc a s
  | .afill win p sc a b c => Sys2Proof.Machine.execAfill win p sc a b c s
  | .aspill win p sc a b c => Sys2Proof.Machine.execAspill win p sc a b c s
  | .engineCommandStart core k => Sys2Proof.Machine.execEngineCommandStart core k s
  | .engineCompletion core k => Sys2Proof.Machine.execEngineCompletion core k s
  | .mbwait d a => Sys2Proof.Machine.execMbwait d a s
  | .mbpop d a => Sys2Proof.Machine.execMbpop d a s
  | .msend ch len a b c => Sys2Proof.Machine.execMsend ch len a b c s
  | .mailboxDelivery k => Sys2Proof.Machine.execMailboxDelivery k s
  | .bar lvl c a => Sys2Proof.Machine.execBar lvl c a s
  | .barrierArrival k => Sys2Proof.Machine.execBarrierArrival k s
  | .larm a => Sys2Proof.Machine.execLarm a s
  | .launchTake part index assigned => Sys2Proof.Machine.execLaunchTake part index assigned s
  | .launchResume part => Sys2Proof.Machine.execLaunchResume part s
  | .qbind a q home => Sys2Proof.Machine.execQbind a q home s
  | .qstat d a q => Sys2Proof.Machine.execQstat d a q s
  | .tenq a b c => Sys2Proof.Machine.execTenq a b c s
  | .tsteal a b => Sys2Proof.Machine.execTsteal a b s
  | .tnext a => Sys2Proof.Machine.execTnext a s
  | .tend => Sys2Proof.Machine.execTend s
  | .homeCycle home => Sys2Proof.Machine.execHomeCycle home s
  | .stealGrantDelivery k => Sys2Proof.Machine.execStealGrantDelivery k s
  | .stealRequestArrival k => Sys2Proof.Machine.execStealRequestArrival k s
  | .farTaskTake core => Sys2Proof.Machine.execFarTaskTake core s
  | .autoStealWithdraw core => Sys2Proof.Machine.execAutoStealWithdraw core s
  | .waitLimitExpire ag => Sys2Proof.Machine.execWaitLimitExpire ag s
  | .storeBufferDrain core k => Sys2Proof.Machine.execStoreBufferDrain core k s
  | .walkStart unit => Sys2Proof.Machine.execWalkStart unit s
  | .walkComplete unit k => Sys2Proof.Machine.execWalkComplete unit k s
  | .cacheEviction cache line => Sys2Proof.Machine.execCacheEviction cache line s
  | .writtenLineInvalidate home line => Sys2Proof.Machine.execWrittenLineInvalidate home line s
  | .bankAddI32 k => Sys2Proof.Machine.execBankAddI32 k s
  | .bankAddI64 k => Sys2Proof.Machine.execBankAddI64 k s
  | .bankAddF32 k => Sys2Proof.Machine.execBankAddF32 k s
  | .bankAddBf16x2 k => Sys2Proof.Machine.execBankAddBf16x2 k s
  | .bankMaxF32 k => Sys2Proof.Machine.execBankMaxF32 k s
  | .bankMinF32 k => Sys2Proof.Machine.execBankMinF32 k s
  | .bankOr64 k => Sys2Proof.Machine.execBankOr64 k s
  | .allbankFill k => Sys2Proof.Machine.execAllbankFill k s
  | .fillWave stack => Sys2Proof.Machine.execFillWave stack s
  | .idxsum k => Sys2Proof.Machine.execIdxsum k s
  | .idxsumExecute home => Sys2Proof.Machine.execIdxsumExecute home s
  | .idxsumComplete home => Sys2Proof.Machine.execIdxsumComplete home s
  | .counterWrite k => Sys2Proof.Machine.execCounterWrite k s
  | .counterPacket k => Sys2Proof.Machine.execCounterPacket k s
  | .stackDetredWrite stack en => Sys2Proof.Machine.execStackDetredWrite stack en s
  | .detredChangeComplete stack => Sys2Proof.Machine.execDetredChangeComplete stack s
  | .hostMemRead pa n => Sys2Proof.Machine.execHostMemRead pa n s
  | .hostMemWrite pa data => Sys2Proof.Machine.execHostMemWrite pa data s
  | .hostSnoop line kind => Sys2Proof.Machine.execHostSnoop line kind s
  | .linkWake die => Sys2Proof.Machine.execLinkWake die s
  | .linkRetrain die ok => Sys2Proof.Machine.execLinkRetrain die ok s
  | .heartbeatMissing die => Sys2Proof.Machine.execHeartbeatMissing die s
  | .dieRejoin die l2ways livecl livecore => Sys2Proof.Machine.execDieRejoin die l2ways livecl livecore s
  | .mapCommit changes => Sys2Proof.Machine.execMapCommit changes s
  | .mapGraceExpire ctx => Sys2Proof.Machine.execMapGraceExpire ctx s
  | .ctxMapackWrite ctx v => Sys2Proof.Machine.execCtxMapackWrite ctx v s
  | .takeEvent ag => Sys2Proof.Machine.execTakeEvent ag s
  | .coreStop core order sbLost => Sys2Proof.Machine.execCoreStop core order sbLost s
  | .supervisorRepair core readable => Sys2Proof.Machine.execSupervisorRepair core readable s
  | .supervisorReplace core target readable => Sys2Proof.Machine.execSupervisorReplace core target readable s
  | .suspendDeadline ctx => Sys2Proof.Machine.execSuspendDeadline ctx s
  | .suspensionComplete ctx => Sys2Proof.Machine.execSuspensionComplete ctx s
  | .contextResume ctx cores => Sys2Proof.Machine.execContextResume ctx cores s
  | .serviceRecordTake part => Sys2Proof.Machine.execServiceRecordTake part s
  | .partModeWrite v => Sys2Proof.Machine.execPartModeWrite v s
  | .partModeApply => Sys2Proof.Machine.execPartModeApply s
  | .clClockWrite cluster v => Sys2Proof.Machine.execClClockWrite cluster v s
  | .dieVddWrite die v => Sys2Proof.Machine.execDieVddWrite die v s
  | .clockChangeComplete cluster => Sys2Proof.Machine.execClockChangeComplete cluster s
  | .vddRampComplete die => Sys2Proof.Machine.execVddRampComplete die s
  | .clCurrentWrite cluster v => Sys2Proof.Machine.execClCurrentWrite cluster v s
  | .clPermitWrite cluster v => Sys2Proof.Machine.execClPermitWrite cluster v s
  | .permitBcastWrite v => Sys2Proof.Machine.execPermitBcastWrite v s
  | .stallSample cluster cyc pstall rstall => Sys2Proof.Machine.execStallSample cluster cyc pstall rstall s
  | .forecastUpdate => Sys2Proof.Machine.execForecastUpdate s
  | .thermalSample temps => Sys2Proof.Machine.execThermalSample temps s
  | .thermStatWrite v => Sys2Proof.Machine.execThermStatWrite v s
  | .snapTrig => Sys2Proof.Machine.execSnapTrig s
  | .snapshotComplete => Sys2Proof.Machine.execSnapshotComplete s
  | .hostNoticeWrite fn v => Sys2Proof.Machine.execHostNoticeWrite fn v s
  | .spdmRequest index => Sys2Proof.Machine.execSpdmRequest index s
  | .bootRom readOk image => Sys2Proof.Machine.execBootRom readOk image s
  | .bringUp tested pools => Sys2Proof.Machine.execBringUp tested pools s
  | .controlRegisterWrite offset n v => Sys2Proof.Machine.execControlRegisterWrite offset n v s
  | .hostBiResponse line data => Sys2Proof.Machine.execHostBiResponse line data s
  | .hostCacheResponse k data => Sys2Proof.Machine.execHostCacheResponse k data s
  | .linkLowPowerEntry die => Sys2Proof.Machine.execLinkLowPowerEntry die s
  | .corePowerGate core => Sys2Proof.Machine.execCorePowerGate core s

end Sys2Proof.Machine
end

