-- ==== Sys2Proof/Machine/Outside.lean ====
section
/-! DEFINITION. What reaches the module from outside besides the event rows of the opcode table: upsets of stored bits, errors that a code
corrects, a supervisor's request to suspend a context, the arrival of a delivery at a mailbox unit, and reads of the host through its BARs and of the
CDAT; and turns of agents, with the slot of a near unit's sequencer (R133, R334, R356, R358, R361, R407 to R409). What is not enabled leaves the module as it is. -/
namespace Sys2Proof.Machine

/-! ### Stored bits (R356) -/

/-- Whether a unit holds the sector. -/
def State.holdsSector (s : State) (unit own sec : Nat) : Bool :=
  let ln := sec / 2
  let has := fun (l : CLine) => l.valid.getLsbD (sec % 2)
  match unit with
  | 1 => has (s.l1At own ln)
  | 2 => mhas (s.far own).l1i ln
  | 3 => has (s.l2At own ln)
  | 4 => isDevice (64 * ln) && has (s.mscAt ln)
  | 5 => isDevice (64 * ln)
  | 6 => decide (own < 4096) && decide (sec < 32768)
  | _ => false
/-- One sector of a line's data replaced. -/
def sectorPut (d : BitVec 512) (sec : Nat) (v : BitVec 256) : BitVec 512 := mergeSectors d (v ++ v) (if sec % 2 = 0 then 1 else 2)
/-- The bits that a unit stores for a sector, replaced. -/
def State.storeBits (s : State) (unit own sec : Nat) (v : BitVec 256) : State :=
  let ln := sec / 2
  let put := fun (l : CLine) => { l with data := sectorPut l.data sec v }
  match unit with
  | 1 => s.updFar own fun f => { f with l1d := mmap (fun k l => if k = ln then put l else l) f.l1d }
  | 2 => s.updFar own fun f => { f with l1i := mmap (fun k l => if k = ln then sectorPut l sec v else l) f.l1i }
  | 3 => s.updIsland own fun x => { x with l2 := mmap (fun k l => if k = ln then put l else l) x.l2 }
  | 4 => s.updStack (lineStack ln) fun x => { x with msc := mmap (fun k l => if k = ln then put l else l) x.msc }
  | 5 => { s with mem := memWrite s.mem (32 * sec) 32 v.toNat }
  | 6 => s.updFar own fun f => { f with arr := f.arr.setRow sec v }
  | _ => s
/-- Who holds the sector, as `bad` names it: a bank or a memory-side cache by the line alone. -/
def badOwner (unit own sec : Nat) : Nat := if unit = 4 then lineStack (sec / 2) else if unit = 5 then 0 else own
/-- An upset leaves a sector with these bits, and with an error that its code or parity detects and cannot correct. -/
def State.upset (s : State) (unit own sec : Nat) (v : BitVec 256) : State :=
  if !s.holdsSector unit own sec then s
  else
    let o := badOwner unit own sec
    let s := (s.freshen unit o sec).storeBits unit own sec v
    { s with bad := s.bad ++ [{ unit := unit, own := o, sec := sec }] }
/-- An error that a code corrects changes no value and writes a record of kind 2 with the bit's position (R356, R358). The array's parity
corrects nothing. -/
def State.corrected (s : State) (unit own sec bit : Nat) : State :=
  if unit ≠ 6 ∧ bit < 256 ∧ s.holdsSector unit own sec then s.logSector 2 unit own (32 * sec) bit else s

/-! ### Deliveries (R334) -/

/-- Delivery `k` stands at its destination's mailbox unit, behind every earlier one of its source. -/
def State.reach (s : State) (k : Nat) : State :=
  match s.deliveries[k]? with
  | some m =>
    if (s.deliveries.take k).any fun x => x.src == m.src && !x.here then s
    else { s with deliveries := setAt s.deliveries k { m with here := true } }
  | none => s

/-- What reaches the module from outside. -/
def State.outside (s : State) (o : Outside) : State :=
  match o with
  | .upset unit own sec v => s.upset unit own sec v
  | .corrected unit own sec bit => s.corrected unit own sec bit
  | .suspend c => s.requestSuspend c 1
  | .reach k => s.reach k
  | .barRead fn bar offset n => s.barRead fn bar offset n
  | .cdat entry => s.cdatRead entry

/-! ### Turns of agents, and the near sequencer (R133) -/

/-- The turn of the focus agent: what `ready` comes to, or the meaning of its instruction. -/
def agentTurn (s : State) : Host.Outcome State Fault Refusal :=
  match s.ready with
  | .done s => .next s
  | .run i s => exec i s
/-- A context of a near unit is ready: its turn would change anything. One that runs no task, or that is stalled for a permit, a walk, a host
line, room in the written-line log or a wait, changes nothing. -/
def State.nearReady (s : State) (h c : Nat) : Bool :=
  let s := { s with focus := .near h c }
  match agentTurn s with
  | .next t => t != s
  | _ => true
/-- A context of a near unit has the slot, and the pointer stands past it. -/
def State.nearWins (s : State) (h c : Nat) : State := { s.updUnit h fun u => { u with ptr := (c + 1) % 2 } with focus := .near h c }
/-- The slot goes to the first ready context at or after the pointer. -/
def State.nearSlot (s : State) (h : Nat) : Option State := (firstFrom 2 (s.unit h).ptr (s.nearReady h)).map (s.nearWins h)
/-- An agent that a turn names has it: a near context as the winner of its slot, if it is ready; the other counts then as not ready (DESIGN
CHOICE, log entry 1). -/
def State.giveTurn (s : State) (a : Agent) : State :=
  match a with
  | .near h c => if s.nearReady h c then s.nearWins h c else { s with focus := a }
  | _ => { s with focus := a }

end Sys2Proof.Machine
end

