-- ==== Sys2Proof/Machine/Step.lean ====
section
/-! DEFINITION. One step of the module: the next turn, or the focus agent's next instruction when no turn is listed. -/
namespace Sys2Proof
/-- A row of the opcode table that is an event and not an encoded instruction. -/
def Instr.isEvent : Instr → Bool
  | .ill .. => false
  | i => i.major == 0
end Sys2Proof
namespace Sys2Proof.Machine

/-- One step. Where no turn is listed, the focus agent goes on and an unstated time passes (DESIGN CHOICE, log entries 1 and 9). A turn that
names an encoded instruction as its event is only used up. -/
def step (s : State) : Host.Outcome State Fault Refusal :=
  match s.turns with
  | [] => agentTurn ({ s with time := s.time + Config.elapsed s.ticks, ticks := s.ticks + 1 }.giveTurn s.focus)
  | .agent a ov dt :: r => agentTurn ({ s with turns := r, overlap := ov, time := s.time + dt }.giveTurn a)
  | .event i dt :: r =>
    if i.isEvent then exec i { s with turns := r, overlap := true, time := s.time + dt } else .next { s with turns := r, time := s.time + dt }
  | .near h ov dt :: r =>
    let s := { s with turns := r, overlap := ov, time := s.time + dt }
    match s.nearSlot h with
    | some s => agentTurn s
    | none => .next s
  | .outside o dt :: r => .next (State.outside { s with turns := r, overlap := true, time := s.time + dt } o)

/-- The agent that runs a placed instruction: a near context for NROW and NLUT, else far core 0. -/
def fetchAgent (op : Nat) : Agent := if op = 0x3E ∨ op = 0x3F then .near 0 0 else .far 0
/-- The page of a placed instruction, virtual and physical. -/
def fetchPage : Nat := 0x10000
/-- The translation of that page: readable and executable in U. -/
def fetchEntry : TlbEntry :=
  { shift := 16, vpn := 1, ppn := 1, mt1 := false, gl := true, us := true, ex := true, wr := false, rd := true, tag := 0 }
/-- A state with one instruction stored as a line of device memory, where the focus agent fetches next (DESIGN CHOICE, log entry 10). -/
def State.withFetchWord (s : State) (nbits w : Nat) : State :=
  let v := w % 2 ^ nbits
  let l := oneLine (BitVec.ofNat 16 v) (BitVec.ofNat 64 (v / 65536))
  let a := fetchAgent (v / 2 ^ 9 % 128)
  let ln := lineOf fetchPage
  let s := { s with turns := [.agent a false 0], mem := memWrite s.mem fetchPage 64 l.toNat }
  let s := s.updStack 0 fun x => { x with msc := mdel x.msc ln, sort := [] }
  let s := s.updIsland 0 fun x => { x with l2 := mdel x.l2 ln }
  let s := s.updFar 0 fun f => { f with l1i := mdel f.l1i ln, l1d := mdel f.l1d ln }
  let s := s.updUnit 0 fun u => { u with ibuf := mdel u.ibuf ln, tlb := fetchEntry :: u.tlb }
  s.updHart a fun h => { h with pc := BitVec.ofNat 64 (fetchPage + 2), line := none, active := true, stopped := false, wait := none
                                evMap := none, evMem := [], evSusp := none, tlb := fetchEntry :: h.tlb }

end Sys2Proof.Machine
end

