-- ==== Sys2Proof/Laws/Encoding.lean ====
section
/-! SUPPORT. Fields of concatenated bit vectors, the sub-field codes read back, and the shape of a decoding. -/
namespace Sys2Proof

/-! ### Fields of a concatenation -/

theorem extract_append_low {v w : Nat} (x : BitVec v) (y : BitVec w) (lo len : Nat) (h : lo + len ≤ w) :
    (x ++ y).extractLsb' lo len = y.extractLsb' lo len := by
  apply BitVec.eq_of_getLsbD_eq
  intro i hi
  simp only [BitVec.getLsbD_extractLsb', BitVec.getLsbD_append, hi, decide_true, Bool.true_and]
  rw [if_pos (by omega)]
theorem extract_append_high {v w : Nat} (x : BitVec v) (y : BitVec w) (lo len : Nat) (h : w ≤ lo) :
    (x ++ y).extractLsb' lo len = x.extractLsb' (lo - w) len := by
  apply BitVec.eq_of_getLsbD_eq
  intro i hi
  simp only [BitVec.getLsbD_extractLsb', BitVec.getLsbD_append, hi, decide_true, Bool.true_and]
  rw [if_neg (by omega)]
  congr 1
  omega
theorem bit_append_low {v w : Nat} (x : BitVec v) (y : BitVec w) (i : Nat) (h : i < w) :
    (x ++ y).getLsbD i = y.getLsbD i := by
  simp only [BitVec.getLsbD_append, if_pos h]
theorem bit_append_high {v w : Nat} (x : BitVec v) (y : BitVec w) (i : Nat) (h : w ≤ i) :
    (x ++ y).getLsbD i = x.getLsbD (i - w) := by
  simp only [BitVec.getLsbD_append, if_neg (Nat.not_lt.mpr h)]
theorem extract_full {w : Nat} (x : BitVec w) : x.extractLsb' 0 w = x := by
  apply BitVec.eq_of_getLsbD_eq
  intro i hi
  simp [hi]
theorem bit_getLsbD (b : Bool) : (bit b).getLsbD 0 = b := by cases b <;> rfl

/-! ### Codes -/

theorem Width.of_code (w : Width) : Width.of w.code = w := by cases w <;> rfl
theorem Policy.of_code (p : Policy) : Policy.of p.code = p := by cases p <;> rfl
theorem Scope.of_code (c : Scope) : Scope.of c.code = some c := by cases c <;> rfl
theorem Order.of_code (c : Order) : Order.of c.code = c := by cases c <;> rfl
theorem Cond.of_code (c : Cond) : Cond.of c.code = some c := by cases c <;> rfl
theorem MulhMode.of_code (c : MulhMode) : MulhMode.of c.code = some c := by cases c <;> rfl
theorem LiForm.of_code (c : LiForm) : LiForm.of c.code = some c := by cases c <;> rfl
theorem LogOp.of_code (c : LogOp) : LogOp.of c.code = some c := by cases c <;> rfl
theorem ShOp.of_code (c : ShOp) : ShOp.of c.code = c := by cases c <;> rfl
theorem BitcOp.of_code (c : BitcOp) : BitcOp.of c.code = some c := by cases c <;> rfl
theorem AmoOp.of_code (c : AmoOp) : AmoOp.of c.code = some c := by cases c <;> rfl
theorem AmofOp.of_code (c : AmofOp) : AmofOp.of c.code = some c := by cases c <;> rfl
theorem CmOp.of_code (c : CmOp) : CmOp.of c.code = some c := by cases c <;> rfl
theorem CmReach.of_code (c : CmReach) : CmReach.of c.code = some c := by cases c <;> rfl
theorem CmExt.of_code (c : CmExt) : CmExt.of c.code = some c := by cases c <;> rfl
theorem CsrxOp.of_code (c : CsrxOp) : CsrxOp.of c.code = some c := by cases c <;> rfl
theorem Comb.of_code (c : Comb) : Comb.of c.code = some c := by cases c <;> rfl
theorem Fmt.of_code (c : Fmt) : Fmt.of c.code = c := by cases c <;> rfl
theorem Rnd.of_code (c : Rnd) : Rnd.of c.code = some c := by cases c <;> rfl
theorem Win.of_code (c : Win) : Win.of c.code = some c := by cases c <;> rfl
theorem ACond.of_code (c : ACond) : ACond.of c.code = some c := by cases c <;> rfl
theorem tagOf_tagReg (t : TagNo) : tagOf (tagReg t) = some t := by
  unfold tagOf tagReg
  rw [extract_append_high _ _ _ _ (by omega), extract_append_low _ _ _ _ (by omega), extract_full]
  simp
theorem selOf_selCode (o : Option TagNo) : selOf (selCode o) = some o := by
  cases o with
  | none => rfl
  | some t => revert t; decide
theorem laneOf_laneCode (o : Option (BitVec 2)) : laneOf (laneCode o) = some o := by revert o; decide

/-! ### Decoding -/

/-- What the decoder answers for the words of an instruction, from its parts. -/
theorem decode_words {i : Instr} {op : BitVec 7} {tl : BitVec 3} {d : Reg} {t : BitVec 64} (he : encode i = (head op tl d, t))
    (hr : reservedOp op.toNat = false) (ht : tl.toNat = tailClass op.toNat) (hd : decodeRaw op.toNat d t = some i) (hw : i.flaw = none) :
    decode (head op tl d) t = .ok i := by
  have h1 : (head op tl d).extractLsb' 9 7 = op := by
    unfold head
    rw [extract_append_high _ _ _ _ (by omega), extract_append_high _ _ _ _ (by omega)]; exact extract_full _
  have h2 : (head op tl d).extractLsb' 6 3 = tl := by
    unfold head
    rw [extract_append_high _ _ _ _ (by omega), extract_append_low _ _ _ _ (by omega)]; exact extract_full _
  have h3 : (head op tl d).extractLsb' 0 6 = d := by
    unfold head; rw [extract_append_low _ _ _ _ (by omega)]; exact extract_full _
  unfold decode
  simp only [h1, h2, h3, hr, ht, hd, hw, he, ne_eq, not_true_eq_false, if_false, if_true, Bool.false_eq_true]

end Sys2Proof
end

