-- ==== Sys2Proof/Laws/PerInstr.lean ====
section
/-! SUPPORT. Decoding an instruction's own words gives the instruction back: the family `RoundTrip`, one lemma per constructor. -/
set_option linter.unusedSimpArgs false
namespace Sys2Proof.Laws.RoundTrip
open Sys2Proof

/-- Decoding the words that the encoder gives a well-formed instruction answers that instruction; events have no words. -/
def Statement (i : Instr) : Prop := i.isEvent = false → i.wf = true → decode (encode i).1 (encode i).2 = .ok i

theorem of_words {i : Instr} {op : BitVec 7} {tl : BitVec 3} {d : Reg} {t : BitVec 64} (he : encode i = (head op tl d, t))
    (hr : reservedOp op.toNat = false) (ht : tl.toNat = tailClass op.toNat) (hd : i.wf = true → decodeRaw op.toNat d t = some i) :
    Statement i := by
  intro _ hw
  rw [he]
  exact decode_words he hr ht (hd hw) (by simpa [Instr.wf] using hw)
theorem of_event {i : Instr} (h : i.isEvent = true) : Statement i := fun e _ => by simp [h] at e

/-- A list of pairs from the specification bits of its own words. -/
theorem spec_pairs (r : Rows) (cb : BitVec 2) (ps : List (Col × Bool)) (h1 : 1 ≤ ps.length) (h4 : ps.length ≤ 4) :
    specOf (t64 0 (rowsPay r cb (specBits (.pairs ps)))) = some (.pairs ps) := by
  have e : fld (t64 0 (rowsPay r cb (specBits (.pairs ps)))) 58 6 = 0#6 := by
    simp (disch := omega) only [fld, t64, extract_append_high, Nat.sub_self]
    rfl
  have e2 : fld (t64 0 (rowsPay r cb (specBits (.pairs ps)))) 47 2 = BitVec.ofNat 2 (ps.length - 1) := by
    simp (disch := omega) only [fld, t64, rowsPay, specBits, extract_append_low, extract_append_high]
    exact extract_full _
  unfold specOf
  rw [e]
  rw [e2]
  match ps, h1, h4 with
  | [(a, x)], _, _ =>
    show some (Spec.pairs [pairAt _ 38]) = _
    simp (disch := omega) only [pairAt, pairBits, fld, bitAt, t64, rowsPay, specBits, extract_append_low, extract_append_high, bit_append_low,
      bit_append_high, List.getElem?_cons_zero, List.getElem?_cons_succ, List.getElem?_nil]
    simp [bit]
  | [(a, x), (b, y)], _, _ =>
    show some (Spec.pairs [pairAt _ 38, pairAt _ 29]) = _
    simp (disch := omega) only [pairAt, pairBits, fld, bitAt, t64, rowsPay, specBits, extract_append_low, extract_append_high, bit_append_low,
      bit_append_high, List.getElem?_cons_zero, List.getElem?_cons_succ, List.getElem?_nil]
    simp [bit]
  | [(a, x), (b, y), (c, z)], _, _ =>
    show some (Spec.pairs [pairAt _ 38, pairAt _ 29, pairAt _ 20]) = _
    simp (disch := omega) only [pairAt, pairBits, fld, bitAt, t64, rowsPay, specBits, extract_append_low, extract_append_high, bit_append_low,
      bit_append_high, List.getElem?_cons_zero, List.getElem?_cons_succ, List.getElem?_nil]
    simp [bit]
  | [(a, x), (b, y), (c, z), (d, w)], _, _ =>
    show some (Spec.pairs [pairAt _ 38, pairAt _ 29, pairAt _ 20, pairAt _ 11]) = _
    simp (disch := omega) only [pairAt, pairBits, fld, bitAt, t64, rowsPay, specBits, extract_append_low, extract_append_high, bit_append_low,
      bit_append_high, List.getElem?_cons_zero, List.getElem?_cons_succ, List.getElem?_nil]
    simp [bit]
/-- Every specification from the specification bits of its own words. -/
theorem spec_words (r : Rows) (cb : BitVec 2) (s : Spec)
    (h : match s with | .pairs ps => 1 ≤ ps.length ∧ ps.length ≤ 4 | _ => True) :
    specOf (t64 (specForm s) (rowsPay r cb (specBits s))) = some s := by
  cases s with
  | pairs ps => exact spec_pairs r cb ps h.1 h.2
  | imm c n1 k =>
    have e : fld (t64 (specForm (.imm c n1 k)) (rowsPay r cb (specBits (.imm c n1 k)))) 58 6 = 1#6 := by
      simp (disch := omega) only [fld, t64, extract_append_high, Nat.sub_self]
      rfl
    unfold specOf
    rw [e]
    simp (disch := omega) only [fld, t64, rowsPay, specBits, extract_append_low, extract_append_high]
    simp
  | ky c n1 =>
    have e : fld (t64 (specForm (.ky c n1)) (rowsPay r cb (specBits (.ky c n1)))) 58 6 = 2#6 := by
      simp (disch := omega) only [fld, t64, extract_append_high, Nat.sub_self]
      rfl
    unfold specOf
    rw [e]
    simp (disch := omega) only [fld, t64, rowsPay, specBits, extract_append_low, extract_append_high]
    simp
/-- PCS from its parts. -/
theorem pcs_words {d : Reg} {g : TagNo} {t : BitVec 64} {r : Rows} {cb : Comb} {cs ws : List (Col × Bool)} {n : BitVec 2} {m : BitVec 1}
    (hd : tagOf d = some g) (hr : rowsOf t = some r) (hc : Comb.of (fld t 49 2) = some cb) (hf : fld t 58 6 = 0)
    (hn : fld t 47 2 = n) (hm : fld t 19 1 = m) (h3 : n ≠ 3)
    (h1 : pairsFrom t 46 (n.toNat + 1) = cs) (h2 : pairsFrom t 18 (m.toNat + 1) = ws) :
    decodeRaw (0x42#7).toNat d t = some (.pcs g r cb cs ws) := by
  simp only [decodeRaw, decArray, BitVec.reduceToNat, Nat.reduceLeDiff, reduceIte]
  rw [hd, hr, hc, hf, hn, hm, h1, h2]
  exact if_pos ⟨rfl, h3⟩

theorem ill (x0 x1) : Statement (.ill x0 x1) := by
  intro _ hw
  have h : reservedOp (x0.extractLsb' 9 7).toNat = true := by
    cases e : reservedOp (x0.extractLsb' 9 7).toNat <;> simp_all [Instr.wf, Instr.flaw]
  show decode x0 x1 = _
  unfold decode
  simp only [h, if_true]
theorem add (x0 x1 x2 x3) : Statement (.add x0 x1 x2 x3) := of_words rfl rfl rfl fun _ => by
  simp only [decodeRaw, decScalar, BitVec.reduceToNat, Nat.reduceLeDiff, reduceIte]
  simp (disch := omega) only [fld, bitAt, rowsOf, t16, t32, t48, t64, rowsPay, mpay, extract_append_low, extract_append_high, bit_append_low, bit_append_high]
  simp [bit, Width.of_code, Policy.of_code, Scope.of_code, Order.of_code, Cond.of_code, MulhMode.of_code, LiForm.of_code, LogOp.of_code, ShOp.of_code, BitcOp.of_code, AmoOp.of_code, AmofOp.of_code, CmOp.of_code, CmReach.of_code, CmExt.of_code, CsrxOp.of_code, Comb.of_code, Fmt.of_code, Rnd.of_code, Win.of_code, ACond.of_code, tagOf_tagReg, selOf_selCode, laneOf_laneCode]
theorem sub (x0 x1 x2 x3) : Statement (.sub x0 x1 x2 x3) := of_words rfl rfl rfl fun _ => by
  simp only [decodeRaw, decScalar, BitVec.reduceToNat, Nat.reduceLeDiff, reduceIte]
  simp (disch := omega) only [fld, bitAt, rowsOf, t16, t32, t48, t64, rowsPay, mpay, extract_append_low, extract_append_high, bit_append_low, bit_append_high]
  simp [bit, Width.of_code, Policy.of_code, Scope.of_code, Order.of_code, Cond.of_code, MulhMode.of_code, LiForm.of_code, LogOp.of_code, ShOp.of_code, BitcOp.of_code, AmoOp.of_code, AmofOp.of_code, CmOp.of_code, CmReach.of_code, CmExt.of_code, CsrxOp.of_code, Comb.of_code, Fmt.of_code, Rnd.of_code, Win.of_code, ACond.of_code, tagOf_tagReg, selOf_selCode, laneOf_laneCode]
theorem and (x0 x1 x2 x3) : Statement (.and x0 x1 x2 x3) := of_words rfl rfl rfl fun _ => by
  simp only [decodeRaw, decScalar, BitVec.reduceToNat, Nat.reduceLeDiff, reduceIte]
  simp (disch := omega) only [fld, bitAt, rowsOf, t16, t32, t48, t64, rowsPay, mpay, extract_append_low, extract_append_high, bit_append_low, bit_append_high]
  simp [bit, Width.of_code, Policy.of_code, Scope.of_code, Order.of_code, Cond.of_code, MulhMode.of_code, LiForm.of_code, LogOp.of_code, ShOp.of_code, BitcOp.of_code, AmoOp.of_code, AmofOp.of_code, CmOp.of_code, CmReach.of_code, CmExt.of_code, CsrxOp.of_code, Comb.of_code, Fmt.of_code, Rnd.of_code, Win.of_code, ACond.of_code, tagOf_tagReg, selOf_selCode, laneOf_laneCode]
theorem or (x0 x1 x2 x3) : Statement (.or x0 x1 x2 x3) := of_words rfl rfl rfl fun _ => by
  simp only [decodeRaw, decScalar, BitVec.reduceToNat, Nat.reduceLeDiff, reduceIte]
  simp (disch := omega) only [fld, bitAt, rowsOf, t16, t32, t48, t64, rowsPay, mpay, extract_append_low, extract_append_high, bit_append_low, bit_append_high]
  simp [bit, Width.of_code, Policy.of_code, Scope.of_code, Order.of_code, Cond.of_code, MulhMode.of_code, LiForm.of_code, LogOp.of_code, ShOp.of_code, BitcOp.of_code, AmoOp.of_code, AmofOp.of_code, CmOp.of_code, CmReach.of_code, CmExt.of_code, CsrxOp.of_code, Comb.of_code, Fmt.of_code, Rnd.of_code, Win.of_code, ACond.of_code, tagOf_tagReg, selOf_selCode, laneOf_laneCode]
theorem xor (x0 x1 x2 x3) : Statement (.xor x0 x1 x2 x3) := of_words rfl rfl rfl fun _ => by
  simp only [decodeRaw, decScalar, BitVec.reduceToNat, Nat.reduceLeDiff, reduceIte]
  simp (disch := omega) only [fld, bitAt, rowsOf, t16, t32, t48, t64, rowsPay, mpay, extract_append_low, extract_append_high, bit_append_low, bit_append_high]
  simp [bit, Width.of_code, Policy.of_code, Scope.of_code, Order.of_code, Cond.of_code, MulhMode.of_code, LiForm.of_code, LogOp.of_code, ShOp.of_code, BitcOp.of_code, AmoOp.of_code, AmofOp.of_code, CmOp.of_code, CmReach.of_code, CmExt.of_code, CsrxOp.of_code, Comb.of_code, Fmt.of_code, Rnd.of_code, Win.of_code, ACond.of_code, tagOf_tagReg, selOf_selCode, laneOf_laneCode]
theorem andn (x0 x1 x2 x3) : Statement (.andn x0 x1 x2 x3) := of_words rfl rfl rfl fun _ => by
  simp only [decodeRaw, decScalar, BitVec.reduceToNat, Nat.reduceLeDiff, reduceIte]
  simp (disch := omega) only [fld, bitAt, rowsOf, t16, t32, t48, t64, rowsPay, mpay, extract_append_low, extract_append_high, bit_append_low, bit_append_high]
  simp [bit, Width.of_code, Policy.of_code, Scope.of_code, Order.of_code, Cond.of_code, MulhMode.of_code, LiForm.of_code, LogOp.of_code, ShOp.of_code, BitcOp.of_code, AmoOp.of_code, AmofOp.of_code, CmOp.of_code, CmReach.of_code, CmExt.of_code, CsrxOp.of_code, Comb.of_code, Fmt.of_code, Rnd.of_code, Win.of_code, ACond.of_code, tagOf_tagReg, selOf_selCode, laneOf_laneCode]
theorem shl (x0 x1 x2 x3) : Statement (.shl x0 x1 x2 x3) := of_words rfl rfl rfl fun _ => by
  simp only [decodeRaw, decScalar, BitVec.reduceToNat, Nat.reduceLeDiff, reduceIte]
  simp (disch := omega) only [fld, bitAt, rowsOf, t16, t32, t48, t64, rowsPay, mpay, extract_append_low, extract_append_high, bit_append_low, bit_append_high]
  simp [bit, Width.of_code, Policy.of_code, Scope.of_code, Order.of_code, Cond.of_code, MulhMode.of_code, LiForm.of_code, LogOp.of_code, ShOp.of_code, BitcOp.of_code, AmoOp.of_code, AmofOp.of_code, CmOp.of_code, CmReach.of_code, CmExt.of_code, CsrxOp.of_code, Comb.of_code, Fmt.of_code, Rnd.of_code, Win.of_code, ACond.of_code, tagOf_tagReg, selOf_selCode, laneOf_laneCode]
theorem shr (x0 x1 x2 x3) : Statement (.shr x0 x1 x2 x3) := of_words rfl rfl rfl fun _ => by
  simp only [decodeRaw, decScalar, BitVec.reduceToNat, Nat.reduceLeDiff, reduceIte]
  simp (disch := omega) only [fld, bitAt, rowsOf, t16, t32, t48, t64, rowsPay, mpay, extract_append_low, extract_append_high, bit_append_low, bit_append_high]
  simp [bit, Width.of_code, Policy.of_code, Scope.of_code, Order.of_code, Cond.of_code, MulhMode.of_code, LiForm.of_code, LogOp.of_code, ShOp.of_code, BitcOp.of_code, AmoOp.of_code, AmofOp.of_code, CmOp.of_code, CmReach.of_code, CmExt.of_code, CsrxOp.of_code, Comb.of_code, Fmt.of_code, Rnd.of_code, Win.of_code, ACond.of_code, tagOf_tagReg, selOf_selCode, laneOf_laneCode]
theorem sha (x0 x1 x2 x3) : Statement (.sha x0 x1 x2 x3) := of_words rfl rfl rfl fun _ => by
  simp only [decodeRaw, decScalar, BitVec.reduceToNat, Nat.reduceLeDiff, reduceIte]
  simp (disch := omega) only [fld, bitAt, rowsOf, t16, t32, t48, t64, rowsPay, mpay, extract_append_low, extract_append_high, bit_append_low, bit_append_high]
  simp [bit, Width.of_code, Policy.of_code, Scope.of_code, Order.of_code, Cond.of_code, MulhMode.of_code, LiForm.of_code, LogOp.of_code, ShOp.of_code, BitcOp.of_code, AmoOp.of_code, AmofOp.of_code, CmOp.of_code, CmReach.of_code, CmExt.of_code, CsrxOp.of_code, Comb.of_code, Fmt.of_code, Rnd.of_code, Win.of_code, ACond.of_code, tagOf_tagReg, selOf_selCode, laneOf_laneCode]
theorem rot (x0 x1 x2 x3) : Statement (.rot x0 x1 x2 x3) := of_words rfl rfl rfl fun _ => by
  simp only [decodeRaw, decScalar, BitVec.reduceToNat, Nat.reduceLeDiff, reduceIte]
  simp (disch := omega) only [fld, bitAt, rowsOf, t16, t32, t48, t64, rowsPay, mpay, extract_append_low, extract_append_high, bit_append_low, bit_append_high]
  simp [bit, Width.of_code, Policy.of_code, Scope.of_code, Order.of_code, Cond.of_code, MulhMode.of_code, LiForm.of_code, LogOp.of_code, ShOp.of_code, BitcOp.of_code, AmoOp.of_code, AmofOp.of_code, CmOp.of_code, CmReach.of_code, CmExt.of_code, CsrxOp.of_code, Comb.of_code, Fmt.of_code, Rnd.of_code, Win.of_code, ACond.of_code, tagOf_tagReg, selOf_selCode, laneOf_laneCode]
theorem mul (x0 x1 x2 x3) : Statement (.mul x0 x1 x2 x3) := of_words rfl rfl rfl fun _ => by
  simp only [decodeRaw, decScalar, BitVec.reduceToNat, Nat.reduceLeDiff, reduceIte]
  simp (disch := omega) only [fld, bitAt, rowsOf, t16, t32, t48, t64, rowsPay, mpay, extract_append_low, extract_append_high, bit_append_low, bit_append_high]
  simp [bit, Width.of_code, Policy.of_code, Scope.of_code, Order.of_code, Cond.of_code, MulhMode.of_code, LiForm.of_code, LogOp.of_code, ShOp.of_code, BitcOp.of_code, AmoOp.of_code, AmofOp.of_code, CmOp.of_code, CmReach.of_code, CmExt.of_code, CsrxOp.of_code, Comb.of_code, Fmt.of_code, Rnd.of_code, Win.of_code, ACond.of_code, tagOf_tagReg, selOf_selCode, laneOf_laneCode]
theorem mulh (x0 x1 x2 x3) : Statement (.mulh x0 x1 x2 x3) := of_words rfl rfl rfl fun _ => by
  simp only [decodeRaw, decScalar, BitVec.reduceToNat, Nat.reduceLeDiff, reduceIte]
  simp (disch := omega) only [fld, bitAt, rowsOf, t16, t32, t48, t64, rowsPay, mpay, extract_append_low, extract_append_high, bit_append_low, bit_append_high]
  simp [bit, Width.of_code, Policy.of_code, Scope.of_code, Order.of_code, Cond.of_code, MulhMode.of_code, LiForm.of_code, LogOp.of_code, ShOp.of_code, BitcOp.of_code, AmoOp.of_code, AmofOp.of_code, CmOp.of_code, CmReach.of_code, CmExt.of_code, CsrxOp.of_code, Comb.of_code, Fmt.of_code, Rnd.of_code, Win.of_code, ACond.of_code, tagOf_tagReg, selOf_selCode, laneOf_laneCode]
theorem div (x0 x1 x2 x3 x4 x5) : Statement (.div x0 x1 x2 x3 x4 x5) := of_words rfl rfl rfl fun _ => by
  simp only [decodeRaw, decScalar, BitVec.reduceToNat, Nat.reduceLeDiff, reduceIte]
  simp (disch := omega) only [fld, bitAt, rowsOf, t16, t32, t48, t64, rowsPay, mpay, extract_append_low, extract_append_high, bit_append_low, bit_append_high]
  simp [bit, Width.of_code, Policy.of_code, Scope.of_code, Order.of_code, Cond.of_code, MulhMode.of_code, LiForm.of_code, LogOp.of_code, ShOp.of_code, BitcOp.of_code, AmoOp.of_code, AmofOp.of_code, CmOp.of_code, CmReach.of_code, CmExt.of_code, CsrxOp.of_code, Comb.of_code, Fmt.of_code, Rnd.of_code, Win.of_code, ACond.of_code, tagOf_tagReg, selOf_selCode, laneOf_laneCode]
theorem minmax (x0 x1 x2 x3 x4 x5) : Statement (.minmax x0 x1 x2 x3 x4 x5) := of_words rfl rfl rfl fun _ => by
  simp only [decodeRaw, decScalar, BitVec.reduceToNat, Nat.reduceLeDiff, reduceIte]
  simp (disch := omega) only [fld, bitAt, rowsOf, t16, t32, t48, t64, rowsPay, mpay, extract_append_low, extract_append_high, bit_append_low, bit_append_high]
  simp [bit, Width.of_code, Policy.of_code, Scope.of_code, Order.of_code, Cond.of_code, MulhMode.of_code, LiForm.of_code, LogOp.of_code, ShOp.of_code, BitcOp.of_code, AmoOp.of_code, AmofOp.of_code, CmOp.of_code, CmReach.of_code, CmExt.of_code, CsrxOp.of_code, Comb.of_code, Fmt.of_code, Rnd.of_code, Win.of_code, ACond.of_code, tagOf_tagReg, selOf_selCode, laneOf_laneCode]
theorem cmp (x0 x1 x2 x3) : Statement (.cmp x0 x1 x2 x3) := of_words rfl rfl rfl fun _ => by
  simp only [decodeRaw, decScalar, BitVec.reduceToNat, Nat.reduceLeDiff, reduceIte]
  simp (disch := omega) only [fld, bitAt, rowsOf, t16, t32, t48, t64, rowsPay, mpay, extract_append_low, extract_append_high, bit_append_low, bit_append_high]
  simp [bit, Width.of_code, Policy.of_code, Scope.of_code, Order.of_code, Cond.of_code, MulhMode.of_code, LiForm.of_code, LogOp.of_code, ShOp.of_code, BitcOp.of_code, AmoOp.of_code, AmofOp.of_code, CmOp.of_code, CmReach.of_code, CmExt.of_code, CsrxOp.of_code, Comb.of_code, Fmt.of_code, Rnd.of_code, Win.of_code, ACond.of_code, tagOf_tagReg, selOf_selCode, laneOf_laneCode]
theorem sel (x0 x1 x2 x3) : Statement (.sel x0 x1 x2 x3) := of_words rfl rfl rfl fun _ => by
  simp only [decodeRaw, decScalar, BitVec.reduceToNat, Nat.reduceLeDiff, reduceIte]
  simp (disch := omega) only [fld, bitAt, rowsOf, t16, t32, t48, t64, rowsPay, mpay, extract_append_low, extract_append_high, bit_append_low, bit_append_high]
  simp [bit, Width.of_code, Policy.of_code, Scope.of_code, Order.of_code, Cond.of_code, MulhMode.of_code, LiForm.of_code, LogOp.of_code, ShOp.of_code, BitcOp.of_code, AmoOp.of_code, AmofOp.of_code, CmOp.of_code, CmReach.of_code, CmExt.of_code, CsrxOp.of_code, Comb.of_code, Fmt.of_code, Rnd.of_code, Win.of_code, ACond.of_code, tagOf_tagReg, selOf_selCode, laneOf_laneCode]
theorem addi (x0 x1 x2 x3) : Statement (.addi x0 x1 x2 x3) := of_words rfl rfl rfl fun _ => by
  simp only [decodeRaw, decScalar, BitVec.reduceToNat, Nat.reduceLeDiff, reduceIte]
  simp (disch := omega) only [fld, bitAt, rowsOf, t16, t32, t48, t64, rowsPay, mpay, extract_append_low, extract_append_high, bit_append_low, bit_append_high]
  simp [bit, Width.of_code, Policy.of_code, Scope.of_code, Order.of_code, Cond.of_code, MulhMode.of_code, LiForm.of_code, LogOp.of_code, ShOp.of_code, BitcOp.of_code, AmoOp.of_code, AmofOp.of_code, CmOp.of_code, CmReach.of_code, CmExt.of_code, CsrxOp.of_code, Comb.of_code, Fmt.of_code, Rnd.of_code, Win.of_code, ACond.of_code, tagOf_tagReg, selOf_selCode, laneOf_laneCode]
theorem li (x0 x1 x2) : Statement (.li x0 x1 x2) := of_words rfl rfl rfl fun _ => by
  simp only [decodeRaw, decScalar, BitVec.reduceToNat, Nat.reduceLeDiff, reduceIte]
  simp (disch := omega) only [fld, bitAt, rowsOf, t16, t32, t48, t64, rowsPay, mpay, extract_append_low, extract_append_high, bit_append_low, bit_append_high]
  simp [bit, Width.of_code, Policy.of_code, Scope.of_code, Order.of_code, Cond.of_code, MulhMode.of_code, LiForm.of_code, LogOp.of_code, ShOp.of_code, BitcOp.of_code, AmoOp.of_code, AmofOp.of_code, CmOp.of_code, CmReach.of_code, CmExt.of_code, CsrxOp.of_code, Comb.of_code, Fmt.of_code, Rnd.of_code, Win.of_code, ACond.of_code, tagOf_tagReg, selOf_selCode, laneOf_laneCode]
theorem logi (x0 x1 x2 x3) : Statement (.logi x0 x1 x2 x3) := of_words rfl rfl rfl fun _ => by
  simp only [decodeRaw, decScalar, BitVec.reduceToNat, Nat.reduceLeDiff, reduceIte]
  simp (disch := omega) only [fld, bitAt, rowsOf, t16, t32, t48, t64, rowsPay, mpay, extract_append_low, extract_append_high, bit_append_low, bit_append_high]
  simp [bit, Width.of_code, Policy.of_code, Scope.of_code, Order.of_code, Cond.of_code, MulhMode.of_code, LiForm.of_code, LogOp.of_code, ShOp.of_code, BitcOp.of_code, AmoOp.of_code, AmofOp.of_code, CmOp.of_code, CmReach.of_code, CmExt.of_code, CsrxOp.of_code, Comb.of_code, Fmt.of_code, Rnd.of_code, Win.of_code, ACond.of_code, tagOf_tagReg, selOf_selCode, laneOf_laneCode]
theorem shi (x0 x1 x2 x3 x4) : Statement (.shi x0 x1 x2 x3 x4) := of_words rfl rfl rfl fun _ => by
  simp only [decodeRaw, decScalar, BitVec.reduceToNat, Nat.reduceLeDiff, reduceIte]
  simp (disch := omega) only [fld, bitAt, rowsOf, t16, t32, t48, t64, rowsPay, mpay, extract_append_low, extract_append_high, bit_append_low, bit_append_high]
  simp [bit, Width.of_code, Policy.of_code, Scope.of_code, Order.of_code, Cond.of_code, MulhMode.of_code, LiForm.of_code, LogOp.of_code, ShOp.of_code, BitcOp.of_code, AmoOp.of_code, AmofOp.of_code, CmOp.of_code, CmReach.of_code, CmExt.of_code, CsrxOp.of_code, Comb.of_code, Fmt.of_code, Rnd.of_code, Win.of_code, ACond.of_code, tagOf_tagReg, selOf_selCode, laneOf_laneCode]
theorem bext (x0 x1 x2 x3 x4) : Statement (.bext x0 x1 x2 x3 x4) := of_words rfl rfl rfl fun _ => by
  simp only [decodeRaw, decScalar, BitVec.reduceToNat, Nat.reduceLeDiff, reduceIte]
  simp (disch := omega) only [fld, bitAt, rowsOf, t16, t32, t48, t64, rowsPay, mpay, extract_append_low, extract_append_high, bit_append_low, bit_append_high]
  simp [bit, Width.of_code, Policy.of_code, Scope.of_code, Order.of_code, Cond.of_code, MulhMode.of_code, LiForm.of_code, LogOp.of_code, ShOp.of_code, BitcOp.of_code, AmoOp.of_code, AmofOp.of_code, CmOp.of_code, CmReach.of_code, CmExt.of_code, CsrxOp.of_code, Comb.of_code, Fmt.of_code, Rnd.of_code, Win.of_code, ACond.of_code, tagOf_tagReg, selOf_selCode, laneOf_laneCode]
theorem bins (x0 x1 x2 x3) : Statement (.bins x0 x1 x2 x3) := of_words rfl rfl rfl fun _ => by
  simp only [decodeRaw, decScalar, BitVec.reduceToNat, Nat.reduceLeDiff, reduceIte]
  simp (disch := omega) only [fld, bitAt, rowsOf, t16, t32, t48, t64, rowsPay, mpay, extract_append_low, extract_append_high, bit_append_low, bit_append_high]
  simp [bit, Width.of_code, Policy.of_code, Scope.of_code, Order.of_code, Cond.of_code, MulhMode.of_code, LiForm.of_code, LogOp.of_code, ShOp.of_code, BitcOp.of_code, AmoOp.of_code, AmofOp.of_code, CmOp.of_code, CmReach.of_code, CmExt.of_code, CsrxOp.of_code, Comb.of_code, Fmt.of_code, Rnd.of_code, Win.of_code, ACond.of_code, tagOf_tagReg, selOf_selCode, laneOf_laneCode]
theorem bitc (x0 x1 x2) : Statement (.bitc x0 x1 x2) := of_words rfl rfl rfl fun _ => by
  simp only [decodeRaw, decScalar, BitVec.reduceToNat, Nat.reduceLeDiff, reduceIte]
  simp (disch := omega) only [fld, bitAt, rowsOf, t16, t32, t48, t64, rowsPay, mpay, extract_append_low, extract_append_high, bit_append_low, bit_append_high]
  simp [bit, Width.of_code, Policy.of_code, Scope.of_code, Order.of_code, Cond.of_code, MulhMode.of_code, LiForm.of_code, LogOp.of_code, ShOp.of_code, BitcOp.of_code, AmoOp.of_code, AmofOp.of_code, CmOp.of_code, CmReach.of_code, CmExt.of_code, CsrxOp.of_code, Comb.of_code, Fmt.of_code, Rnd.of_code, Win.of_code, ACond.of_code, tagOf_tagReg, selOf_selCode, laneOf_laneCode]
theorem hdrx (x0 x1 x2 x3) : Statement (.hdrx x0 x1 x2 x3) := of_words rfl rfl rfl fun _ => by
  simp only [decodeRaw, decScalar, BitVec.reduceToNat, Nat.reduceLeDiff, reduceIte]
  simp (disch := omega) only [fld, bitAt, rowsOf, t16, t32, t48, t64, rowsPay, mpay, extract_append_low, extract_append_high, bit_append_low, bit_append_high]
  simp [bit, Width.of_code, Policy.of_code, Scope.of_code, Order.of_code, Cond.of_code, MulhMode.of_code, LiForm.of_code, LogOp.of_code, ShOp.of_code, BitcOp.of_code, AmoOp.of_code, AmofOp.of_code, CmOp.of_code, CmReach.of_code, CmExt.of_code, CsrxOp.of_code, Comb.of_code, Fmt.of_code, Rnd.of_code, Win.of_code, ACond.of_code, tagOf_tagReg, selOf_selCode, laneOf_laneCode]
theorem hdrp (x0 x1 x2 x3) : Statement (.hdrp x0 x1 x2 x3) := of_words rfl rfl rfl fun _ => by
  simp only [decodeRaw, decScalar, BitVec.reduceToNat, Nat.reduceLeDiff, reduceIte]
  simp (disch := omega) only [fld, bitAt, rowsOf, t16, t32, t48, t64, rowsPay, mpay, extract_append_low, extract_append_high, bit_append_low, bit_append_high]
  simp [bit, Width.of_code, Policy.of_code, Scope.of_code, Order.of_code, Cond.of_code, MulhMode.of_code, LiForm.of_code, LogOp.of_code, ShOp.of_code, BitcOp.of_code, AmoOp.of_code, AmofOp.of_code, CmOp.of_code, CmReach.of_code, CmExt.of_code, CsrxOp.of_code, Comb.of_code, Fmt.of_code, Rnd.of_code, Win.of_code, ACond.of_code, tagOf_tagReg, selOf_selCode, laneOf_laneCode]
theorem addpc (x0 x1) : Statement (.addpc x0 x1) := of_words rfl rfl rfl fun _ => by
  have h : fld (t32 0 (x1.extractLsb' 20 6) (x1.extractLsb' 0 20)) 0 26 = x1 := by
    apply BitVec.eq_of_getLsbD_eq
    intro i hi
    simp only [fld, t32, BitVec.getLsbD_extractLsb', BitVec.getLsbD_append, hi, decide_true, Bool.true_and, Nat.zero_add]
    by_cases h : i < 20
    · simp [h, show i < 6 + 6 + 20 by omega]
    · simp [h, show i < 6 + 6 + 20 by omega, show i - 20 < 6 by omega, show 20 + (i - 20) = i by omega]
  simp only [decodeRaw, decScalar, BitVec.reduceToNat, Nat.reduceLeDiff, reduceIte]
  rw [h]
theorem br (x0 x1 x2 x3 x4) : Statement (.br x0 x1 x2 x3 x4) := of_words rfl rfl rfl fun _ => by
  simp only [decodeRaw, decScalar, BitVec.reduceToNat, Nat.reduceLeDiff, reduceIte]
  simp (disch := omega) only [fld, bitAt, rowsOf, t16, t32, t48, t64, rowsPay, mpay, extract_append_low, extract_append_high, bit_append_low, bit_append_high]
  simp [bit, Width.of_code, Policy.of_code, Scope.of_code, Order.of_code, Cond.of_code, MulhMode.of_code, LiForm.of_code, LogOp.of_code, ShOp.of_code, BitcOp.of_code, AmoOp.of_code, AmofOp.of_code, CmOp.of_code, CmReach.of_code, CmExt.of_code, CsrxOp.of_code, Comb.of_code, Fmt.of_code, Rnd.of_code, Win.of_code, ACond.of_code, tagOf_tagReg, selOf_selCode, laneOf_laneCode]
theorem brz (x0 x1 x2 x3) : Statement (.brz x0 x1 x2 x3) := of_words rfl rfl rfl fun _ => by
  simp only [decodeRaw, decScalar, BitVec.reduceToNat, Nat.reduceLeDiff, reduceIte]
  simp (disch := omega) only [fld, bitAt, rowsOf, t16, t32, t48, t64, rowsPay, mpay, extract_append_low, extract_append_high, bit_append_low, bit_append_high]
  simp [bit, Width.of_code, Policy.of_code, Scope.of_code, Order.of_code, Cond.of_code, MulhMode.of_code, LiForm.of_code, LogOp.of_code, ShOp.of_code, BitcOp.of_code, AmoOp.of_code, AmofOp.of_code, CmOp.of_code, CmReach.of_code, CmExt.of_code, CsrxOp.of_code, Comb.of_code, Fmt.of_code, Rnd.of_code, Win.of_code, ACond.of_code, tagOf_tagReg, selOf_selCode, laneOf_laneCode]
theorem jmp (x0 x1) : Statement (.jmp x0 x1) := of_words rfl rfl rfl fun _ => by
  simp only [decodeRaw, decScalar, BitVec.reduceToNat, Nat.reduceLeDiff, reduceIte]
  simp (disch := omega) only [fld, bitAt, rowsOf, t16, t32, t48, t64, rowsPay, mpay, extract_append_low, extract_append_high, bit_append_low, bit_append_high]
  simp [bit, Width.of_code, Policy.of_code, Scope.of_code, Order.of_code, Cond.of_code, MulhMode.of_code, LiForm.of_code, LogOp.of_code, ShOp.of_code, BitcOp.of_code, AmoOp.of_code, AmofOp.of_code, CmOp.of_code, CmReach.of_code, CmExt.of_code, CsrxOp.of_code, Comb.of_code, Fmt.of_code, Rnd.of_code, Win.of_code, ACond.of_code, tagOf_tagReg, selOf_selCode, laneOf_laneCode]
theorem jal (x0 x1 x2) : Statement (.jal x0 x1 x2) := of_words rfl rfl rfl fun _ => by
  simp only [decodeRaw, decScalar, BitVec.reduceToNat, Nat.reduceLeDiff, reduceIte]
  simp (disch := omega) only [fld, bitAt, rowsOf, t16, t32, t48, t64, rowsPay, mpay, extract_append_low, extract_append_high, bit_append_low, bit_append_high]
  simp [bit, Width.of_code, Policy.of_code, Scope.of_code, Order.of_code, Cond.of_code, MulhMode.of_code, LiForm.of_code, LogOp.of_code, ShOp.of_code, BitcOp.of_code, AmoOp.of_code, AmofOp.of_code, CmOp.of_code, CmReach.of_code, CmExt.of_code, CsrxOp.of_code, Comb.of_code, Fmt.of_code, Rnd.of_code, Win.of_code, ACond.of_code, tagOf_tagReg, selOf_selCode, laneOf_laneCode]
theorem jr (x0 x1) : Statement (.jr x0 x1) := of_words rfl rfl rfl fun _ => by
  simp only [decodeRaw, decScalar, BitVec.reduceToNat, Nat.reduceLeDiff, reduceIte]
  simp (disch := omega) only [fld, bitAt, rowsOf, t16, t32, t48, t64, rowsPay, mpay, extract_append_low, extract_append_high, bit_append_low, bit_append_high]
  simp [bit, Width.of_code, Policy.of_code, Scope.of_code, Order.of_code, Cond.of_code, MulhMode.of_code, LiForm.of_code, LogOp.of_code, ShOp.of_code, BitcOp.of_code, AmoOp.of_code, AmofOp.of_code, CmOp.of_code, CmReach.of_code, CmExt.of_code, CsrxOp.of_code, Comb.of_code, Fmt.of_code, Rnd.of_code, Win.of_code, ACond.of_code, tagOf_tagReg, selOf_selCode, laneOf_laneCode]
theorem lineFetch (x0) : Statement (.lineFetch x0) := of_event rfl
theorem ld (x0 x1 x2 x3 x4 x5) : Statement (.ld x0 x1 x2 x3 x4 x5) := of_words rfl rfl rfl fun _ => by
  simp only [decodeRaw, decMem, BitVec.reduceToNat, Nat.reduceLeDiff, reduceIte]
  simp (disch := omega) only [fld, bitAt, rowsOf, t16, t32, t48, t64, rowsPay, mpay, extract_append_low, extract_append_high, bit_append_low, bit_append_high]
  simp [bit, Width.of_code, Policy.of_code, Scope.of_code, Order.of_code, Cond.of_code, MulhMode.of_code, LiForm.of_code, LogOp.of_code, ShOp.of_code, BitcOp.of_code, AmoOp.of_code, AmofOp.of_code, CmOp.of_code, CmReach.of_code, CmExt.of_code, CsrxOp.of_code, Comb.of_code, Fmt.of_code, Rnd.of_code, Win.of_code, ACond.of_code, tagOf_tagReg, selOf_selCode, laneOf_laneCode]
theorem st (x0 x1 x2 x3 x4) : Statement (.st x0 x1 x2 x3 x4) := of_words rfl rfl rfl fun _ => by
  simp only [decodeRaw, decMem, BitVec.reduceToNat, Nat.reduceLeDiff, reduceIte]
  simp (disch := omega) only [fld, bitAt, rowsOf, t16, t32, t48, t64, rowsPay, mpay, extract_append_low, extract_append_high, bit_append_low, bit_append_high]
  simp [bit, Width.of_code, Policy.of_code, Scope.of_code, Order.of_code, Cond.of_code, MulhMode.of_code, LiForm.of_code, LogOp.of_code, ShOp.of_code, BitcOp.of_code, AmoOp.of_code, AmofOp.of_code, CmOp.of_code, CmReach.of_code, CmExt.of_code, CsrxOp.of_code, Comb.of_code, Fmt.of_code, Rnd.of_code, Win.of_code, ACond.of_code, tagOf_tagReg, selOf_selCode, laneOf_laneCode]
theorem lda (x0 x1 x2 x3 x4 x5 x6) : Statement (.lda x0 x1 x2 x3 x4 x5 x6) := of_words rfl rfl rfl fun _ => by
  simp only [decodeRaw, decMem, BitVec.reduceToNat, Nat.reduceLeDiff, reduceIte]
  simp (disch := omega) only [fld, bitAt, rowsOf, t16, t32, t48, t64, rowsPay, mpay, extract_append_low, extract_append_high, bit_append_low, bit_append_high]
  simp [bit, Width.of_code, Policy.of_code, Scope.of_code, Order.of_code, Cond.of_code, MulhMode.of_code, LiForm.of_code, LogOp.of_code, ShOp.of_code, BitcOp.of_code, AmoOp.of_code, AmofOp.of_code, CmOp.of_code, CmReach.of_code, CmExt.of_code, CsrxOp.of_code, Comb.of_code, Fmt.of_code, Rnd.of_code, Win.of_code, ACond.of_code, tagOf_tagReg, selOf_selCode, laneOf_laneCode]
theorem stl (x0 x1 x2 x3 x4 x5) : Statement (.stl x0 x1 x2 x3 x4 x5) := of_words rfl rfl rfl fun _ => by
  simp only [decodeRaw, decMem, BitVec.reduceToNat, Nat.reduceLeDiff, reduceIte]
  simp (disch := omega) only [fld, bitAt, rowsOf, t16, t32, t48, t64, rowsPay, mpay, extract_append_low, extract_append_high, bit_append_low, bit_append_high]
  simp [bit, Width.of_code, Policy.of_code, Scope.of_code, Order.of_code, Cond.of_code, MulhMode.of_code, LiForm.of_code, LogOp.of_code, ShOp.of_code, BitcOp.of_code, AmoOp.of_code, AmofOp.of_code, CmOp.of_code, CmReach.of_code, CmExt.of_code, CsrxOp.of_code, Comb.of_code, Fmt.of_code, Rnd.of_code, Win.of_code, ACond.of_code, tagOf_tagReg, selOf_selCode, laneOf_laneCode]
theorem ldx (x0 x1 x2 x3 x4 x5 x6) : Statement (.ldx x0 x1 x2 x3 x4 x5 x6) := of_words rfl rfl rfl fun _ => by
  simp only [decodeRaw, decMem, BitVec.reduceToNat, Nat.reduceLeDiff, reduceIte]
  simp (disch := omega) only [fld, bitAt, rowsOf, t16, t32, t48, t64, rowsPay, mpay, extract_append_low, extract_append_high, bit_append_low, bit_append_high]
  simp [bit, Width.of_code, Policy.of_code, Scope.of_code, Order.of_code, Cond.of_code, MulhMode.of_code, LiForm.of_code, LogOp.of_code, ShOp.of_code, BitcOp.of_code, AmoOp.of_code, AmofOp.of_code, CmOp.of_code, CmReach.of_code, CmExt.of_code, CsrxOp.of_code, Comb.of_code, Fmt.of_code, Rnd.of_code, Win.of_code, ACond.of_code, tagOf_tagReg, selOf_selCode, laneOf_laneCode]
theorem stx (x0 x1 x2 x3 x4 x5) : Statement (.stx x0 x1 x2 x3 x4 x5) := of_words rfl rfl rfl fun _ => by
  simp only [decodeRaw, decMem, BitVec.reduceToNat, Nat.reduceLeDiff, reduceIte]
  simp (disch := omega) only [fld, bitAt, rowsOf, t16, t32, t48, t64, rowsPay, mpay, extract_append_low, extract_append_high, bit_append_low, bit_append_high]
  simp [bit, Width.of_code, Policy.of_code, Scope.of_code, Order.of_code, Cond.of_code, MulhMode.of_code, LiForm.of_code, LogOp.of_code, ShOp.of_code, BitcOp.of_code, AmoOp.of_code, AmofOp.of_code, CmOp.of_code, CmReach.of_code, CmExt.of_code, CsrxOp.of_code, Comb.of_code, Fmt.of_code, Rnd.of_code, Win.of_code, ACond.of_code, tagOf_tagReg, selOf_selCode, laneOf_laneCode]
theorem amo (x0 x1 x2 x3 x4 x5 x6 x7) : Statement (.amo x0 x1 x2 x3 x4 x5 x6 x7) := of_words rfl rfl rfl fun _ => by
  simp only [decodeRaw, decMem, BitVec.reduceToNat, Nat.reduceLeDiff, reduceIte]
  simp (disch := omega) only [fld, bitAt, rowsOf, t16, t32, t48, t64, rowsPay, mpay, extract_append_low, extract_append_high, bit_append_low, bit_append_high]
  simp [bit, Width.of_code, Policy.of_code, Scope.of_code, Order.of_code, Cond.of_code, MulhMode.of_code, LiForm.of_code, LogOp.of_code, ShOp.of_code, BitcOp.of_code, AmoOp.of_code, AmofOp.of_code, CmOp.of_code, CmReach.of_code, CmExt.of_code, CsrxOp.of_code, Comb.of_code, Fmt.of_code, Rnd.of_code, Win.of_code, ACond.of_code, tagOf_tagReg, selOf_selCode, laneOf_laneCode]
theorem cas (x0 x1 x2 x3 x4 x5 x6 x7) : Statement (.cas x0 x1 x2 x3 x4 x5 x6 x7) := of_words rfl rfl rfl fun _ => by
  simp only [decodeRaw, decMem, BitVec.reduceToNat, Nat.reduceLeDiff, reduceIte]
  simp (disch := omega) only [fld, bitAt, rowsOf, t16, t32, t48, t64, rowsPay, mpay, extract_append_low, extract_append_high, bit_append_low, bit_append_high]
  simp [bit, Width.of_code, Policy.of_code, Scope.of_code, Order.of_code, Cond.of_code, MulhMode.of_code, LiForm.of_code, LogOp.of_code, ShOp.of_code, BitcOp.of_code, AmoOp.of_code, AmofOp.of_code, CmOp.of_code, CmReach.of_code, CmExt.of_code, CsrxOp.of_code, Comb.of_code, Fmt.of_code, Rnd.of_code, Win.of_code, ACond.of_code, tagOf_tagReg, selOf_selCode, laneOf_laneCode]
theorem amof (x0 x1 x2 x3 x4 x5 x6) : Statement (.amof x0 x1 x2 x3 x4 x5 x6) := of_words rfl rfl rfl fun _ => by
  simp only [decodeRaw, decMem, BitVec.reduceToNat, Nat.reduceLeDiff, reduceIte]
  simp (disch := omega) only [fld, bitAt, rowsOf, t16, t32, t48, t64, rowsPay, mpay, extract_append_low, extract_append_high, bit_append_low, bit_append_high]
  simp [bit, Width.of_code, Policy.of_code, Scope.of_code, Order.of_code, Cond.of_code, MulhMode.of_code, LiForm.of_code, LogOp.of_code, ShOp.of_code, BitcOp.of_code, AmoOp.of_code, AmofOp.of_code, CmOp.of_code, CmReach.of_code, CmExt.of_code, CsrxOp.of_code, Comb.of_code, Fmt.of_code, Rnd.of_code, Win.of_code, ACond.of_code, tagOf_tagReg, selOf_selCode, laneOf_laneCode]
theorem fence (x0) : Statement (.fence x0) := of_words rfl rfl rfl fun _ => by
  simp only [decodeRaw, decMem, BitVec.reduceToNat, Nat.reduceLeDiff, reduceIte]
  simp (disch := omega) only [fld, bitAt, rowsOf, t16, t32, t48, t64, rowsPay, mpay, extract_append_low, extract_append_high, bit_append_low, bit_append_high]
  simp [bit, Width.of_code, Policy.of_code, Scope.of_code, Order.of_code, Cond.of_code, MulhMode.of_code, LiForm.of_code, LogOp.of_code, ShOp.of_code, BitcOp.of_code, AmoOp.of_code, AmofOp.of_code, CmOp.of_code, CmReach.of_code, CmExt.of_code, CsrxOp.of_code, Comb.of_code, Fmt.of_code, Rnd.of_code, Win.of_code, ACond.of_code, tagOf_tagReg, selOf_selCode, laneOf_laneCode]
theorem waitm (x0 x1 x2 x3 x4 x5 x6) : Statement (.waitm x0 x1 x2 x3 x4 x5 x6) := of_words rfl rfl rfl fun _ => by
  simp only [decodeRaw, decMem, BitVec.reduceToNat, Nat.reduceLeDiff, reduceIte]
  simp (disch := omega) only [fld, bitAt, rowsOf, t16, t32, t48, t64, rowsPay, mpay, extract_append_low, extract_append_high, bit_append_low, bit_append_high]
  simp [bit, Width.of_code, Policy.of_code, Scope.of_code, Order.of_code, Cond.of_code, MulhMode.of_code, LiForm.of_code, LogOp.of_code, ShOp.of_code, BitcOp.of_code, AmoOp.of_code, AmofOp.of_code, CmOp.of_code, CmReach.of_code, CmExt.of_code, CsrxOp.of_code, Comb.of_code, Fmt.of_code, Rnd.of_code, Win.of_code, ACond.of_code, tagOf_tagReg, selOf_selCode, laneOf_laneCode]
theorem waitmWake (x0) : Statement (.waitmWake x0) := of_event rfl
theorem waitmLimitExpire (x0) : Statement (.waitmLimitExpire x0) := of_event rfl
theorem waitc (x0 x1 x2 x3) : Statement (.waitc x0 x1 x2 x3) := of_words rfl rfl rfl fun _ => by
  simp only [decodeRaw, decMem, BitVec.reduceToNat, Nat.reduceLeDiff, reduceIte]
  simp (disch := omega) only [fld, bitAt, rowsOf, t16, t32, t48, t64, rowsPay, mpay, extract_append_low, extract_append_high, bit_append_low, bit_append_high]
  simp [bit, Width.of_code, Policy.of_code, Scope.of_code, Order.of_code, Cond.of_code, MulhMode.of_code, LiForm.of_code, LogOp.of_code, ShOp.of_code, BitcOp.of_code, AmoOp.of_code, AmofOp.of_code, CmOp.of_code, CmReach.of_code, CmExt.of_code, CsrxOp.of_code, Comb.of_code, Fmt.of_code, Rnd.of_code, Win.of_code, ACond.of_code, tagOf_tagReg, selOf_selCode, laneOf_laneCode]
theorem cmaint (x0 x1 x2 x3 x4) : Statement (.cmaint x0 x1 x2 x3 x4) := of_words rfl rfl rfl fun _ => by
  simp only [decodeRaw, decMem, BitVec.reduceToNat, Nat.reduceLeDiff, reduceIte]
  simp (disch := omega) only [fld, bitAt, rowsOf, t16, t32, t48, t64, rowsPay, mpay, extract_append_low, extract_append_high, bit_append_low, bit_append_high]
  simp [bit, Width.of_code, Policy.of_code, Scope.of_code, Order.of_code, Cond.of_code, MulhMode.of_code, LiForm.of_code, LogOp.of_code, ShOp.of_code, BitcOp.of_code, AmoOp.of_code, AmofOp.of_code, CmOp.of_code, CmReach.of_code, CmExt.of_code, CsrxOp.of_code, Comb.of_code, Fmt.of_code, Rnd.of_code, Win.of_code, ACond.of_code, tagOf_tagReg, selOf_selCode, laneOf_laneCode]
theorem get (x0 x1 x2 x3 x4) : Statement (.get x0 x1 x2 x3 x4) := of_words rfl rfl rfl fun _ => by
  simp only [decodeRaw, decMem, BitVec.reduceToNat, Nat.reduceLeDiff, reduceIte]
  simp (disch := omega) only [fld, bitAt, rowsOf, t16, t32, t48, t64, rowsPay, mpay, extract_append_low, extract_append_high, bit_append_low, bit_append_high]
  simp [bit, Width.of_code, Policy.of_code, Scope.of_code, Order.of_code, Cond.of_code, MulhMode.of_code, LiForm.of_code, LogOp.of_code, ShOp.of_code, BitcOp.of_code, AmoOp.of_code, AmofOp.of_code, CmOp.of_code, CmReach.of_code, CmExt.of_code, CsrxOp.of_code, Comb.of_code, Fmt.of_code, Rnd.of_code, Win.of_code, ACond.of_code, tagOf_tagReg, selOf_selCode, laneOf_laneCode]
theorem put (x0 x1 x2 x3 x4) : Statement (.put x0 x1 x2 x3 x4) := of_words rfl rfl rfl fun _ => by
  simp only [decodeRaw, decMem, BitVec.reduceToNat, Nat.reduceLeDiff, reduceIte]
  simp (disch := omega) only [fld, bitAt, rowsOf, t16, t32, t48, t64, rowsPay, mpay, extract_append_low, extract_append_high, bit_append_low, bit_append_high]
  simp [bit, Width.of_code, Policy.of_code, Scope.of_code, Order.of_code, Cond.of_code, MulhMode.of_code, LiForm.of_code, LogOp.of_code, ShOp.of_code, BitcOp.of_code, AmoOp.of_code, AmofOp.of_code, CmOp.of_code, CmReach.of_code, CmExt.of_code, CsrxOp.of_code, Comb.of_code, Fmt.of_code, Rnd.of_code, Win.of_code, ACond.of_code, tagOf_tagReg, selOf_selCode, laneOf_laneCode]
theorem ramo (x0 x1 x2 x3 x4 x5) : Statement (.ramo x0 x1 x2 x3 x4 x5) := of_words rfl rfl rfl fun _ => by
  simp only [decodeRaw, decMem, BitVec.reduceToNat, Nat.reduceLeDiff, reduceIte]
  simp (disch := omega) only [fld, bitAt, rowsOf, t16, t32, t48, t64, rowsPay, mpay, extract_append_low, extract_append_high, bit_append_low, bit_append_high]
  simp [bit, Width.of_code, Policy.of_code, Scope.of_code, Order.of_code, Cond.of_code, MulhMode.of_code, LiForm.of_code, LogOp.of_code, ShOp.of_code, BitcOp.of_code, AmoOp.of_code, AmofOp.of_code, CmOp.of_code, CmReach.of_code, CmExt.of_code, CsrxOp.of_code, Comb.of_code, Fmt.of_code, Rnd.of_code, Win.of_code, ACond.of_code, tagOf_tagReg, selOf_selCode, laneOf_laneCode]
theorem remoteOpPerform (x0) : Statement (.remoteOpPerform x0) := of_event rfl
theorem remoteReply (x0) : Statement (.remoteReply x0) := of_event rfl
theorem csrr (x0 x1) : Statement (.csrr x0 x1) := of_words rfl rfl rfl fun _ => by
  simp only [decodeRaw, decSys, BitVec.reduceToNat, Nat.reduceLeDiff, reduceIte]
  simp (disch := omega) only [fld, bitAt, rowsOf, t16, t32, t48, t64, rowsPay, mpay, extract_append_low, extract_append_high, bit_append_low, bit_append_high]
  simp [bit, Width.of_code, Policy.of_code, Scope.of_code, Order.of_code, Cond.of_code, MulhMode.of_code, LiForm.of_code, LogOp.of_code, ShOp.of_code, BitcOp.of_code, AmoOp.of_code, AmofOp.of_code, CmOp.of_code, CmReach.of_code, CmExt.of_code, CsrxOp.of_code, Comb.of_code, Fmt.of_code, Rnd.of_code, Win.of_code, ACond.of_code, tagOf_tagReg, selOf_selCode, laneOf_laneCode]
theorem csrw (x0 x1) : Statement (.csrw x0 x1) := of_words rfl rfl rfl fun _ => by
  simp only [decodeRaw, decSys, BitVec.reduceToNat, Nat.reduceLeDiff, reduceIte]
  simp (disch := omega) only [fld, bitAt, rowsOf, t16, t32, t48, t64, rowsPay, mpay, extract_append_low, extract_append_high, bit_append_low, bit_append_high]
  simp [bit, Width.of_code, Policy.of_code, Scope.of_code, Order.of_code, Cond.of_code, MulhMode.of_code, LiForm.of_code, LogOp.of_code, ShOp.of_code, BitcOp.of_code, AmoOp.of_code, AmofOp.of_code, CmOp.of_code, CmReach.of_code, CmExt.of_code, CsrxOp.of_code, Comb.of_code, Fmt.of_code, Rnd.of_code, Win.of_code, ACond.of_code, tagOf_tagReg, selOf_selCode, laneOf_laneCode]
theorem csrx (x0 x1 x2 x3) : Statement (.csrx x0 x1 x2 x3) := of_words rfl rfl rfl fun _ => by
  simp only [decodeRaw, decSys, BitVec.reduceToNat, Nat.reduceLeDiff, reduceIte]
  simp (disch := omega) only [fld, bitAt, rowsOf, t16, t32, t48, t64, rowsPay, mpay, extract_append_low, extract_append_high, bit_append_low, bit_append_high]
  simp [bit, Width.of_code, Policy.of_code, Scope.of_code, Order.of_code, Cond.of_code, MulhMode.of_code, LiForm.of_code, LogOp.of_code, ShOp.of_code, BitcOp.of_code, AmoOp.of_code, AmofOp.of_code, CmOp.of_code, CmReach.of_code, CmExt.of_code, CsrxOp.of_code, Comb.of_code, Fmt.of_code, Rnd.of_code, Win.of_code, ACond.of_code, tagOf_tagReg, selOf_selCode, laneOf_laneCode]
theorem trap (x0) : Statement (.trap x0) := of_words rfl rfl rfl fun _ => by
  simp only [decodeRaw, decSys, BitVec.reduceToNat, Nat.reduceLeDiff, reduceIte]
  simp (disch := omega) only [fld, bitAt, rowsOf, t16, t32, t48, t64, rowsPay, mpay, extract_append_low, extract_append_high, bit_append_low, bit_append_high]
  simp [bit, Width.of_code, Policy.of_code, Scope.of_code, Order.of_code, Cond.of_code, MulhMode.of_code, LiForm.of_code, LogOp.of_code, ShOp.of_code, BitcOp.of_code, AmoOp.of_code, AmofOp.of_code, CmOp.of_code, CmReach.of_code, CmExt.of_code, CsrxOp.of_code, Comb.of_code, Fmt.of_code, Rnd.of_code, Win.of_code, ACond.of_code, tagOf_tagReg, selOf_selCode, laneOf_laneCode]
theorem sysc (x0) : Statement (.sysc x0) := of_words rfl rfl rfl fun _ => by
  simp only [decodeRaw, decSys, BitVec.reduceToNat, Nat.reduceLeDiff, reduceIte]
  simp (disch := omega) only [fld, bitAt, rowsOf, t16, t32, t48, t64, rowsPay, mpay, extract_append_low, extract_append_high, bit_append_low, bit_append_high]
  simp [bit, Width.of_code, Policy.of_code, Scope.of_code, Order.of_code, Cond.of_code, MulhMode.of_code, LiForm.of_code, LogOp.of_code, ShOp.of_code, BitcOp.of_code, AmoOp.of_code, AmofOp.of_code, CmOp.of_code, CmReach.of_code, CmExt.of_code, CsrxOp.of_code, Comb.of_code, Fmt.of_code, Rnd.of_code, Win.of_code, ACond.of_code, tagOf_tagReg, selOf_selCode, laneOf_laneCode]
theorem eret : Statement .eret := of_words rfl rfl rfl fun _ => rfl
theorem idle (x0) : Statement (.idle x0) := of_words rfl rfl rfl fun _ => by
  simp only [decodeRaw, decSys, BitVec.reduceToNat, Nat.reduceLeDiff, reduceIte]
  simp (disch := omega) only [fld, bitAt, rowsOf, t16, t32, t48, t64, rowsPay, mpay, extract_append_low, extract_append_high, bit_append_low, bit_append_high]
  simp [bit, Width.of_code, Policy.of_code, Scope.of_code, Order.of_code, Cond.of_code, MulhMode.of_code, LiForm.of_code, LogOp.of_code, ShOp.of_code, BitcOp.of_code, AmoOp.of_code, AmofOp.of_code, CmOp.of_code, CmReach.of_code, CmExt.of_code, CsrxOp.of_code, Comb.of_code, Fmt.of_code, Rnd.of_code, Win.of_code, ACond.of_code, tagOf_tagReg, selOf_selCode, laneOf_laneCode]
theorem ckpt (x0) : Statement (.ckpt x0) := of_words rfl rfl rfl fun _ => by
  simp only [decodeRaw, decSys, BitVec.reduceToNat, Nat.reduceLeDiff, reduceIte]
  simp (disch := omega) only [fld, bitAt, rowsOf, t16, t32, t48, t64, rowsPay, mpay, extract_append_low, extract_append_high, bit_append_low, bit_append_high]
  simp [bit, Width.of_code, Policy.of_code, Scope.of_code, Order.of_code, Cond.of_code, MulhMode.of_code, LiForm.of_code, LogOp.of_code, ShOp.of_code, BitcOp.of_code, AmoOp.of_code, AmofOp.of_code, CmOp.of_code, CmReach.of_code, CmExt.of_code, CsrxOp.of_code, Comb.of_code, Fmt.of_code, Rnd.of_code, Win.of_code, ACond.of_code, tagOf_tagReg, selOf_selCode, laneOf_laneCode]
theorem rmread (x0 x1) : Statement (.rmread x0 x1) := of_words rfl rfl rfl fun _ => by
  simp only [decodeRaw, decSys, BitVec.reduceToNat, Nat.reduceLeDiff, reduceIte]
  simp (disch := omega) only [fld, bitAt, rowsOf, t16, t32, t48, t64, rowsPay, mpay, extract_append_low, extract_append_high, bit_append_low, bit_append_high]
  simp [bit, Width.of_code, Policy.of_code, Scope.of_code, Order.of_code, Cond.of_code, MulhMode.of_code, LiForm.of_code, LogOp.of_code, ShOp.of_code, BitcOp.of_code, AmoOp.of_code, AmofOp.of_code, CmOp.of_code, CmReach.of_code, CmExt.of_code, CsrxOp.of_code, Comb.of_code, Fmt.of_code, Rnd.of_code, Win.of_code, ACond.of_code, tagOf_tagReg, selOf_selCode, laneOf_laneCode]
theorem rmack (x0) : Statement (.rmack x0) := of_words rfl rfl rfl fun _ => rfl
theorem time (x0) : Statement (.time x0) := of_words rfl rfl rfl fun _ => rfl
theorem snap : Statement .snap := of_words rfl rfl rfl fun _ => rfl
theorem tlbi (x0) : Statement (.tlbi x0) := by
  cases x0 with
  | va a b =>
    exact of_words rfl rfl rfl fun _ => by
      simp only [decodeRaw, decSys, BitVec.reduceToNat, Nat.reduceLeDiff, reduceIte]
      simp (disch := omega) only [fld, bitAt, rowsOf, t16, t32, t48, t64, rowsPay, mpay, extract_append_low, extract_append_high, bit_append_low, bit_append_high]
      simp [bit, Fmt.of_code, ACond.of_code, Width.of_code, Policy.of_code, Scope.of_code, Order.of_code, Comb.of_code, Rnd.of_code, tagOf_tagReg, selOf_selCode, laneOf_laneCode]
  | vag a =>
    exact of_words rfl rfl rfl fun _ => by
      simp only [decodeRaw, decSys, BitVec.reduceToNat, Nat.reduceLeDiff, reduceIte]
      simp (disch := omega) only [fld, bitAt, rowsOf, t16, t32, t48, t64, rowsPay, mpay, extract_append_low, extract_append_high, bit_append_low, bit_append_high]
      simp [bit, Fmt.of_code, ACond.of_code, Width.of_code, Policy.of_code, Scope.of_code, Order.of_code, Comb.of_code, Rnd.of_code, tagOf_tagReg, selOf_selCode, laneOf_laneCode]
  | ctx b =>
    exact of_words rfl rfl rfl fun _ => by
      simp only [decodeRaw, decSys, BitVec.reduceToNat, Nat.reduceLeDiff, reduceIte]
      simp (disch := omega) only [fld, bitAt, rowsOf, t16, t32, t48, t64, rowsPay, mpay, extract_append_low, extract_append_high, bit_append_low, bit_append_high]
      simp [bit, Fmt.of_code, ACond.of_code, Width.of_code, Policy.of_code, Scope.of_code, Order.of_code, Comb.of_code, Rnd.of_code, tagOf_tagReg, selOf_selCode, laneOf_laneCode]
  | all => exact of_words rfl rfl rfl fun _ => rfl
theorem tlbiComplete (x0) : Statement (.tlbiComplete x0) := of_event rfl
theorem ien (x0 x1) : Statement (.ien x0 x1) := of_words rfl rfl rfl fun _ => by
  simp only [decodeRaw, decSys, BitVec.reduceToNat, Nat.reduceLeDiff, reduceIte]
  simp (disch := omega) only [fld, bitAt, rowsOf, t16, t32, t48, t64, rowsPay, mpay, extract_append_low, extract_append_high, bit_append_low, bit_append_high]
  simp [bit, Fmt.of_code, ACond.of_code, Width.of_code, Policy.of_code, Scope.of_code, Order.of_code, Comb.of_code, Rnd.of_code, tagOf_tagReg, selOf_selCode, laneOf_laneCode]
  cases x0 <;> decide
theorem nrowOpen (x0 x1) : Statement (.nrowOpen x0 x1) := of_words rfl rfl rfl fun _ => by
  simp only [decodeRaw, decSys, BitVec.reduceToNat, Nat.reduceLeDiff, reduceIte]
  simp (disch := omega) only [fld, bitAt, rowsOf, t16, t32, t48, t64, rowsPay, mpay, extract_append_low, extract_append_high, bit_append_low, bit_append_high]
  simp [bit, Width.of_code, Policy.of_code, Scope.of_code, Order.of_code, Cond.of_code, MulhMode.of_code, LiForm.of_code, LogOp.of_code, ShOp.of_code, BitcOp.of_code, AmoOp.of_code, AmofOp.of_code, CmOp.of_code, CmReach.of_code, CmExt.of_code, CsrxOp.of_code, Comb.of_code, Fmt.of_code, Rnd.of_code, Win.of_code, ACond.of_code, tagOf_tagReg, selOf_selCode, laneOf_laneCode]
theorem nrowClose : Statement .nrowClose := of_words rfl rfl rfl fun _ => by
  simp only [decodeRaw, decSys, BitVec.reduceToNat, Nat.reduceLeDiff, reduceIte]
  simp (disch := omega) only [fld, bitAt, rowsOf, t16, t32, t48, t64, rowsPay, mpay, extract_append_low, extract_append_high, bit_append_low, bit_append_high]
  simp [bit, Width.of_code, Policy.of_code, Scope.of_code, Order.of_code, Cond.of_code, MulhMode.of_code, LiForm.of_code, LogOp.of_code, ShOp.of_code, BitcOp.of_code, AmoOp.of_code, AmofOp.of_code, CmOp.of_code, CmReach.of_code, CmExt.of_code, CsrxOp.of_code, Comb.of_code, Fmt.of_code, Rnd.of_code, Win.of_code, ACond.of_code, tagOf_tagReg, selOf_selCode, laneOf_laneCode]
theorem nlut (x0 x1 x2 x3) : Statement (.nlut x0 x1 x2 x3) := of_words rfl rfl rfl fun _ => by
  simp only [decodeRaw, decSys, BitVec.reduceToNat, Nat.reduceLeDiff, reduceIte]
  simp (disch := omega) only [fld, bitAt, rowsOf, t16, t32, t48, t64, rowsPay, mpay, extract_append_low, extract_append_high, bit_append_low, bit_append_high]
  simp [bit, Fmt.of_code, ACond.of_code, Width.of_code, Policy.of_code, Scope.of_code, Order.of_code, Comb.of_code, Rnd.of_code, tagOf_tagReg, selOf_selCode, laneOf_laneCode]
  cases x0 <;> decide
theorem pcmp (x0 x1 x2 x3) : Statement (.pcmp x0 x1 x2 x3) := of_words rfl rfl rfl fun hw => by
  have h := spec_words x1 x2.code x3 (by cases x3 <;> simp_all [Instr.wf, Instr.flaw])
  simp only [decodeRaw, decArray, BitVec.reduceToNat, Nat.reduceLeDiff, reduceIte]
  rw [h]
  simp (disch := omega) only [fld, bitAt, rowsOf, t64, rowsPay, extract_append_low, extract_append_high, bit_append_low, bit_append_high]
  simp [Fmt.of_code, ACond.of_code, Width.of_code, Policy.of_code, Scope.of_code, Order.of_code, Comb.of_code, Rnd.of_code, tagOf_tagReg, selOf_selCode, laneOf_laneCode]
theorem pset (x0 x1) : Statement (.pset x0 x1) := of_words rfl rfl rfl fun hw => by
  have h := spec_words x0 0 x1 (by cases x1 <;> simp_all [Instr.wf, Instr.flaw] <;> omega)
  simp only [decodeRaw, decArray, BitVec.reduceToNat, Nat.reduceLeDiff, reduceIte]
  rw [h]
  simp (disch := omega) only [fld, bitAt, rowsOf, t64, rowsPay, extract_append_low, extract_append_high, bit_append_low, bit_append_high]
  simp [Fmt.of_code, ACond.of_code, Width.of_code, Policy.of_code, Scope.of_code, Order.of_code, Comb.of_code, Rnd.of_code, tagOf_tagReg, selOf_selCode, laneOf_laneCode]
theorem pcs (x0 x1 x2 x3 x4) : Statement (.pcs x0 x1 x2 x3 x4) := by
  intro e hw
  have hl : 1 ≤ x3.length ∧ x3.length ≤ 3 ∧ 1 ≤ x4.length ∧ x4.length ≤ 2 := by
    simp [Instr.wf, Instr.flaw] at hw; omega
  revert e hw
  show Statement _
  match x3, x4, hl.1, hl.2.1, hl.2.2.1, hl.2.2.2 with
  | [(a, x)], [(p, u)], _, _, _, _ =>
    exact of_words rfl rfl rfl fun _ => by
      refine pcs_words (n := 0) (m := 0) (tagOf_tagReg _) ?_ ?_ ?_ ?_ ?_ (by decide) ?_ ?_
      · simp (disch := omega) only [fld, rowsOf, t64, rowsPay, extract_append_low, extract_append_high]
        simp [selOf_selCode]
      · simp (disch := omega) only [fld, t64, rowsPay, extract_append_low, extract_append_high]
        simp [Comb.of_code]
      · simp (disch := omega) only [fld, t64, rowsPay, extract_append_low, extract_append_high, Nat.sub_self]
        rfl
      · simp (disch := omega) only [fld, t64, rowsPay, extract_append_low, extract_append_high, Nat.sub_self]
        rfl
      · simp (disch := omega) only [fld, t64, rowsPay, extract_append_low, extract_append_high, Nat.sub_self]
        rfl
      · show [pairAt _ 38] = _
        simp (disch := omega) only [pairAt, fld, bitAt, t64, rowsPay, pairBits, List.getElem?_cons_zero, List.getElem?_cons_succ, List.getElem?_nil,
          extract_append_low, extract_append_high, bit_append_low, bit_append_high]
        simp [bit]
      · show [pairAt _ 10] = _
        simp (disch := omega) only [pairAt, fld, bitAt, t64, rowsPay, pairBits, List.getElem?_cons_zero, List.getElem?_cons_succ, List.getElem?_nil,
          extract_append_low, extract_append_high, bit_append_low, bit_append_high]
        simp [bit]
  | [(a, x)], [(p, u), (q, v)], _, _, _, _ =>
    exact of_words rfl rfl rfl fun _ => by
      refine pcs_words (n := 0) (m := 1) (tagOf_tagReg _) ?_ ?_ ?_ ?_ ?_ (by decide) ?_ ?_
      · simp (disch := omega) only [fld, rowsOf, t64, rowsPay, extract_append_low, extract_append_high]
        simp [selOf_selCode]
      · simp (disch := omega) only [fld, t64, rowsPay, extract_append_low, extract_append_high]
        simp [Comb.of_code]
      · simp (disch := omega) only [fld, t64, rowsPay, extract_append_low, extract_append_high, Nat.sub_self]
        rfl
      · simp (disch := omega) only [fld, t64, rowsPay, extract_append_low, extract_append_high, Nat.sub_self]
        rfl
      · simp (disch := omega) only [fld, t64, rowsPay, extract_append_low, extract_append_high, Nat.sub_self]
        rfl
      · show [pairAt _ 38] = _
        simp (disch := omega) only [pairAt, fld, bitAt, t64, rowsPay, pairBits, List.getElem?_cons_zero, List.getElem?_cons_succ, List.getElem?_nil,
          extract_append_low, extract_append_high, bit_append_low, bit_append_high]
        simp [bit]
      · show [pairAt _ 10, pairAt _ 1] = _
        simp (disch := omega) only [pairAt, fld, bitAt, t64, rowsPay, pairBits, List.getElem?_cons_zero, List.getElem?_cons_succ, List.getElem?_nil,
          extract_append_low, extract_append_high, bit_append_low, bit_append_high]
        simp [bit]
  | [(a, x), (b, y)], [(p, u)], _, _, _, _ =>
    exact of_words rfl rfl rfl fun _ => by
      refine pcs_words (n := 1) (m := 0) (tagOf_tagReg _) ?_ ?_ ?_ ?_ ?_ (by decide) ?_ ?_
      · simp (disch := omega) only [fld, rowsOf, t64, rowsPay, extract_append_low, extract_append_high]
        simp [selOf_selCode]
      · simp (disch := omega) only [fld, t64, rowsPay, extract_append_low, extract_append_high]
        simp [Comb.of_code]
      · simp (disch := omega) only [fld, t64, rowsPay, extract_append_low, extract_append_high, Nat.sub_self]
        rfl
      · simp (disch := omega) only [fld, t64, rowsPay, extract_append_low, extract_append_high, Nat.sub_self]
        rfl
      · simp (disch := omega) only [fld, t64, rowsPay, extract_append_low, extract_append_high, Nat.sub_self]
        rfl
      · show [pairAt _ 38, pairAt _ 29] = _
        simp (disch := omega) only [pairAt, fld, bitAt, t64, rowsPay, pairBits, List.getElem?_cons_zero, List.getElem?_cons_succ, List.getElem?_nil,
          extract_append_low, extract_append_high, bit_append_low, bit_append_high]
        simp [bit]
      · show [pairAt _ 10] = _
        simp (disch := omega) only [pairAt, fld, bitAt, t64, rowsPay, pairBits, List.getElem?_cons_zero, List.getElem?_cons_succ, List.getElem?_nil,
          extract_append_low, extract_append_high, bit_append_low, bit_append_high]
        simp [bit]
  | [(a, x), (b, y)], [(p, u), (q, v)], _, _, _, _ =>
    exact of_words rfl rfl rfl fun _ => by
      refine pcs_words (n := 1) (m := 1) (tagOf_tagReg _) ?_ ?_ ?_ ?_ ?_ (by decide) ?_ ?_
      · simp (disch := omega) only [fld, rowsOf, t64, rowsPay, extract_append_low, extract_append_high]
        simp [selOf_selCode]
      · simp (disch := omega) only [fld, t64, rowsPay, extract_append_low, extract_append_high]
        simp [Comb.of_code]
      · simp (disch := omega) only [fld, t64, rowsPay, extract_append_low, extract_append_high, Nat.sub_self]
        rfl
      · simp (disch := omega) only [fld, t64, rowsPay, extract_append_low, extract_append_high, Nat.sub_self]
        rfl
      · simp (disch := omega) only [fld, t64, rowsPay, extract_append_low, extract_append_high, Nat.sub_self]
        rfl
      · show [pairAt _ 38, pairAt _ 29] = _
        simp (disch := omega) only [pairAt, fld, bitAt, t64, rowsPay, pairBits, List.getElem?_cons_zero, List.getElem?_cons_succ, List.getElem?_nil,
          extract_append_low, extract_append_high, bit_append_low, bit_append_high]
        simp [bit]
      · show [pairAt _ 10, pairAt _ 1] = _
        simp (disch := omega) only [pairAt, fld, bitAt, t64, rowsPay, pairBits, List.getElem?_cons_zero, List.getElem?_cons_succ, List.getElem?_nil,
          extract_append_low, extract_append_high, bit_append_low, bit_append_high]
        simp [bit]
  | [(a, x), (b, y), (c, z)], [(p, u)], _, _, _, _ =>
    exact of_words rfl rfl rfl fun _ => by
      refine pcs_words (n := 2) (m := 0) (tagOf_tagReg _) ?_ ?_ ?_ ?_ ?_ (by decide) ?_ ?_
      · simp (disch := omega) only [fld, rowsOf, t64, rowsPay, extract_append_low, extract_append_high]
        simp [selOf_selCode]
      · simp (disch := omega) only [fld, t64, rowsPay, extract_append_low, extract_append_high]
        simp [Comb.of_code]
      · simp (disch := omega) only [fld, t64, rowsPay, extract_append_low, extract_append_high, Nat.sub_self]
        rfl
      · simp (disch := omega) only [fld, t64, rowsPay, extract_append_low, extract_append_high, Nat.sub_self]
        rfl
      · simp (disch := omega) only [fld, t64, rowsPay, extract_append_low, extract_append_high, Nat.sub_self]
        rfl
      · show [pairAt _ 38, pairAt _ 29, pairAt _ 20] = _
        simp (disch := omega) only [pairAt, fld, bitAt, t64, rowsPay, pairBits, List.getElem?_cons_zero, List.getElem?_cons_succ, List.getElem?_nil,
          extract_append_low, extract_append_high, bit_append_low, bit_append_high]
        simp [bit]
      · show [pairAt _ 10] = _
        simp (disch := omega) only [pairAt, fld, bitAt, t64, rowsPay, pairBits, List.getElem?_cons_zero, List.getElem?_cons_succ, List.getElem?_nil,
          extract_append_low, extract_append_high, bit_append_low, bit_append_high]
        simp [bit]
  | [(a, x), (b, y), (c, z)], [(p, u), (q, v)], _, _, _, _ =>
    exact of_words rfl rfl rfl fun _ => by
      refine pcs_words (n := 2) (m := 1) (tagOf_tagReg _) ?_ ?_ ?_ ?_ ?_ (by decide) ?_ ?_
      · simp (disch := omega) only [fld, rowsOf, t64, rowsPay, extract_append_low, extract_append_high]
        simp [selOf_selCode]
      · simp (disch := omega) only [fld, t64, rowsPay, extract_append_low, extract_append_high]
        simp [Comb.of_code]
      · simp (disch := omega) only [fld, t64, rowsPay, extract_append_low, extract_append_high, Nat.sub_self]
        rfl
      · simp (disch := omega) only [fld, t64, rowsPay, extract_append_low, extract_append_high, Nat.sub_self]
        rfl
      · simp (disch := omega) only [fld, t64, rowsPay, extract_append_low, extract_append_high, Nat.sub_self]
        rfl
      · show [pairAt _ 38, pairAt _ 29, pairAt _ 20] = _
        simp (disch := omega) only [pairAt, fld, bitAt, t64, rowsPay, pairBits, List.getElem?_cons_zero, List.getElem?_cons_succ, List.getElem?_nil,
          extract_append_low, extract_append_high, bit_append_low, bit_append_high]
        simp [bit]
      · show [pairAt _ 10, pairAt _ 1] = _
        simp (disch := omega) only [pairAt, fld, bitAt, t64, rowsPay, pairBits, List.getElem?_cons_zero, List.getElem?_cons_succ, List.getElem?_nil,
          extract_append_low, extract_append_high, bit_append_low, bit_append_high]
        simp [bit]
theorem top (x0) : Statement (.top x0) := by
  cases x0 with
  | and d a b =>
    exact of_words rfl rfl rfl fun _ => by
      simp only [decodeRaw, decArray, BitVec.reduceToNat, Nat.reduceLeDiff, reduceIte]
      simp (disch := omega) only [fld, bitAt, rowsOf, t16, t32, t48, t64, rowsPay, mpay, extract_append_low, extract_append_high, bit_append_low, bit_append_high]
      simp [topOf, tagOf_tagReg]
  | or d a b =>
    exact of_words rfl rfl rfl fun _ => by
      simp only [decodeRaw, decArray, BitVec.reduceToNat, Nat.reduceLeDiff, reduceIte]
      simp (disch := omega) only [fld, bitAt, rowsOf, t16, t32, t48, t64, rowsPay, mpay, extract_append_low, extract_append_high, bit_append_low, bit_append_high]
      simp [topOf, tagOf_tagReg]
  | xor d a b =>
    exact of_words rfl rfl rfl fun _ => by
      simp only [decodeRaw, decArray, BitVec.reduceToNat, Nat.reduceLeDiff, reduceIte]
      simp (disch := omega) only [fld, bitAt, rowsOf, t16, t32, t48, t64, rowsPay, mpay, extract_append_low, extract_append_high, bit_append_low, bit_append_high]
      simp [topOf, tagOf_tagReg]
  | andn d a b =>
    exact of_words rfl rfl rfl fun _ => by
      simp only [decodeRaw, decArray, BitVec.reduceToNat, Nat.reduceLeDiff, reduceIte]
      simp (disch := omega) only [fld, bitAt, rowsOf, t16, t32, t48, t64, rowsPay, mpay, extract_append_low, extract_append_high, bit_append_low, bit_append_high]
      simp [topOf, tagOf_tagReg]
  | not d a =>
    exact of_words rfl rfl rfl fun _ => by
      simp only [decodeRaw, decArray, BitVec.reduceToNat, Nat.reduceLeDiff, reduceIte]
      simp (disch := omega) only [fld, bitAt, rowsOf, t16, t32, t48, t64, rowsPay, mpay, extract_append_low, extract_append_high, bit_append_low, bit_append_high]
      simp [topOf, tagOf_tagReg]
  | mov d a =>
    exact of_words rfl rfl rfl fun _ => by
      simp only [decodeRaw, decArray, BitVec.reduceToNat, Nat.reduceLeDiff, reduceIte]
      simp (disch := omega) only [fld, bitAt, rowsOf, t16, t32, t48, t64, rowsPay, mpay, extract_append_low, extract_append_high, bit_append_low, bit_append_high]
      simp [topOf, tagOf_tagReg]
  | clr d =>
    exact of_words rfl rfl rfl fun _ => by
      simp only [decodeRaw, decArray, BitVec.reduceToNat, Nat.reduceLeDiff, reduceIte]
      simp (disch := omega) only [fld, bitAt, rowsOf, t16, t32, t48, t64, rowsPay, mpay, extract_append_low, extract_append_high, bit_append_low, bit_append_high]
      simp [topOf, tagOf_tagReg]
  | set d =>
    exact of_words rfl rfl rfl fun _ => by
      simp only [decodeRaw, decArray, BitVec.reduceToNat, Nat.reduceLeDiff, reduceIte]
      simp (disch := omega) only [fld, bitAt, rowsOf, t16, t32, t48, t64, rowsPay, mpay, extract_append_low, extract_append_high, bit_append_low, bit_append_high]
      simp [topOf, tagOf_tagReg]
theorem tshf (x0 x1 x2) : Statement (.tshf x0 x1 x2) := by
  cases x0 with
  | up o k =>
    exact of_words rfl rfl rfl fun _ => by
      simp only [decodeRaw, decArray, BitVec.reduceToNat, Nat.reduceLeDiff, reduceIte]
      simp (disch := omega) only [fld, bitAt, rowsOf, t16, t32, t48, t64, rowsPay, mpay, extract_append_low, extract_append_high, bit_append_low, bit_append_high]
      simp [bit, tagOf_tagReg]
  | dn o k =>
    exact of_words rfl rfl rfl fun _ => by
      simp only [decodeRaw, decArray, BitVec.reduceToNat, Nat.reduceLeDiff, reduceIte]
      simp (disch := omega) only [fld, bitAt, rowsOf, t16, t32, t48, t64, rowsPay, mpay, extract_append_low, extract_append_high, bit_append_low, bit_append_high]
      simp [bit, tagOf_tagReg]
  | lane k =>
    exact of_words rfl rfl rfl fun _ => by
      simp only [decodeRaw, decArray, BitVec.reduceToNat, Nat.reduceLeDiff, reduceIte]
      simp (disch := omega) only [fld, bitAt, rowsOf, t16, t32, t48, t64, rowsPay, mpay, extract_append_low, extract_append_high, bit_append_low, bit_append_high]
      simp [bit, tagOf_tagReg]
theorem tcnt (x0 x1 x2 x3) : Statement (.tcnt x0 x1 x2 x3) := of_words rfl rfl rfl fun _ => by
  simp only [decodeRaw, decArray, BitVec.reduceToNat, Nat.reduceLeDiff, reduceIte]
  simp (disch := omega) only [fld, bitAt, rowsOf, t16, t32, t48, t64, rowsPay, mpay, extract_append_low, extract_append_high, bit_append_low, bit_append_high]
  simp [bit, Width.of_code, Policy.of_code, Scope.of_code, Order.of_code, Cond.of_code, MulhMode.of_code, LiForm.of_code, LogOp.of_code, ShOp.of_code, BitcOp.of_code, AmoOp.of_code, AmofOp.of_code, CmOp.of_code, CmReach.of_code, CmExt.of_code, CsrxOp.of_code, Comb.of_code, Fmt.of_code, Rnd.of_code, Win.of_code, ACond.of_code, tagOf_tagReg, selOf_selCode, laneOf_laneCode]
theorem tany (x0 x1 x2 x3) : Statement (.tany x0 x1 x2 x3) := of_words rfl rfl rfl fun _ => by
  simp only [decodeRaw, decArray, BitVec.reduceToNat, Nat.reduceLeDiff, reduceIte]
  simp (disch := omega) only [fld, bitAt, rowsOf, t16, t32, t48, t64, rowsPay, mpay, extract_append_low, extract_append_high, bit_append_low, bit_append_high]
  simp [bit, Width.of_code, Policy.of_code, Scope.of_code, Order.of_code, Cond.of_code, MulhMode.of_code, LiForm.of_code, LogOp.of_code, ShOp.of_code, BitcOp.of_code, AmoOp.of_code, AmofOp.of_code, CmOp.of_code, CmReach.of_code, CmExt.of_code, CsrxOp.of_code, Comb.of_code, Fmt.of_code, Rnd.of_code, Win.of_code, ACond.of_code, tagOf_tagReg, selOf_selCode, laneOf_laneCode]
theorem tfirst (x0 x1 x2 x3 x4) : Statement (.tfirst x0 x1 x2 x3 x4) := of_words rfl rfl rfl fun _ => by
  simp only [decodeRaw, decArray, BitVec.reduceToNat, Nat.reduceLeDiff, reduceIte]
  simp (disch := omega) only [fld, bitAt, rowsOf, t16, t32, t48, t64, rowsPay, mpay, extract_append_low, extract_append_high, bit_append_low, bit_append_high]
  simp [bit, Width.of_code, Policy.of_code, Scope.of_code, Order.of_code, Cond.of_code, MulhMode.of_code, LiForm.of_code, LogOp.of_code, ShOp.of_code, BitcOp.of_code, AmoOp.of_code, AmofOp.of_code, CmOp.of_code, CmReach.of_code, CmExt.of_code, CsrxOp.of_code, Comb.of_code, Fmt.of_code, Rnd.of_code, Win.of_code, ACond.of_code, tagOf_tagReg, selOf_selCode, laneOf_laneCode]
theorem span (x0 x1 x2) : Statement (.span x0 x1 x2) := of_words rfl rfl rfl fun _ => by
  simp only [decodeRaw, decArray, BitVec.reduceToNat, Nat.reduceLeDiff, reduceIte]
  simp (disch := omega) only [fld, bitAt, rowsOf, t16, t32, t48, t64, rowsPay, mpay, extract_append_low, extract_append_high, bit_append_low, bit_append_high]
  simp [bit, Width.of_code, Policy.of_code, Scope.of_code, Order.of_code, Cond.of_code, MulhMode.of_code, LiForm.of_code, LogOp.of_code, ShOp.of_code, BitcOp.of_code, AmoOp.of_code, AmofOp.of_code, CmOp.of_code, CmReach.of_code, CmExt.of_code, CsrxOp.of_code, Comb.of_code, Fmt.of_code, Rnd.of_code, Win.of_code, ACond.of_code, tagOf_tagReg, selOf_selCode, laneOf_laneCode]
theorem spanRd (x0 x1) : Statement (.spanRd x0 x1) := of_words rfl rfl rfl fun _ => by
  simp only [decodeRaw, decArray, BitVec.reduceToNat, Nat.reduceLeDiff, reduceIte]
  simp (disch := omega) only [fld, bitAt, rowsOf, t16, t32, t48, t64, rowsPay, mpay, extract_append_low, extract_append_high, bit_append_low, bit_append_high]
  simp [bit, Width.of_code, Policy.of_code, Scope.of_code, Order.of_code, Cond.of_code, MulhMode.of_code, LiForm.of_code, LogOp.of_code, ShOp.of_code, BitcOp.of_code, AmoOp.of_code, AmofOp.of_code, CmOp.of_code, CmReach.of_code, CmExt.of_code, CsrxOp.of_code, Comb.of_code, Fmt.of_code, Rnd.of_code, Win.of_code, ACond.of_code, tagOf_tagReg, selOf_selCode, laneOf_laneCode]
theorem seg (x0) : Statement (.seg x0) := by cases x0 <;> exact of_words rfl rfl rfl fun _ => rfl
theorem segRd (x0) : Statement (.segRd x0) := of_words rfl rfl rfl fun _ => by
  simp only [decodeRaw, decArray, BitVec.reduceToNat, Nat.reduceLeDiff, reduceIte]
  simp (disch := omega) only [fld, bitAt, rowsOf, t16, t32, t48, t64, rowsPay, mpay, extract_append_low, extract_append_high, bit_append_low, bit_append_high]
  simp [bit, Width.of_code, Policy.of_code, Scope.of_code, Order.of_code, Cond.of_code, MulhMode.of_code, LiForm.of_code, LogOp.of_code, ShOp.of_code, BitcOp.of_code, AmoOp.of_code, AmofOp.of_code, CmOp.of_code, CmReach.of_code, CmExt.of_code, CsrxOp.of_code, Comb.of_code, Fmt.of_code, Rnd.of_code, Win.of_code, ACond.of_code, tagOf_tagReg, selOf_selCode, laneOf_laneCode]
theorem key (x0 x1) : Statement (.key x0 x1) := of_words rfl rfl rfl fun _ => by
  simp only [decodeRaw, decArray, BitVec.reduceToNat, Nat.reduceLeDiff, reduceIte]
  simp (disch := omega) only [fld, bitAt, rowsOf, t16, t32, t48, t64, rowsPay, mpay, extract_append_low, extract_append_high, bit_append_low, bit_append_high]
  simp [bit, Width.of_code, Policy.of_code, Scope.of_code, Order.of_code, Cond.of_code, MulhMode.of_code, LiForm.of_code, LogOp.of_code, ShOp.of_code, BitcOp.of_code, AmoOp.of_code, AmofOp.of_code, CmOp.of_code, CmReach.of_code, CmExt.of_code, CsrxOp.of_code, Comb.of_code, Fmt.of_code, Rnd.of_code, Win.of_code, ACond.of_code, tagOf_tagReg, selOf_selCode, laneOf_laneCode]
theorem cfill (x0 x1 x2 x3) : Statement (.cfill x0 x1 x2 x3) := by
  cases x3 with
  | imm k =>
    exact of_words rfl rfl rfl fun _ => by
      simp only [decodeRaw, decArray, BitVec.reduceToNat, Nat.reduceLeDiff, reduceIte]
      simp (disch := omega) only [fld, bitAt, rowsOf, t16, t32, t48, t64, rowsPay, mpay, extract_append_low, extract_append_high, bit_append_low, bit_append_high]
      simp [bit, Fmt.of_code, ACond.of_code, Width.of_code, Policy.of_code, Scope.of_code, Order.of_code, Comb.of_code, Rnd.of_code, tagOf_tagReg, selOf_selCode, laneOf_laneCode]
  | reg g =>
    exact of_words rfl rfl rfl fun _ => by
      simp only [decodeRaw, decArray, BitVec.reduceToNat, Nat.reduceLeDiff, reduceIte]
      simp (disch := omega) only [fld, bitAt, rowsOf, t16, t32, t48, t64, rowsPay, mpay, extract_append_low, extract_append_high, bit_append_low, bit_append_high]
      simp [bit, Fmt.of_code, ACond.of_code, Width.of_code, Policy.of_code, Scope.of_code, Order.of_code, Comb.of_code, Rnd.of_code, tagOf_tagReg, selOf_selCode, laneOf_laneCode]
theorem cread (x0 x1 x2 x3 x4 x5) : Statement (.cread x0 x1 x2 x3 x4 x5) := of_words rfl rfl rfl fun _ => by
  simp only [decodeRaw, decArray, BitVec.reduceToNat, Nat.reduceLeDiff, reduceIte]
  simp (disch := omega) only [fld, bitAt, rowsOf, t16, t32, t48, t64, rowsPay, mpay, extract_append_low, extract_append_high, bit_append_low, bit_append_high]
  simp [bit, Width.of_code, Policy.of_code, Scope.of_code, Order.of_code, Cond.of_code, MulhMode.of_code, LiForm.of_code, LogOp.of_code, ShOp.of_code, BitcOp.of_code, AmoOp.of_code, AmofOp.of_code, CmOp.of_code, CmReach.of_code, CmExt.of_code, CsrxOp.of_code, Comb.of_code, Fmt.of_code, Rnd.of_code, Win.of_code, ACond.of_code, tagOf_tagReg, selOf_selCode, laneOf_laneCode]
theorem cwrite (x0 x1 x2 x3 x4) : Statement (.cwrite x0 x1 x2 x3 x4) := of_words rfl rfl rfl fun _ => by
  simp only [decodeRaw, decArray, BitVec.reduceToNat, Nat.reduceLeDiff, reduceIte]
  simp (disch := omega) only [fld, bitAt, rowsOf, t16, t32, t48, t64, rowsPay, mpay, extract_append_low, extract_append_high, bit_append_low, bit_append_high]
  simp [bit, Width.of_code, Policy.of_code, Scope.of_code, Order.of_code, Cond.of_code, MulhMode.of_code, LiForm.of_code, LogOp.of_code, ShOp.of_code, BitcOp.of_code, AmoOp.of_code, AmofOp.of_code, CmOp.of_code, CmReach.of_code, CmExt.of_code, CsrxOp.of_code, Comb.of_code, Fmt.of_code, Rnd.of_code, Win.of_code, ACond.of_code, tagOf_tagReg, selOf_selCode, laneOf_laneCode]
theorem tload (x0 x1 x2) : Statement (.tload x0 x1 x2) := of_words rfl rfl rfl fun _ => by
  simp only [decodeRaw, decArray, BitVec.reduceToNat, Nat.reduceLeDiff, reduceIte]
  simp (disch := omega) only [fld, bitAt, rowsOf, t16, t32, t48, t64, rowsPay, mpay, extract_append_low, extract_append_high, bit_append_low, bit_append_high]
  simp [bit, Width.of_code, Policy.of_code, Scope.of_code, Order.of_code, Cond.of_code, MulhMode.of_code, LiForm.of_code, LogOp.of_code, ShOp.of_code, BitcOp.of_code, AmoOp.of_code, AmofOp.of_code, CmOp.of_code, CmReach.of_code, CmExt.of_code, CsrxOp.of_code, Comb.of_code, Fmt.of_code, Rnd.of_code, Win.of_code, ACond.of_code, tagOf_tagReg, selOf_selCode, laneOf_laneCode]
theorem tstore (x0 x1 x2) : Statement (.tstore x0 x1 x2) := of_words rfl rfl rfl fun _ => by
  simp only [decodeRaw, decArray, BitVec.reduceToNat, Nat.reduceLeDiff, reduceIte]
  simp (disch := omega) only [fld, bitAt, rowsOf, t16, t32, t48, t64, rowsPay, mpay, extract_append_low, extract_append_high, bit_append_low, bit_append_high]
  simp [bit, Width.of_code, Policy.of_code, Scope.of_code, Order.of_code, Cond.of_code, MulhMode.of_code, LiForm.of_code, LogOp.of_code, ShOp.of_code, BitcOp.of_code, AmoOp.of_code, AmofOp.of_code, CmOp.of_code, CmReach.of_code, CmExt.of_code, CsrxOp.of_code, Comb.of_code, Fmt.of_code, Rnd.of_code, Win.of_code, ACond.of_code, tagOf_tagReg, selOf_selCode, laneOf_laneCode]
theorem fmov (x0 x1 x2 x3) : Statement (.fmov x0 x1 x2 x3) := of_words rfl rfl rfl fun _ => by
  simp only [decodeRaw, decArray, BitVec.reduceToNat, Nat.reduceLeDiff, reduceIte]
  simp (disch := omega) only [fld, bitAt, rowsOf, t16, t32, t48, t64, rowsPay, mpay, extract_append_low, extract_append_high, bit_append_low, bit_append_high]
  simp [bit, Width.of_code, Policy.of_code, Scope.of_code, Order.of_code, Cond.of_code, MulhMode.of_code, LiForm.of_code, LogOp.of_code, ShOp.of_code, BitcOp.of_code, AmoOp.of_code, AmofOp.of_code, CmOp.of_code, CmReach.of_code, CmExt.of_code, CsrxOp.of_code, Comb.of_code, Fmt.of_code, Rnd.of_code, Win.of_code, ACond.of_code, tagOf_tagReg, selOf_selCode, laneOf_laneCode]
theorem frot (x0 x1 x2 x3 x4) : Statement (.frot x0 x1 x2 x3 x4) := of_words rfl rfl rfl fun _ => by
  simp only [decodeRaw, decArray, BitVec.reduceToNat, Nat.reduceLeDiff, reduceIte]
  simp (disch := omega) only [fld, bitAt, rowsOf, t16, t32, t48, t64, rowsPay, mpay, extract_append_low, extract_append_high, bit_append_low, bit_append_high]
  simp [bit, Width.of_code, Policy.of_code, Scope.of_code, Order.of_code, Cond.of_code, MulhMode.of_code, LiForm.of_code, LogOp.of_code, ShOp.of_code, BitcOp.of_code, AmoOp.of_code, AmofOp.of_code, CmOp.of_code, CmReach.of_code, CmExt.of_code, CsrxOp.of_code, Comb.of_code, Fmt.of_code, Rnd.of_code, Win.of_code, ACond.of_code, tagOf_tagReg, selOf_selCode, laneOf_laneCode]
theorem xrow (x0 x1 x2 x3 x4) : Statement (.xrow x0 x1 x2 x3 x4) := of_words rfl rfl rfl fun _ => by
  simp only [decodeRaw, decArray, BitVec.reduceToNat, Nat.reduceLeDiff, reduceIte]
  simp (disch := omega) only [fld, bitAt, rowsOf, t16, t32, t48, t64, rowsPay, mpay, extract_append_low, extract_append_high, bit_append_low, bit_append_high]
  simp [bit, Fmt.of_code, ACond.of_code, Width.of_code, Policy.of_code, Scope.of_code, Order.of_code, Comb.of_code, Rnd.of_code, tagOf_tagReg, selOf_selCode, laneOf_laneCode]
  cases x0 <;> decide
theorem ttld (x0 x1) : Statement (.ttld x0 x1) := by
  cases x1 with
  | one a =>
    exact of_words rfl rfl rfl fun _ => by
      simp only [decodeRaw, decArray, BitVec.reduceToNat, Nat.reduceLeDiff, reduceIte]
      simp (disch := omega) only [fld, bitAt, rowsOf, t16, t32, t48, t64, rowsPay, mpay, extract_append_low, extract_append_high, bit_append_low, bit_append_high]
      simp [bit, Fmt.of_code, ACond.of_code, Width.of_code, Policy.of_code, Scope.of_code, Order.of_code, Comb.of_code, Rnd.of_code, tagOf_tagReg, selOf_selCode, laneOf_laneCode]
  | two a b =>
    exact of_words rfl rfl rfl fun _ => by
      simp only [decodeRaw, decArray, BitVec.reduceToNat, Nat.reduceLeDiff, reduceIte]
      simp (disch := omega) only [fld, bitAt, rowsOf, t16, t32, t48, t64, rowsPay, mpay, extract_append_low, extract_append_high, bit_append_low, bit_append_high]
      simp [bit, Fmt.of_code, ACond.of_code, Width.of_code, Policy.of_code, Scope.of_code, Order.of_code, Comb.of_code, Rnd.of_code, tagOf_tagReg, selOf_selCode, laneOf_laneCode]
  | three a b c =>
    exact of_words rfl rfl rfl fun _ => by
      simp only [decodeRaw, decArray, BitVec.reduceToNat, Nat.reduceLeDiff, reduceIte]
      simp (disch := omega) only [fld, bitAt, rowsOf, t16, t32, t48, t64, rowsPay, mpay, extract_append_low, extract_append_high, bit_append_low, bit_append_high]
      simp [bit, Fmt.of_code, ACond.of_code, Width.of_code, Policy.of_code, Scope.of_code, Order.of_code, Comb.of_code, Rnd.of_code, tagOf_tagReg, selOf_selCode, laneOf_laneCode]
theorem ttrun (x0 x1 x2 x3 x4 x5 x6 x7 x8) : Statement (.ttrun x0 x1 x2 x3 x4 x5 x6 x7 x8) := of_words rfl rfl rfl fun _ => by
  simp only [decodeRaw, decArray, BitVec.reduceToNat, Nat.reduceLeDiff, reduceIte]
  simp (disch := omega) only [fld, bitAt, rowsOf, t16, t32, t48, t64, rowsPay, mpay, extract_append_low, extract_append_high, bit_append_low, bit_append_high]
  simp [bit, Fmt.of_code, ACond.of_code, Width.of_code, Policy.of_code, Scope.of_code, Order.of_code, Comb.of_code, Rnd.of_code, tagOf_tagReg, selOf_selCode, laneOf_laneCode]
  cases x0 <;> decide
theorem arrayInstructionStart (x0) : Statement (.arrayInstructionStart x0) := of_event rfl
theorem arrayInstructionRetire (x0) : Statement (.arrayInstructionRetire x0) := of_event rfl
theorem aadd (x0 x1 x2 x3 x4 x5 x6) : Statement (.aadd x0 x1 x2 x3 x4 x5 x6) := of_words rfl rfl rfl fun _ => by
  simp only [decodeRaw, decMacro, BitVec.reduceToNat, Nat.reduceLeDiff, reduceIte]
  simp (disch := omega) only [fld, bitAt, rowsOf, t16, t32, t48, t64, rowsPay, mpay, extract_append_low, extract_append_high, bit_append_low, bit_append_high]
  simp [bit, Width.of_code, Policy.of_code, Scope.of_code, Order.of_code, Cond.of_code, MulhMode.of_code, LiForm.of_code, LogOp.of_code, ShOp.of_code, BitcOp.of_code, AmoOp.of_code, AmofOp.of_code, CmOp.of_code, CmReach.of_code, CmExt.of_code, CsrxOp.of_code, Comb.of_code, Fmt.of_code, Rnd.of_code, Win.of_code, ACond.of_code, tagOf_tagReg, selOf_selCode, laneOf_laneCode]
theorem asub (x0 x1 x2 x3 x4 x5 x6) : Statement (.asub x0 x1 x2 x3 x4 x5 x6) := of_words rfl rfl rfl fun _ => by
  simp only [decodeRaw, decMacro, BitVec.reduceToNat, Nat.reduceLeDiff, reduceIte]
  simp (disch := omega) only [fld, bitAt, rowsOf, t16, t32, t48, t64, rowsPay, mpay, extract_append_low, extract_append_high, bit_append_low, bit_append_high]
  simp [bit, Width.of_code, Policy.of_code, Scope.of_code, Order.of_code, Cond.of_code, MulhMode.of_code, LiForm.of_code, LogOp.of_code, ShOp.of_code, BitcOp.of_code, AmoOp.of_code, AmofOp.of_code, CmOp.of_code, CmReach.of_code, CmExt.of_code, CsrxOp.of_code, Comb.of_code, Fmt.of_code, Rnd.of_code, Win.of_code, ACond.of_code, tagOf_tagReg, selOf_selCode, laneOf_laneCode]
theorem aaddk (x0 x1 x2 x3 x4) : Statement (.aaddk x0 x1 x2 x3 x4) := of_words rfl rfl rfl fun _ => by
  simp only [decodeRaw, decMacro, BitVec.reduceToNat, Nat.reduceLeDiff, reduceIte]
  simp (disch := omega) only [fld, bitAt, rowsOf, t16, t32, t48, t64, rowsPay, mpay, extract_append_low, extract_append_high, bit_append_low, bit_append_high]
  simp [bit, show Rnd.of 0#3 = some .rne from rfl, Fmt.of_code, ACond.of_code, Width.of_code, Policy.of_code, Scope.of_code, Order.of_code, Comb.of_code, Rnd.of_code, tagOf_tagReg, selOf_selCode, laneOf_laneCode]
theorem amul (x0 x1 x2 x3 x4 x5 x6 x7) : Statement (.amul x0 x1 x2 x3 x4 x5 x6 x7) := of_words rfl rfl rfl fun _ => by
  simp only [decodeRaw, decMacro, BitVec.reduceToNat, Nat.reduceLeDiff, reduceIte]
  simp (disch := omega) only [fld, bitAt, rowsOf, t16, t32, t48, t64, rowsPay, mpay, extract_append_low, extract_append_high, bit_append_low, bit_append_high]
  simp [bit, Width.of_code, Policy.of_code, Scope.of_code, Order.of_code, Cond.of_code, MulhMode.of_code, LiForm.of_code, LogOp.of_code, ShOp.of_code, BitcOp.of_code, AmoOp.of_code, AmofOp.of_code, CmOp.of_code, CmReach.of_code, CmExt.of_code, CsrxOp.of_code, Comb.of_code, Fmt.of_code, Rnd.of_code, Win.of_code, ACond.of_code, tagOf_tagReg, selOf_selCode, laneOf_laneCode]
theorem amulk (x0 x1 x2 x3 x4 x5 x6 x7) : Statement (.amulk x0 x1 x2 x3 x4 x5 x6 x7) := of_words rfl rfl rfl fun _ => by
  simp only [decodeRaw, decMacro, BitVec.reduceToNat, Nat.reduceLeDiff, reduceIte]
  simp (disch := omega) only [fld, bitAt, rowsOf, t16, t32, t48, t64, rowsPay, mpay, extract_append_low, extract_append_high, bit_append_low, bit_append_high]
  simp [bit, Width.of_code, Policy.of_code, Scope.of_code, Order.of_code, Cond.of_code, MulhMode.of_code, LiForm.of_code, LogOp.of_code, ShOp.of_code, BitcOp.of_code, AmoOp.of_code, AmofOp.of_code, CmOp.of_code, CmReach.of_code, CmExt.of_code, CsrxOp.of_code, Comb.of_code, Fmt.of_code, Rnd.of_code, Win.of_code, ACond.of_code, tagOf_tagReg, selOf_selCode, laneOf_laneCode]
theorem amac (x0 x1 x2 x3 x4 x5 x6 x7 x8) : Statement (.amac x0 x1 x2 x3 x4 x5 x6 x7 x8) := of_words rfl rfl rfl fun _ => by
  simp only [decodeRaw, decMacro, BitVec.reduceToNat, Nat.reduceLeDiff, reduceIte]
  simp (disch := omega) only [fld, bitAt, rowsOf, t16, t32, t48, t64, rowsPay, mpay, extract_append_low, extract_append_high, bit_append_low, bit_append_high]
  simp [bit, Width.of_code, Policy.of_code, Scope.of_code, Order.of_code, Cond.of_code, MulhMode.of_code, LiForm.of_code, LogOp.of_code, ShOp.of_code, BitcOp.of_code, AmoOp.of_code, AmofOp.of_code, CmOp.of_code, CmReach.of_code, CmExt.of_code, CsrxOp.of_code, Comb.of_code, Fmt.of_code, Rnd.of_code, Win.of_code, ACond.of_code, tagOf_tagReg, selOf_selCode, laneOf_laneCode]
theorem amack (x0 x1 x2 x3 x4 x5 x6 x7 x8 x9) : Statement (.amack x0 x1 x2 x3 x4 x5 x6 x7 x8 x9) := of_words rfl rfl rfl fun _ => by
  simp only [decodeRaw, decMacro, BitVec.reduceToNat, Nat.reduceLeDiff, reduceIte]
  simp (disch := omega) only [fld, bitAt, rowsOf, t16, t32, t48, t64, rowsPay, mpay, extract_append_low, extract_append_high, bit_append_low, bit_append_high]
  simp [bit, Width.of_code, Policy.of_code, Scope.of_code, Order.of_code, Cond.of_code, MulhMode.of_code, LiForm.of_code, LogOp.of_code, ShOp.of_code, BitcOp.of_code, AmoOp.of_code, AmofOp.of_code, CmOp.of_code, CmReach.of_code, CmExt.of_code, CsrxOp.of_code, Comb.of_code, Fmt.of_code, Rnd.of_code, Win.of_code, ACond.of_code, tagOf_tagReg, selOf_selCode, laneOf_laneCode]
theorem afma (x0 x1 x2 x3 x4 x5 x6 x7) : Statement (.afma x0 x1 x2 x3 x4 x5 x6 x7) := of_words rfl rfl rfl fun _ => by
  simp only [decodeRaw, decMacro, BitVec.reduceToNat, Nat.reduceLeDiff, reduceIte]
  simp (disch := omega) only [fld, bitAt, rowsOf, t16, t32, t48, t64, rowsPay, mpay, extract_append_low, extract_append_high, bit_append_low, bit_append_high]
  simp [bit, Width.of_code, Policy.of_code, Scope.of_code, Order.of_code, Cond.of_code, MulhMode.of_code, LiForm.of_code, LogOp.of_code, ShOp.of_code, BitcOp.of_code, AmoOp.of_code, AmofOp.of_code, CmOp.of_code, CmReach.of_code, CmExt.of_code, CsrxOp.of_code, Comb.of_code, Fmt.of_code, Rnd.of_code, Win.of_code, ACond.of_code, tagOf_tagReg, selOf_selCode, laneOf_laneCode]
theorem acvt (x0 x1 x2 x3 x4 x5 x6 x7 x8) : Statement (.acvt x0 x1 x2 x3 x4 x5 x6 x7 x8) := of_words rfl rfl rfl fun _ => by
  simp only [decodeRaw, decMacro, BitVec.reduceToNat, Nat.reduceLeDiff, reduceIte]
  simp (disch := omega) only [fld, bitAt, rowsOf, t16, t32, t48, t64, rowsPay, mpay, extract_append_low, extract_append_high, bit_append_low, bit_append_high]
  simp [bit, Width.of_code, Policy.of_code, Scope.of_code, Order.of_code, Cond.of_code, MulhMode.of_code, LiForm.of_code, LogOp.of_code, ShOp.of_code, BitcOp.of_code, AmoOp.of_code, AmofOp.of_code, CmOp.of_code, CmReach.of_code, CmExt.of_code, CsrxOp.of_code, Comb.of_code, Fmt.of_code, Rnd.of_code, Win.of_code, ACond.of_code, tagOf_tagReg, selOf_selCode, laneOf_laneCode]
theorem acmp (x0 x1 x2 x3 x4 x5 x6 x7) : Statement (.acmp x0 x1 x2 x3 x4 x5 x6 x7) := of_words rfl rfl rfl fun _ => by
  simp only [decodeRaw, decMacro, BitVec.reduceToNat, Nat.reduceLeDiff, reduceIte]
  simp (disch := omega) only [fld, bitAt, rowsOf, t16, t32, t48, t64, rowsPay, mpay, extract_append_low, extract_append_high, bit_append_low, bit_append_high]
  simp [bit, show Rnd.of 0#3 = some .rne from rfl, Fmt.of_code, ACond.of_code, Width.of_code, Policy.of_code, Scope.of_code, Order.of_code, Comb.of_code, Rnd.of_code, tagOf_tagReg, selOf_selCode, laneOf_laneCode]
theorem aminmax (x0 x1 x2 x3 x4 x5) : Statement (.aminmax x0 x1 x2 x3 x4 x5) := of_words rfl rfl rfl fun _ => by
  simp only [decodeRaw, decMacro, BitVec.reduceToNat, Nat.reduceLeDiff, reduceIte]
  simp (disch := omega) only [fld, bitAt, rowsOf, t16, t32, t48, t64, rowsPay, mpay, extract_append_low, extract_append_high, bit_append_low, bit_append_high]
  simp [bit, show Rnd.of 0#3 = some .rne from rfl, Fmt.of_code, ACond.of_code, Width.of_code, Policy.of_code, Scope.of_code, Order.of_code, Comb.of_code, Rnd.of_code, tagOf_tagReg, selOf_selCode, laneOf_laneCode]
  cases x0 <;> decide
theorem ared (x0 x1 x2 x3 x4 x5) : Statement (.ared x0 x1 x2 x3 x4 x5) := of_words rfl rfl rfl fun _ => by
  simp only [decodeRaw, decMacro, BitVec.reduceToNat, Nat.reduceLeDiff, reduceIte]
  simp (disch := omega) only [fld, bitAt, rowsOf, t16, t32, t48, t64, rowsPay, mpay, extract_append_low, extract_append_high, bit_append_low, bit_append_high]
  simp [bit, Width.of_code, Policy.of_code, Scope.of_code, Order.of_code, Cond.of_code, MulhMode.of_code, LiForm.of_code, LogOp.of_code, ShOp.of_code, BitcOp.of_code, AmoOp.of_code, AmofOp.of_code, CmOp.of_code, CmReach.of_code, CmExt.of_code, CsrxOp.of_code, Comb.of_code, Fmt.of_code, Rnd.of_code, Win.of_code, ACond.of_code, tagOf_tagReg, selOf_selCode, laneOf_laneCode]
theorem alut (x0 x1 x2 x3 x4) : Statement (.alut x0 x1 x2 x3 x4) := of_words rfl rfl rfl fun _ => by
  simp only [decodeRaw, decMacro, BitVec.reduceToNat, Nat.reduceLeDiff, reduceIte]
  simp (disch := omega) only [fld, bitAt, rowsOf, t16, t32, t48, t64, rowsPay, mpay, extract_append_low, extract_append_high, bit_append_low, bit_append_high]
  simp [bit, show Rnd.of 0#3 = some .rne from rfl, Fmt.of_code, ACond.of_code, Width.of_code, Policy.of_code, Scope.of_code, Order.of_code, Comb.of_code, Rnd.of_code, tagOf_tagReg, selOf_selCode, laneOf_laneCode]
theorem aresolve (x0 x1 x2 x3) : Statement (.aresolve x0 x1 x2 x3) := of_words rfl rfl rfl fun _ => by
  simp only [decodeRaw, decMacro, BitVec.reduceToNat, Nat.reduceLeDiff, reduceIte]
  simp (disch := omega) only [fld, bitAt, rowsOf, t16, t32, t48, t64, rowsPay, mpay, extract_append_low, extract_append_high, bit_append_low, bit_append_high]
  simp [bit, show Rnd.of 0#3 = some .rne from rfl, Fmt.of_code, ACond.of_code, Width.of_code, Policy.of_code, Scope.of_code, Order.of_code, Comb.of_code, Rnd.of_code, tagOf_tagReg, selOf_selCode, laneOf_laneCode]
theorem aqdec (x0 x1 x2 x3 x4 x5 x6 x7) : Statement (.aqdec x0 x1 x2 x3 x4 x5 x6 x7) := of_words rfl rfl rfl fun _ => by
  simp only [decodeRaw, decMacro, BitVec.reduceToNat, Nat.reduceLeDiff, reduceIte]
  simp (disch := omega) only [fld, bitAt, rowsOf, t16, t32, t48, t64, rowsPay, mpay, extract_append_low, extract_append_high, bit_append_low, bit_append_high]
  simp [bit, Width.of_code, Policy.of_code, Scope.of_code, Order.of_code, Cond.of_code, MulhMode.of_code, LiForm.of_code, LogOp.of_code, ShOp.of_code, BitcOp.of_code, AmoOp.of_code, AmofOp.of_code, CmOp.of_code, CmReach.of_code, CmExt.of_code, CsrxOp.of_code, Comb.of_code, Fmt.of_code, Rnd.of_code, Win.of_code, ACond.of_code, tagOf_tagReg, selOf_selCode, laneOf_laneCode]
theorem aspmac (x0 x1 x2 x3 x4 x5 x6 x7 x8 x9) : Statement (.aspmac x0 x1 x2 x3 x4 x5 x6 x7 x8 x9) := of_words rfl rfl rfl fun _ => by
  simp only [decodeRaw, decMacro, BitVec.reduceToNat, Nat.reduceLeDiff, reduceIte]
  simp (disch := omega) only [fld, bitAt, rowsOf, t16, t32, t48, t64, rowsPay, mpay, extract_append_low, extract_append_high, bit_append_low, bit_append_high]
  simp [bit, Width.of_code, Policy.of_code, Scope.of_code, Order.of_code, Cond.of_code, MulhMode.of_code, LiForm.of_code, LogOp.of_code, ShOp.of_code, BitcOp.of_code, AmoOp.of_code, AmofOp.of_code, CmOp.of_code, CmReach.of_code, CmExt.of_code, CsrxOp.of_code, Comb.of_code, Fmt.of_code, Rnd.of_code, Win.of_code, ACond.of_code, tagOf_tagReg, selOf_selCode, laneOf_laneCode]
theorem aspmacLdx (x0) : Statement (.aspmacLdx x0) := of_words rfl rfl rfl fun _ => by
  simp only [decodeRaw, decMacro, BitVec.reduceToNat, Nat.reduceLeDiff, reduceIte]
  simp (disch := omega) only [fld, bitAt, rowsOf, t16, t32, t48, t64, rowsPay, mpay, extract_append_low, extract_append_high, bit_append_low, bit_append_high]
  simp [bit, show Rnd.of 0#3 = some .rne from rfl, Fmt.of_code, ACond.of_code, Width.of_code, Policy.of_code, Scope.of_code, Order.of_code, Comb.of_code, Rnd.of_code, tagOf_tagReg, selOf_selCode, laneOf_laneCode]
theorem aspmacLdm : Statement .aspmacLdm := of_words rfl rfl rfl fun _ => by
  simp only [decodeRaw, decMacro, BitVec.reduceToNat, Nat.reduceLeDiff, reduceIte]
  simp (disch := omega) only [fld, bitAt, rowsOf, t16, t32, t48, t64, rowsPay, mpay, extract_append_low, extract_append_high, bit_append_low, bit_append_high]
  simp [bit, show Rnd.of 0#3 = some .rne from rfl, Fmt.of_code, ACond.of_code, Width.of_code, Policy.of_code, Scope.of_code, Order.of_code, Comb.of_code, Rnd.of_code, tagOf_tagReg, selOf_selCode, laneOf_laneCode]
theorem reservationGrant (x0) : Statement (.reservationGrant x0) := of_event rfl
theorem stackReservationGrant (x0) : Statement (.stackReservationGrant x0) := of_event rfl
theorem permitRefill (x0) : Statement (.permitRefill x0) := of_event rfl
theorem cpy (x0 x1) : Statement (.cpy x0 x1) := of_words rfl rfl rfl fun _ => by
  simp only [decodeRaw, decTask, BitVec.reduceToNat, Nat.reduceLeDiff, reduceIte]
  simp (disch := omega) only [fld, bitAt, rowsOf, t16, t32, t48, t64, rowsPay, mpay, extract_append_low, extract_append_high, bit_append_low, bit_append_high]
  simp [bit, Width.of_code, Policy.of_code, Scope.of_code, Order.of_code, Cond.of_code, MulhMode.of_code, LiForm.of_code, LogOp.of_code, ShOp.of_code, BitcOp.of_code, AmoOp.of_code, AmofOp.of_code, CmOp.of_code, CmReach.of_code, CmExt.of_code, CsrxOp.of_code, Comb.of_code, Fmt.of_code, Rnd.of_code, Win.of_code, ACond.of_code, tagOf_tagReg, selOf_selCode, laneOf_laneCode]
theorem afill (x0 x1 x2 x3 x4 x5) : Statement (.afill x0 x1 x2 x3 x4 x5) := of_words rfl rfl rfl fun _ => by
  simp only [decodeRaw, decTask, BitVec.reduceToNat, Nat.reduceLeDiff, reduceIte]
  simp (disch := omega) only [fld, bitAt, rowsOf, t16, t32, t48, t64, rowsPay, mpay, extract_append_low, extract_append_high, bit_append_low, bit_append_high]
  simp [bit, Width.of_code, Policy.of_code, Scope.of_code, Order.of_code, Cond.of_code, MulhMode.of_code, LiForm.of_code, LogOp.of_code, ShOp.of_code, BitcOp.of_code, AmoOp.of_code, AmofOp.of_code, CmOp.of_code, CmReach.of_code, CmExt.of_code, CsrxOp.of_code, Comb.of_code, Fmt.of_code, Rnd.of_code, Win.of_code, ACond.of_code, tagOf_tagReg, selOf_selCode, laneOf_laneCode]
theorem aspill (x0 x1 x2 x3 x4 x5) : Statement (.aspill x0 x1 x2 x3 x4 x5) := of_words rfl rfl rfl fun _ => by
  simp only [decodeRaw, decTask, BitVec.reduceToNat, Nat.reduceLeDiff, reduceIte]
  simp (disch := omega) only [fld, bitAt, rowsOf, t16, t32, t48, t64, rowsPay, mpay, extract_append_low, extract_append_high, bit_append_low, bit_append_high]
  simp [bit, Width.of_code, Policy.of_code, Scope.of_code, Order.of_code, Cond.of_code, MulhMode.of_code, LiForm.of_code, LogOp.of_code, ShOp.of_code, BitcOp.of_code, AmoOp.of_code, AmofOp.of_code, CmOp.of_code, CmReach.of_code, CmExt.of_code, CsrxOp.of_code, Comb.of_code, Fmt.of_code, Rnd.of_code, Win.of_code, ACond.of_code, tagOf_tagReg, selOf_selCode, laneOf_laneCode]
theorem engineCommandStart (x0 x1) : Statement (.engineCommandStart x0 x1) := of_event rfl
theorem engineCompletion (x0 x1) : Statement (.engineCompletion x0 x1) := of_event rfl
theorem mbwait (x0 x1) : Statement (.mbwait x0 x1) := of_words rfl rfl rfl fun _ => by
  simp only [decodeRaw, decTask, BitVec.reduceToNat, Nat.reduceLeDiff, reduceIte]
  simp (disch := omega) only [fld, bitAt, rowsOf, t16, t32, t48, t64, rowsPay, mpay, extract_append_low, extract_append_high, bit_append_low, bit_append_high]
  simp [bit, Width.of_code, Policy.of_code, Scope.of_code, Order.of_code, Cond.of_code, MulhMode.of_code, LiForm.of_code, LogOp.of_code, ShOp.of_code, BitcOp.of_code, AmoOp.of_code, AmofOp.of_code, CmOp.of_code, CmReach.of_code, CmExt.of_code, CsrxOp.of_code, Comb.of_code, Fmt.of_code, Rnd.of_code, Win.of_code, ACond.of_code, tagOf_tagReg, selOf_selCode, laneOf_laneCode]
theorem mbpop (x0 x1) : Statement (.mbpop x0 x1) := of_words rfl rfl rfl fun _ => by
  simp only [decodeRaw, decTask, BitVec.reduceToNat, Nat.reduceLeDiff, reduceIte]
  simp (disch := omega) only [fld, bitAt, rowsOf, t16, t32, t48, t64, rowsPay, mpay, extract_append_low, extract_append_high, bit_append_low, bit_append_high]
  simp [bit, Width.of_code, Policy.of_code, Scope.of_code, Order.of_code, Cond.of_code, MulhMode.of_code, LiForm.of_code, LogOp.of_code, ShOp.of_code, BitcOp.of_code, AmoOp.of_code, AmofOp.of_code, CmOp.of_code, CmReach.of_code, CmExt.of_code, CsrxOp.of_code, Comb.of_code, Fmt.of_code, Rnd.of_code, Win.of_code, ACond.of_code, tagOf_tagReg, selOf_selCode, laneOf_laneCode]
theorem msend (x0 x1 x2 x3 x4) : Statement (.msend x0 x1 x2 x3 x4) := of_words rfl rfl rfl fun _ => by
  simp only [decodeRaw, decTask, BitVec.reduceToNat, Nat.reduceLeDiff, reduceIte]
  simp (disch := omega) only [fld, bitAt, rowsOf, t16, t32, t48, t64, rowsPay, mpay, extract_append_low, extract_append_high, bit_append_low, bit_append_high]
  simp [bit, Width.of_code, Policy.of_code, Scope.of_code, Order.of_code, Cond.of_code, MulhMode.of_code, LiForm.of_code, LogOp.of_code, ShOp.of_code, BitcOp.of_code, AmoOp.of_code, AmofOp.of_code, CmOp.of_code, CmReach.of_code, CmExt.of_code, CsrxOp.of_code, Comb.of_code, Fmt.of_code, Rnd.of_code, Win.of_code, ACond.of_code, tagOf_tagReg, selOf_selCode, laneOf_laneCode]
theorem mailboxDelivery (x0) : Statement (.mailboxDelivery x0) := of_event rfl
theorem bar (x0 x1 x2) : Statement (.bar x0 x1 x2) := of_words rfl rfl rfl fun _ => by
  simp only [decodeRaw, decTask, BitVec.reduceToNat, Nat.reduceLeDiff, reduceIte]
  simp (disch := omega) only [fld, bitAt, rowsOf, t16, t32, t48, t64, rowsPay, mpay, extract_append_low, extract_append_high, bit_append_low, bit_append_high]
  simp [bit, Width.of_code, Policy.of_code, Scope.of_code, Order.of_code, Cond.of_code, MulhMode.of_code, LiForm.of_code, LogOp.of_code, ShOp.of_code, BitcOp.of_code, AmoOp.of_code, AmofOp.of_code, CmOp.of_code, CmReach.of_code, CmExt.of_code, CsrxOp.of_code, Comb.of_code, Fmt.of_code, Rnd.of_code, Win.of_code, ACond.of_code, tagOf_tagReg, selOf_selCode, laneOf_laneCode]
theorem barrierArrival (x0) : Statement (.barrierArrival x0) := of_event rfl
theorem larm (x0) : Statement (.larm x0) := of_words rfl rfl rfl fun _ => by
  simp only [decodeRaw, decTask, BitVec.reduceToNat, Nat.reduceLeDiff, reduceIte]
  simp (disch := omega) only [fld, bitAt, rowsOf, t16, t32, t48, t64, rowsPay, mpay, extract_append_low, extract_append_high, bit_append_low, bit_append_high]
  simp [bit, Width.of_code, Policy.of_code, Scope.of_code, Order.of_code, Cond.of_code, MulhMode.of_code, LiForm.of_code, LogOp.of_code, ShOp.of_code, BitcOp.of_code, AmoOp.of_code, AmofOp.of_code, CmOp.of_code, CmReach.of_code, CmExt.of_code, CsrxOp.of_code, Comb.of_code, Fmt.of_code, Rnd.of_code, Win.of_code, ACond.of_code, tagOf_tagReg, selOf_selCode, laneOf_laneCode]
theorem launchTake (x0 x1 x2) : Statement (.launchTake x0 x1 x2) := of_event rfl
theorem launchResume (x0) : Statement (.launchResume x0) := of_event rfl
theorem qbind (x0 x1 x2) : Statement (.qbind x0 x1 x2) := of_words rfl rfl rfl fun _ => by
  simp only [decodeRaw, decTask, BitVec.reduceToNat, Nat.reduceLeDiff, reduceIte]
  simp (disch := omega) only [fld, bitAt, rowsOf, t16, t32, t48, t64, rowsPay, mpay, extract_append_low, extract_append_high, bit_append_low, bit_append_high]
  simp [bit, Width.of_code, Policy.of_code, Scope.of_code, Order.of_code, Cond.of_code, MulhMode.of_code, LiForm.of_code, LogOp.of_code, ShOp.of_code, BitcOp.of_code, AmoOp.of_code, AmofOp.of_code, CmOp.of_code, CmReach.of_code, CmExt.of_code, CsrxOp.of_code, Comb.of_code, Fmt.of_code, Rnd.of_code, Win.of_code, ACond.of_code, tagOf_tagReg, selOf_selCode, laneOf_laneCode]
theorem qstat (x0 x1 x2) : Statement (.qstat x0 x1 x2) := of_words rfl rfl rfl fun _ => by
  simp only [decodeRaw, decTask, BitVec.reduceToNat, Nat.reduceLeDiff, reduceIte]
  simp (disch := omega) only [fld, bitAt, rowsOf, t16, t32, t48, t64, rowsPay, mpay, extract_append_low, extract_append_high, bit_append_low, bit_append_high]
  simp [bit, Width.of_code, Policy.of_code, Scope.of_code, Order.of_code, Cond.of_code, MulhMode.of_code, LiForm.of_code, LogOp.of_code, ShOp.of_code, BitcOp.of_code, AmoOp.of_code, AmofOp.of_code, CmOp.of_code, CmReach.of_code, CmExt.of_code, CsrxOp.of_code, Comb.of_code, Fmt.of_code, Rnd.of_code, Win.of_code, ACond.of_code, tagOf_tagReg, selOf_selCode, laneOf_laneCode]
theorem tenq (x0 x1 x2) : Statement (.tenq x0 x1 x2) := of_words rfl rfl rfl fun _ => by
  simp only [decodeRaw, decTask, BitVec.reduceToNat, Nat.reduceLeDiff, reduceIte]
  simp (disch := omega) only [fld, bitAt, rowsOf, t16, t32, t48, t64, rowsPay, mpay, extract_append_low, extract_append_high, bit_append_low, bit_append_high]
  simp [bit, Width.of_code, Policy.of_code, Scope.of_code, Order.of_code, Cond.of_code, MulhMode.of_code, LiForm.of_code, LogOp.of_code, ShOp.of_code, BitcOp.of_code, AmoOp.of_code, AmofOp.of_code, CmOp.of_code, CmReach.of_code, CmExt.of_code, CsrxOp.of_code, Comb.of_code, Fmt.of_code, Rnd.of_code, Win.of_code, ACond.of_code, tagOf_tagReg, selOf_selCode, laneOf_laneCode]
theorem tsteal (x0 x1) : Statement (.tsteal x0 x1) := of_words rfl rfl rfl fun _ => by
  simp only [decodeRaw, decTask, BitVec.reduceToNat, Nat.reduceLeDiff, reduceIte]
  simp (disch := omega) only [fld, bitAt, rowsOf, t16, t32, t48, t64, rowsPay, mpay, extract_append_low, extract_append_high, bit_append_low, bit_append_high]
  simp [bit, Width.of_code, Policy.of_code, Scope.of_code, Order.of_code, Cond.of_code, MulhMode.of_code, LiForm.of_code, LogOp.of_code, ShOp.of_code, BitcOp.of_code, AmoOp.of_code, AmofOp.of_code, CmOp.of_code, CmReach.of_code, CmExt.of_code, CsrxOp.of_code, Comb.of_code, Fmt.of_code, Rnd.of_code, Win.of_code, ACond.of_code, tagOf_tagReg, selOf_selCode, laneOf_laneCode]
theorem tnext (x0) : Statement (.tnext x0) := of_words rfl rfl rfl fun _ => by
  simp only [decodeRaw, decTask, BitVec.reduceToNat, Nat.reduceLeDiff, reduceIte]
  simp (disch := omega) only [fld, bitAt, rowsOf, t16, t32, t48, t64, rowsPay, mpay, extract_append_low, extract_append_high, bit_append_low, bit_append_high]
  simp [bit, Width.of_code, Policy.of_code, Scope.of_code, Order.of_code, Cond.of_code, MulhMode.of_code, LiForm.of_code, LogOp.of_code, ShOp.of_code, BitcOp.of_code, AmoOp.of_code, AmofOp.of_code, CmOp.of_code, CmReach.of_code, CmExt.of_code, CsrxOp.of_code, Comb.of_code, Fmt.of_code, Rnd.of_code, Win.of_code, ACond.of_code, tagOf_tagReg, selOf_selCode, laneOf_laneCode]
theorem tend : Statement .tend := of_words rfl rfl rfl fun _ => rfl
theorem homeCycle (x0) : Statement (.homeCycle x0) := of_event rfl
theorem stealGrantDelivery (x0) : Statement (.stealGrantDelivery x0) := of_event rfl
theorem stealRequestArrival (x0) : Statement (.stealRequestArrival x0) := of_event rfl
theorem farTaskTake (x0) : Statement (.farTaskTake x0) := of_event rfl
theorem autoStealWithdraw (x0) : Statement (.autoStealWithdraw x0) := of_event rfl
theorem waitLimitExpire (x0) : Statement (.waitLimitExpire x0) := of_event rfl
theorem storeBufferDrain (x0 x1) : Statement (.storeBufferDrain x0 x1) := of_event rfl
theorem walkStart (x0) : Statement (.walkStart x0) := of_event rfl
theorem walkComplete (x0 x1) : Statement (.walkComplete x0 x1) := of_event rfl
theorem cacheEviction (x0 x1) : Statement (.cacheEviction x0 x1) := of_event rfl
theorem writtenLineInvalidate (x0 x1) : Statement (.writtenLineInvalidate x0 x1) := of_event rfl
theorem bankAddI32 (x0) : Statement (.bankAddI32 x0) := of_event rfl
theorem bankAddI64 (x0) : Statement (.bankAddI64 x0) := of_event rfl
theorem bankAddF32 (x0) : Statement (.bankAddF32 x0) := of_event rfl
theorem bankAddBf16x2 (x0) : Statement (.bankAddBf16x2 x0) := of_event rfl
theorem bankMaxF32 (x0) : Statement (.bankMaxF32 x0) := of_event rfl
theorem bankMinF32 (x0) : Statement (.bankMinF32 x0) := of_event rfl
theorem bankOr64 (x0) : Statement (.bankOr64 x0) := of_event rfl
theorem allbankFill (x0) : Statement (.allbankFill x0) := of_event rfl
theorem fillWave (x0) : Statement (.fillWave x0) := of_event rfl
theorem idxsum (x0) : Statement (.idxsum x0) := of_event rfl
theorem idxsumExecute (x0) : Statement (.idxsumExecute x0) := of_event rfl
theorem idxsumComplete (x0) : Statement (.idxsumComplete x0) := of_event rfl
theorem counterWrite (x0) : Statement (.counterWrite x0) := of_event rfl
theorem counterPacket (x0) : Statement (.counterPacket x0) := of_event rfl
theorem stackDetredWrite (x0 x1) : Statement (.stackDetredWrite x0 x1) := of_event rfl
theorem detredChangeComplete (x0) : Statement (.detredChangeComplete x0) := of_event rfl
theorem hostMemRead (x0 x1) : Statement (.hostMemRead x0 x1) := of_event rfl
theorem hostMemWrite (x0 x1) : Statement (.hostMemWrite x0 x1) := of_event rfl
theorem hostSnoop (x0 x1) : Statement (.hostSnoop x0 x1) := of_event rfl
theorem linkWake (x0) : Statement (.linkWake x0) := of_event rfl
theorem linkRetrain (x0 x1) : Statement (.linkRetrain x0 x1) := of_event rfl
theorem heartbeatMissing (x0) : Statement (.heartbeatMissing x0) := of_event rfl
theorem dieRejoin (x0 x1 x2 x3) : Statement (.dieRejoin x0 x1 x2 x3) := of_event rfl
theorem mapCommit (x0) : Statement (.mapCommit x0) := of_event rfl
theorem mapGraceExpire (x0) : Statement (.mapGraceExpire x0) := of_event rfl
theorem ctxMapackWrite (x0 x1) : Statement (.ctxMapackWrite x0 x1) := of_event rfl
theorem takeEvent (x0) : Statement (.takeEvent x0) := of_event rfl
theorem coreStop (x0 x1 x2) : Statement (.coreStop x0 x1 x2) := of_event rfl
theorem supervisorRepair (x0 x1) : Statement (.supervisorRepair x0 x1) := of_event rfl
theorem supervisorReplace (x0 x1 x2) : Statement (.supervisorReplace x0 x1 x2) := of_event rfl
theorem suspendDeadline (x0) : Statement (.suspendDeadline x0) := of_event rfl
theorem suspensionComplete (x0) : Statement (.suspensionComplete x0) := of_event rfl
theorem contextResume (x0 x1) : Statement (.contextResume x0 x1) := of_event rfl
theorem serviceRecordTake (x0) : Statement (.serviceRecordTake x0) := of_event rfl
theorem partModeWrite (x0) : Statement (.partModeWrite x0) := of_event rfl
theorem partModeApply : Statement .partModeApply := of_event rfl
theorem clClockWrite (x0 x1) : Statement (.clClockWrite x0 x1) := of_event rfl
theorem dieVddWrite (x0 x1) : Statement (.dieVddWrite x0 x1) := of_event rfl
theorem clockChangeComplete (x0) : Statement (.clockChangeComplete x0) := of_event rfl
theorem vddRampComplete (x0) : Statement (.vddRampComplete x0) := of_event rfl
theorem clCurrentWrite (x0 x1) : Statement (.clCurrentWrite x0 x1) := of_event rfl
theorem clPermitWrite (x0 x1) : Statement (.clPermitWrite x0 x1) := of_event rfl
theorem permitBcastWrite (x0) : Statement (.permitBcastWrite x0) := of_event rfl
theorem stallSample (x0 x1 x2 x3) : Statement (.stallSample x0 x1 x2 x3) := of_event rfl
theorem forecastUpdate : Statement .forecastUpdate := of_event rfl
theorem thermalSample (x0) : Statement (.thermalSample x0) := of_event rfl
theorem thermStatWrite (x0) : Statement (.thermStatWrite x0) := of_event rfl
theorem snapTrig : Statement .snapTrig := of_event rfl
theorem snapshotComplete : Statement .snapshotComplete := of_event rfl
theorem hostNoticeWrite (x0 x1) : Statement (.hostNoticeWrite x0 x1) := of_event rfl
theorem spdmRequest (x0) : Statement (.spdmRequest x0) := of_event rfl
theorem bootRom (x0 x1) : Statement (.bootRom x0 x1) := of_event rfl
theorem bringUp (x0 x1) : Statement (.bringUp x0 x1) := of_event rfl
theorem controlRegisterWrite (x0 x1 x2) : Statement (.controlRegisterWrite x0 x1 x2) := of_event rfl
theorem hostBiResponse (x0 x1) : Statement (.hostBiResponse x0 x1) := of_event rfl
theorem hostCacheResponse (x0 x1) : Statement (.hostCacheResponse x0 x1) := of_event rfl
theorem linkLowPowerEntry (x0) : Statement (.linkLowPowerEntry x0) := of_event rfl
theorem corePowerGate (x0) : Statement (.corePowerGate x0) := of_event rfl

end Sys2Proof.Laws.RoundTrip
end

