-- ==== Sys2Proof/Safety.lean ====
section
/-! DEFINITION. The terms in which claims speak of the machine: a safe step, a property that every step keeps, an instruction
that issues, and what an instruction leaves as it was. -/
namespace Sys2Proof.Machine

/-- A step that ends in neither a fault nor a refusal. -/
def SafeStep (s : State) : Prop := ∃ t, step s = .next t
/-- A property that every step keeps, from every state that has it. -/
def Kept (p : State → Prop) : Prop := ∀ s t, p s → step s = .next t → p t

/-- The permit that an instruction of the focus agent needs is there (R397). -/
def State.permitHere (s : State) (i : Instr) : Bool :=
  match permitClass i.major with
  | none => true
  | some c => !holdsPermits s.focus || s.permitCount s.focus c != 0
/-- The instruction issues now at the focus agent: it is in the agent's profile, the agent has the privilege it needs, no
register that it names awaits an earlier result, no remote operation whose result it reads or overwrites was lost, it has not issued
before, and its permit is there (R184, R195, R323, R397). -/
structure Issues (s : State) (i : Instr) : Prop where
  profile : inProfile s.focus i.major = true
  privileged : needsS i.major = true → (s.hart s.focus).priv = true
  ready : s.hazard s.focus i = false
  whole : s.lostRead s.focus i = none
  free : s.lostDest s.focus i = false
  fresh : (s.hart s.focus).begun = false
  permit : s.permitHere i = true

/-- A waiting instruction runs again at the focus agent: its permit went when it first issued (R336). -/
structure Resumes (s : State) (i : Instr) : Prop where
  profile : inProfile s.focus i.major = true
  privileged : needsS i.major = true → (s.hart s.focus).priv = true
  ready : s.hazard s.focus i = false
  whole : s.lostRead s.focus i = none
  free : s.lostDest s.focus i = false
  waiting : (s.hart s.focus).wait.isSome = true

/-- Only one agent's hart may differ: every other part of the module is as before, every byte of memory among them. -/
structure OnlyHart (s t : State) (a : Agent) : Prop where
  rest : { t with harts := s.harts } = s
  others : ∀ k, k ≠ agentKey a → mget hartDefault t.harts k = mget hartDefault s.harts k
  bytes : ∀ x, memByte t.mem x = memByte s.mem x
/-- Two harts agree but for the registers, the PC, the address control came from, and what an access in progress leaves: a
wait, a monitor, the answer of a walk, the host's answers. The status bits, the trap registers, the vectors and every other special register agree. -/
def HartRest (h g : Hart) : Prop :=
  { g with regs := h.regs, pc := h.pc, fromPc := h.fromPc, wait := h.wait, monitor := h.monitor, walkFault := h.walkFault, hostLds := h.hostLds } = h
/-- A register write: `d` holds `v` unless it is g0, which reads 0, and every other register is as before (R183). -/
def RegSet (h g : Hart) (d : Reg) (v : Word) : Prop :=
  g.reg d = (if d = 0 then 0 else v) ∧ ∀ r, r ≠ d → g.reg r = h.reg r
/-- The whole effect of an instruction that writes one register and goes to `pc`. -/
def RegDone (s t : State) (d : Reg) (v pc : Word) : Prop :=
  let h := s.hart s.focus
  let g := t.hart s.focus
  RegSet h g d v ∧ g.pc = pc ∧ g.wait = none ∧ HartRest h g ∧ OnlyHart s t s.focus

/-! ### Trap entry (R349) -/

/-- An access of the agent itself waits for a walk. -/
def State.walksFor (s : State) (a : Agent) : Bool :=
  waitsIn (agentKey a) (s.walkQ (walkUnit a)) || waitsIn (agentKey a) (s.walksIn (walkUnit a))
/-- Nothing of the agent's earlier work is under way: no walk, no array instruction and no remote operation (R195, R242). -/
def State.caughtUp (s : State) (a : Agent) : Bool :=
  !s.walksFor a && match a with
    | .far c => s.arrayIdle c && !s.remoteBusy c
    | _ => true

/-- What every entry saves, with every part that it leaves alone. -/
def TrapSaved (h g : Hart) (cause : Nat) (pc : Word) (info : Infos) : Prop :=
  g.cause = BitVec.ofNat 8 cause ∧ g.trapPc = pc ∧ g.info = info ∧ g.wait = none ∧ g.monitor = none ∧ g.hostLds = [] ∧ g.pend = none ∧
  { g with cause := h.cause, trapPc := h.trapPc, info := h.info, pc := h.pc, fromPc := h.fromPc, line := h.line, wait := h.wait,
           monitor := h.monitor, walkFault := h.walkFault, hostLds := h.hostLds, pend := h.pend, h := h.h, priv := h.priv, ppriv := h.ppriv, ie := h.ie, pie := h.pie } = h
/-- Entry to the U handler: H is set, and the status does not change. -/
def EntersU (h g : Hart) (cause : Nat) (pc : Word) (info : Infos) : Prop :=
  TrapSaved h g cause pc info ∧ g.h = true ∧ g.pc = h.vecU ∧ g.priv = h.priv ∧ g.ppriv = h.ppriv ∧ g.ie = h.ie ∧ g.pie = h.pie
/-- Entry to the S handler: privilege and IE are saved, IE is cleared, and H does not change. -/
def EntersS (h g : Hart) (cause : Nat) (pc : Word) (info : Infos) : Prop :=
  TrapSaved h g cause pc info ∧ g.h = h.h ∧ g.pc = h.vecS ∧ g.priv = true ∧ g.ppriv = h.priv ∧ g.ie = false ∧ g.pie = h.ie
/-- Entry as TRAP_DELEG, the privilege and H direct it. -/
def Enters (h g : Hart) (cause : Nat) (pc : Word) (info : Infos) : Prop :=
  if h.priv = false ∧ h.deleg.getLsbD cause = true ∧ h.h = false then EntersU h g cause pc info else EntersS h g cause pc info
/-- A trap now enters a handler: only in S with IE clear would it stop the core (R349, R353). -/
def MayTrap (h : Hart) : Prop := h.priv = false ∨ h.ie = true

/-! ### Instructions that use a permit, and the units that they change -/

/-- The hart of an agent after an instruction that writes `d` and goes to `pc`: everything but its registers, its PC, its permits
and what an access in progress leaves is as before, and so is every other hart. -/
def HartDone (a : Agent) (s t : State) (d : Reg) (v pc : Word) : Prop :=
  let h := s.hart a
  let g := t.hart a
  RegSet h g d v ∧ g.pc = pc ∧ g.wait = none ∧
  HartRest h { g with memP := h.memP, tableP := h.tableP, macroP := h.macroP, passP := h.passP } ∧
  ∀ k, k ≠ agentKey a → mget hartDefault t.harts k = mget hartDefault s.harts k
/-- The instruction has consumed one permit of a class; a hub core holds none (R397, R422). -/
def Spent (a : Agent) (s t : State) (c : PermitClass) : Prop := holdsPermits a = true → t.permitCount a c = s.permitCount a c - 1
/-- The whole effect of an instruction that uses a permit, writes `d` and goes to `pc`: nothing but the agent's hart and the permits
of a near unit has changed, and every byte of memory is as before. -/
def MemDone (a : Agent) (s t : State) (d : Reg) (v pc : Word) : Prop :=
  HartDone a s t d v pc ∧ { t with harts := s.harts, units := s.units } = s ∧
  (∀ n, { t.unit n with memP := (s.unit n).memP, tableP := (s.unit n).tableP } = s.unit n) ∧ ∀ x, memByte t.mem x = memByte s.mem x
/-- Of the module outside the harts only one far core's own parts have changed: they are now `f`. -/
def FarIs (c : Nat) (s t : State) (f : Far) : Prop :=
  t.far c = f ∧ (∀ k, k ≠ c → t.far k = s.far k) ∧ { t with harts := s.harts, fars := s.fars } = s ∧
  ∀ x, memByte t.mem x = memByte s.mem x
/-- Of the module outside the harts only one near context's row buffer and task notes have changed: they are now `x`. -/
def NearIs (n c : Nat) (s t : State) (x : NearCtx) : Prop :=
  t.near n c = x ∧ (∀ k, k ≠ 2 * n + c → mget (fun _ => ({} : NearCtx)) t.nears k = mget (fun _ => ({} : NearCtx)) s.nears k) ∧
  { t with harts := s.harts, units := s.units, nears := s.nears } = s ∧ ∀ y, memByte t.mem y = memByte s.mem y

/-- Byte `i` of a line or of a number. -/
def byteOf {n : Nat} (v : BitVec n) (i : Nat) : Byte := v.extractLsb' (8 * i) 8
/-- A byte of device memory as its home sees it: the memory-side cache's copy where its sector is valid there, and else the bank's
byte (R54, R59). -/
def State.homeByte (s : State) (x : Nat) : Byte :=
  let l := s.mscAt (x / 64)
  if l.valid.getLsbD (x % 64 / 32) then byteOf l.data (x % 64) else memByte s.mem x
/-- The `n` bytes that a home sees from an address, as a little-endian number. -/
def State.homeRead (s : State) (x : Nat) : Nat → Nat
  | 0 => 0
  | n + 1 => (s.homeByte x).toNat + 256 * s.homeRead (x + 1) n
/-- A home can serve an access to a line now: it is not lost, the host does not hold the line, no held add waits in it, the line has
its place at the memory-side cache, and no stored sector of the module has an error. -/
def State.homeServes (s : State) (pa : Nat) : Prop :=
  s.homeLost (homeOf pa) = false ∧ (s.mscAt (pa / 64)).host = false ∧ s.heldOn (64 * (pa / 64)) 64 = false ∧
  s.mscVictim (pa / 64) = none ∧ s.bad = []
/-- A loaded number of n bytes, as the register takes it (R270). -/
def loaded (sx : Bool) (n m : Nat) : Word :=
  if sx = true ∧ 2 ^ (8 * n - 1) ≤ m then BitVec.ofInt 64 ((m : Int) - 2 ^ (8 * n)) else BitVec.ofNat 64 m

/-! ### The array of a far core -/

/-- Column `j` of a lane of a row (R218, R219). -/
def Arr.col (a : Arr) (r l j : Nat) : Bool := (a.row r).getLsbD (l * a.laneW + j)
/-- `n` columns of a lane of a row, as a number. -/
def Arr.field (a : Arr) (r l c n : Nat) : Nat := fieldOf (laneOfRow (a.row r) a.laneW l) c n
/-- The tag bit of a lane of a row (R218). -/
def Arr.tagAt (a : Arr) (t : TagNo) (r l : Nat) : Bool := (a.tag t).getLsbD (4 * r + l)
/-- A row of a span, in an active lane (R220). -/
def Arr.spans? (a : Arr) (ls : BitVec 2) (r l : Nat) : Bool :=
  let p := a.spanOf ls
  decide (l < a.lanesN) && decide (p.1 ≤ r) && decide (r < p.1 + p.2)
/-- The rows and lanes on which an instruction acts (R220). -/
def Arr.acts (a : Arr) (x : Rows) (r l : Nat) : Bool :=
  a.spans? x.span r l && (match x.sel with | none => true | some t => a.tagAt t r l)
/-- An array instruction issues to an engine with nothing in it, in a turn in which the engine runs to its end (DESIGN CHOICE, log entry 2): it
passes the checks of its fields and of the ring, no store to the format windows of the arrays it writes is still to be performed, and the current that it
needs is there and nobody else in the cluster asks for any. -/
structure ArrayTurn (s : State) (c : Nat) (i : Instr) : Prop where
  turn : s.focus = .far c
  issues : Issues s i
  whole : s.overlap = false
  queue : (s.far c).aq = []
  engine : (s.far c).arun = none
  held : (s.far c).aheld = 0
  current : fitsCurrent (arrayUnits (s.far c).arr.lanes i) (s.cluster (clusterOf c)).heldUnits (s.cluster (clusterOf c)).budget.toNat = true
  fields : (s.far c).arr.fieldSpec i ((i.reads.map (s.reg (.far c))).getD 0 0) ((i.reads.map (s.reg (.far c))).getD 1 0)
    (i.reads.map (s.reg (.far c))) = none
  ring : s.ringFlaw c i = none
  windows : s.sbHas (.far c) (fun e => isFormat e.pa && (windowCore e.pa == c || windowCore e.pa == ringOf c i)) = false
  alone : ∀ j, j < 32 → j ≠ 2 * (c % 16) → s.clusterWants (clusterOf c) j = none
  pri : s.requestPri (clusterOf c) (2 * (c % 16)) ≤ 3
/-- The engine of a far core after an array instruction has run through it. -/
def Far.ran (f : Far) (a : Arr) (codes : BitVec 4) : Far := { f with arr := a, aflags := f.aflags ||| codes, mid := none, acol := 0, xcol := [] }
/-- The arbiter of a cluster after it has granted contender `i` alone (R337). -/
def Cluster.granted (x : Cluster) (i : Nat) : Cluster := { x with reqs := [], arbPtr := (i + 1) % 32 }
/-- All that an array instruction may change: the array and the sticky flags of its core, one register, a permit and the PC, and the
arbiter's pointer. -/
def ArrayDone (c : Nat) (s t : State) (a : Arr) (codes : BitVec 4) (d : Reg) (v : Word) : Prop :=
  t.far c = (s.far c).ran a codes ∧ (∀ k, k ≠ c → t.far k = s.far k) ∧
  HartDone (.far c) s t d v (s.hart (.far c)).nextPc ∧
  (∀ k, t.cluster k = if k = clusterOf c then (s.cluster k).granted (2 * (c % 16)) else s.cluster k) ∧
  { t with harts := s.harts, fars := s.fars, clusters := s.clusters, ticks := s.ticks } = s
/-- The instruction runs so, with an array and conditions that satisfy a property, and a register result. -/
def ArrayRuns (s : State) (c : Nat) (i : Instr) (d : Reg) (v : Word) (p : Arr → BitVec 4 → Prop) : Prop :=
  ArrayTurn s c i → ∃ t a codes, exec i s = .next t ∧ ArrayDone c s t a codes d v ∧ p a codes

/-- One row of a span in one lane on its way through the tree of ARED: whether it is present, its value, and what its additions have
raised (R258). -/
structure RedRow where
  present : Bool
  value : Nat
  conds : Conds
/-- Level `lev` of the tree of R258 over the `count` rows of a span. -/
def redLevel (add : Nat → Nat → Nat × Conds) (count : Nat) (x : Nat → RedRow) (lev i : Nat) : RedRow :=
  let p := x i
  let q := x (i + 2 ^ lev)
  if i % 2 ^ (lev + 1) = 0 ∧ i + 2 ^ lev < count ∧ q.present = true then
    if p.present then let s := add p.value q.value; ⟨true, s.1, p.conds.or s.2⟩ else { p with present := true, value := q.value }
  else p
/-- What the fifteen levels of the tree leave of each row. -/
def redRows (add : Nat → Nat → Nat × Conds) (count : Nat) (x : Nat → RedRow) : Nat → RedRow :=
  (List.range 15).foldl (redLevel add count) x

/-! ### Mailboxes -/

/-- A message of the device for a channel of a far core's own vcore enters a slot now: no other delivery stands at the mailbox unit, and the
core's die has not been reset since (R126, R168, R334). -/
structure MailOpen (s : State) (core ch : Nat) : Prop where
  live : ∃ x, s.ctx (s.coreCtx core) = some x ∧ x.st ≠ .exited
  here : s.placedOn (s.coreCtx core) (s.far core).vcore.toNat = some core
  order : ∀ m ∈ (s.far core).held, m.ch ≠ ch
  room : s.slotFree core ch = true
  alone : s.deliveries.any (s.atUnit core) = false
  fresh : s.staleInc (some (dieOf core)) (dieOf core) (s.sentInc core) = false
/-- A channel has taken a payload in its next slot and counted it; the other channels of the core are as before (R168). -/
def Received (s t : State) (core ch : Nat) (m : BitVec 512) : Prop :=
  let x := (s.far core).channel ch
  (t.far core).channel ch = { x with slots := x.slots ++ [m], counter := x.counter + 1 } ∧
  ∀ k, k ≠ ch → (t.far core).channel k = (s.far core).channel k

end Sys2Proof.Machine
end

