-- ==== Sys2Proof/Certificates/Slice0/Obligations.lean ====
section
/-! DEFINITION. What is claimed of the machine: one proposition per claim. -/
open Sys2Proof Sys2Proof.Machine

/-! ### Reset, encodings, and how an instruction comes to run -/

/-- The values that the manual gives for reset (R183, R312, R167, R218, R220, R350, R373, R389, R397, R399, R377, R420): an agent is
in U with IE set and H clear, a hub core in S; no wait, no event; four mailbox depths of 16; lanes in mode 1 and one span of every
row; full permit counters; supplies and clocks at their rated points; stage 0. -/
def Obligations.ResetState : Prop :=
  (∀ a, let h := State.reset.hart a
    h.ie = true ∧ h.pie = false ∧ h.ppriv = false ∧ h.h = false ∧ h.sreq = false ∧ h.evp = false ∧ h.wait = none ∧ h.monitor = none ∧
    h.macroP.count = 255 ∧ h.passP.count = 255 ∧ h.tableP.count = 255 ∧ h.memP.count = 255 ∧ h.root = 0 ∧ ∀ r, h.reg r = 0) ∧
  (∀ c, c < 4096 → (State.reset.hart (.far c)).priv = false) ∧ (∀ n, (State.reset.hart (.hub n)).priv = true) ∧
  (∀ c, let f := State.reset.far c
    f.mbcfg = 0xFFFFFFFFFFFFFFFF ∧ f.arr.lanes = .one ∧ f.aflags = 0 ∧ f.dom1 = 0 ∧ f.dom2 = 0 ∧ f.dom3 = 0 ∧ f.stealSet = 0 ∧
    f.sb = [] ∧ f.aq = [] ∧ f.arun = none ∧ f.eng = [] ∧ f.coreQ = [] ∧ f.task = none) ∧
  (∀ c, let x := State.reset.cluster c
    x.freq = 1300 ∧ x.bias = 0 ∧ x.busy = false ∧ x.budget = 128 ∧ x.heldUnits = 0 ∧ x.pMacro = 64 ∧ x.pPass = 64 ∧ x.pTable = 64 ∧
    x.pMem = 64 ∧ x.bars = []) ∧
  (∀ d, let x := State.reset.island d
    x.vdd = 780 ∧ x.vddBusy = false) ∧
  (∀ k, let x := State.reset.stack k
    x.en = false ∧ x.busy = false ∧ x.wave = 1024 ∧ x.budget = 96) ∧
  (∀ h q, ((State.reset.home h).queueAt q).ctx = none) ∧ (∀ c, State.reset.ctx c = none) ∧
  State.reset.mapVersion = 1 ∧ State.reset.mapMode = 0 ∧ State.reset.hub.grace = 1300000 ∧ State.reset.hub.period = 100 ∧
  State.reset.hub.tripC = 105 ∧ State.reset.hub.alertC = 92 ∧ State.reset.hub.stage = 0 ∧ State.reset.time = 0

/-- Memory after reset has its canonical form. -/
def Obligations.ResetMemoryCanonical : Prop := Memory.wf State.reset.mem = true

/-- Whatever a step does, memory keeps its canonical form: addresses strictly rising and no byte listed that an unlisted address
reads as. -/
def Obligations.StepKeepsMemoryCanonical : Prop := Kept fun s => Memory.wf s.mem = true

/-- Decoding the head and tail that the encoder gives a well-formed instruction gives that instruction back, whatever its operands.
-/
def Obligations.DecodeEncode : Prop := ∀ i : Instr, Laws.RoundTrip.Statement i

/-- The worked encodings of the manual: each head and tail decodes to the instruction that the text names for it. -/
def Obligations.WorkedEncodings : Prop :=
  decode 0x1A43 0x1054 = .ok (.div false false true 3 4 5) ∧ decode 0x2684 0x10600003 = .ok (.shi .sha true 4 4 3) ∧
  decode 0x22C7 0x0000020089AB = .ok (.li .h 7 0x89AB) ∧ decode 0x3088 0x1C500002 = .ok (.hdrx 8 7 5 2) ∧
  decode 0x5480 0x26500040 = .ok (.cmaint .ci .mem .gran 9 0x40) ∧ decode 0x7640 0x1C80 = .ok (.tlbi (.va 7 8)) ∧
  decode 0x7E4C 0x2CD0 = .ok (.nlut false 12 11 13) ∧ decode 0xEAC0 0x105183000010 = .ok (.msend 3 16 4 5 6) ∧
  decode 0xEC40 0x1C06 = .ok (.bar 2 true 7) ∧ decode 0xF080 0x242000E4 = .ok (.qbind 9 2 0xE4) ∧
  decode 0xCD00 0x000040_01C0008801 = .ok (.amack ⟨0, none⟩ 8 0 56 0 .i8 .i8 .rne false 1)

/-- A turn of an agent that is in a legal line, with no event to take, runs the instruction that the head at its PC and that head's
tail decode to; time has passed first. A turn that names an event runs that event. A new line is fetched whole and checked before
its head runs (R70, R182): where the agent is not in the line at the PC, the turn runs the head of the line that the fetch gives. A
turn of a near unit runs the context that its round robin gives, and a context that has the slot is passed by the pointer (R133).
(That State.turns names who goes on, and the focus agent where it is empty, is the model's choice, log entry 1; so is the time that
passes: the turn's dt, or Config.elapsed, log entry 9.) -/
def Obligations.StepRunsDecoded : Prop :=
  (∀ (s : State) (a : Agent) (ov : Bool) (dt : Nat) (r : List Turn) (l : BitVec 512) (i : Instr),
  let h := s.hart a
  let u := ({ s with turns := r, overlap := ov, time := s.time + dt } : State).giveTurn a
  let v := ({ s with time := s.time + Config.elapsed s.ticks, ticks := s.ticks + 1 } : State).giveTurn a
  (h.active = true → h.stopped = false → h.pend = none → h.line = some (h.pc &&& ~~~63, l) → lineFlaw l = none →
    h.pc.toNat % 2 = 0 → 2 ≤ h.pc.toNat % 64 → h.pc.toNat % 64 ≤ 2 * lineN l →
    decode (lineHead l (h.pc.toNat % 64 / 2)) (lineTail l (h.pc.toNat % 64 / 2)) = .ok i →
    (s.turns = .agent a ov dt :: r → u.boundary a = none → step s = exec i u) ∧
    (s.turns = [] → s.focus = a → v.boundary a = none → step s = exec i v)) ∧
  (s.turns = .event i dt :: r → i.isEvent = true →
    step s = exec i { s with turns := r, overlap := true, time := s.time + dt })) ∧
  (∀ (s u : State) (a : Agent) (ov : Bool) (dt : Nat) (r : List Turn) (l : BitVec 512) (i : Instr),
  let v := ({ s with turns := r, overlap := ov, time := s.time + dt } : State).giveTurn a
  s.turns = .agent a ov dt :: r → (s.hart a).active = true → (s.hart a).stopped = false → (s.hart a).pend = none → v.boundary a = none →
  (∀ m, (s.hart a).line ≠ some ((s.hart a).pc &&& ~~~63, m)) → v.fetchNew a ((s.hart a).pc &&& ~~~63) = .ok l u →
  decode (lineHead l ((u.hart a).pc.toNat % 64 / 2)) (lineTail l ((u.hart a).pc.toNat % 64 / 2)) = .ok i →
  step s = exec i u ∧ (u.hart a).line = some ((s.hart a).pc &&& ~~~63, l)) ∧
  (∀ (s : State) (h c : Nat) (ov : Bool) (dt : Nat) (r : List Turn),
  let v : State := { s with turns := r, overlap := ov, time := s.time + dt }
  let won := fun (k : Nat) => ({ v.updUnit h (fun x => { x with ptr := (k + 1) % 2 }) with focus := .near h k } : State)
  let p := (v.unit h).ptr % 2
  (s.turns = .near h ov dt :: r →
    (v.nearReady h p = true → step s = agentTurn (won p)) ∧
    (v.nearReady h p = false → v.nearReady h ((p + 1) % 2) = true → step s = agentTurn (won ((p + 1) % 2))) ∧
    (v.nearReady h 0 = false → v.nearReady h 1 = false → step s = .next v)) ∧
  (v.nearReady h c = true → v.giveTurn (.near h c) = won c) ∧
  (v.nearReady h c = false → v.giveTurn (.near h c) = { v with focus := .near h c }) ∧
  (∀ a, (∀ x y, a ≠ .near x y) → v.giveTurn a = { v with focus := a }))

/-- R184 and R323: an encoded instruction outside the profile of its agent traps ILLEGAL_INSN with reason 3, before anything else is
checked, and SNAP, TLBI and IEN trap PRIVILEGE in U; the information registers hold the head and the tail. R184: a reserved major
code traps ILLEGAL_INSN with reason 1, and its head and tail are reported. R184 and R185: in a legal line, a head and tail that the
decoder rejects, by the tail class (reason 2), by a reserved value or form (reason 4), trap ILLEGAL_INSN with that reason. R195: an
instruction one of whose registers awaits an earlier result does not issue in a turn that overlaps; nothing at all changes. (That
the rest of the machine goes on first in another turn, and who has a turn at all, is the model's choice: log entries 2 and 1.) -/
def Obligations.IssueRules : Prop :=
  (∀ (i : Instr) (s : State), i.isEvent = false → (∀ h t, i ≠ .ill h t) →
  let p := s.headHere s.focus i
  (inProfile s.focus i.major = false →
    exec i s = .next (s.takeTrap s.focus { cause := 1, infos := ⟨p.1.zeroExtend 64, p.2, 3, 0⟩ })) ∧
  (inProfile s.focus i.major = true → i.major = 0x3A ∨ i.major = 0x3B ∨ i.major = 0x3C → (s.hart s.focus).priv = false →
    exec i s = .next (s.takeTrap s.focus { cause := 4, infos := ⟨p.1.zeroExtend 64, p.2, 0, 0⟩ }))) ∧
  (∀ (h : BitVec 16) (t : BitVec 64) (s : State),
  let p := s.headHere s.focus (.ill h t)
  exec (.ill h t) s = .next (s.takeTrap s.focus { cause := 1, infos := ⟨p.1.zeroExtend 64, p.2, 1, 0⟩ }) ∧
  ((s.hart s.focus).line = none → p = (h, t))) ∧
  (∀ (s : State) (a : Agent) (ov : Bool) (dt n : Nat) (r : List Turn) (l : BitVec 512),
  let h := s.hart a
  let u := ({ s with turns := r, overlap := ov, time := s.time + dt } : State).giveTurn a
  let k := h.pc.toNat % 64 / 2
  s.turns = .agent a ov dt :: r → h.active = true → h.stopped = false → h.pend = none → u.boundary a = none → h.line = some (h.pc &&& ~~~63, l) →
  lineFlaw l = none → h.pc.toNat % 2 = 0 → 2 ≤ h.pc.toNat % 64 → h.pc.toNat % 64 ≤ 2 * lineN l →
  decode (lineHead l k) (lineTail l k) = .bad n → n ≠ 5 → inProfile a ((lineHead l k).toNat / 512) = true →
  step s = .next (u.takeTrap a { cause := 1, infos := ⟨(lineHead l k).zeroExtend 64, lineTail l k, BitVec.ofNat 64 n, 0⟩ })) ∧
  (∀ (i : Instr) (s : State), i.isEvent = false → (∀ h t, i ≠ .ill h t) → inProfile s.focus i.major = true →
  (i.major = 0x3A ∨ i.major = 0x3B ∨ i.major = 0x3C → (s.hart s.focus).priv = true) → s.overlap = true →
  s.hazard s.focus i = true → exec i s = .next s)

/-! ### Scalar instructions -/

/-- R198 with R194: ADD, SUB and MUL of 64 bits, and of 32 bits with a sign-extended result, write d alone and go to NextPC. R198
and R206, bit by bit: AND, OR, XOR and ANDN, where the 32-bit form takes bit 31 of the result above it, and LOGI, whose immediate is
sign-extended. -/
def Obligations.Arithmetic : Prop :=
  (∀ (d a b : Reg) (s : State),
  let x := s.reg s.focus a
  let y := s.reg s.focus b
  let x32 : BitVec 32 := x.extractLsb' 0 32
  let y32 : BitVec 32 := y.extractLsb' 0 32
  let pc := (s.hart s.focus).nextPc
  (Issues s (.add false d a b) → ∃ t, exec (.add false d a b) s = .next t ∧ RegDone s t d (x + y) pc) ∧
  (Issues s (.add true d a b) → ∃ t, exec (.add true d a b) s = .next t ∧ RegDone s t d ((x32 + y32).signExtend 64) pc) ∧
  (Issues s (.sub false d a b) → ∃ t, exec (.sub false d a b) s = .next t ∧ RegDone s t d (x - y) pc) ∧
  (Issues s (.sub true d a b) → ∃ t, exec (.sub true d a b) s = .next t ∧ RegDone s t d ((x32 - y32).signExtend 64) pc) ∧
  (Issues s (.mul false d a b) → ∃ t, exec (.mul false d a b) s = .next t ∧ RegDone s t d (x * y) pc) ∧
  (Issues s (.mul true d a b) → ∃ t, exec (.mul true d a b) s = .next t ∧ RegDone s t d ((x32 * y32).signExtend 64) pc)) ∧
  (∀ (d a b : Reg) (k : BitVec 20) (s : State),
  let x := s.reg s.focus a
  let y := s.reg s.focus b
  let m : Word := k.signExtend 64
  let pc := (s.hart s.focus).nextPc
  (∀ w, Issues s (.and w d a b) → ∃ t v, exec (.and w d a b) s = .next t ∧ RegDone s t d v pc ∧
    ∀ n < 64, v.getLsbD n = (x.getLsbD (if w then min n 31 else n) && y.getLsbD (if w then min n 31 else n))) ∧
  (∀ w, Issues s (.or w d a b) → ∃ t v, exec (.or w d a b) s = .next t ∧ RegDone s t d v pc ∧
    ∀ n < 64, v.getLsbD n = (x.getLsbD (if w then min n 31 else n) || y.getLsbD (if w then min n 31 else n))) ∧
  (∀ w, Issues s (.xor w d a b) → ∃ t v, exec (.xor w d a b) s = .next t ∧ RegDone s t d v pc ∧
    ∀ n < 64, v.getLsbD n = (x.getLsbD (if w then min n 31 else n) ^^ y.getLsbD (if w then min n 31 else n))) ∧
  (∀ w, Issues s (.andn w d a b) → ∃ t v, exec (.andn w d a b) s = .next t ∧ RegDone s t d v pc ∧
    ∀ n < 64, v.getLsbD n = (x.getLsbD (if w then min n 31 else n) && !y.getLsbD (if w then min n 31 else n))) ∧
  (Issues s (.logi .and d a k) → ∃ t, exec (.logi .and d a k) s = .next t ∧ RegDone s t d (x &&& m) pc) ∧
  (Issues s (.logi .or d a k) → ∃ t, exec (.logi .or d a k) s = .next t ∧ RegDone s t d (x ||| m) pc) ∧
  (Issues s (.logi .xor d a k) → ∃ t, exec (.logi .xor d a k) s = .next t ∧ RegDone s t d (x ^^^ m) pc))

/-- R198 and R207: the four shifts by a register and by an immediate. The count is taken modulo the width; zeros enter SHL and SHR,
copies of the top bit enter SHA, and ROT rotates right. -/
def Obligations.Shifts : Prop := ∀ (d a b : Reg) (c : BitVec 6) (s : State),
  let x := s.reg s.focus a
  let y := s.reg s.focus b
  let x32 : BitVec 32 := x.extractLsb' 0 32
  let n := y.toNat % 64
  let n32 := y.toNat % 32
  let k := c.toNat
  let pc := (s.hart s.focus).nextPc
  let runs := fun (i : Instr) (v : Word) => Issues s i → ∃ t, exec i s = .next t ∧ RegDone s t d v pc
  runs (.shl false d a b) (x <<< n) ∧ runs (.shl true d a b) ((x32 <<< n32).signExtend 64) ∧
  runs (.shr false d a b) (x >>> n) ∧ runs (.shr true d a b) ((x32 >>> n32).signExtend 64) ∧
  runs (.sha false d a b) (x.sshiftRight n) ∧ runs (.sha true d a b) ((x32.sshiftRight n32).signExtend 64) ∧
  runs (.rot false d a b) ((x >>> n) ||| (x <<< (64 - n))) ∧
  runs (.rot true d a b) (((x32 >>> n32) ||| (x32 <<< (32 - n32))).signExtend 64) ∧
  runs (.shi .shl false d a c) (x <<< k) ∧ runs (.shi .shr false d a c) (x >>> k) ∧
  runs (.shi .sha false d a c) (x.sshiftRight k) ∧ runs (.shi .rot false d a c) ((x >>> k) ||| (x <<< (64 - k))) ∧
  (k < 32 → runs (.shi .shl true d a c) ((x32 <<< k).signExtend 64) ∧ runs (.shi .shr true d a c) ((x32 >>> k).signExtend 64) ∧
    runs (.shi .sha true d a c) ((x32.sshiftRight k).signExtend 64) ∧
    runs (.shi .rot true d a c) (((x32 >>> k) ||| (x32 <<< (32 - k))).signExtend 64))

/-- R199: MULH writes bits [127:64] of the whole product, of integers taken as the form says; it has three forms and no other; and
the high half of a product of 32 bits is bits [63:32] of MUL of operands that have been extended. -/
def Obligations.MulhHighHalf : Prop := ∀ (d a b : Reg) (s : State),
  let x := s.reg s.focus a
  let y := s.reg s.focus b
  let pc := (s.hart s.focus).nextPc
  let high := fun (p : Int) => BitVec.ofInt 64 (p / 2 ^ 64)
  let runs := fun (i : Instr) (v : Word) => Issues s i → ∃ t, exec i s = .next t ∧ RegDone s t d v pc
  runs (.mulh .ss d a b) (high (x.toInt * y.toInt)) ∧
  runs (.mulh .uu d a b) (high ((x.toNat : Int) * (y.toNat : Int))) ∧
  runs (.mulh .su d a b) (high (x.toInt * (y.toNat : Int))) ∧
  (∀ f : BitVec 4, decode (0x1840 + d.zeroExtend 16) (BitVec.ofNat 64 (a.toNat * 1024 + b.toNat * 16 + f.toNat)) =
    if f = 0 then .ok (.mulh .ss d a b) else if f = 1 then .ok (.mulh .uu d a b) else if f = 2 then .ok (.mulh .su d a b)
    else .bad (if f.toNat % 4 = 3 then 4 else 5)) ∧
  (∀ p q : BitVec 32,
    (Issues s (.mul false d a b) → x = p.signExtend 64 → y = q.signExtend 64 → ∃ t v, exec (.mul false d a b) s = .next t ∧
      RegDone s t d v pc ∧ v.extractLsb' 32 32 = BitVec.ofInt 32 (p.toInt * q.toInt / 2 ^ 32)) ∧
    (Issues s (.mul false d a b) → x = p.zeroExtend 64 → y = q.zeroExtend 64 → ∃ t v, exec (.mul false d a b) s = .next t ∧
      RegDone s t d v pc ∧ v.extractLsb' 32 32 = BitVec.ofNat 32 (p.toNat * q.toNat / 2 ^ 32)))

/-- R200: DIV writes the quotient, truncated towards zero, or the remainder, whose sign is that of the dividend; a zero divisor
gives all ones and the dividend, and the one signed overflow gives the dividend and 0. The last clause is the worked encoding. -/
def Obligations.DivTruncates : Prop := (∀ (w u rem : Bool) (d a b : Reg) (s : State), Issues s (.div w u rem d a b) →
  let n := if w then 32 else 64
  let x : BitVec n := (s.reg s.focus a).setWidth n
  let y : BitVec n := (s.reg s.focus b).setWidth n
  let xi : Int := if u then (x.toNat : Int) else x.toInt
  let yi : Int := if u then (y.toNat : Int) else y.toInt
  let q : Int := if yi = 0 then 2 ^ n - 1 else xi.tdiv yi
  let m : Int := if yi = 0 then xi else xi.tmod yi
  ∃ t, exec (.div w u rem d a b) s = .next t ∧
    RegDone s t d ((BitVec.ofInt n (if rem then m else q)).signExtend 64) (s.hart s.focus).nextPc) ∧
  decode 0x1A43 0x1054 = .ok (.div false false true 3 4 5)

/-- R201, R202 and R203: MINMAX picks the lesser or the greater of two integers, CMP writes 1 or 0, SEL chooses by g[a]. R204, R205
and R212: ADDI, the three forms of LI, which shift the old value of d up, and ADDPC. -/
def Obligations.ChoiceAndImmediates : Prop :=
  (∀ (d a b c : Reg) (s : State),
  let x := s.reg s.focus a
  let y := s.reg s.focus b
  let pc := (s.hart s.focus).nextPc
  let runs := fun (i : Instr) (v : Word) => Issues s i → ∃ t, exec i s = .next t ∧ RegDone s t d v pc
  (∀ w u g, Issues s (.minmax w u g d a b) →
    let n := if w then 32 else 64
    let x : BitVec n := (s.reg s.focus a).setWidth n
    let y : BitVec n := (s.reg s.focus b).setWidth n
    ∃ t v, exec (.minmax w u g d a b) s = .next t ∧ RegDone s t d (BitVec.signExtend 64 v) pc ∧ (v = x ∨ v = y) ∧
      (u = false → g = false → v.toInt ≤ x.toInt ∧ v.toInt ≤ y.toInt) ∧ (u = false → g = true → x.toInt ≤ v.toInt ∧ y.toInt ≤ v.toInt) ∧
      (u = true → g = false → v.toNat ≤ x.toNat ∧ v.toNat ≤ y.toNat) ∧ (u = true → g = true → x.toNat ≤ v.toNat ∧ y.toNat ≤ v.toNat)) ∧
  runs (.cmp .eq d a b) (if x = y then 1 else 0) ∧ runs (.cmp .ne d a b) (if x ≠ y then 1 else 0) ∧
  runs (.cmp .lt d a b) (if x.toInt < y.toInt then 1 else 0) ∧ runs (.cmp .ge d a b) (if x.toInt ≥ y.toInt then 1 else 0) ∧
  runs (.cmp .ltu d a b) (if x.toNat < y.toNat then 1 else 0) ∧ runs (.cmp .geu d a b) (if x.toNat ≥ y.toNat then 1 else 0) ∧
  runs (.sel d a b c) (if x ≠ 0 then y else s.reg s.focus c)) ∧
  (∀ (d a : Reg) (k : BitVec 20) (m : BitVec 24) (p : BitVec 26) (s : State),
  let x := s.reg s.focus a
  let old := (s.reg s.focus d).toNat
  let pc := (s.hart s.focus).nextPc
  let runs := fun (i : Instr) (v : Word) => Issues s i → ∃ t, exec i s = .next t ∧ RegDone s t d v pc
  runs (.addi false d a k) (BitVec.ofInt 64 (x.toInt + k.toInt)) ∧
  runs (.addi true d a k) ((BitVec.ofInt 32 (x.toInt + k.toInt)).signExtend 64) ∧
  runs (.li .s d m) (BitVec.ofInt 64 m.toInt) ∧
  runs (.li .m d m) (BitVec.ofNat 64 (old * 2 ^ 24 + m.toNat)) ∧
  (m.toNat < 2 ^ 16 → runs (.li .h d m) (BitVec.ofNat 64 (old * 2 ^ 16 + m.toNat))) ∧
  runs (.addpc d p) (BitVec.ofInt 64 ((s.hart s.focus).pc.toNat + p.toInt)))

/-- R208 bit by bit: BEXT takes bits lo to lo + len - 1 of g[a] and extends them; BINS puts the low bits of g[a] there and leaves
the other bits of g[d]. R210 and R211: HDRX reads each named field of each record layout, HDRP writes each that can be packed and
leaves the other bits of g[d]; dpa.pchan and dpa.home are computed and can only be read. A row is layout, field, lowest bit, length.
-/
def Obligations.Fields : Prop :=
  (∀ (d a : Reg) (lo : BitVec 6) (len : BitVec 7) (s : State),
  let x := s.reg s.focus a
  let l := lo.toNat
  let n := len.toNat
  let pc := (s.hart s.focus).nextPc
  0 < n → l + n ≤ 64 →
  (∀ sx, Issues s (.bext sx d a lo len) → ∃ t v, exec (.bext sx d a lo len) s = .next t ∧ RegDone s t d v pc ∧
    ∀ j < 64, v.getLsbD j = if j < n then x.getLsbD (l + j) else (sx && x.getLsbD (l + n - 1))) ∧
  (Issues s (.bins d a lo len) → ∃ t v, exec (.bins d a lo len) s = .next t ∧ RegDone s t d v pc ∧
    ∀ j < 64, v.getLsbD j = if l ≤ j ∧ j < l + n then x.getLsbD (j - l) else (s.reg s.focus d).getLsbD j)) ∧
  (∀ (d a : Reg) (s : State),
  let x := s.reg s.focus a
  let pc := (s.hart s.focus).nextPc
  let table : List (BitVec 6 × BitVec 8 × Nat × Nat) :=
    [(0, 0, 9, 7), (0, 1, 6, 3), (0, 2, 0, 6), (1, 0, 32, 12), (1, 1, 16, 4), (1, 2, 0, 13), (2, 0, 32, 16), (2, 1, 24, 8), (2, 2, 0, 4),
     (3, 0, 16, 36), (3, 1, 8, 2), (3, 2, 6, 1), (3, 3, 5, 1), (3, 4, 4, 1), (3, 5, 3, 1), (3, 6, 2, 1), (3, 7, 1, 1), (3, 8, 0, 1),
     (4, 0, 8, 4), (4, 1, 4, 4), (4, 2, 0, 4), (4, 3, 4, 8), (5, 0, 36, 4), (5, 3, 0, 12), (6, 0, 32, 13), (6, 1, 0, 8)]
  let pchan := (x.toNat / 2 ^ 12 % 64) ^^^ (x.toNat / 2 ^ 18 % 64)
  (∀ r ∈ table,
    (Issues s (.hdrx d a r.1 r.2.1) → ∃ t, exec (.hdrx d a r.1 r.2.1) s = .next t ∧
      RegDone s t d (BitVec.ofNat 64 (x.toNat / 2 ^ r.2.2.1 % 2 ^ r.2.2.2)) pc) ∧
    (Issues s (.hdrp d a r.1 r.2.1) → ∃ t v, exec (.hdrp d a r.1 r.2.1) s = .next t ∧ RegDone s t d v pc ∧
      ∀ j < 64, v.getLsbD j =
        if r.2.2.1 ≤ j ∧ j < r.2.2.1 + r.2.2.2 then x.getLsbD (j - r.2.2.1) else (s.reg s.focus d).getLsbD j)) ∧
  (Issues s (.hdrx d a 5 1) → ∃ t, exec (.hdrx d a 5 1) s = .next t ∧ RegDone s t d (BitVec.ofNat 64 pchan) pc) ∧
  (Issues s (.hdrx d a 5 2) → ∃ t, exec (.hdrx d a 5 2) s = .next t ∧
    RegDone s t d (BitVec.ofNat 64 (x.toNat / 2 ^ 36 % 16 * 64 + pchan)) pc))

/-- R209: BITC counts the 1 bits of g[a], the 0 bits above the highest 1 bit, and the 0 bits below the lowest, 64 for g[a] = 0; the
three forms decode as the rule encodes them, a form 3 to 15 is rejected with reason 4 and a nonzero b with reason 5. -/
def Obligations.BitCounts : Prop := ∀ (d a b : Reg) (s : State),
  let x := s.reg s.focus a
  let pc := (s.hart s.focus).nextPc
  let runs := fun (op : BitcOp) (n : Nat) => ∃ t, exec (.bitc op d a) s = .next t ∧ RegDone s t d (BitVec.ofNat 64 n) pc
  (Issues s (.bitc .pop d a) → runs .pop ((List.range 64).filter fun k => x.getLsbD k).length) ∧
  (Issues s (.bitc .clz d a) → ∃ n ≤ 64, runs .clz n ∧ (∀ k, 64 - n ≤ k → x.getLsbD k = false) ∧ (n < 64 → x.getLsbD (63 - n) = true)) ∧
  (Issues s (.bitc .ctz d a) → ∃ n ≤ 64, runs .ctz n ∧ (∀ k < n, x.getLsbD k = false) ∧ (n < 64 → x.getLsbD n = true)) ∧
  ∀ f : BitVec 4, decode (0x2C40 + d.zeroExtend 16) (BitVec.ofNat 64 (a.toNat * 1024 + b.toNat * 16 + f.toNat)) =
    if 3 ≤ f.toNat then .bad 4 else if b ≠ 0 then .bad 5
    else .ok (if f = 0 then .bitc .pop d a else if f = 1 then .bitc .clz d a else .bitc .ctz d a)

/-- R214 with R180 and R181: where each control transfer goes and what link it writes. The target is the line `delta` lines from the
branch's own, at head `slot`; NextPC is the next head of the line, or head 1 of the next line after the last head. -/
def Obligations.ControlTransfers : Prop := ∀ (d a b : Reg) (s : State),
  let h := s.hart s.focus
  let x := h.reg a
  let y := h.reg b
  let line : Word := h.pc &&& ~~~63
  let next : Word := if h.pc.toNat % 64 < 2 * h.lineHeads then h.pc + 2 else line + 66
  let runs := fun (i : Instr) (d : Reg) (v : Word) (pc : Word) => Issues s i → ∃ t, exec i s = .next t ∧ RegDone s t d v pc
  (∀ (e : BitVec 11) (k : BitVec 5),
    let t : Word := line + BitVec.ofInt 64 (64 * e.toInt + 2 * k.toNat)
    runs (.br .eq a b e k) 0 0 (if x = y then t else next) ∧ runs (.br .ne a b e k) 0 0 (if x ≠ y then t else next) ∧
    runs (.br .lt a b e k) 0 0 (if x.toInt < y.toInt then t else next) ∧ runs (.br .ge a b e k) 0 0 (if x.toInt ≥ y.toInt then t else next) ∧
    runs (.br .ltu a b e k) 0 0 (if x.toNat < y.toNat then t else next) ∧
    runs (.br .geu a b e k) 0 0 (if x.toNat ≥ y.toNat then t else next)) ∧
  (∀ (e : BitVec 20) (k : BitVec 5),
    let t : Word := line + BitVec.ofInt 64 (64 * e.toInt + 2 * k.toNat)
    runs (.brz false a e k) 0 0 (if x = 0 then t else next) ∧ runs (.brz true a e k) 0 0 (if x ≠ 0 then t else next)) ∧
  (∀ (e : BitVec 27) (k : BitVec 5),
    let t : Word := line + BitVec.ofInt 64 (64 * e.toInt + 2 * k.toNat)
    runs (.jmp e k) 0 0 t ∧ runs (.jal d e k) d next t) ∧
  runs (.jr d a) d next x

/-! ### Traps, control registers and the system instructions -/

/-- R348 to R350 on a far core with nothing in progress: the trap registers are written, and control goes to the U handler with H
set where the cause is delegated, the privilege is U and H is clear, and otherwise to the S handler with privilege and IE saved; a
trap in S with IE clear stops the core. Nothing else of the machine changes on entry. R195 and R242: while an earlier array
instruction, GET or RAMO has not written its result, the trap is pending, and no register changes. (That such a trap stands in
Hart.pend and is entered in a later turn is the model's choice, log entry 23; that the earlier work goes on first in a turn that
does not overlap is log entry 2.) R349 and R353 on a hub core, which is always in S, and R352 on a near context, which has no S
level: there a delegated cause enters the U handler with the row closed, and any other aborts the task. -/
def Obligations.TrapEntry : Prop :=
  (∀ (s : State) (c : Nat) (t : Trap),
  let a := Agent.far c
  let h := s.hart a
  h.wait = none → h.monitor = none →
  (s.caughtUp a = true →
  (MayTrap h → Enters h ((s.takeTrap a t).hart a) t.cause (t.pc.getD h.pc) t.infos ∧ OnlyHart s (s.takeTrap a t) a) ∧
  (h.priv = true → h.ie = false → ((s.takeTrap a t).hart a).stopped = true)) ∧
  (s.overlap = true → s.walksFor a = false → s.trapReady a = false → (s.takeTrap a t).hart a = { h with pend := some t } ∧ OnlyHart s (s.takeTrap a t) a)) ∧
  (∀ (s : State) (n k : Nat) (t : Trap),
  let b := Agent.hub n
  let a := Agent.near n k
  let hb := s.hart b
  let h := s.hart a
  (s.caughtUp b = true → hb.wait = none → hb.monitor = none → hb.priv = true → hb.ie = true →
    EntersS hb ((s.takeTrap b t).hart b) t.cause (t.pc.getD hb.pc) t.infos ∧ OnlyHart s (s.takeTrap b t) b) ∧
  (s.caughtUp a = true → h.wait = none → h.monitor = none → h.priv = false → h.deleg.getLsbD t.cause = true → h.h = false →
    EntersU h ((s.takeTrap a t).hart a) t.cause (t.pc.getD h.pc) t.infos ∧ ((s.takeTrap a t).near n k).rowOpen = false) ∧
  (s.caughtUp a = true → h.wait = none → h.monitor = none → h.deleg.getLsbD t.cause = false ∨ h.h = true → (s.near n k).task.isSome = true →
    ((s.takeTrap a t).near n k).task = none ∧ ((s.takeTrap a t).near n k).rowOpen = false ∧ ((s.takeTrap a t).hart a).active = false))

/-- R314: once every earlier instruction has completed, TRAP and SYSC trap SOFTWARE and SYSCALL with TRAP_PC at NextPC, the
immediate in TRAP_INFO0 and their own PC in TRAP_INFO1; on a near context TRAP enters the handler that its delegation gives. -/
def Obligations.SoftwareTraps : Prop := ∀ (s : State) (k : BitVec 20),
  let h := s.hart s.focus
  let info : Infos := ⟨k.zeroExtend 64, h.pc, 0, 0⟩
  s.caughtUp s.focus = true → h.monitor = none →
  (∀ c, s.focus = .far c → MayTrap h →
    (Issues s (.trap k) → ∃ t, exec (.trap k) s = .next t ∧ Enters h (t.hart s.focus) 0x0D h.nextPc info ∧ OnlyHart s t s.focus) ∧
    (Issues s (.sysc k) → ∃ t, exec (.sysc k) s = .next t ∧ Enters h (t.hart s.focus) 0x11 h.nextPc info ∧ OnlyHart s t s.focus)) ∧
  (∀ n, s.focus = .hub n → h.priv = true → h.ie = true →
    (Issues s (.trap k) → ∃ t, exec (.trap k) s = .next t ∧ EntersS h (t.hart s.focus) 0x0D h.nextPc info ∧ OnlyHart s t s.focus) ∧
    (Issues s (.sysc k) → ∃ t, exec (.sysc k) s = .next t ∧ EntersS h (t.hart s.focus) 0x11 h.nextPc info ∧ OnlyHart s t s.focus)) ∧
  (∀ n c, s.focus = .near n c → h.priv = false → h.deleg.getLsbD 0x0D = true → h.h = false → Issues s (.trap k) →
    ∃ t, exec (.trap k) s = .next t ∧ EntersU h (t.hart s.focus) 0x0D h.nextPc info ∧ (t.near n c).rowOpen = false)

/-- R315: ERET goes to TRAP_PC. In S it brings back the saved privilege and IE and leaves H; in U it clears H and changes no field
of TSTAT. Registers, trap registers and memory stay. Its head is 0x6800 with no tail, a nonzero d is rejected with reason 5, and it
is not in the near profile. -/
def Obligations.EretReturns : Prop := (∀ s : State, Issues s .eret →
  let h := s.hart s.focus
  ∃ t, exec .eret s = .next t ∧
    let g := t.hart s.focus
    g.pc = h.trapPc ∧ g.pie = h.pie ∧ g.ppriv = h.ppriv ∧ (∀ r, g.reg r = h.reg r) ∧ g.cause = h.cause ∧ g.trapPc = h.trapPc ∧
    g.info = h.info ∧ (h.priv = true → g.priv = h.ppriv ∧ g.ie = h.pie ∧ g.h = h.h) ∧
    (h.priv = false → g.priv = false ∧ g.ie = h.ie ∧ g.h = false) ∧ OnlyHart s t s.focus) ∧
  (∀ d : Reg, decode (0x6800 + d.zeroExtend 16) 0 = if d = 0 then .ok .eret else .bad 5) ∧
  ∀ n c, inProfile (.near n c) Instr.eret.major = false

/-- R310 to R312, R397 and R420: CSRR of each register that the agent holds reads it and changes nothing but d and the PC. TSTAT
shows IE, PRIV, PPRIV, PIE, EVP and SREQ at their places. (Which registers U may read is the model's choice, log entry 20.) -/
def Obligations.CsrReads : Prop := ∀ (d : Reg) (n : BitVec 12) (s : State), Issues s (.csrr d n) →
  let h := s.hart s.focus
  let reads := fun (v : Word) => ∃ t, exec (.csrr d n) s = .next t ∧ RegDone s t d v h.nextPc
  (n = 0 → ∃ v, reads v ∧ ∀ j < 64, v.getLsbD j =
    if j = 0 then h.ie else if j = 1 then h.priv else if j = 2 then h.ppriv else if j = 3 then h.pie else if j = 6 then h.evp
    else if j = 7 then h.sreq else false) ∧
  (n = 1 → reads (h.cause.zeroExtend 64)) ∧ (n = 2 → reads h.trapPc) ∧ (n = 3 → reads h.info.i0) ∧ (n = 4 → reads h.info.i1) ∧
  (n = 5 → reads h.info.i2) ∧ (n = 6 → reads h.info.i3) ∧
  ((∀ k, s.focus ≠ .hub k) → (n = 7 → reads h.vecU) ∧ (n = 9 → reads h.deleg) ∧ (n = 0x11 → reads (h.ctxid.zeroExtend 64))) ∧
  (h.priv = true → (∀ x y, s.focus ≠ .near x y) → (n = 8 → reads h.vecS) ∧ (n = 0xA → reads h.scratch)) ∧
  (n = 0x17 → reads h.root) ∧
  (∀ c, s.focus = .far c →
    let f := s.far c
    let x := s.cluster (c / 16)
    let permit := fun (refill : BitVec 7) (p : Permit) => BitVec.ofNat 64 (refill.toNat * 256 + p.count.toNat)
    (n = 0x10 → reads (f.vcore.zeroExtend 64)) ∧ (n = 0x13 → reads f.dom1) ∧ (n = 0x14 → reads f.dom2) ∧ (n = 0x15 → reads f.dom3) ∧
    (n = 0x16 → reads f.stealSet) ∧ (n = 0x18 → s.arrayIdle c = true → s.overlap = true → reads (f.aflags.zeroExtend 64)) ∧
    (n = 0x19 → reads f.mbcfg) ∧ (∀ y, s.ctx h.ctxid.toNat = some y → n = 0x1A → reads (y.ack.zeroExtend 64)) ∧
    (n = 0x1B → reads f.lrtBase) ∧ (n = 0x20 → reads (permit x.pMacro h.macroP)) ∧ (n = 0x21 → reads (permit x.pPass h.passP)) ∧
    (n = 0x22 → reads (permit x.pTable h.tableP)) ∧ (n = 0x23 → reads (permit x.pMem h.memP)) ∧
    (h.priv = true → n = 0x12 → reads (BitVec.ofNat 64 c))) ∧
  (∀ k, s.focus = .hub k → (n = 0x40 → reads ((s.hubCore k).hirq.zeroExtend 64)) ∧ (n = 0x41 → reads ((s.hubCore k).en.zeroExtend 64)))

/-- R310 to R312, R348 and R350: CSRW and CSRX of each register that the agent holds and may write complete: CSRX takes the old
value to d, the scalar registers otherwise stay, as does memory, and a register that can be written whole then reads as what was
written. CSRW and CSRX write the register they name, whose read-only bits keep their values; CSRX reads the old value first; a write
of TRAP_CAUSE clears H. What is not written stays. R310 and R311: a CSR number that the agent does not hold traps ILLEGAL_INSN with
reason 4, and an access that needs S, made in U, traps PRIVILEGE with the number in TRAP_INFO2. -/
def Obligations.CsrWrites : Prop :=
  (∀ (op : CsrxOp) (d a : Reg) (n : BitVec 12) (s : State),
  let f := s.focus
  let h := s.hart f
  let x := h.reg a
  let old := s.csrRead f n.toNat
  let whole := n.toNat ∈ [2, 3, 4, 5, 6, 7, 8, 0xA, 0x19, 0x1B]
  csrPresent f n.toNat = true → h.priv = true ∨ csrWriteS n.toNat = false →
  (n = 0x18 → s.overlap = true ∧ ∀ c, f = .far c → s.arrayIdle c = true) →
  (Issues s (.csrw n a) → ∃ t, exec (.csrw n a) s = .next t ∧ (∀ r, (t.hart f).reg r = h.reg r) ∧ (t.hart f).pc = h.nextPc ∧
    (whole → t.csrRead f n.toNat = x) ∧ ∀ y, memByte t.mem y = memByte s.mem y) ∧
  (Issues s (.csrx op d n a) → ∃ t, exec (.csrx op d n a) s = .next t ∧ RegSet h (t.hart f) d old ∧ (t.hart f).pc = h.nextPc ∧
    (whole → t.csrRead f n.toNat = match op with | .swap => x | .set => old ||| x | .clr => old &&& ~~~x) ∧
    ∀ y, memByte t.mem y = memByte s.mem y)) ∧
  (∀ (op : CsrxOp) (d a : Reg) (s : State), (s.hart s.focus).priv = true →
  let h := s.hart s.focus
  let x := h.reg a
  let new := fun (old : Word) => match op with | .swap => x | .set => old ||| x | .clr => old &&& ~~~x
  let kept := fun (g : Hart) => (∀ r, g.reg r = h.reg r) ∧ g.pc = h.nextPc
  (Issues s (.csrw 0 a) → ∃ t, exec (.csrw 0 a) s = .next t ∧ kept (t.hart s.focus) ∧ (t.hart s.focus).ie = x.getLsbD 0 ∧
    (t.hart s.focus).ppriv = x.getLsbD 2 ∧ (t.hart s.focus).pie = x.getLsbD 3 ∧ (t.hart s.focus).priv = true ∧
    (t.hart s.focus).sreq = h.sreq ∧ (t.hart s.focus).trapPc = h.trapPc ∧ (t.hart s.focus).h = h.h) ∧
  (Issues s (.csrw 1 a) → ∃ t, exec (.csrw 1 a) s = .next t ∧ kept (t.hart s.focus) ∧
    (t.hart s.focus).cause = x.extractLsb' 0 8 ∧ (t.hart s.focus).h = false ∧ (t.hart s.focus).ie = h.ie) ∧
  (Issues s (.csrw 2 a) → ∃ t, exec (.csrw 2 a) s = .next t ∧ kept (t.hart s.focus) ∧ (t.hart s.focus).trapPc = x ∧
    (t.hart s.focus).info = h.info ∧ (t.hart s.focus).h = h.h) ∧
  ((∀ k, s.focus ≠ .hub k) → Issues s (.csrw 9 a) → ∃ t, exec (.csrw 9 a) s = .next t ∧ kept (t.hart s.focus) ∧
    ∀ j < 64, (t.hart s.focus).deleg.getLsbD j = (decide (1 ≤ j ∧ j ≤ 16) && x.getLsbD j)) ∧
  (∀ c, s.focus = .far c → Issues s (.csrw 7 a) → ∃ t, exec (.csrw 7 a) s = .next t ∧ kept (t.hart s.focus) ∧
    (t.hart s.focus).vecU = x ∧ (t.hart s.focus).vecS = h.vecS) ∧
  (∀ c, s.focus = .far c → Issues s (.csrw 0x17 a) → ∃ t, exec (.csrw 0x17 a) s = .next t ∧ kept (t.hart s.focus) ∧
    ∀ j < 64, (t.hart s.focus).root.getLsbD j = (decide (j < 6 ∨ 10 ≤ j ∧ j < 52) && x.getLsbD j)) ∧
  (∀ c, s.focus = .far c → Issues s (.csrw 0x14 a) → ∃ t, exec (.csrw 0x14 a) s = .next t ∧ kept (t.hart s.focus) ∧
    ∀ j < 64, (t.far c).dom2.getLsbD j = (decide (j < 8 ∨ 32 ≤ j ∧ j < 45) && x.getLsbD j)) ∧
  (∀ c, s.focus = .far c → Issues s (.csrw 0x16 a) → ∃ t, exec (.csrw 0x16 a) s = .next t ∧ kept (t.hart s.focus) ∧
    ∀ j < 64, (t.far c).stealSet.getLsbD j = (decide (j % 16 < 10 ∨ j % 16 = 15) && x.getLsbD j)) ∧
  ((∀ i k, s.focus ≠ .near i k) → Issues s (.csrx op d 0xA a) → ∃ t, exec (.csrx op d 0xA a) s = .next t ∧
    RegSet h (t.hart s.focus) d h.scratch ∧ (t.hart s.focus).scratch = new h.scratch ∧ (t.hart s.focus).pc = h.nextPc ∧
    (t.hart s.focus).ie = h.ie ∧ ∀ y, memByte t.mem y = memByte s.mem y)) ∧
  (∀ (d a : Reg) (n : BitVec 12) (s : State), n ≠ 0x18 →
  let i := Instr.csrr d n
  let j := Instr.csrw n a
  let p := s.headHere s.focus i
  let q := s.headHere s.focus j
  (csrPresent s.focus n.toNat = false →
    (Issues s i → exec i s = .next (s.takeTrap s.focus { cause := 1, infos := ⟨p.1.zeroExtend 64, p.2, 4, 0⟩ })) ∧
    (Issues s j → exec j s = .next (s.takeTrap s.focus { cause := 1, infos := ⟨q.1.zeroExtend 64, q.2, 4, 0⟩ }))) ∧
  ((s.hart s.focus).priv = false → csrPresent s.focus n.toNat = true → n = 0x9 ∨ n = 0x17 ∨ n = 0x7 ∨ n = 0 →
    Issues s j → exec j s = .next (s.takeTrap s.focus { cause := 4, infos := ⟨q.1.zeroExtend 64, q.2, n.zeroExtend 64, 0⟩ })))

/-- R316, R319 and R321: IEN writes the old IE and sets IE; TIME writes the module time; RMREAD writes a word of the resource map, 0
beyond it. R320: RMACK of the current version makes it the version that the context has acknowledged and ends its pending change; an
older version changes nothing but the PC; a newer one traps PROTECTION with reason 10. -/
def Obligations.StatusAndMapReads : Prop :=
  (∀ (d a : Reg) (s : State),
  let h := s.hart s.focus
  (∀ en, Issues s (.ien en d) → ∃ t, exec (.ien en d) s = .next t ∧ RegSet h (t.hart s.focus) d (if h.ie then 1 else 0) ∧
    (t.hart s.focus).ie = en ∧ (t.hart s.focus).pc = h.nextPc ∧ (t.hart s.focus).pie = h.pie ∧ (t.hart s.focus).priv = h.priv ∧
    (t.hart s.focus).h = h.h ∧ OnlyHart s t s.focus) ∧
  (Issues s (.time d) → ∃ t, exec (.time d) s = .next t ∧ RegDone s t d (BitVec.ofNat 64 s.time) h.nextPc) ∧
  (Issues s (.rmread d a) → ∃ t, exec (.rmread d a) s = .next t ∧ RegDone s t d (s.mapWord ((h.reg a).toNat % 4096)) h.nextPc) ∧
  (∀ w, 272 ≤ w → s.mapWord w = 0)) ∧
  (∀ (d : Reg) (s : State) (x : Context), Issues s (.rmack d) →
  s.ctx (s.agentCtx s.focus) = some x →
  let v : BitVec 32 := (s.reg s.focus d).extractLsb' 0 32
  (v = s.mapVersion → ∃ t y, exec (.rmack d) s = .next t ∧ t.ctx (s.agentCtx s.focus) = some y ∧ y.ack = v ∧ y.pend = false ∧
    (t.hart s.focus).pc = (s.hart s.focus).nextPc ∧ ∀ z, memByte t.mem z = memByte s.mem z) ∧
  (v ≠ s.mapVersion → seqLe v s.mapVersion = true → ∃ t, exec (.rmack d) s = .next t ∧ RegDone s t 0 0 (s.hart s.focus).nextPc) ∧
  (v ≠ s.mapVersion → seqLe v s.mapVersion = false → ∃ u : Trap, exec (.rmack d) s = .next (s.takeTrap s.focus u) ∧ u.cause = 7 ∧
    u.infos.i2 = 10))

/-- R322 and R418: SNAP latches every block at the module time of its step and, in a turn that does not overlap, waits for the
snapshot and goes on with SEQ raised; while one is in progress it joins it. R33 and R34: a TLBI whose fence is complete, with no
access translated before it outstanding, removes from every translation cache of the package the entries that its form names, and
goes on. (That every block latches exactly at the state and time of the trigger is the model's choice, log entry 43: R418 says
within 10 ns. A turn that overlaps with the background work of the core, and one that does not, are the model's own: log entry 2.)
-/
def Obligations.SnapAndTlbi : Prop :=
  (∀ s : State, Issues s .snap → s.overlap = false →
  (s.hub.snapBusy = true → ∃ t, exec .snap s = .next t ∧ (t.hart s.focus).pc = (s.hart s.focus).nextPc ∧ t.hub.snap = s.hub.snap ∧
    t.hub.snapBusy = false ∧ t.hub.snapSeq = s.hub.snapSeq + 1) ∧
  (s.hub.snapBusy = false → ∃ t, exec .snap s = .next t ∧ (t.hart s.focus).pc = (s.hart s.focus).nextPc ∧ t.hub.snap.time = s.time ∧ t.hub.snap.rmap = s.hub.rmap ∧
    t.hub.snap.clusters = s.clusters ∧ t.hub.snap.islands = s.islands ∧ t.hub.snap.harts = s.harts ∧ t.hub.snap.fars = s.fars ∧
    t.hub.snap.units = s.units ∧ t.hub.snap.ctxs = s.ctxs ∧ t.hub.snap.acks = s.hub.acks ∧ t.hub.snap.baseDies = s.baseDies ∧ t.hub.snapBusy = false ∧
    t.hub.snapSeq = s.hub.snapSeq + 1 ∧ (∀ r, (t.hart s.focus).reg r = (s.hart s.focus).reg r) ∧ ∀ z, memByte t.mem z = memByte s.mem z)) ∧
  (∀ (op : TlbiOp) (a b : Reg) (s u : State), Issues s (.tlbi op) → s.overlap = false →
  (s.xrowOrder s.focus .package).bind (fun _ r => r.fence s.focus .package) = .ok () u → u.overlap = false → u.hostReqs = [] → u.fabric = [] → u.cmds.all (fun p => p.2.done) = true →
  u.remotes = [] → (u.fars.all fun p => p.2.sb.isEmpty) = true → u.islands.all (fun p => p.2.walks.isEmpty) = true → u.hub.walks = [] →
  let va := (u.reg s.focus a).toNat
  let tag := (u.reg s.focus b).toNat % 64
  let gone := fun (e : TlbEntry) =>
    (op = .va a b ∧ e.gl = false ∧ e.vpn = va / 2 ^ e.shift ∧ e.tag = tag) ∨ (op = .vag a ∧ e.vpn = va / 2 ^ e.shift) ∨
    (op = .ctx b ∧ e.gl = false ∧ e.tag = tag) ∨ op = .all
  ∃ t, exec (.tlbi op) s = .next t ∧ (t.hart s.focus).pc = (u.hart s.focus).nextPc ∧
    (∀ p ∈ t.harts, ∀ e ∈ p.2.tlb, ¬ gone e) ∧ (∀ p ∈ t.units, ∀ e ∈ p.2.tlb, ¬ gone e) ∧ (∀ p ∈ t.clusters, ∀ e ∈ p.2.tlb, ¬ gone e) ∧
    (∀ p ∈ t.islands, ∀ e ∈ p.2.tlb, ¬ gone e) ∧ ∀ e ∈ t.hub.tlb, ¬ gone e)

/-- R304 and R317: IDLE goes on at once where a task, an event or a hub core's wake latch is there, and also where its limit is 0,
writing no register; CKPT with no suspension requested only goes on. -/
def Obligations.IdleAndCkptGoOn : Prop := ∀ (a : Reg) (k : BitVec 20) (s : State),
  let h := s.hart s.focus
  (∀ n, s.focus = .hub n → (s.hubCore n).latch = true → Issues s (.idle a) → ∃ t, exec (.idle a) s = .next t ∧
    (t.hubCore n).latch = false ∧ (t.hart s.focus).pc = h.nextPc ∧ ∀ r, (t.hart s.focus).reg r = h.reg r) ∧
  (∀ c, s.focus = .far c → s.dispatches (s.coreCtx c) = false →
    h.evp = true ∨ (s.far c).coreQ ≠ [] ∨ (s.reg s.focus a).toNat % 2 ^ 32 = 0 → Issues s (.idle a) →
    ∃ t, exec (.idle a) s = .next t ∧ RegDone s t 0 0 h.nextPc) ∧
  (∀ c, s.focus = .far c → s.dispatches (s.coreCtx c) = true → ((s.farSearch c).far c).coreQ ≠ [] → Issues s (.idle a) →
    ∃ t, exec (.idle a) s = .next t ∧ RegDone (s.farSearch c) t 0 0 ((s.farSearch c).hart s.focus).nextPc) ∧
  (h.sreq = false → Issues s (.ckpt k) → ∃ t, exec (.ckpt k) s = .next t ∧ RegDone s t 0 0 h.nextPc)

/-! ### Loads, stores, atomics, fences and waits -/

/-- R20, R21, R27, R37, R38 and R267: a scalar access whose address is no multiple of its width traps MISALIGNED before any other
check, with the address, the width and the access kind of R27 in the information registers; it has had no effect but its permit. One
that is aligned traps PAGE_FAULT next, where the entry that holds its page denies it, where the walk for which it waited has
faulted, or where the walk it makes faults; then PROTECTION with the first reason of R38 for an alias, a format window, the control
region or the host region; then REMOTE_ACCESS for device memory, a plain alias or the RAW window of another island. (That an
instruction that traps has consumed its permit is the model's choice, log entry 16; that a turn which does not overlap makes its
walk within the step is log entry 2.) -/
def Obligations.MisalignedFirst : Prop :=
  (∀ (s : State) (w : Width) (sx : Bool) (p : Policy) (sc : Scope) (o : Order) (d a b c : Reg)
    (k : BitVec 20) (m : BitVec 24) (op : AmoOp) (fo : AmofOp) (dbl ord : Bool),
  let f := s.focus
  let x := s.reg f a
  let y := s.reg f b
  let n := w.bytes
  let q := if dbl then 8 else 4
  let traps := fun (i : Instr) (va : Word) (n kind : Nat) => Issues s i → va.toNat % n ≠ 0 →
    exec i s = .next ((s.permitUse f i.major).takeTrap f { cause := 5, infos := ⟨va, BitVec.ofNat 64 n, 0, BitVec.ofNat 64 kind⟩ })
  ((s.hart f).hostLds = [] → traps (.ld w sx p d a k) (x + k.signExtend 64) n 0 ∧
    traps (.ldx w sx p d a b m) (x + m.signExtend 64 + y * BitVec.ofNat 64 n) n 0) ∧
  traps (.st w p d a k) (x + k.signExtend 64) n 1 ∧
  traps (.stx w p d a b m) (x + m.signExtend 64 + y * BitVec.ofNat 64 n) n 1 ∧
  traps (.amo op dbl p sc o d a b) x q 2 ∧ traps (.cas dbl p sc o d a b m) (x + m.signExtend 64) q 2 ∧ traps (.amof fo p sc o d a b) x 4 2 ∧
  ((s.hart f).monitor = none → traps (.waitm w p d a b c m) (x + m.signExtend 64) n 0) ∧
  (∀ core, f = .far core → traps (.get w ord d a m) (x + m.signExtend 64) n 0 ∧ traps (.put w ord d a m) (x + m.signExtend 64) n 1 ∧
    traps (.ramo op dbl ord d a b) x q 2)) ∧
  (∀ (s z : State) (w : Width) (sx : Bool) (p : Policy) (sc : Scope) (o : Order) (d a b c : Reg) (k : BitVec 20) (m : BitVec 24)
    (op : AmoOp) (fo : AmofOp) (dbl : Bool) (e : TlbEntry) (g : WalkAnswer) (fk lvl j : Nat) (i : Instr) (va : Word) (n kind : Nat)
    (ac : AccKind),
  let f := s.focus
  let h := s.hart f
  let x := s.reg f a
  let q := if dbl then 8 else 4
  let off := x + m.signExtend 64
  let index := off + s.reg f b * BitVec.ofNat 64 w.bytes
  let traps := fun (u : State) (cause : Nat) (i1 i2 : Nat) =>
    exec i s = .next ((u.permitUse f i.major).takeTrap f
      { cause := cause, infos := ⟨va, BitVec.ofNat 64 i1, BitVec.ofNat 64 i2, BitVec.ofNat 64 kind⟩ })
  Issues s i → h.hostLds = [] → h.monitor = none → va.toNat % n = 0 →
  (i, va, n, kind, ac) ∈ [(.ld w sx p d a k, x + k.signExtend 64, w.bytes, 0, .load), (.ldx w sx p d a b m, index, w.bytes, 0, .load),
    (.st w p d a k, x + k.signExtend 64, w.bytes, 1, .store), (.stx w p d a b m, index, w.bytes, 1, .store),
    (.amo op dbl p sc o d a b, x, q, 2, .atomic), (.cas dbl p sc o d a b m, off, q, 2, .atomic), (.amof fo p sc o d a b, x, 4, 2, .atomic),
    (.waitm w p d a b c m, off, w.bytes, 0, .waitm)] →
  (s.tlbLookup f va (s.xlatTag f) = some e → h.priv = false ∧ e.us = false ∨ kind ≠ 1 ∧ e.rd = false ∨ kind ≠ 0 ∧ e.wr = false →
    traps (s.tlbTouch f va (s.xlatTag f) e) 6 2 (match e.shift with | 30 => 2 | 21 => 1 | _ => 0)) ∧
  (s.tlbLookup f va (s.xlatTag f) = none → h.walkFault = some g → g.page = va >>> 16 → g.tag = s.xlatTag f → g.kind = kind → g.cause = 6 →
    traps (s.setHart f { h with walkFault := none }) 6 g.info.i1.toNat g.info.i2.toNat) ∧
  (s.tlbLookup f va (s.xlatTag f) = none → h.walkFault = none → s.overlap = false → s.walkCovers (walkUnit f) (s.xlatTag f) va = false →
    s.walkFree f = true → (s.walkPast f).walk h.root va (s.xlatTag f) = .ok (.fault fk lvl) z → traps z 6 fk lvl) ∧
  (s.translate f va kind = .ok e z →
    let pa := e.ppn * 2 ^ e.shift + va.toNat % 2 ^ e.shift
    let ao := pa / 2 ^ 40 % 16
    let win := pa / 2 ^ 20 % 8
    let owner := pa / 2 ^ 23 % 4096
    let isAtomic := ac = .atomic ∨ ac = .waitm
    let denied := fun (r : Nat) => traps z 7 pa r
    (pa / 2 ^ 44 = 16 → (11 ≤ ao → denied 1) ∧
      (1 ≤ ao → ao ≤ 10 → ac = .atomic ∨ ac = .waitm ∧ ao ≠ 10 ∨ ac = .load ∧ (ao = 8 ∨ ao = 9) → denied 5) ∧
      (ac = .store → ((ao = 1 ∨ 3 ≤ ao ∧ ao ≤ 6) ∧ n < 4) ∨ (ao = 2 ∨ 7 ≤ ao ∧ ao ≤ 10) ∧ n < 8 ∨ ao = 8 ∨ ao = 9 → denied 2) ∧
      (ac = .load ∨ ac = .waitm → ao = 10 → n < 8 → denied 2)) ∧
    (pa / 2 ^ 35 = 2 ^ 14 → (win = 7 → denied 1) ∧ (win ≠ 7 → z.coreLive owner = false → denied 3) ∧
      (win ≠ 7 → z.coreLive owner = true → (∀ u v, f = .near u v → denied 4) ∧
        ((∀ u v, f ≠ .near u v) → (isAtomic ∨ win = 5 ∧ ac = .load → denied 5) ∧
          (win = 5 ∧ ac = .store ∨ win = 6 ∧ n < 4 ∧ ¬ isAtomic → denied 2) ∧
          (¬ isAtomic → win = 1 ∧ 2 ^ 18 ≤ pa % 2 ^ 20 ∨ 2 ≤ win ∧ win ≤ 4 ∧ 2 ^ 19 ≤ pa % 2 ^ 20 → denied 6)))) ∧
    (pa / 2 ^ 32 = 0x30000 → isAtomic → denied 5) ∧
    (pa / 2 ^ 51 = 1 → ac = .waitm ∨ ac = .atomic ∧ ((∀ core, f ≠ .far core) ∨ p = .u ∨ p = .m ∨ e.mt1 = true) → denied 5) ∧
    (f.island = some j → pa < 2 ^ 40 ∨ pa / 2 ^ 40 = 256 → pa % 2 ^ 40 / 2 ^ 36 ≠ j → traps z 8 pa (pa % 2 ^ 40 / 2 ^ 36)) ∧
    (f.island = some j → (∀ u v, f ≠ .near u v) → pa / 2 ^ 35 = 2 ^ 14 → win = 0 → z.coreLive owner = true → ¬ isAtomic → owner / 256 ≠ j →
      traps z 8 pa (owner / 256))))

/-- R267 and R270: LD, LDX and LDA form their address, and where the access passes its checks and is performed, they write the
value, extended as the form says, and go on. LDX scales its index by the width; LDA is an acquire first. -/
def Obligations.LoadsComplete : Prop := ∀ (s r u v : State) (w : Width) (sx : Bool) (p : Policy) (sc : Scope) (d a b : Reg) (k : BitVec 20)
    (m : BitVec 24) (acc : Acc) (x : BitVec 512),
  let f := s.focus
  let n := w.bytes
  let done := fun (i : Instr) => v.lostDest f i = false → ∃ t, exec i s = .next t ∧
    MemDone f v t d (loaded sx n (x.toNat % 2 ^ (8 * n))) (v.hart f).nextPc ∧ Spent f v t .memory
  u.loadIssue f acc n p = .ok x v →
  (Issues s (.ld w sx p d a k) → s.access f (s.reg f a + k.signExtend 64) n 0 .load p true = .ok acc u → done (.ld w sx p d a k)) ∧
  (Issues s (.ldx w sx p d a b m) →
    s.access f (s.reg f a + m.signExtend 64 + s.reg f b * BitVec.ofNat 64 n) n 0 .load p true = .ok acc u → done (.ldx w sx p d a b m)) ∧
  (Issues s (.lda w sx p sc d a m) → s.acquireOrder f sc = .ok () r →
    r.access f (r.reg f a + m.signExtend 64) n 0 .load p true = .ok acc u → done (.lda w sx p sc d a m))

/-- R53, R54, R59 and R270 on a far core: a .c load whose bytes are valid in the L1D, with an empty store buffer, its translation
held, none of its own alias commands on the bytes and no stored sector in error, reads the line's bytes, little-endian; the line
becomes the most recently used, and nothing else changes but d, the PC and a permit. R54, R59 and R104: STORE_BUFFER_DRAIN performs
the oldest entry: a .c store to a line that only this core's L1D holds, whole, and its island L2 too, changes exactly its bytes
there and makes their sector dirty; the entry leaves the buffer and no byte of memory changes. R46 to R50: a load of a format window
reads the elements of the array there, converted as its window says: window 1 the nearest level's code of a BF16, windows 2 and 3 an
FP16 as E4M3 (saturating) and E5M2, window 4 an INT8 saturated to INT4, window 6 a BF16 as FP32, window 0 the bits; a store writes
exactly the elements that it covers, converted the other way, and window 5 expands a block into 64 FP32 elements. -/
def Obligations.L1LoadsAndStores : Prop :=
  (∀ (s : State) (core : Nat) (w : Width) (sx : Bool) (d a : Reg) (k : BitVec 20) (acc : Acc),
  let n := w.bytes
  s.focus = .far core → Issues s (.ld w sx .c d a k) →
  s.access (.far core) (s.reg (.far core) a + k.signExtend 64) n 0 .load .c true = .ok acc s → isDevice acc.pa = true → acc.mt1 = false →
  (s.far core).sb = [] → acc.pa % n = 0 → (s.l1At core (acc.pa / 64)).valid.getLsbD (acc.pa % 64 / 32) = true →
  s.ownOnBytes (.far core) acc.pa n = false → s.bad = [] →
  ∃ t, exec (.ld w sx .c d a k) s = .next t ∧
    HartDone (.far core) s t d (loaded sx n ((s.l1At core (acc.pa / 64)).data.toNat / 2 ^ (8 * (acc.pa % 64)) % 2 ^ (8 * n)))
      (s.hart (.far core)).nextPc ∧ Spent (.far core) s t .memory ∧
    FarIs core s t { s.far core with l1d := cput (s.far core).l1d (acc.pa / 64) (s.l1At core (acc.pa / 64)) }) ∧
  (∀ (s : State) (core : Nat) (e : SbEntry) (rest : List SbEntry),
  let ln := e.pa / 64
  let l := s.l1At core ln
  (s.far core).sb = e :: rest → e.pol = .c → e.rel = none → isDevice e.pa = true → 0 < e.n → e.pa % 64 + e.n ≤ 32 → l.valid = 3 →
  s.l1Holders (dieOf core) ln = [core] → mhas (s.island (dieOf core)).l2 ln = true → s.ownOnBytes (.far core) e.pa e.n = false →
  ∃ t, exec (.storeBufferDrain core 0) s = .next t ∧ (t.far core).sb = rest ∧ (t.l1At core ln).valid = 3 ∧
    (t.l1At core ln).dirty = l.dirty ||| 1 ∧
    (∀ i < 64, byteOf (t.l1At core ln).data i = if e.pa % 64 ≤ i ∧ i < e.pa % 64 + e.n then byteOf e.data (i - e.pa % 64) else byteOf l.data i) ∧
    e.pa / 32 ∈ (t.far core).dirtied ∧ ∀ x, memByte t.mem x = memByte s.mem x) ∧
  (∀ (s : State) (core : Nat) (w : Width) (sx : Bool) (p : Policy) (d a : Reg) (k : BitVec 20) (acc : Acc) (raw : Nat),
  let f := Agent.far core
  let n := w.bytes
  let y := s.far (acc.pa / 2 ^ 23 % 4096)
  let win := acc.pa / 2 ^ 20 % 8
  let e := match win with | 1 | 4 => 4 | 6 => 32 | _ => 8
  let wide := match win with | 0 | 4 => 8 | _ => 16
  let read := fun (i : Nat) =>
    let x := y.arr.elem wide (8 * (acc.pa % 2 ^ 20) / e + i)
    match win with
    | 1 => (qcode (decodeElem .bf16 x)).1
    | 2 => (roundF (decodeElem .fp16 x) .rne .e4m3 true).1
    | 3 => (roundF (decodeElem .fp16 x) .rne .e5m2 false).1
    | 4 => if x < 8 then x else if x < 128 then 7 else if x < 248 then 8 else x - 240
    | 6 => if decodeElem .bf16 x = .nan then 0x7FC00000 else x * 2 ^ 16
    | _ => x
  s.focus = f → Issues s (.ld w sx p d a k) → s.access f (s.reg f a + k.signExtend 64) n 0 .load p true = .ok acc s →
  acc.pa / 2 ^ 35 = 2 ^ 14 → (s.far core).sb = [] → s.hostReqs = [] → s.windowWaits core acc.pa = false → s.bad = [] → y.mid = none →
  raw < 2 ^ (8 * n) → (∀ i, i < 8 * n / e → raw / 2 ^ (e * i) % 2 ^ e = read i) →
  ∃ t, exec (.ld w sx p d a k) s = .next t ∧ HartDone f s t d (loaded sx n raw) (s.hart f).nextPc ∧ Spent f s t .memory) ∧
  (∀ (s : State) (core : Nat) (e : SbEntry) (rest : List SbEntry),
  let tgt := e.pa / 2 ^ 23 % 4096
  let win := e.pa / 2 ^ 20 % 8
  let off := e.pa % 2 ^ 20
  let g := match win with | 1 | 4 => 4 | 6 => 32 | _ => 8
  let wide := match win with | 0 | 4 => 8 | 5 => 32 | _ => 16
  let lo := if win = 5 then off else 8 * off / g
  let count := if win = 5 then 64 else 8 * e.n / g
  let put := fun (i : Nat) =>
    let c := e.data.toNat / 2 ^ (g * i) % 2 ^ g
    match win with
    | 1 => (roundF (ql4Val c) .rne .bf16 false).1
    | 2 => (roundF (decodeElem .e4m3 c) .rne .fp16 false).1
    | 3 => (roundF (decodeElem .e5m2 c) .rne .fp16 false).1
    | 4 => if c < 8 then c else c + 240
    | 5 => (roundF (xmul (ql4Val (e.data.toNat / 2 ^ (4 * i) % 16)) (sc16Val (e.data.toNat / 2 ^ 256 % 2 ^ 16))).1 .rne .fp32 false).1
    | 6 => (roundF (decodeElem .fp32 c) .rne .bf16 false).1
    | _ => c
  (s.far core).sb = e :: rest → e.rel = none → e.pa / 2 ^ 35 = 2 ^ 14 → win ≠ 7 → 0 < e.n → e.n ≤ 64 → (win = 5 → e.n = 64) →
  (win = 6 → e.pa % 4 = 0 ∧ e.n % 4 = 0) → s.windowWaits core e.pa = false → s.hostReqs = [] →
  ∃ t, exec (.storeBufferDrain core 0) s = .next t ∧ (t.far core).sb = rest ∧ ∀ j, j * wide < 2 ^ 23 →
    (t.far tgt).arr.elem wide j = if lo ≤ j ∧ j < lo + count then put (j - lo) else (s.far tgt).arr.elem wide j)

/-- R61 and R270 on a near context, whose accesses are performed at the home: a load reads the bytes that the home sees there and
leaves every byte as it was; a store changes exactly the bytes that it names; registers other than d stay. R272 at the home of a
near context: the old value is what the home saw, and exactly the bytes of the location take the new value; a CAS whose compare
fails changes no byte. (At PACKAGE and SYSTEM scope the copies of the island leave first, R106 and log entry 39; here it holds
none.) Signed and unsigned minima and maxima are taken of n-byte numbers. -/
def Obligations.NearMemory : Prop :=
  (∀ (s : State) (n c : Nat) (w : Width) (sx : Bool) (p : Policy) (d a : Reg) (k : BitVec 20)
    (acc : Acc),
  let f := Agent.near n c
  let b := w.bytes
  s.focus = f → isDevice acc.pa = true → acc.pa % b = 0 → s.homeServes acc.pa → p ≠ .u → acc.mt1 = false →
  s.ownOnBytes f acc.pa b = false →
  (Issues s (.ld w sx p d a k) → s.access f (s.reg f a + k.signExtend 64) b 0 .load p true = .ok acc s →
    ∃ t, exec (.ld w sx p d a k) s = .next t ∧ HartDone f s t d (loaded sx b (s.homeRead acc.pa b)) (s.hart f).nextPc ∧
      ∀ x, t.homeByte x = s.homeByte x) ∧
  (Issues s (.st w p d a k) → s.access f (s.reg f a + k.signExtend 64) b 1 .store p true = .ok acc s → (s.unit n).wlog.length < 256 →
    (∀ q ∈ s.harts, q.2.monitor = none) →
    ∃ t, exec (.st w p d a k) s = .next t ∧ HartDone f s t 0 0 (s.hart f).nextPc ∧
      ∀ x, t.homeByte x = if acc.pa ≤ x ∧ x < acc.pa + b then byteOf (s.reg f d) (x - acc.pa) else s.homeByte x)) ∧
  (∀ (s : State) (n c : Nat) (p : Policy) (sc : Scope) (d a b : Reg) (m : BitVec 24) (op : AmoOp)
    (acc : Acc),
  let f := Agent.near n c
  let old := s.homeRead acc.pa 8
  let v := s.reg f b
  let o : Word := BitVec.ofNat 64 old
  let new : Word := match op with
    | .swap => v
    | .add => o + v
    | .and => o &&& v
    | .or => o ||| v
    | .xor => o ^^^ v
    | .smin => if o.toInt ≤ v.toInt then o else v
    | .smax => if v.toInt ≤ o.toInt then o else v
    | .umin => if o.toNat ≤ v.toNat then o else v
    | .umax => if v.toNat ≤ o.toNat then o else v
  s.focus = f → isDevice acc.pa = true → acc.pa % 8 = 0 → s.homeServes acc.pa → p ≠ .u → acc.mt1 = false → s.ownOnBytes f acc.pa 8 = false →
  (s.unit n).wlog.length < 256 → (sc = .package ∨ sc = .system → s.islandHolds (stackOf acc.pa) (acc.pa / 64) = false) →
  (∀ q ∈ s.harts, q.2.monitor = none) →
  (Issues s (.amo op true p sc .plain d a b) → s.access f (s.reg f a) 8 2 .atomic p true = .ok acc s →
    ∃ t, exec (.amo op true p sc .plain d a b) s = .next t ∧ HartDone f s t d o (s.hart f).nextPc ∧
      ∀ x, t.homeByte x = if acc.pa ≤ x ∧ x < acc.pa + 8 then byteOf new (x - acc.pa) else s.homeByte x) ∧
  (Issues s (.cas true p sc .plain d a b m) → s.access f (s.reg f a + m.signExtend 64) 8 2 .atomic p true = .ok acc s →
    ∃ t, exec (.cas true p sc .plain d a b m) s = .next t ∧ HartDone f s t d o (s.hart f).nextPc ∧
      ∀ x, t.homeByte x = if o = s.reg f d ∧ acc.pa ≤ x ∧ x < acc.pa + 8 then byteOf v (x - acc.pa) else s.homeByte x))

/-- R105 and R268: in a turn that overlaps, ST, STX and STL of a far core enter the store buffer as its newest entry with their
bytes, policy and scope, or a plain store merges into the newest, an alias command once no XROW of the core runs (R224) and a store
to a format window of its own once its array instructions have retired (R51), to that of a ring neighbour once its XROWs there have;
no byte of memory or of a cache changes yet. (That a plain store that lies within the newest entry always merges there, and into no
other entry, is the model's choice, log entry 11: R105 only allows it. A turn that overlaps with the background work of the core,
and one that does not, are the model's own: log entry 2.) -/
def Obligations.StoresEnterBuffer : Prop := ∀ (s u r : State) (core : Nat) (w : Width) (p : Policy) (sc : Scope) (d a b : Reg)
    (k : BitVec 20) (m : BitVec 24) (acc : Acc),
  let f := Agent.far core
  let n := w.bytes
  let e := fun (rel : Option Scope) (x : Word) =>
    ({ pa := acc.pa, n := n, data := BitVec.ofNat 512 (x.toNat % 2 ^ (8 * n)), pol := if acc.mt1 then .u else p, rel := rel
       page := acc.page, size := acc.size } : SbEntry)
  let enters := fun (i : Instr) (rel : Option Scope) => ∃ t, exec i s = .next t ∧ HartDone f u t 0 0 (u.hart f).nextPc ∧
    Spent f u t .memory ∧
    ((rel.isSome = true ∨ (u.far core).sb = [] ∨ (if acc.mt1 then .u else p) = .u ∨ isDevice acc.pa = false) →
      FarIs core u t { u.far core with sb := (u.far core).sb ++ [e rel (u.reg f d)] }) ∧
    (∀ l x, (u.far core).sb = l ++ [x] → rel = none → x.shut = false → x.pol = p → p ≠ .u → acc.mt1 = false → isDevice acc.pa = true →
      isDevice x.pa = true → x.pa ≤ acc.pa → acc.pa + n ≤ x.pa + x.n →
      FarIs core u t { u.far core with sb := l ++ [{ x with data := putBytes x.data (acc.pa - x.pa) n (e rel (u.reg f d)).data }] })
  s.focus = f → u.overlap = true → (u.far core).sb.length < 16 → aliasRel acc.pa = false ∨ u.xrowBusy core = false →
  isFormat acc.pa = false ∨ u.windowWaits core acc.pa = false →
  (Issues s (.st w p d a k) → s.access f (s.reg f a + k.signExtend 64) n 1 .store p true = .ok acc u → enters (.st w p d a k) none) ∧
  (Issues s (.stx w p d a b m) →
    s.access f (s.reg f a + m.signExtend 64 + s.reg f b * BitVec.ofNat 64 n) n 1 .store p true = .ok acc u → enters (.stx w p d a b m) none) ∧
  (Issues s (.stl w p sc d a m) → s.xrowOrder f sc = .ok () r → r.access f (r.reg f a + m.signExtend 64) n 1 .store p true = .ok acc u →
    enters (.stl w p sc d a m) (some sc))

/-- R106, R271 and R272: an atomic that passes its checks and its order makes one step at its point and writes the old value,
zero-extended, to d; AMO writes what its operation makes of the old value and g[b], CAS writes only where the old value is g[d],
AMOF writes the result of its number operation. -/
def Obligations.AtomicsComplete : Prop := ∀ (s u v r : State) (p : Policy) (sc : Scope) (o : Order) (d a b : Reg) (m : BitVec 24)
    (dbl : Bool) (op : AmoOp) (fo : AmofOp) (acc : Acc) (old : Nat),
  let f := s.focus
  let n := if dbl then 8 else 4
  let y := (s.reg f b).toNat % 2 ^ (8 * n)
  let done := fun (i : Instr) => r.lostDest f i = false → ∃ t, exec i s = .next t ∧
    MemDone f r t d (BitVec.ofNat 64 old) (r.hart f).nextPc ∧ Spent f r t .memory
  (Issues s (.amo op dbl p sc o d a b) → s.access f (s.reg f a) n 2 .atomic p true = .ok acc u → u.atomicOrder f acc n p sc o = .ok () v →
    v.atomicAt f acc n p sc (fun x => some (amoNew op n x y)) = .ok old r → done (.amo op dbl p sc o d a b)) ∧
  (Issues s (.cas dbl p sc o d a b m) → s.access f (s.reg f a + m.signExtend 64) n 2 .atomic p true = .ok acc u →
    u.atomicOrder f acc n p sc o = .ok () v →
    v.atomicAt f acc n p sc (fun x => if x = (s.reg f d).toNat % 2 ^ (8 * n) then some y else none) = .ok old r →
    done (.cas dbl p sc o d a b m)) ∧
  (Issues s (.amof fo p sc o d a b) → s.access f (s.reg f a) 4 2 .atomic p true = .ok acc u → u.atomicOrder f acc 4 p sc o = .ok () v →
    v.atomicAt f acc 4 p sc (fun x => some (amofNew fo x ((s.reg f b).toNat % 2 ^ 32))) = .ok old r → done (.amof fo p sc o d a b))

/-- R109, R128 and R273: FENCE goes on once the accesses of its scope are performed, and changes no register; a fence of PACKAGE or
SYSTEM scope that meets an operation lost in flight traps ISLAND_UNREACHABLE and forgets it. (In a turn that does not overlap, the
core's own background work goes on first, log entry 2.) -/
def Obligations.FenceCompletes : Prop := ∀ (s r u : State) (sc : Scope), Issues s (.fence sc) → s.xrowOrder s.focus sc = .ok () r →
  let wide := sc = .package ∨ sc = .system
  let q := if wide ∧ r.overlap = false then r.settle s.focus else r
  ((¬ wide ∨ q.lostAny s.focus = none) → q.fence s.focus sc = .ok () u →
    ∃ t, exec (.fence sc) s = .next t ∧ RegDone { u with focus := s.focus } { t with focus := s.focus } 0 0 (u.hart s.focus).nextPc) ∧
  (wide → ∀ x, q.lostAny s.focus = some x →
    exec (.fence sc) s = .next (State.takeTrap { q with remotes := q.remotes.erase x } s.focus x.lossTrap))

/-- R110, R111 and R274: WAITM reads the location once. Where its value differs from the expected one it returns 0; with a limit of
0 it returns 3; otherwise it arms its monitor on the line and waits with no register changed. When it runs again it returns the code
that has reached its monitor; without one it returns 3 once its limit is over, which in a turn that does not overlap it is (log
entry 2), and else goes on waiting. R275, R276 and R292: WAITC goes on where the channel's counter has reached the threshold, by
serial arithmetic, after its acquire; otherwise a limit of 0, or one that is over, traps WAIT_EXPIRED with the vcore and channel,
the pop count, the counter and the limit, and with any other it waits. -/
def Obligations.Waits : Prop :=
  (∀ (s u v : State) (w : Width) (p : Policy) (d a b c : Reg) (m : BitVec 24) (acc : Acc) (x : BitVec 512),
  let f := s.focus
  let n := w.bytes
  let i := Instr.waitm w p d a b c m
  let limit := (s.reg f c).toNat % 2 ^ 32
  (Issues s i → (s.hart f).monitor = none → s.access f (s.reg f a + m.signExtend 64) n 0 .waitm p true = .ok acc u →
    u.loadIssue f acc n p = .ok x v → v.lostDest f i = false →
    (x.toNat ≠ (v.reg f b).toNat % 2 ^ (8 * n) → ∃ t, exec i s = .next t ∧ MemDone f v t d 0 (v.hart f).nextPc) ∧
    (x.toNat = (v.reg f b).toNat % 2 ^ (8 * n) → limit = 0 → ∃ t, exec i s = .next t ∧ MemDone f v t d 3 (v.hart f).nextPc) ∧
    (x.toNat = (v.reg f b).toNat % 2 ^ (8 * n) → limit ≠ 0 → ∃ t y, exec i s = .next t ∧ (t.hart f).monitor = some y ∧ y.code = none ∧
      y.line = (if isAlias acc.pa then deviceOffset acc.pa else acc.pa) / 64 ∧ (t.hart f).pc = (v.hart f).pc ∧
      (t.hart f).wait.isSome = true ∧ ∀ r, (t.hart f).reg r = (v.hart f).reg r)) ∧
  (∀ y z, Resumes s i → (s.hart f).monitor = some y → (s.hart f).wait = some z →
    let returns := fun (code : Nat) => ∃ t, exec i s = .next t ∧ RegDone s t d (BitVec.ofNat 64 code) (s.hart f).nextPc
    (∀ code, y.code = some code → returns code) ∧ (y.code = none → z.late = true ∨ s.overlap = false → returns 3) ∧
    (y.code = none → z.late = false → s.overlap = true → exec i s = .next s))) ∧
  (∀ (s u : State) (core : Nat) (ch : BitVec 4) (sc : Scope) (a b : Reg),
  let f := Agent.far core
  let i := Instr.waitc ch sc a b
  let x := (s.far core).channel ch.toNat
  let limit := (s.reg f b).toNat % 2 ^ 32
  let reached := (x.counter.toNat + 2 ^ 32 - (s.reg f a).toNat % 2 ^ 32) % 2 ^ 32 < 2 ^ 31
  let expired : Trap := { cause := 10, infos := ⟨BitVec.ofNat 64 ((s.far core).vcore.toNat * 16 + ch.toNat), x.popc.zeroExtend 64,
                                                 x.counter.zeroExtend 64, BitVec.ofNat 64 limit⟩ }
  s.focus = f →
  (Issues s i ∨ Resumes s i → reached → s.acquireOrder f sc = .ok () u → ∃ t, exec i s = .next t ∧
    RegDone { u with focus := f } { t with focus := f } 0 0 (u.hart f).nextPc) ∧
  (Issues s i → ¬ reached → limit = 0 → exec i s = .next (s.takeTrap f expired)) ∧
  (Issues s i → ¬ reached → limit ≠ 0 → ∃ t z, exec i s = .next t ∧ (t.hart f).wait = some z ∧ (t.hart f).pc = (s.hart f).pc ∧
    (∀ r, (t.hart f).reg r = (s.hart f).reg r) ∧ OnlyHart s t f) ∧
  (∀ z, Resumes s i → ¬ reached → (s.hart f).wait = some z → z.late = true → exec i s = .next (s.takeTrap f expired)))

/-- R66 to R69: CMAINT, once its address is checked and its core's accesses are performed, its remote operations and .u host stores
among them, acts on its line, or on the 64 lines of its granule, and goes on once its write-backs are performed. A .ci with reach
mem leaves the line in no data cache of the island and not in the memory-side cache; an .l1i form leaves it in no instruction cache
of the island. -/
def Obligations.CmaintActs : Prop := ∀ (s u v w : State) (core : Nat) (op : CmOp) (reach : CmReach) (ext : CmExt) (a : Reg) (k : BitVec 20)
    (e : TlbEntry),
  let f := Agent.far core
  let i := Instr.cmaint op reach ext a k
  let va0 := s.reg f a + k.signExtend 64
  let va := if ext = .gran then va0 &&& ~~~4095 else va0
  let pa := e.pa va
  s.focus = f → Issues s i → s.translate f va (if op = .cln then 0 else 1) = .ok e u → u.cmReason pa = none → remote f pa = none →
  u.cmOrder f = .ok () v →
  (isDevice pa = true ∨ isHost pa = true → v.cmRun f op reach (pa / 64) 0 (if ext = .gran then 64 else 1) = .ok () w →
    (∃ t, exec i s = .next t ∧ MemDone f w t 0 0 (w.hart f).nextPc ∧ Spent f w t .memory) ∧
    (ext = .line → op = .ci → reach = .mem → isDevice pa = true →
      (∀ c, dieOf c = dieOf core → mhas (w.far c).l1d (pa / 64) = false) ∧ mhas (w.island (dieOf core)).l2 (pa / 64) = false ∧
      w.mscAt (pa / 64) = {}) ∧
    (ext = .line → reach = .l1i → ∀ c, dieOf c = dieOf core → mhas (w.far c).l1i (pa / 64) = false)) ∧
  (isDevice pa = false → isHost pa = false → ∃ t, exec i s = .next t ∧ MemDone f v t 0 0 (v.hart f).nextPc)

/-- R124, R277 and R278: in a turn that overlaps, GET, PUT and RAMO that pass their checks are in flight with the bytes they name
and the incarnations of both dies, and the core goes on; a seventeenth waits. REMOTE_OP_PERFORM at a home that serves it then reads,
writes or updates exactly the bytes there, and REMOTE_REPLY writes d, zero-extended, or tells that a PUT was accepted, and ends the
operation. In a turn that does not overlap all three take place at once. R126: an operation of an older incarnation is dropped and
logged; the reply to an operation whose issuer has left its core writes nothing. R128: any instruction that reads the register of an
operation lost in flight traps ISLAND_UNREACHABLE, reason 3; one that overwrites it ends that, here every scalar and array
instruction, LD, AMO, TIME, RMREAD and CSRR. (A turn that overlaps with the background work of the core, and one that does not, are
the model's own: log entry 2.) -/
def Obligations.RemoteAccesses : Prop :=
  (∀ (s u : State) (core : Nat) (w : Width) (op : AmoOp) (dbl ord : Bool) (d a b : Reg) (m : BitVec 24)
    (pa : Nat),
  let f := Agent.far core
  let n := w.bytes
  let q := if dbl then 8 else 4
  let room := fun (put : Bool) => u.remoteCount core put < 16
  let flies := fun (i : Instr) (r : Remote) => u.lostDest f i = false → ∃ t, exec i s = .next t ∧ t.remotes = u.remotes ++ [r] ∧
    HartDone f u t 0 0 (u.hart f).nextPc ∧ ∀ x, memByte t.mem x = memByte u.mem x
  s.focus = f → u.overlap = true →
  (Issues s (.get w ord d a m) → s.remoteCheck f core (s.reg f a + m.signExtend 64) n 0 false = .ok pa u → room false →
    flies (.get w ord d a m) { core := core, kind := .get, va := s.reg f a + m.signExtend 64, pa := pa, n := n, d := d, data := 0, ord := ord
                               inc := u.incOf (dieOf core), tinc := u.incOf (stackOf pa) }) ∧
  (Issues s (.put w ord d a m) → s.remoteCheck f core (s.reg f a + m.signExtend 64) n 1 true = .ok pa u → room true → u.reg f d = s.reg f d →
    flies (.put w ord d a m) { core := core, kind := .put, va := s.reg f a + m.signExtend 64, pa := pa, n := n, d := 0
                               data := BitVec.ofNat 64 ((s.reg f d).toNat % 2 ^ (8 * n)), ord := ord, inc := u.incOf (dieOf core)
                               tinc := u.incOf (stackOf pa) }) ∧
  (Issues s (.ramo op dbl ord d a b) → s.remoteCheck f core (s.reg f a) q 2 false = .ok pa u → room false → u.reg f b = s.reg f b →
    flies (.ramo op dbl ord d a b) { core := core, kind := .ramo op, va := s.reg f a, pa := pa, n := q, d := d
                                     data := BitVec.ofNat 64 ((s.reg f b).toNat % 2 ^ (8 * q)), ord := ord, inc := u.incOf (dieOf core)
                                     tinc := u.incOf (stackOf pa) }) ∧
  (Issues s (.get w ord d a m) → s.remoteCheck f core (s.reg f a + m.signExtend 64) n 0 false = .ok pa u → u.remoteCount core false = 16 →
    exec (.get w ord d a m) s = .next u)) ∧
  (∀ (s : State) (core : Nat) (w : Width) (op : AmoOp) (dbl ord : Bool) (d a b : Reg) (m : BitVec 24) (e : TlbEntry),
  let f := Agent.far core
  let n := w.bytes
  let q := if dbl then 8 else 4
  let reaches := fun (va : Word) (n kind : Nat) => va.toNat % n = 0 ∧ s.translate f va kind = .ok e s ∧ isDevice (e.pa va) = true ∧
    e.pa va % n = 0 ∧ s.dstate (stackOf (e.pa va)) = 0 ∧ s.dstate (dieOf core) = 0 ∧ s.homeServes (e.pa va) ∧
    (mget (fun _ => 1) (s.stack (stackOf (e.pa va))).incCopy (dieOf core)).toNat ≤ (s.incOf (dieOf core)).toNat ∧
    s.staleInc (some (dieOf core)) (dieOf core) (s.incOf (dieOf core)) = false ∧
    s.staleInc (some (dieOf core)) (stackOf (e.pa va)) (s.incOf (stackOf (e.pa va))) = false
  let alone := fun (va : Word) => s.islandHolds (stackOf (e.pa va)) (e.pa va / 64) = false
  let lands := fun (i : Instr) (d : Reg) (v : Word) (new : Nat → Byte) => ∃ t, exec i s = .next t ∧ RegSet (s.hart f) (t.hart f) d v ∧
    (t.hart f).pc = (s.hart f).nextPc ∧ t.remotes = [] ∧ ∀ x, t.homeByte x = new x
  let wrote := fun (pa n : Nat) (v : Word) (x : Nat) => if pa ≤ x ∧ x < pa + n then byteOf v (x - pa) else s.homeByte x
  s.focus = f → s.overlap = false → s.remotes = [] →
  (let va := s.reg f a + m.signExtend 64
   Issues s (.get w ord d a m) → reaches va n 0 → lands (.get w ord d a m) d (BitVec.ofNat 64 (s.homeRead (e.pa va) n)) s.homeByte) ∧
  (let va := s.reg f a + m.signExtend 64
   Issues s (.put w ord d a m) → reaches va n 1 → alone va → lands (.put w ord d a m) 0 0 (wrote (e.pa va) n (s.reg f d))) ∧
  (let va := s.reg f a
   let old := s.homeRead (e.pa va) q
   Issues s (.ramo op dbl ord d a b) → reaches va q 2 → alone va → lands (.ramo op dbl ord d a b) d (BitVec.ofNat 64 old)
     (wrote (e.pa va) q (BitVec.ofNat 64 (amoNew op q old ((s.reg f b).toNat % 2 ^ (8 * q))))))) ∧
  (∀ (s : State) (k : Nat) (r : Remote), s.remotes[k]? = some r →
  let copy := (mget (fun _ => 1) (s.stack (stackOf r.pa)).incCopy (dieOf r.core)).toNat
  let old := s.homeRead r.pa r.n
  let does := fun (v : Word) (new : Nat → Byte) => ∃ t, exec (.remoteOpPerform k) s = .next t ∧
    t.remotes = setAt s.remotes k { r with result := some v } ∧ ∀ x, t.homeByte x = new x
  let wrote := fun (v : Word) (x : Nat) => if r.pa ≤ x ∧ x < r.pa + r.n then byteOf v (x - r.pa) else s.homeByte x
  let at' := some (dieOf r.core)
  (r.result = none → r.lost = false → ordBlocked s.remotes k r = false → s.remoteCut r = false → copy ≤ r.inc.toNat → s.homeServes r.pa →
    r.pa % 64 + r.n ≤ 64 → 0 < r.n → r.n ≤ 8 →
    (r.kind = .get → does (BitVec.ofNat 64 old) s.homeByte) ∧
    (s.islandHolds (stackOf r.pa) (r.pa / 64) = false →
      (r.kind = .put → does 0 (wrote r.data)) ∧
      (∀ op, r.kind = .ramo op → does (BitVec.ofNat 64 old) (wrote (BitVec.ofNat 64 (amoNew op r.n old (r.data.toNat % 2 ^ (8 * r.n)))))))) ∧
  (∀ v, r.result = some v → s.staleInc at' (dieOf r.core) r.inc = false → s.staleInc at' (stackOf r.pa) r.tinc = false →
    ∃ t, exec (.remoteReply k) s = .next t ∧ t.remotes = dropAt s.remotes k ∧ (∀ y, memByte t.mem y = memByte s.mem y) ∧
      (r.stray = true → t.harts = s.harts) ∧
      (r.kind ≠ .put → r.stray = false → RegSet (s.hart (.far r.core)) (t.hart (.far r.core)) r.d v ∧
        (t.hart (.far r.core)).pc = (s.hart (.far r.core)).pc) ∧
      (r.kind = .put → t.harts = s.harts)) ∧
  (r.result = none → r.lost = false → ordBlocked s.remotes k r = false → r.inc.toNat < copy →
    ∃ t, exec (.remoteOpPerform k) s = .next t ∧ t.hub.errNext = s.hub.errNext + 1 ∧ t.remotes = dropAt s.remotes k ∧
      ∀ y, memByte t.mem y = memByte s.mem y)) ∧
  (∀ (s u v r : State) (core : Nat) (i : Instr) (x : Remote) (acc : Acc) (y : BitVec 512) (old : Nat),
  let f := Agent.far core
  let g := s.far core
  let ops := i.reads.map (s.reg f)
  s.focus = f → i.isEvent = false → (∀ h t, i ≠ .ill h t) → inProfile f i.major = true → (needsS i.major = true → (s.hart f).priv = true) →
  s.hazard f i = false →
  (s.lostRead f i = some x → ∃ z : Trap, exec i s = .next (({ s with remotes := s.remotes.erase x } : State).takeTrap f z) ∧ z.cause = 15 ∧
    z.infos = ⟨BitVec.ofNat 64 (stackOf x.pa), x.va, 3, match x.kind with | .get => 0 | .put => 1 | .ramo _ => 2⟩ ∧ z.pc = none) ∧
  (s.lostRead f i = none → (s.hart f).begun = false → s.permitHere i = true →
    let ends := fun (q : State) => ∃ t, exec i s = .next t ∧ t.remotes = q.remotes.map fun r => if r.lostAs f i then { r with d := 0 } else r
    (i.major < 0x20 → ends s) ∧
    (0x40 ≤ i.major → i.major ≤ 0x6F → s.overlap = true → g.arrView.fieldSpec i (ops.getD 0 0) (ops.getD 1 0) ops = none →
      s.ringFlaw core i = none → g.sb = [] → g.aq.length < 2 → ends s) ∧
    (∀ w sx p d a k, i = .ld w sx p d a k → s.access f (s.reg f a + k.signExtend 64) w.bytes 0 .load p true = .ok acc u →
      u.loadIssue f acc w.bytes p = .ok y v → ends v) ∧
    (∀ op dbl p sc o d a b, i = .amo op dbl p sc o d a b → let n := if dbl then 8 else 4
      s.access f (s.reg f a) n 2 .atomic p true = .ok acc u → u.atomicOrder f acc n p sc o = .ok () v →
      v.atomicAt f acc n p sc (fun z => some (amoNew op n z ((s.reg f b).toNat % 2 ^ (8 * n)))) = .ok old r → ends r) ∧
    (∀ d a, i = .time d ∨ i = .rmread d a ∨ i = .csrr d 2 → ends s)))

/-- R136 to R138: NROW.open copies the row of its home into the row buffer, NROW.close closes it, and NLUT adds the sixteen entries
that g[a] names of the table that g[b] names to 0 or to the low half of d, in order; a closed row traps PROTECTION, reason 7. (That
an instruction that traps has consumed its permit is the model's choice, log entry 16.) -/
def Obligations.RowsAndLookups : Prop := ∀ (s u v : State) (n c : Nat) (d a b : Reg) (k : BitVec 20) (e : TlbEntry) (row : BitVec 8192),
  let f := Agent.near n c
  let va := (s.reg f a + k.signExtend 64) &&& ~~~1023
  let x := s.near n c
  s.focus = f →
  (Issues s (.nrowOpen a k) → s.translate f va 0 = .ok e u → isDevice (e.pa va) = true → isAlias (e.pa va) = false →
    isFormat (e.pa va) = false → remote f (e.pa va) = none → homeOf (e.pa va) = n →
    u.ownOnBytes f (e.pa va) 1024 = false → u.readRow (e.pa va) 16 = .ok row v →
    ∃ t, exec (.nrowOpen a k) s = .next t ∧ HartDone f v t 0 0 (v.hart f).nextPc ∧
      NearIs n c v t { v.near n c with row := row, rowOpen := true }) ∧
  (Issues s .nrowClose → ∃ t, exec .nrowClose s = .next t ∧ HartDone f s t 0 0 (s.hart f).nextPc ∧
    NearIs n c s t { x with rowOpen := false }) ∧
  (∀ add, Issues s (.nlut add d a b) → x.rowOpen = true →
    let entry := fun (j : Nat) =>
      (x.row.toNat / 2 ^ (8 * (32 * ((s.reg f b).toNat % 32) + 2 * ((s.reg f a).toNat / 2 ^ (4 * j) % 16))) % 2 ^ 16) * 2 ^ 16
    ∃ t, exec (.nlut add d a b) s = .next t ∧ Spent f s t .table ∧
      MemDone f s t d (BitVec.ofNat 64 ((List.range 16).foldl (fun acc j => faddBits .fp32 acc (entry j))
        (if add then (s.reg f d).toNat % 2 ^ 32 else 0))) (s.hart f).nextPc) ∧
  (∀ add, Issues s (.nlut add d a b) → x.rowOpen = false → ∃ y : Trap,
    exec (.nlut add d a b) s = .next ((s.permitUse f 0x3F).takeTrap f y) ∧ y.cause = 7 ∧ y.infos.i2 = 7)

/-! ### The array of a far core -/

/-- R195, R222 and R223: in a turn that overlaps, an array instruction of codes 0x40 to 0x6F that passes its checks enters the
engine's queue of two with its operands, once the core's own stores to its format windows, and for XROW to the neighbour's (R224),
have left the store buffer (R51), uses its permit and lets the core go on, and with two there it waits. A field that fails a check
traps FIELD_SPEC with the reason and the value; a lane at or above the lane count is reason 2, an operand row above 32767 reason 4.
XROW to a core of another context traps PROTECTION, reason 9. (That an instruction that traps has consumed its permit is the model's
choice, log entry 16. A turn that overlaps with the background work of the core, and one that does not, are the model's own: log
entry 2.) -/
def Obligations.ArrayIssues : Prop := ∀ (s : State) (c : Nat) (i : Instr),
  let f := s.far c
  let ops := i.reads.map (s.reg (.far c))
  let p := s.headHere (.far c) i
  let check := f.arrView.fieldSpec i (ops.getD 0 0) (ops.getD 1 0) ops
  let clear := s.sbHas (.far c) (fun e => isFormat e.pa && (windowCore e.pa == c || windowCore e.pa == ringOf c i)) = false
  s.focus = .far c → i.isEvent = false → 0x40 ≤ i.major → i.major ≤ 0x6F → Issues s i →
  (s.overlap = true → check = none → s.ringFlaw c i = none → clear → f.aq.length < 2 →
    ∃ t, exec i s = .next t ∧ t.far c = { f with aq := f.aq ++ [arrayOp i ops] } ∧ (∀ k, k ≠ c → t.far k = s.far k) ∧
      HartDone (.far c) s t 0 0 (s.hart (.far c)).nextPc ∧ { t with harts := s.harts, fars := s.fars } = s) ∧
  (s.overlap = true → check = none → s.ringFlaw c i = none → clear → 2 ≤ f.aq.length → exec i s = .next s) ∧
  (∀ reason value, check = some (reason, value) → exec i s = .next ((s.permitUse (.far c) i.major).takeTrap (.far c)
    { cause := 0x0B, infos := ⟨p.1.zeroExtend 64, p.2, BitVec.ofNat 64 reason, BitVec.ofNat 64 value⟩ })) ∧
  (∀ d t span lane, i = .tcnt d t span (some lane) → f.arrView.lanesN ≤ lane.toNat → check = some (2, lane.toNat)) ∧
  (∀ a b col n1 lane, i = .cwrite a b col n1 lane → col.toNat + n1.toNat < f.arrView.laneW → lane.toNat < f.arrView.lanesN →
    32767 < (s.reg (.far c) a).toNat → check = some (4, (s.reg (.far c) a).toNat)) ∧
  (∀ prev rows cd cs n1, i = .xrow prev rows cd cs n1 → check = none → s.coreLive (ringTo c prev) = true →
    s.coreCtx (ringTo c prev) ≠ s.coreCtx c → ∃ u : Trap,
    exec i s = .next ((s.permitUse (.far c) i.major).takeTrap (.far c) u) ∧ u.cause = 7 ∧ u.infos.i2 = 9)

/-- R228 and R229: TOP writes the logical combination of whole tag registers, and TSHF moves a tag register by rows, bringing in
zeros or ones, or rotates the bits of each row among its active lanes; every other tag and every row stay. R220, R231 to R233, R239
and R262: SPAN sets a span, SEG the lane mode, KEY a quarter of the key, TTLD truth table entries in order, ASPMAC.ldx a quarter of
the activations and ASPMAC.ldm the sparsity mask, each from its operands and nothing else. (A turn that overlaps with the background
work of the core, and one that does not, are the model's own: log entry 2.) -/
def Obligations.TagsAndControls : Prop :=
  (∀ (s : State) (c : Nat) (d x y : TagNo) (k : BitVec 15) (n : BitVec 2) (ones : Bool),
  let A := (s.far c).arr
  let tags := fun (i : Instr) (f : Nat → Bool) => ArrayRuns s c i 0 0 fun a codes => codes = 0 ∧ { a with tags := A.tags } = A ∧
    (∀ u, u ≠ d → a.tag u = A.tag u) ∧ ∀ j, j < 131072 → (a.tag d).getLsbD j = f j
  let p := fun j => (A.tag x).getLsbD j
  let q := fun j => (A.tag y).getLsbD j
  tags (.top (.and d x y)) (fun j => p j && q j) ∧ tags (.top (.or d x y)) (fun j => p j || q j) ∧
  tags (.top (.xor d x y)) (fun j => p j ^^ q j) ∧ tags (.top (.andn d x y)) (fun j => p j && !q j) ∧
  tags (.top (.not d x)) (fun j => !p j) ∧ tags (.top (.mov d x)) p ∧ tags (.top (.clr d)) (fun _ => false) ∧
  tags (.top (.set d)) (fun _ => true) ∧
  tags (.tshf (.up ones k) d x) (fun j => if j + 4 * k.toNat < 131072 then p (j + 4 * k.toNat) else ones) ∧
  tags (.tshf (.dn ones k) d x) (fun j => if 4 * k.toNat ≤ j then p (j - 4 * k.toNat) else ones) ∧
  tags (.tshf (.lane n) d x) (fun j => if j % 4 < A.lanesN then p (j / 4 * 4 + (j % 4 + n.toNat) % A.lanesN) else p j)) ∧
  (∀ (s : State) (c : Nat) (x y : Reg) (ls q : BitVec 2) (m : LaneMode) (e : BitVec 8)
    (regs : TtRegs),
  let A := (s.far c).arr
  let g := s.reg (.far c)
  let ws := match regs with | .one a => [g a] | .two a b => [g a, g b] | .three a b c => [g a, g b, g c]
  ArrayRuns s c (.span ls x y) 0 0 (fun a codes => codes = 0 ∧ { a with spans := A.spans } = A ∧
    ∀ k, a.spanOf k = if k = ls then ((g x).toNat, (g y).toNat) else A.spanOf k) ∧
  ArrayRuns s c (.seg m) 0 0 (fun a codes => codes = 0 ∧ a = { A with lanes := m }) ∧
  ArrayRuns s c (.key q x) 0 0 (fun a codes => codes = 0 ∧ { a with ky := A.ky } = A ∧ ∀ j, j < 256 → a.ky.getLsbD j =
    if j / 64 = q.toNat then (g x).getLsbD (j % 64) else A.ky.getLsbD j) ∧
  ArrayRuns s c (.ttld e regs) 0 0 (fun a codes => codes = 0 ∧ { a with tt := A.tt } = A ∧ ∀ k, a.ttEntry k =
    if e.toNat ≤ k ∧ k < e.toNat + 2 * ws.length then
      (ws.getD ((k - e.toNat) / 2) 0).extractLsb' (32 * ((k - e.toNat) % 2)) 32 else A.ttEntry k) ∧
  ArrayRuns s c (.aspmacLdx q) 0 0 (fun a codes => codes = 0 ∧ { a with sact := A.sact } = A ∧ ∀ j, j < 1024 → a.sact.getLsbD j =
    if j / 256 = q.toNat then A.ky.getLsbD (j % 256) else A.sact.getLsbD j) ∧
  ArrayRuns s c .aspmacLdm 0 0 (fun a codes => codes = 0 ∧ { a with smask := A.smask } = A ∧ ∀ j, j < 128 → a.smask.getLsbD j = A.ky.getLsbD j))

/-- R230 and R235: TCNT counts the set bits of a tag in a span and the lanes named, TANY tells whether there is one, TFIRST gives
the place of the lowest, all ones for none, and clears it if asked; SPAN.rd, SEG.rd and CREAD read a span, the lane count and a
field of one row. (A turn that overlaps with the background work of the core, and one that does not, are the model's own: log entry
2.) -/
def Obligations.ArrayReads : Prop := ∀ (s : State) (c : Nat) (d g : Reg) (t : TagNo) (ls : BitVec 2) (lane : Option (BitVec 2))
    (clr sx : Bool) (col : Col) (n1 : BitVec 6) (ln : BitVec 2),
  let A := (s.far c).arr
  let hit := fun (j : Nat) => A.spans? ls (j / 4) (j % 4) && A.tagAt t (j / 4) (j % 4) &&
    (match lane with | none => true | some l => j % 4 == l.toNat)
  let same := fun (a : Arr) (codes : BitVec 4) => a = A ∧ codes = 0
  let n := n1.toNat + 1
  let v := A.field (s.reg (.far c) g).toNat ln.toNat col.toNat n
  ArrayRuns s c (.tcnt d t ls lane) d (BitVec.ofNat 64 ((List.range 131072).countP hit)) same ∧
  ArrayRuns s c (.tany d t ls lane) d (if (List.range 131072).any hit then 1 else 0) same ∧
  ((∀ j, j < 131072 → hit j = false) → ArrayRuns s c (.tfirst clr d t ls lane) d (BitVec.allOnes 64) same) ∧
  (∀ j, j < 131072 → hit j = true → (∀ i, i < j → hit i = false) →
    ArrayRuns s c (.tfirst clr d t ls lane) d (BitVec.ofNat 64 (j / 4 + j % 4 * 65536)) fun a codes => codes = 0 ∧
      { a with tags := A.tags } = A ∧ (∀ u, u ≠ t → a.tag u = A.tag u) ∧
      ∀ i, i < 131072 → (a.tag t).getLsbD i = ((A.tag t).getLsbD i && !(clr && i == j))) ∧
  ArrayRuns s c (.spanRd d ls) d (BitVec.ofNat 64 ((A.spanOf ls).1 + (A.spanOf ls).2 * 2 ^ 32)) same ∧
  ArrayRuns s c (.segRd d) d (match A.lanes with | .one => 1 | .two => 2 | .four => 4) same ∧
  ArrayRuns s c (.cread sx d g col n1 ln) d (if sx = true ∧ 2 ^ (n - 1) ≤ v then BitVec.ofInt 64 ((v : Int) - 2 ^ n) else BitVec.ofNat 64 v)
    same

/-- R220, R221, R226, R227, R236 and R256: PCMP, PCS, TLOAD and ACMP write the tag of every row of the span in every active lane, by
what its columns show and the combination named, and no other tag bit; PSET and PCS write the columns that they name in the
selected, or the matching, rows and lanes, from the values before the instruction. (A turn that overlaps with the background work of
the core, and one that does not, are the model's own: log entry 2.) -/
def Obligations.ArrayPasses : Prop := ∀ (s : State) (c : Nat) (d : TagNo) (x : Rows) (comb : Comb) (sp : Spec) (cs ws : List (Col × Bool))
    (ls : BitVec 2) (col ac bc xc : Col) (cond : ACond) (f : Fmt) (rnd : Rnd) (sat : Bool),
  let A := (s.far c).arr
  let W := A.laneW
  let tagged := fun (a : Arr) (span : BitVec 2) (comb : Comb) (hit : Nat → Nat → Bool) =>
    (∀ u, u ≠ d → a.tag u = A.tag u) ∧ ∀ r l, r < 32768 → l < 4 → a.tagAt d r l =
      if A.spans? span r l then (match comb with | .mov => hit r l | .and => A.tagAt d r l && hit r l | .or => A.tagAt d r l || hit r l)
      else A.tagAt d r l
  let meets := fun (ps : List (Col × Bool)) (r l : Nat) => ps.all fun p => A.col r l p.1.toNat == p.2
  let puts := fun (ps : List (Col × Bool)) (j : Nat) => (ps.reverse.find? fun p => p.1.toNat == j).map fun p => p.2
  let ranged := fun (k n j : Nat) (v : Bool) => if k ≤ j ∧ j ≤ k + n then some v else none
  let named := fun (r l : Nat) => match sp with
    | .pairs ps => meets ps r l
    | .imm k n1 key => (List.range (n1.toNat + 1)).all fun j => A.col r l (k.toNat + j) == key.getLsbD j
    | .ky k n1 => (List.range (n1.toNat + 1)).all fun j => A.col r l (k.toNat + j) == A.ky.getLsbD (l * W + k.toNat + j)
  let writes := fun (l j : Nat) => match sp with
    | .pairs ps => puts ps j
    | .imm k n1 key => ranged k.toNat n1.toNat j (key.getLsbD (j - k.toNat))
    | .ky k n1 => ranged k.toNat n1.toNat j (A.ky.getLsbD (l * W + j))
  let cols := fun (a : Arr) (g : Nat → Nat → Nat → Bool) => ∀ r l j, r < 32768 → l < A.lanesN → j < W → a.col r l j = g r l j
  let passed := fun (a : Arr) (codes : BitVec 4) => codes = 0 ∧ { a with tags := A.tags, rows := A.rows } = A
  ArrayRuns s c (.pcmp d x comb sp) 0 0 (fun a codes => passed a codes ∧ a.rows = A.rows ∧
    tagged a x.span comb fun r l => A.acts x r l && named r l) ∧
  ArrayRuns s c (.pset x sp) 0 0 (fun a codes => passed a codes ∧ a.tags = A.tags ∧
    cols a fun r l j => if A.acts x r l then (writes l j).getD (A.col r l j) else A.col r l j) ∧
  ArrayRuns s c (.pcs d x comb cs ws) 0 0 (fun a codes => passed a codes ∧
    tagged a x.span comb (fun r l => A.acts x r l && meets cs r l) ∧
    cols a fun r l j => if A.acts x r l && meets cs r l then (puts ws j).getD (A.col r l j) else A.col r l j) ∧
  ArrayRuns s c (.tload d ls col) 0 0 (fun a codes => passed a codes ∧ a.rows = A.rows ∧ tagged a ls .mov fun r l => A.col r l col.toNat) ∧
  ArrayRuns s c (.acmp cond d x ac bc xc ⟨f, rnd, sat⟩ comb) 0 0 (fun a codes => passed a codes ∧
    tagged a x.span comb (fun r l => A.acts x r l && cmpElem cond f (A.field r l ac.toNat f.width) (A.field r l bc.toNat f.width)) ∧
    cols a fun r l j => if A.acts x r l ∧ xc.toNat ≤ j ∧ j < xc.toNat + 2 then false else A.col r l j)

/-- R234 to R238, R240 and R241: CFILL, CWRITE, TSTORE, FMOV, FROT, XROW and TTRUN write their destination columns, in the selected
rows and lanes, from the values before the instruction, and no other column. FROT takes the field of the row 2^k further on, where
there is one; XROW writes to the neighbour of the ring; TTRUN runs its entries in order, once for each column. (A turn that overlaps
with the background work of the core, and one that does not, are the model's own: log entry 2.) -/
def Obligations.ArrayFields : Prop := ∀ (s : State) (c : Nat) (x : Rows) (t : TagNo) (ls ln : BitVec 2) (cd cs : Col) (n1 : BitVec 6)
    (w1 : BitVec 8) (k : BitVec 4) (i34 : BitVec 34) (g h : Reg) (prev desc : Bool) (e : BitVec 8) (m1 : BitVec 5) (x0 x1 x2 x3 : Col),
  let A := (s.far c).arr
  let W := A.laneW
  let cols := fun (a : Arr) (f : Nat → Nat → Nat → Bool) => ∀ r l j, r < 32768 → l < A.lanesN → j < W → a.col r l j = f r l j
  let moved := fun (i : Instr) (f : Nat → Nat → Nat → Bool) => ArrayRuns s c i 0 0 fun a codes =>
    codes = 0 ∧ { a with rows := A.rows } = A ∧ cols a f
  let dst := fun (n j : Nat) => cd.toNat ≤ j ∧ j ≤ cd.toNat + n
  moved (.cfill x cd n1 (.imm i34)) (fun r l j => if A.acts x r l ∧ dst n1.toNat j then (i34.signExtend 64).getLsbD (j - cd.toNat)
    else A.col r l j) ∧
  moved (.cfill x cd n1 (.reg g)) (fun r l j => if A.acts x r l ∧ dst n1.toNat j then (s.reg (.far c) g).getLsbD (j - cd.toNat)
    else A.col r l j) ∧
  moved (.cwrite g h cd n1 ln) (fun r l j => if r = (s.reg (.far c) g).toNat ∧ l = ln.toNat ∧ dst n1.toNat j then
    (s.reg (.far c) h).getLsbD (j - cd.toNat) else A.col r l j) ∧
  moved (.tstore t ls cd) (fun r l j => if A.spans? ls r l ∧ j = cd.toNat then A.tagAt t r l else A.col r l j) ∧
  moved (.fmov x cd cs w1) (fun r l j => if A.acts x r l ∧ dst w1.toNat j then A.col r l (cs.toNat + (j - cd.toNat)) else A.col r l j) ∧
  moved (.frot x k cd cs w1) (fun r l j => if A.acts x r l ∧ r + 2 ^ k.toNat ≤ 32767 ∧ dst w1.toNat j then
    A.col (r + 2 ^ k.toNat) l (cs.toNat + (j - cd.toNat)) else A.col r l j) ∧
  (let y := ringTo c prev
   let B := (s.far y).arr
   ArrayTurn s c (.xrow prev x cd cs w1) → ∃ u, exec (.xrow prev x cd cs w1) s = .next u ∧ HartDone (.far c) s u 0 0 (s.hart (.far c)).nextPc ∧
     u.far c = (s.far c).ran A 0 ∧ { (u.far y).arr with rows := B.rows } = B ∧ (∀ z, z ≠ c → z ≠ y → u.far z = s.far z) ∧
     ∀ r l j, r < 32768 → l < A.lanesN → j < W → ((u.far y).arr.row r).getLsbD (l * W + j) =
       if A.acts x r l ∧ dst w1.toNat j then A.col r l (cs.toNat + (j - cd.toNat)) else (B.row r).getLsbD (l * W + j)) ∧
  (let entries := (List.range (m1.toNat + 1)).map fun j => A.ttEntry (e.toNat + j)
   let base := fun (j : Nat) => if j = 0 then x0.toNat else if j = 1 then x1.toNat else x2.toNat
   let n := n1.toNat + 1
   ArrayRuns s c (.ttrun desc x e m1 n1 x0 x1 x2 x3) 0 0 fun a codes => codes = 0 ∧ { a with rows := A.rows } = A ∧
     ∀ r l, r < 32768 → l < A.lanesN → laneOfRow (a.row r) W l = if A.acts x r l then
       (List.range n).foldl (fun v i => entries.foldl (fun v y =>
         ttPass (fun j => if j < 3 then base j + (if desc then n - 1 - i else i) else x3.toNat) y v) v) (laneOfRow (A.row r) W l)
       else laneOfRow (A.row r) W l)

/-- R247 to R255, R259 and R260 for integer formats: in every selected row and lane the destination field becomes the sum, the
difference, the product or the accumulation of the operand fields, of the key of the lane where one is named, taken in the width of
the destination; the scratch columns end at 0 and nothing else changes. ALUT looks the field up in the key, and ARESOLVE adds the
halves of a carry-save accumulator. (A turn that overlaps with the background work of the core, and one that does not, are the
model's own: log entry 2.) -/
def Obligations.IntegerMacros : Prop := ∀ (s : State) (c : Nat) (x : Rows) (dc ac bc xc : Col) (f g : Fmt) (rnd : Rnd) (sat : Bool)
    (wa : BitVec 2) (n1 : BitVec 2),
  let A := (s.far c).arr
  let W := A.laneW
  let wrote := fun (i : Instr) (w sw : Nat) (val : Nat → Nat → Nat) => ArrayRuns s c i 0 0 fun a codes =>
    codes = 0 ∧ { a with rows := A.rows } = A ∧ ∀ r l, r < 32768 → l < A.lanesN →
      if A.acts x r l then a.field r l dc.toNat w = val r l ∧ ∀ j, j < W → j < dc.toNat ∨ dc.toNat + w ≤ j →
        a.col r l j = if xc.toNat ≤ j ∧ j < xc.toNat + sw then false else A.col r l j
      else ∀ j, j < W → a.col r l j = A.col r l j
  let F := fun (q : Col) (w r l : Nat) => A.field r l q.toNat w
  let key := fun (q : Col) (w l : Nat) => A.ky.toNat / 2 ^ (l * W + q.toNat) % 2 ^ w
  let int := fun (n : Int) (w : Nat) => (n % (2 ^ w : Int)).toNat
  let w := f.width
  f.isInt = true →
  wrote (.aadd x dc ac xc f rnd sat) w 1 (fun r l => (F dc w r l + F ac w r l) % 2 ^ w) ∧
  wrote (.asub x dc ac xc f rnd sat) w 1 (fun r l => (2 ^ w + F dc w r l - F ac w r l) % 2 ^ w) ∧
  wrote (.aaddk x dc bc xc ⟨f, rnd, sat⟩) w 1 (fun r l => (F dc w r l + key bc w l) % 2 ^ w) ∧
  wrote (.amul x dc ac bc xc f rnd sat) (2 * w) (4 * w + 2) (fun r l => int (intOf f (F ac w r l) * intOf f (F bc w r l)) (2 * w)) ∧
  wrote (.amulk x dc ac bc xc f rnd sat) (2 * w) (4 * w + 2) (fun r l => int (intOf f (F ac w r l) * intOf f (key bc w l)) (2 * w)) ∧
  wrote (.amac x dc ac bc xc f g rnd sat) 32 (if f = .i4 then 18 else 34)
    (fun r l => int (F dc 32 r l + intOf f (F ac w r l) * intOf g (F bc g.width r l)) 32) ∧
  (g.isInt = true → rnd ≠ .ef → wrote (.acvt x dc ac bc xc f g rnd sat) g.width 32 fun r l => cvtInt f g sat (F ac w r l)) ∧
  wrote (.aminmax true x dc ac xc ⟨f, rnd, sat⟩) w 2 (fun r l => if intOf f (F dc w r l) ≤ intOf f (F ac w r l) then F ac w r l else F dc w r l) ∧
  wrote (.aminmax false x dc ac xc ⟨f, rnd, sat⟩) w 2 (fun r l => if intOf f (F ac w r l) ≤ intOf f (F dc w r l) then F ac w r l else F dc w r l) ∧
  wrote (.alut x dc ac ⟨f, rnd, sat⟩ n1) w 0 (fun r l => A.ky.toNat / 2 ^ (w * F ac (n1.toNat + 1) r l) % 2 ^ w) ∧
  (let h := if wa = 0 then 16 else if wa = 1 then 24 else 32
   wrote (.aresolve x dc xc wa) (2 * h) 1 fun r l =>
     (F dc h r l + F dc (2 * h) r l / 2 ^ h) % 2 ^ h + F dc (2 * h) r l / 2 ^ h * 2 ^ h)

/-- R80 to R94, R247 and R249 to R263 for number formats, AMACK and ASPMAC: in every selected row and lane the destination field
becomes the exact sum, product or fused result of its operands, rounded once as asked, the conversion, the decoded weight, or the
accumulation; the scratch columns end at 0, nothing else changes, and a condition is added to the sticky flags exactly where a
selected element raised it. With rnd:ef the residue field takes the rounding error. (A turn that overlaps with the background work
of the core, and one that does not, are the model's own: log entry 2.) -/
def Obligations.NumberMacros : Prop := ∀ (s : State) (c : Nat) (x : Rows) (dc ac bc xc : Col) (f g : Fmt) (rnd : Rnd) (sat mx : Bool)
    (wa : BitVec 2) (s0 m1 : BitVec 6),
  let A := (s.far c).arr
  let W := A.laneW
  let raised := fun (codes : BitVec 4) (q : Nat → Nat → Conds) => ∀ k, k < 4 → (codes.getLsbD k = true ↔
    ∃ r l, r < 32768 ∧ l < A.lanesN ∧ A.acts x r l = true ∧ (q r l).code.getLsbD k = true)
  let wrote := fun (i : Instr) (w sw : Nat) (val : Nat → Nat → Nat × Conds) => ArrayRuns s c i 0 0 fun a codes =>
    raised codes (fun r l => (val r l).2) ∧ { a with rows := A.rows } = A ∧ ∀ r l, r < 32768 → l < A.lanesN →
      if A.acts x r l then a.field r l dc.toNat w = (val r l).1 % 2 ^ w ∧ ∀ j, j < W → j < dc.toNat ∨ dc.toNat + w ≤ j →
        a.col r l j = if xc.toNat ≤ j ∧ j < xc.toNat + sw then false else A.col r l j
      else ∀ j, j < W → a.col r l j = A.col r l j
  let F := fun (q : Col) (h : Fmt) (r l : Nat) => A.field r l q.toNat h.width
  let V := fun (q : Col) (h : Fmt) (r l : Nat) => decodeElem h (F q h r l)
  let K := fun (q : Col) (h : Fmt) (l : Nat) => A.ky.toNat / 2 ^ (l * W + q.toNat) % 2 ^ h.width
  let out := fun (h : Fmt) (bad : Bool) (v : XVal × Bool) => let y := roundF v.1 rnd h sat; (y.1, y.2.or (Conds.invalid (bad || v.2)))
  let fused := fun (h : Fmt) (p : XVal × Bool) (d : XVal) => out h p.2 (xadd rnd p.1 d)
  let sw := fun (h : Fmt) => if h = .fp32 then 64 else 32
  let acc := if f.carrySave then 2 * waOf wa else 32
  let room := if f.carrySave then 0 else 40
  (f.isInt = false →
    wrote (.aadd x dc ac xc f rnd sat) f.width (sw f) (fun r l => out f false (xadd rnd (V dc f r l) (V ac f r l))) ∧
    wrote (.asub x dc ac xc f rnd sat) f.width (sw f) (fun r l => out f false (xadd rnd (V dc f r l) (V ac f r l).neg)) ∧
    wrote (.amul x dc ac bc xc f rnd sat) f.width (2 * sw f) (fun r l => out f false (xmul (V ac f r l) (V bc f r l))) ∧
    wrote (.amulk x dc ac bc xc f rnd sat) f.width (2 * sw f) (fun r l => out f false (xmul (V ac f r l) (decodeElem f (K bc f l)))) ∧
    wrote (.afma x dc ac bc xc f rnd sat) f.width (2 * sw f) (fun r l => fused f (xmul (V ac f r l) (V bc f r l)) (V dc f r l)) ∧
    wrote (.amac x dc ac bc xc f g rnd sat) 32 40 (fun r l => fused .fp32 (xmul (V ac f r l) (V bc g r l)) (V dc .fp32 r l))) ∧
  (f.carrySave = false →
    wrote (.amack x dc ac bc xc f g rnd sat wa) 32 40 (fun r l => fused .fp32 (xmul (V ac f r l) (decodeElem g (K bc g l))) (V dc .fp32 r l))) ∧
  (f.carrySave = true →
    wrote (.amack x dc ac bc xc f g rnd sat wa) acc 0 (fun r l => (macCarry f (waOf wa) (A.field r l dc.toNat acc) (F ac f r l) (K bc g l), {}))) ∧
  (rnd ≠ .ef → wrote (.acvt x dc ac bc xc f g rnd sat) g.width 32 (fun r l => cvtElem f g rnd sat (F ac f r l))) ∧
  ArrayRuns s c (.acvt x dc ac bc xc f g .ef sat) 0 0 (fun a codes =>
    let y := fun r l => convertEF g sat (F ac f r l) (F bc .fp32 r l)
    raised codes (fun r l => (y r l).2.2) ∧ { a with rows := A.rows } = A ∧ ∀ r l, r < 32768 → l < A.lanesN →
      if A.acts x r l then a.field r l dc.toNat g.width = (y r l).1 % 2 ^ g.width ∧
        (∀ j, j < 32 → a.col r l (bc.toNat + j) = (y r l).2.1.testBit j) ∧
        ∀ j, j < W → j < dc.toNat ∨ dc.toNat + g.width ≤ j → j < bc.toNat ∨ bc.toNat + 32 ≤ j →
          a.col r l j = if xc.toNat ≤ j ∧ j < xc.toNat + 64 then false else A.col r l j
      else ∀ j, j < W → a.col r l j = A.col r l j) ∧
  wrote (.aminmax mx x dc ac xc ⟨f, rnd, sat⟩) f.width 2 (fun r l => (pickElem mx f (F dc f r l) (F ac f r l), {})) ∧
  wrote (.aqdec x dc ac bc xc f g ⟨rnd, sat⟩) g.width 48 (fun r l =>
    qdecElem g (A.field r l ac.toNat 4) (A.field r l bc.toNat 16) (A.ky.toNat / 2 ^ (l * W) % 2 ^ 32)) ∧
  wrote (.aspmac x dc ac s0 wa m1 xc f g ⟨rnd, sat⟩) acc room (fun r l => A.spElem f g rnd sat (waOf wa) s0.toNat (m1.toNat + 1)
    (A.field r l dc.toNat acc) (A.field r l ac.toNat ((m1.toNat + 1) * f.width)))

/-- R258 and R264: ARED reduces the field over the rows of its span, in each lane, by the pairwise tree of fixed order, over the
formats that it accepts: an addition is taken in the width of an integer format, and rounded once of a number format, whose
conditions are added to the sticky flags; a row that no present row has reached keeps its field. For integers the first row so holds
the sum of the selected elements. The scratch of every row of the span ends at 0, and no other column of the rows and no row outside
the span changes. (A turn that overlaps with the background work of the core, and one that does not, are the model's own: log entry
2.) -/
def Obligations.ReductionSums : Prop := ∀ (s : State) (c : Nat) (x : Rows) (dc xc : Col) (f : Fmt) (rnd : Rnd) (sat : Bool),
  let A := (s.far c).arr
  let W := A.laneW
  let w := f.width
  let p := A.spanOf x.span
  let scratch := w + (if f.isInt then 1 else if f = .fp32 then 64 else 32)
  let chosen := fun (l : Nat) => (List.range 32768).filter fun r => A.acts x r l
  let add := fun (a b : Nat) =>
    if f.isInt then ((a + b) % 2 ^ w, {}) else
      let v := xadd rnd (decodeElem f a) (decodeElem f b)
      let y := roundF v.1 rnd f sat
      (y.1, y.2.or (Conds.invalid v.2))
  let tree := fun (l : Nat) => redRows add p.2 fun i => ⟨A.acts x (p.1 + i) l, A.field (p.1 + i) l dc.toNat w, {}⟩
  ArrayRuns s c (.ared x dc xc f rnd sat) 0 0 fun a codes =>
    { a with rows := A.rows } = A ∧
    (∀ k, k < 4 → (codes.getLsbD k = true ↔ ∃ i l, i < p.2 ∧ p.1 + i < 32768 ∧ l < A.lanesN ∧ (tree l i).conds.code.getLsbD k = true)) ∧
    (∀ i l, i < p.2 → p.1 + i < 32768 → l < A.lanesN → a.field (p.1 + i) l dc.toNat w = (tree l i).value % 2 ^ w) ∧
    (f.isInt = true → codes = 0 ∧ ∀ l, l < A.lanesN → chosen l ≠ [] →
      a.field p.1 l dc.toNat w = ((chosen l).map fun r => A.field r l dc.toNat w).sum % 2 ^ w) ∧
    ∀ r l j, r < 32768 → l < A.lanesN → j < W → (j < dc.toNat ∨ dc.toNat + w ≤ j ∨ ¬ (p.1 ≤ r ∧ r < p.1 + p.2)) →
      a.col r l j = if A.spans? x.span r l ∧ xc.toNat ≤ j ∧ j < xc.toNat + scratch then false else A.col r l j

/-! ### Engines, messages, barriers, queues and tasks -/

/-- R115, R279, R282 and R285: in a turn that overlaps, CPY, AFILL and ASPILL enter the engine's queue of eight with the next
command number, their operands and the privilege of the moment, after the release of their scope, and the core goes on. CPY takes
its block as it reads it; AFILL and ASPILL wait until no array instruction of the core is left. R116, R279, R283, R285 and R286: a
command starts under the engine's reservation. ENGINE_COMPLETION ends a command, which leaves the queue, with its message in channel
14: at once for a block with a reserved field (STATUS 1, reason 1) or for no bytes (STATUS 0), and for a started command once it has
made its accesses. AFILL and ASPILL go unit by unit: each reads its bytes and puts them through the window, or reads the window and
writes them; the message holds the number of bytes. R283: CPY reads its source chunk by chunk and writes each chunk at its
destination; a copy of one row of one chunk leaves those bytes there, at row 1, byte 0. The message holds the status word, the
command number, the failing address and the position. (That a STATUS 1 record keeps AKIND 0 and the START fields is the model's
choice, log entry 15; that a command makes all its accesses and sends its message in one step, where the host lets it, is log entry
56. A turn that overlaps with the background work of the core, and one that does not, are the model's own: log entry 2.) -/
def Obligations.Engine : Prop :=
  (∀ (s u w r : State) (core : Nat) (sc : Scope) (win : Win) (p : Policy) (a b c : Reg) (acc : Acc)
    (v : BitVec 512),
  let f := Agent.far core
  let enters := fun (i : Instr) (e : EngCmd) => ∃ t, exec i s = .next t ∧
    FarIs core r t { r.far core with eng := (r.far core).eng ++ [{ e with seq := (r.far core).engSeq }], engSeq := (r.far core).engSeq + 1 } ∧
    HartDone f r t 0 0 (r.hart f).nextPc
  s.focus = f → r.overlap = true →
  (Issues s (.cpy sc a) → s.access f (s.reg f a) 64 0 .load .c true = .ok acc u → u.loadOnce f acc 64 .c = .ok v w → w.overlap = true →
    (w.far core).eng.length < 8 → (w.pbKeep core acc.pa).engRelease f sc = .ok () r →
    enters (.cpy sc a) { kind := .cpy, seq := 0, sc := sc, priv := (w.hart f).priv, block := v
                         row := (v.toNat / 2 ^ 416) % 2 ^ 16, byte := (v.toNat / 2 ^ 384) % 2 ^ 32 }) ∧
  (s.overlap = true → s.arrayIdle core = true → (s.far core).eng.length < 8 → s.engRelease f sc = .ok () r →
    (Issues s (.afill win p sc a b c) → enters (.afill win p sc a b c)
      { kind := .afill, seq := 0, sc := sc, priv := (s.hart f).priv, pol := p, win := win, a := s.reg f a, b := s.reg f b, c := s.reg f c }) ∧
    (Issues s (.aspill win p sc a b c) → enters (.aspill win p sc a b c)
      { kind := .aspill, seq := 0, sc := sc, priv := (s.hart f).priv, pol := p, win := win, a := s.reg f a, b := s.reg f b, c := s.reg f c })) ∧
  (s.overlap = true → s.arrayIdle core = false → Issues s (.afill win p sc a b c) → exec (.afill win p sc a b c) s = .next s)) ∧
  (∀ (s u w x y : State) (core k : Nat) (e c c' : EngCmd) (pa pb n : Nat) (mt mt' : Bool) (v : BitVec 512) (l : List (BitVec 512)) (d h : Bool),
  let f := s.far core
  let b := e.block
  let told := fun (z : State) (c : EngCmd) (row byte : Nat) => ∃ t, exec (.engineCompletion core k) s = .next t ∧
    (t.far core).eng = (z.far core).eng.filter (fun q => q.seq != e.seq) ∧ Received z t core 14 (engMessage e {} row byte) ∧
    (t.far core).arr = (z.far core).arr ∧ c.kind = e.kind ∧ c.seq = e.seq ∧ ∀ a, memByte t.mem a = memByte z.mem a
  let quiet := fun (z : State) => MailOpen z core 14 ∧ z.hostReqs.any (fun r => engHost core e r && r.write.isSome) = false
  let goes := e.started = true ∧ e.ended = none ∧ e.early = none ∧ e.sc ≠ .package ∧ e.sc ≠ .system
  let va := e.a + BitVec.ofNat 64 e.byte
  let off := e.b.toNat + e.byte
  let ends := fun (x : State) (st : EngStop) (row byte : Nat) => ∃ t, exec (.engineCompletion core k) s = .next t ∧
    (t.far core).eng = (x.far core).eng.filter (fun y => y.seq != e.seq) ∧ Received x t core 14 (engMessage e st row byte) ∧
    (t.far core).arr = (x.far core).arr ∧ ∀ y, memByte t.mem y = memByte x.mem y
  (f.eng[k]? = some e → f.eheld = true → ∃ t, exec (.engineCommandStart core k) s = .next t ∧
    FarIs core s t { f with eng := f.eng.map fun x => if x.seq = e.seq then { e with started := true } else x }) ∧
  (f.eng[k]? = some e → e.kind = .cpy → MailOpen s core 14 →
    (blkReserved b = true → ends s { status := 1, reason := 1 } (blkStartRow b) (blkStartByte b)) ∧
    (blkReserved b = false → blkLen b = 0 ∨ blkRows b = 0 → ends s {} (blkRows b) 0) ∧
    (blkReserved b = false → blkLen b ≠ 0 → blkRows b ≠ 0 → blkRows b < blkStartRow b → ends s { status := 1, reason := 3 } (blkStartRow b)
      (blkStartByte b))) ∧
  (f.eng[k]? = some e → goes → quiet w → e.kind ≠ .cpy → s.arrayCopy core e (e.c.toNat / 32 + 1) = .done c w → c.byte = e.c.toNat →
    told w c 0 e.c.toNat) ∧
  (e.byte < e.c.toNat →
    (e.kind = .afill → s.engCheck core e va 5 = .ok (pa, mt) u → u.engRead core e pa e.unit e.pol mt va = .ok v w →
      s.arrayCopy core e (n + 1) = (w.winPut core e.win.code.toNat off e.unit v).arrayCopy core { e with byte := e.byte + e.unit, ans := [] } n ∧
      ((w.winPut core e.win.code.toNat off e.unit v).far core).arr = (w.far core).arr.winWrite e.win.code.toNat off e.unit v) ∧
    (e.kind = .aspill → s.engCheck core e va 6 = .ok (pa, mt) u → u.bad = [] → (u.far core).mid = none →
      u.engWrite core e pa e.unit e.pol mt va ((u.far core).arr.winRead e.win.code.toNat off e.unit) = .ok d w →
      s.arrayCopy core e (n + 1) =
        w.arrayCopy core { e with byte := e.byte + e.unit, dirt := if d then e.dirt ++ [pa / 32] else e.dirt } n)) ∧
  (e.c.toNat ≤ e.byte → s.arrayCopy core e (n + 1) = .done e s) ∧
  (f.eng[k]? = some e → goes → e.kind = .cpy → e.row = 0 → e.byte = 0 → e.snap = [] → e.ans = [] → blkRows b = 1 → blkLen b = n →
    (blkDstAt b 0 0).toNat % 32 + n ≤ 32 → (blkSrcAt b 0 0).toNat % 64 + n ≤ 64 →
    s.engCheck core e (blkSrcAt b 0 0) 5 = .ok (pa, mt) u → u.engRead core e pa n (blkSpol b) mt (blkSrcAt b 0 0) = .ok v w →
    let g := { e with snap := [v] }
    (w.setEng core g).engCheck core g (blkDstAt b 0 0) 6 = .ok (pb, mt') x → x.cpyNow core g v = v →
    ({ x with ticks := x.ticks + n } : State).engWrite core g pb n (blkDpol b) mt' (blkDstAt b 0 0) v = .ok d y → quiet y → told y g 1 0) ∧
  (e.row < blkRows b → s.cpyRead core e e.row e.byte = .ok (v, h) u →
    let g := { e with snap := e.snap ++ [v], ans := [] }
    s.cpyGather core e e.row e.byte (n + 1) =
      (u.setEng core g).cpyGather core g (cpyNext b e.row e.byte).1 (cpyNext b e.row e.byte).2 n) ∧
  (s.engCheck core e (blkDstAt b e.row e.byte) 6 = .ok (pb, mt') x → x.cpyNow core e v = v →
    ({ x with ticks := x.ticks + cpyChunk b e.row e.byte } : State).engWrite core e pb (cpyChunk b e.row e.byte) (blkDpol b) mt'
      (blkDstAt b e.row e.byte) v = .ok d y →
    s.cpyScatter core e (v :: l) = y.cpyScatter core { e with row := (cpyNext b e.row e.byte).1, byte := (cpyNext b e.row e.byte).2, snap := l,
                                                               dirt := if d then e.dirt ++ [pb / 32] else e.dirt } l) ∧
  (f.eng[k]? = some e → goes → quiet w → e.kind = .cpy → e.snap = [] → s.cpyGather core e e.row e.byte ((blkRows b - e.row) * blkLen b) = .done c u →
    u.cpyScatter core c c.snap = .done c' w → told w c' c'.row c'.byte) ∧
  (∀ (st : EngStop) (row byte : Nat), let m := engMessage e st row byte
    (st.status < 256 → st.fkind < 16 → st.akind < 16 → st.level < 16 → st.reason < 256 →
      bits (lineWord m 0) 7 0 = st.status ∧ bits (lineWord m 0) 11 8 = (match e.kind with | .cpy => 1 | .afill => 2 | .aspill => 3) ∧
      bits (lineWord m 0) 15 12 = st.fkind ∧ bits (lineWord m 0) 19 16 = st.akind ∧ bits (lineWord m 0) 23 20 = st.level ∧
      bits (lineWord m 0) 31 24 = st.reason) ∧
    lineWord m 1 = e.seq.zeroExtend 64 ∧ lineWord m 2 = st.fva ∧
    (row < 2 ^ 32 → byte < 2 ^ 32 → bits (lineWord m 3) 31 0 = row ∧ bits (lineWord m 3) 63 32 = byte)))

/-- R117, R167, R168, R276, R288, R289, R305 and R306: MSEND to a placed vcore with a free slot puts its bytes into the channel, at
once in a turn that does not overlap, where no other delivery stands there; in one that overlaps it is on its way and MSEND waits,
MAILBOX_DELIVERY puts it there where no other delivery contends for the mailbox unit, and MSEND then goes on. MBWAIT reads the
number of messages, or traps WAIT_EXPIRED at once with a limit of 0; MBPOP takes the oldest message and reads its first word, or all
ones where there is none. (A turn that overlaps with the background work of the core, and one that does not, are the model's own:
log entry 2.) -/
def Obligations.Messages : Prop := ∀ (s u w : State) (core dest : Nat) (ch : BitVec 4) (len : BitVec 7) (a b c d : Reg) (x : Context)
    (data : BitVec 512) (k : Nat),
  let f := Agent.far core
  let i := Instr.msend ch len a b c
  let v := bits (s.reg f a) 11 0
  let open_ := fun (t : State) (ctx vc h : Nat) => t.ctx ctx = some x ∧ x.st ≠ .exited ∧ vc < x.nv ∧ t.placedOn ctx vc = some dest ∧
    x.spill.any (Spill.isFor vc h) = false ∧ t.slotFree dest h = true
  let m : Msg := { ctx := w.coreCtx core, vcore := v, ch := ch.toNat, data := data, src := core, own := false, sender := w.senderVcore core
                   inc := w.sentInc core }
  s.focus = f →
  (Issues s i → s.readBytes f (s.reg f b) len.toNat = .ok data u → u.release f (u.sendScope core v) = .ok () w →
    (w.overlap = false → (∀ q ∈ w.deliveries, w.atUnit dest q = false ∧ (q.src ≠ core ∨ q.own = true)) → open_ w (w.coreCtx core) v ch.toNat →
      w.staleInc (some (dieOf dest)) (dieOf core) (w.sentInc core) = false → ∃ t, exec i s = .next t ∧ Received w t dest ch.toNat data ∧
      (t.hart f).pc = (w.hart f).nextPc ∧ (∀ r, (t.hart f).reg r = (w.hart f).reg r) ∧ ∀ y, memByte t.mem y = memByte w.mem y) ∧
    (w.overlap = true → (s.reg f c).toNat % 2 ^ 32 ≠ 0 → ∃ t, exec i s = .next t ∧ t.deliveries = w.deliveries ++ [m] ∧
      (t.hart f).wait.isSome = true ∧ (t.hart f).pc = (w.hart f).pc)) ∧
  (∀ q : Msg, s.deliveries[k]? = some q → q.own = false → open_ s q.ctx q.vcore q.ch →
    s.staleInc (some (dieOf dest)) (dieOf q.src) q.inc = false →
    (∀ j e, j ≠ k → s.deliveries[j]? = some e → s.atUnit dest e = false) → ∃ t, exec (.mailboxDelivery k) s = .next t ∧
    Received s t dest q.ch q.data ∧ t.deliveries = dropAt s.deliveries k ∧
    ∀ z, (s.hart (.far q.src)).wait = some z → z.kind = .msend → ∃ y, (t.hart (.far q.src)).wait = some y ∧ y.won = true) ∧
  (∀ z, Resumes s i → s.overlap = true → (s.hart f).wait = some z → z.won = true → ∃ t, exec i s = .next t ∧ RegDone s t 0 0 (s.hart f).nextPc) ∧
  (let j := Instr.mbwait d a
   let n := ((s.far core).channel 14).slots.length
   let y := (s.far core).channel 14
   Issues s j →
   (0 < n → s.acquireOrder f .system = .ok () u → u.lostDest f j = false → ∃ t, exec j s = .next t ∧
     RegDone { u with focus := f } { t with focus := f } d (BitVec.ofNat 64 n) (u.hart f).nextPc) ∧
   (n = 0 → (s.reg f a).toNat % 2 ^ 32 = 0 → exec j s = .next (s.takeTrap f { cause := 10, infos :=
     ⟨BitVec.ofNat 64 ((s.far core).vcore.toNat * 16 + 14), y.popc.zeroExtend 64, y.counter.zeroExtend 64, 0⟩ }))) ∧
  (let j := Instr.mbpop d a
   let h := bits (s.reg f a) 3 0
   let y := (s.far core).channel h
   Issues s j →
   (y.slots = [] → ∃ t, exec j s = .next t ∧ RegDone s t d (BitVec.allOnes 64) (s.hart f).nextPc) ∧
   (∀ z l, y.slots = z :: l → (s.reg f a).toNat / 64 = 0 → (∀ q ∈ (s.far core).held, q.ch ≠ h) →
     (∀ x, s.ctx (s.coreCtx core) = some x → x.spill.any (Spill.isFor (s.far core).vcore.toNat h) = false) →
     ∃ t, exec j s = .next t ∧ (t.far core).channel h = { y with slots := l, popc := y.popc + 1 } ∧
       RegSet (s.hart f) (t.hart f) d (z.extractLsb' 0 64) ∧ (t.hart f).pc = (s.hart f).nextPc ∧ ∀ q, memByte t.mem q = memByte s.mem q))

/-- R171, R172, R173, R307 and R308: BAR in a domain of SIZE 0 goes on; alone in its domain it goes on after its release; else it
waits. BARRIER_ARRIVAL of the last member ends the wait of every member, where none asked for completion, and a BAR whose wait has
ended goes on. LARM at an address that is no multiple of 128 traps MISALIGNED; else it stores 1 in the arm word, as a release to the
package, and goes on. (That a LARM that traps has consumed its permit is the model's choice, log entry 16. A turn that overlaps with
the background work of the core, and one that does not, are the model's own: log entry 2.) -/
def Obligations.BarriersAndArming : Prop := ∀ (s q u w r : State) (core : Nat) (lvl : BitVec 2) (c : Bool) (a : Reg) (k : Nat) (acc : Acc),
  let f := Agent.far core
  let i := Instr.bar lvl c a
  let l := lvl.toNat
  let dom := (s.far core).dom l
  let limit := (s.reg f a).toNat % 2 ^ 32
  let sc := if l = 1 then Scope.cluster else if l = 2 then Scope.island else Scope.package
  (s.focus = f → Issues s i → domSize dom = 0 → ∃ t, exec i s = .next t ∧ RegDone s t 0 0 (s.hart f).nextPc) ∧
  (s.focus = f → Issues s i → domSize dom = 1 → s.xrowOrder f sc = .ok () q → q.needDrained f = .ok () u → u.releaseAt f sc = .ok () w →
    w.overlap = false → c = false → (∀ b ∈ w.barsAt core l, b.is (w.coreCtx core) l (domId dom) = false) →
    ∃ t, exec i s = .next t ∧ (t.hart f).pc = (w.hart f).nextPc ∧ (t.hart f).wait = none ∧ ∀ x, (t.hart f).reg x = (w.hart f).reg x) ∧
  (s.focus = f → Issues s i → domSize dom ≠ 0 → s.xrowOrder f sc = .ok () q → q.needDrained f = .ok () u → u.releaseAt f sc = .ok () w →
    w.overlap = true → limit ≠ 0 → ∃ t, exec i s = .next t ∧ (t.hart f).wait.isSome = true ∧ (t.hart f).pc = (w.hart f).pc ∧
      t.barMsgs = w.barMsgs ++ [{ core := core, ctx := w.coreCtx core, lvl := l, id := domId dom, size := domSize dom, comp := c, inc := w.sentInc core }]) ∧
  (∀ (m : BarMsg) (b : Bar), s.barMsgs[k]? = some m → m.comp = false → (m.lvl = 3 → s.staleInc none (dieOf m.core) m.inc = false) →
    (s.barsAt m.core m.lvl).find? (fun b => b.is m.ctx m.lvl m.id && !b.full) = some b → b.size = b.cores.length + 1 → b.comp = [] →
    ∃ t, exec (.barrierArrival k) s = .next t ∧ ∀ y, y ∈ m.core :: b.cores → ∀ z, (s.hart (.far y)).wait = some z →
      ∃ z', (t.hart (.far y)).wait = some z' ∧ z'.won = true) ∧
  (∀ z, s.focus = f → Resumes s i → (s.hart f).wait = some z → z.won = true → s.barMsgs = [] → s.barOf core l = none →
    ∃ t, exec i s = .next t ∧ RegDone s t 0 0 (s.hart f).nextPc) ∧
  (let j := Instr.larm a
   let va := s.reg f a
   s.focus = f → Issues s j →
   (va.toNat % 128 ≠ 0 → ∃ y : Trap, exec j s = .next ((s.permitUse f j.major).takeTrap f y) ∧ y.cause = 5 ∧ y.infos.i0 = va ∧ y.infos.i1 = 128) ∧
   (va.toNat % 128 = 0 → s.access f va 8 1 .store .m false = .ok acc u → u.release f .package = .ok () w →
     w.storeAt f acc.pa 8 (if acc.mt1 then .u else .m) acc.page acc.size 1 (some .package) = .ok () r →
     ∃ t, exec j s = .next t ∧ HartDone f r t 0 0 (r.hart f).nextPc ∧ ∀ y, memByte t.mem y = memByte r.mem y))

/-- R120, R294 to R300: QBIND of a queue that may be bound writes it as its record says, or unbinds it for a CAP of 0; a home that
may not be named traps PROTECTION, reason 13, and a queue of another context reason 12. QSTAT reads a queue's word, its fields as
R298 lays them out, and a home outside the partition traps reason 13. TENQ of no record goes on, of more than 64 traps PROTECTION,
reason 10; one anchored record that passes its checks, with room in its queue, is on its way to its home, and TENQ goes on, at once
or from its wait; one unanchored record goes on once it has been delivered. (That a QBIND or TENQ that traps has consumed its permit
is the model's choice, log entry 16. A turn that overlaps with the background work of the core, and one that does not, are the
model's own: log entry 2.) -/
def Obligations.QueuesAndAppends : Prop := ∀ (s u w r : State) (a b c d : Reg) (n : BitVec 4) (home : BitVec 10) (acc : Acc) (v : BitVec 512)
    (y : BitVec 256) (t0 : Task),
  let f := s.focus
  let h := home.toNat
  (let i := Instr.qbind a n home
   let old := (w.home h).queueAt n.toNat
   let w2 := lineWord v 2
   Issues s i → s.access f (s.reg f a) 64 0 .load .c true = .ok acc u → u.loadOnce f acc 64 .c = .ok v w →
   (w.homeOpen f h = false → ∃ x : Trap, exec i s = .next ((w.permitUse f i.major).takeTrap f x) ∧ x.cause = 7 ∧ x.infos.i2 = 13) ∧
   (w.homeOpen f h = true → qrecFlaw v = none →
     old.ctx = none ∨ (old.ctx = some (w.agentCtx f) ∧ old.tasks = [] ∧ w.onWay h n.toNat = 0 ∧ w.launching h n.toNat = 0) → ∃ t, exec i s = .next t ∧ HartDone f w t 0 0 (w.hart f).nextPc ∧
     (∀ k, k ≠ h → t.home k = w.home k) ∧
     (let x := (t.home h).queueAt n.toNat
      if bits w2 24 16 = 0 then x = {} else
        x.ctx = some (w.agentCtx f) ∧ x.nearPc = lineWord v 0 ∧ x.farPc = lineWord v 1 ∧ x.t = bits w2 7 0 ∧ x.pri = bits w2 9 8 ∧
        x.excl = w2.getLsbD 10 ∧ x.cap = bits w2 24 16 ∧ x.counter = 0 ∧ x.tasks = [])) ∧
   (w.homeOpen f h = true → qrecFlaw v = none → old.ctx.isSome = true → old.ctx ≠ some (w.agentCtx f) →
     ∃ x : Trap, exec i s = .next ((w.permitUse f i.major).takeTrap f x) ∧ x.cause = 7 ∧ x.infos.i2 = 12)) ∧
  (let i := Instr.qstat d a n
   let k := bits (s.reg f a) 9 0
   let x := (s.home k).queueAt n.toNat
   Issues s i →
   (s.partOfDie (k / 64) ≠ s.partOfDie ((f.island).getD 0) → ∃ y : Trap, exec i s = .next (s.takeTrap f y) ∧ y.cause = 7 ∧ y.infos.i2 = 13) ∧
   (s.partOfDie (k / 64) = s.partOfDie ((f.island).getD 0) → ∃ t, exec i s = .next t ∧
     HartDone f s t d (s.qstatWord (s.agentCtx f) k n.toNat) (s.hart f).nextPc ∧
     (x.ctx = none → s.qstatWord (s.agentCtx f) k n.toNat = 0) ∧
     (∀ e, x.ctx = some e → e ≠ s.agentCtx f → s.qstatWord (s.agentCtx f) k n.toNat = 1) ∧
     (x.ctx = some (s.agentCtx f) → x.tasks.length < 512 → x.cap < 512 → x.t < 256 → x.pri < 4 →
       let z := s.qstatWord (s.agentCtx f) k n.toNat
       bits z 63 32 = x.counter.toNat ∧ bits z 31 23 = x.tasks.length ∧ bits z 22 14 = x.cap ∧ bits z 13 6 = x.t ∧ bits z 5 4 = x.pri ∧
       z.getLsbD 3 = x.excl ∧ z.getLsbD 2 = (s.home k).running.any (fun t => t.queue == n.toNat) ∧ bits z 1 0 = 3))) ∧
  (let i := Instr.tenq a b c
   Issues s i →
   (s.reg f b = 0 → ∃ t, exec i s = .next t ∧ HartDone f s t 0 0 (s.hart f).nextPc) ∧
   (64 < (s.reg f b).toNat → ∃ x : Trap, exec i s = .next ((s.permitUse f i.major).takeTrap f x) ∧ x.cause = 7 ∧ x.infos.i2 = 10) ∧
   (s.reg f b = 1 → (s.reg f a).toNat % 32 = 0 → s.readRecords f (s.reg f a) 1 = .ok [y] u → u.checkRecords f 0 [y] = .ok [t0] w →
     t0.anchored = true → w.tenqRelease f = .ok () r → r.overlap = true → r.queueRoom t0.home t0.queue 0 = true →
     ∃ t, exec i s = .next t ∧ HartDone f r t 0 0 (r.hart f).nextPc ∧
       (t.home t0.home).arrivals = (r.home t0.home).arrivals ++ [{ src := agentKey f, items := [(t0.queue, t0)],
                                                                       inc := match f.island with | some e => r.incOf e | none => 0 }]) ∧
   (∀ z, s.reg f b = 1 → (s.reg f a).toNat % 32 = 0 → s.readRecords f (s.reg f a) 1 = .ok [y] u → u.checkRecords f 0 [y] = .ok [t0] w →
     t0.anchored = false → w.tenqRelease f = .ok () r → r.taskDeliver (r.senderVcore (agentKey f)) t0.vcore t0 = .done z →
     ∃ t, exec i s = .next t ∧ (t.hart f).pc = (z.hart f).nextPc ∧ (∀ x, (t.hart f).reg x = (z.hart f).reg x) ∧ t.fars = z.fars ∧ t.ctxs = z.ctxs) ∧
   (∀ z, Resumes s i → s.overlap = true → (s.hart f).wait = some z → z.tasks = [t0] → t0.anchored = true → s.queueRoom t0.home t0.queue 0 = true →
     ∃ t, exec i s = .next t ∧ (t.hart f).pc = (s.hart f).nextPc ∧ (t.hart f).wait = none ∧
       (t.home t0.home).arrivals = (s.home t0.home).arrivals ++ [{ src := agentKey f, items := [(t0.queue, t0)],
                                                                   inc := match f.island with | some e => s.incOf e | none => 0 }]))

/-- R122, R159, R292, R301 to R303: TSTEAL posts its request to its home and waits, and once granted it goes on; a count of 0 or
above 8 traps PROTECTION, reason 10, and a home outside the partition or of a lost region reason 13. TEND and TNEXT retire the
running task of a far core once its array, engine and remote operations are done and its release is complete; TEND of a near task
closes the row and frees the context; the home counts the task no longer. (A turn that overlaps with the background work of the
core, and one that does not, are the model's own: log entry 2.) -/
def Obligations.StealsAndRetirement : Prop := ∀ (s r : State) (core n c : Nat) (a b : Reg) (t0 : Task),
  let f := Agent.far core
  let g := Agent.near n c
  let home := bits (s.reg f a) 9 0
  let count := bits (s.reg f b) 3 0
  (let i := Instr.tsteal a b
   s.focus = f →
   (Issues s i → count = 0 ∨ 8 < count → ∃ x : Trap, exec i s = .next (s.takeTrap f x) ∧ x.cause = 7 ∧ x.infos.i2 = 10) ∧
   (Issues s i → 1 ≤ count → count ≤ 8 → bits (s.reg f b) 31 4 = 0 → bits (s.reg f a) 63 10 = 0 →
     s.homeOpen f home = true → s.overlap = true → bits (s.reg f b) 63 32 ≠ 0 →
     ∃ t, exec i s = .next t ∧ (t.hart f).wait.isSome = true ∧ (t.far core).stealWait = some (home, count) ∧
       t.stealMsgs = s.stealMsgs ++ [{ home := home, req := { core := core, ctx := s.coreCtx core, count := count }, inc := s.sentInc core }] ∧
       (t.hart f).pc = (s.hart f).pc) ∧
   (Issues s i → 1 ≤ count → count ≤ 8 → bits (s.reg f b) 31 4 = 0 → bits (s.reg f a) 63 10 = 0 → s.homeOpen f home = false →
     ∃ x : Trap, exec i s = .next (s.takeTrap f x) ∧ x.cause = 7 ∧ x.infos.i2 = 13) ∧
   (∀ z, Resumes s i → s.overlap = true → (s.hart f).wait = some z → z.won = true → ∃ t, exec i s = .next t ∧
     (t.hart f).pc = (s.hart f).nextPc ∧ (t.hart f).wait = none ∧ (t.far core).stealWait = none ∧ ∀ x, (t.hart f).reg x = (s.hart f).reg x)) ∧
  (s.focus = f → s.overlap = true → s.tendReady f = .ok () r → r.overlap = true → (r.far core).task = some t0 →
    (Issues s .tend → ∃ t, exec .tend s = .next t ∧ (t.far core).task = none ∧ (t.hart f).active = false ∧ (t.hart f).pc = (r.hart f).pc ∧
      ∀ x, (t.hart f).reg x = (r.hart f).reg x)) ∧
  (s.focus = g → s.tendReady g = .ok () r → (r.near n c).task = some t0 → Issues s .tend →
    ∃ t, exec .tend s = .next t ∧ (t.near n c).task = none ∧ (t.near n c).rowOpen = false ∧ (t.hart g).active = false) ∧
  (let i := Instr.tnext a
   s.focus = f → Issues s i →
   (((s.farSearch core).far core).coreQ = [] → ((s.farSearch core).hart f).wait = none → ((s.farSearch core).reg f a).toNat % 2 ^ 32 = 0 →
     exec i s = .next ((s.farSearch core).takeTrap f { cause := 10, infos :=
       ⟨BitVec.ofNat 64 (2 * 2 ^ 60 + ((s.farSearch core).far core).vcore.toNat), 0, 0, 0⟩ })) ∧
   (∀ q t1, ((s.farSearch core).far core).coreQ ≠ [] → (s.farSearch core).tendReady f = .ok () r → (r.far core).coreQ = t1 :: q →
     (r.far core).placed = true → (r.hart f).stopped = false → r.dispatches (r.hart f).ctxid.toNat = true → t1.anchored = false →
     (r.far core).task.all (fun x => !x.anchored) = true →
     (∀ x, r.ctx (r.coreCtx core) = some x → x.held = [] ∧ x.spill = []) → (r.far core).grantHold = [] → (r.far core).held = [] → (r.far core).autoHome = none →
     ∃ t, exec i s = .next t ∧ (t.far core).task = some t1 ∧ (t.far core).coreQ = q ∧ (t.hart f).active = true ∧ (t.hart f).pc = t1.entry ∧
       (t.hart f).reg 3 = t1.arg0 ∧ (t.hart f).reg 4 = t1.arg1 ∧ (t.hart f).reg 5 = t1.seq.zeroExtend 64 ∧ (t.hart f).reg 6 = 2))

/-! ### Events of agents, caches, homes and banks -/

/-- R70, R350, R351 and R353: LINE_FETCH fetches the line at the PC of an agent that runs, or its trap is taken; TAKE_EVENT enters
the handler of the pending event, a map change before a memory error before a suspension notice, which is then no longer pending,
with its values in the information registers; CORE_STOP stops a live core and writes one error record; and an agent that is stopped
takes no event and fetches nothing. R34, R71, R111, R292 and R397: WAITM_WAKE returns the code that the monitor has seen and
WAITM_LIMIT_EXPIRE code 3, in the register that the WAITM names, and the agent goes on; WAIT_LIMIT_EXPIRE marks another wait as
over; TLBI_COMPLETE ends the wait of a TLBI once no walk it passed, no store, no alias command, no remote operation and no access to
the host region is left; PERMIT_REFILL adds the refills to the counters, at most 255; CORE_POWER_GATE drops the caches of a core
without a vcore. (That an event whose condition does not hold changes nothing is the model's choice: log entry 1.) -/
def Obligations.AgentEvents : Prop :=
  (∀ (s u : State) (a : Agent) (core : Nat) (order : Bool) (l : BitVec 512) (x : Trap),
  let h := s.hart a
  let takes := fun (cause : Nat) (info : Infos) (g : Hart) => MayTrap g → ∃ t, exec (.takeEvent a) s = .next t ∧
    Enters g (t.hart a) cause g.pc info ∧ (t.hart a).evMap = g.evMap ∧ (t.hart a).evMem = g.evMem ∧ (t.hart a).evSusp = g.evSusp
  (h.active = true → h.stopped = false → s.fetch a = .ok l u → exec (.lineFetch a) s = .next u) ∧
  (h.active = true → h.stopped = false → s.fetch a = .trap x u → exec (.lineFetch a) s = .next (u.takeTrap a x)) ∧
  (h.stopped = true → exec (.takeEvent a) s = .next s ∧ exec (.lineFetch a) s = .next s) ∧
  (a = .far core → s.caughtUp a = true → h.hostLds = [] → h.pend = none → h.wait = none → h.monitor = none → h.active = true → h.stopped = false → h.ie = true →
    h.priv = true ∨ h.h = false ∨ h.deleg.toNat % 2 ^ 17 = 0 →
    (∀ v, h.evMap = some v → takes 0x0C ⟨v.zeroExtend 64, s.csrRead a 0x1A, 0, 0⟩ { h with evMap := none }) ∧
    (∀ i l, h.evMap = none → h.evMem = i :: l → takes 0x0E i { h with evMem := l }) ∧
    (∀ r d n, h.evMap = none → h.evMem = [] → h.evSusp = some (r, d, n) →
      takes 0x10 ⟨BitVec.ofNat 64 r, BitVec.ofNat 64 d, BitVec.ofNat 64 n, 0⟩ { h with evSusp := none }) ∧
    (h.evMap = none → h.evMem = [] → h.evSusp = none → exec (.takeEvent a) s = .next s) ∧
    (s.coreLive core = true → (s.far core).sb = [] → (s.far core).eng = [] → ∃ t, exec (.coreStop core order false) s = .next t ∧
      (t.hart a).stopped = true ∧ (t.hart a).pc = h.pc ∧ (∀ r, (t.hart a).reg r = h.reg r) ∧ t.hub.errNext = s.hub.errNext + 1))) ∧
  (∀ (s : State) (a : Agent) (core n : Nat),
  let h := s.hart a
  let back := fun (i : Instr) (code : Nat) => ∀ w p d x y z k, h.wait.isSome = true → h.current = some (.waitm w p d x y z k) →
    ∃ t, exec i s = .next t ∧ RegDone { s with focus := a } { t with focus := a } d (BitVec.ofNat 64 code) h.nextPc
  (∀ m code, h.monitor = some m → m.code = some code → back (.waitmWake a) code) ∧
  (∀ m, h.monitor = some m → m.code = none → back (.waitmLimitExpire a) 3 ∧ exec (.waitmWake a) s = .next s) ∧
  (∀ w, h.wait = some w → ∃ t, exec (.waitLimitExpire a) s = .next t ∧ t.hart a = { h with wait := some { w with late := true } } ∧
    OnlyHart s t a) ∧
  (∀ w, h.wait = some w → w.kind = .tlbi → (s.fars.all fun p => p.2.sb.isEmpty) = true → s.hub.walks = [] →
    s.islands.all (fun p => p.2.walks.isEmpty) = true → s.hostReqs = [] → s.fabric = [] → s.cmds.all (fun p => p.2.done) = true →
    (s.remotes.all fun r => r.result.isSome || r.lost) = true → ∃ t, exec (.tlbiComplete a) s = .next t ∧
      t.hart a = { h with wait := some { w with won := true } }) ∧
  (let x := s.cluster (core / 16)
   let g := s.hart (.far core)
   let plus := fun (p : Permit) (r : BitVec 7) => min 255 (p.count.toNat + r.toNat)
   ∃ t, exec (.permitRefill (.far core)) s = .next t ∧ (t.hart (.far core)).macroP.count.toNat = plus g.macroP x.pMacro ∧
     (t.hart (.far core)).passP.count.toNat = plus g.passP x.pPass ∧ (t.hart (.far core)).tableP.count.toNat = plus g.tableP x.pTable ∧
     (t.hart (.far core)).memP.count.toNat = plus g.memP x.pMem ∧ OnlyHart s t (.far core)) ∧
  (let x := s.stack (core / 64)
   let plus := fun (p : Permit) (r : BitVec 7) => min 255 (p.count.toNat + r.toNat)
   ∃ t, exec (.permitRefill (.near core n)) s = .next t ∧ (t.unit core).tableP.count.toNat = plus (s.unit core).tableP x.pTable ∧
     (t.unit core).memP.count.toNat = plus (s.unit core).memP x.pMem ∧ { t with units := s.units } = s) ∧
  ((s.far core).placed = false → ∃ t, exec (.corePowerGate core) s = .next t ∧ (t.far core).l1i = [] ∧
    (∀ ln, mhas (t.far core).l1d ln = false) ∧ (t.far core).arr.tags = (s.far core).arr.tags) ∧
  ((s.far core).placed = true → exec (.corePowerGate core) s = .next s))

/-- R27, R30, R56, R64, R111 and R119: CACHE_EVICTION of an L1D line writes its dirty sectors to the island L2 and drops it, of an
instruction line drops it, and of a memory-side line writes its dirty sectors to memory, unless the host holds it, which is then
asked; an island L2's line, once the host lets its write-back go on, leaves with every L1D copy of it; WRITTEN_LINE_INVALIDATE
leaves no copy of the line in the island; WALK_START takes the oldest request, and WALK_COMPLETE gives its leaf or its fault to the
access that waits. -/
def Obligations.CacheAndWalkEvents : Prop := ∀ (s u : State) (core ln k key kind : Nat) (w : WalkReq) (q : List WalkReq) (e : TlbEntry),
  (let l := s.l1At core ln
   let old := s.l2At (dieOf core) ln
   mhas (s.far core).l1d ln = true → ∃ t, exec (.cacheEviction (.l1d core) ln) s = .next t ∧ mhas (t.far core).l1d ln = false ∧
     (t.l2At (dieOf core) ln).dirty = old.dirty ||| l.dirty ∧ (∀ i, i < 64 → byteOf (t.l2At (dieOf core) ln).data i =
       if l.dirty.getLsbD (i / 32) then byteOf l.data i else byteOf old.data i) ∧ ∀ x, memByte t.mem x = memByte s.mem x) ∧
  (∃ t, exec (.cacheEviction (.l1i core) ln) s = .next t ∧ mhas (t.far core).l1i ln = false ∧ { t with fars := s.fars } = s) ∧
  (∃ t, exec (.cacheEviction (.near core) ln) s = .next t ∧ mhas (t.unit core).ibuf ln = false ∧ { t with units := s.units } = s) ∧
  (mhas (s.island k).l2 ln = true → s.cleanBar k ln = none → ∃ t, exec (.cacheEviction (.l2 k) ln) s = .next t ∧ mhas (t.island k).l2 ln = false ∧
    ∀ c, dieOf c = k → mhas (t.far c).l1d ln = false) ∧
  (let l := s.mscAt ln
   lineStack ln = k →
   (l.host = false → mhas (s.stack k).msc ln = true → ∃ t, exec (.cacheEviction (.msc k) ln) s = .next t ∧ t.mscAt ln = {} ∧
     ∀ x, memByte t.mem x = if x / 64 = ln ∧ l.dirty.getLsbD (x % 64 / 32) = true then byteOf l.data (x % 64) else memByte s.mem x) ∧
   (l.host = true → ∃ t, exec (.cacheEviction (.msc k) ln) s = .next t ∧ HostMsg.backInvalidate ln ∈ t.toHost ∧
     { t with toHost := s.toHost } = s)) ∧
  (ln ∈ (s.unit k).wlog → s.cleanBar (k / 64) ln = none → ∃ t, exec (.writtenLineInvalidate k ln) s = .next t ∧ ln ∉ (t.unit k).wlog ∧
    mhas (t.island (k / 64)).l2 ln = false ∧ ∀ c, dieOf c = k / 64 → mhas (t.far c).l1d ln = false) ∧
  (k < 16 → (s.island k).walkQ = w :: q → (s.island k).walks.length < 32 → tlbFind w.va w.tag (s.island k).tlb = none →
    ∃ t, exec (.walkStart k) s = .next t ∧ t.island k = { s.island k with walkQ := q, walks := (s.island k).walks ++ [w] } ∧
      { t with islands := s.islands } = s) ∧
  (k < 16 → (s.island k).walks = [w] → w.kills = [] → w.waiters = [(key, kind)] → key < 4096 →
    (s.setWalks k []).walk w.root w.va w.tag = .ok (.leaf e) u →
    permitted e kind (u.hart (.far key)).priv = true →
    ∃ t, exec (.walkComplete k 0) s = .next t ∧ e ∈ (t.hart (.far key)).tlb) ∧
  (∀ fk lv, k < 16 → (s.island k).walks = [w] → w.kills = [] → w.waiters = [(key, kind)] → key < 4096 →
    (s.setWalks k []).walk w.root w.va w.tag = .ok (.fault fk lv) u →
    ∃ t a, exec (.walkComplete k 0) s = .next t ∧ (t.hart (.far key)).walkFault = some a ∧ a.page = w.va >>> 16 ∧ a.tag = w.tag ∧ a.kind = kind ∧ a.cause = 6 ∧
      a.info.i1 = BitVec.ofNat 64 fk ∧ a.info.i2 = BitVec.ofNat 64 lv)

/-- R156 to R162, R328 to R333 and R381: HOME_CYCLE appends what has arrived, with the next sequence number; grants the steal
request whose turn it is the youngest tasks above the threshold, and places the task at the head of the best queue on a free
context, with its registers and the near entry of its queue. Requests and grants arrive at their home and core; a core without a
task takes the first of its queue; an autonomous request that has not been granted is withdrawn. (That a home cycle takes in
whatever was sent to the home before it is the model's choice, log entry 70; that an event whose condition does not hold changes
nothing is log entry 1.) -/
def Obligations.TaskEvents : Prop := ∀ (s v : State) (h core k q : Nat) (t0 : Task) (m : StealMsg) (r : StealReq),
  let x := s.home h
  let busy := fun (c : Nat) => (s.near h c).task.isSome = true
  let u := x.queueAt q
  (∀ a : Arrival, x.arrivals = [a] → a.items = [(q, t0)] → a.src ≠ returnSrc → s.arrivalStale h a = false → u.ctx = some t0.ctx → x.steals = [] → busy 0 → busy 1 →
    ∃ t, exec (.homeCycle h) s = .next t ∧ ((t.home h).queueAt q).tasks = u.tasks ++ [{ t0 with seq := u.counter, pri := u.pri }] ∧
      ((t.home h).queueAt q).counter = u.counter + 1 ∧ (t.home h).arrivals = []) ∧
  (x.arrivals = [] → x.steals = [r] → busy 0 → busy 1 → u.excl = false → 0 < r.count →
    x.bestQueue x.qPtr (fun q => (x.queueAt q).ctx == some r.ctx && s.dispatches r.ctx && decide ((x.queueAt q).t < 255) &&
      decide ((x.queueAt q).t < (x.queueAt q).tasks.length)) = some q →
    let n := min (u.tasks.length - u.t) (min r.count 8)
    u.t < u.tasks.length → ∃ t, exec (.homeCycle h) s = .next t ∧ (t.home h).steals = [] ∧
      t.grants = s.grants ++ [{ core := r.core, tasks := (u.tasks.reverse.take n).map fun y => { y with entry := u.farPc }, home := h
                                inc := s.incOf (h / 64), cinc := s.sentInc r.core }] ∧
      ((t.home h).queueAt q).tasks = (u.tasks.reverse.drop n).reverse ∧ (t.home h).stealPtr = (r.core + 1) % 4096) ∧
  (x.arrivals = [] → x.steals = [] → (s.near h 0).task = none → busy 1 → s.nearLive h = true → t0.anchored = true →
    x.bestQueue x.nearPtr (fun q => match (x.queueAt q).ctx with
      | some c => s.dispatches c && (x.queueAt q).tasks.any (eligible (x.queueAt q).excl x.running)
      | none => false) = some q → u.tasks.find? (eligible u.excl x.running) = some t0 → s.anchorClean { t0 with entry := u.nearPc } = .ok () v → (v.near h 1).task.isSome = true →
    ∃ t, exec (.homeCycle h) s = .next t ∧ (t.near h 0).task = some { t0 with entry := u.nearPc } ∧ (t.near h 0).rowOpen = false ∧
      (let g := t.hart (.near h 0)
       g.active = true ∧ g.pc = u.nearPc ∧ g.reg 1 = t0.base ∧ g.reg 2 = BitVec.ofNat 64 t0.len ∧ g.reg 3 = t0.arg0 ∧ g.reg 4 = t0.arg1 ∧
       g.reg 5 = t0.seq.zeroExtend 64 ∧ g.reg 6 = 1) ∧ ((t.home h).queueAt q).tasks = u.tasks.erase t0) ∧
  (s.stealMsgs[k]? = some m → (∀ g ∈ s.grants, g.core = m.req.core → g.home ≠ m.home) →
    dieOf m.req.core = m.home / 64 ∨ (mget (fun _ => 1) (s.stack (m.home / 64)).incCopy (dieOf m.req.core)).toNat ≤ m.inc.toNat → ∃ t, exec (.stealRequestArrival k) s = .next t ∧ m.req ∈ (t.home m.home).steals ∧
    t.stealMsgs = dropAt s.stealMsgs k) ∧
  (∀ (g : Grant) (y : Context), s.grants[k]? = some g → g.tasks = [t0] → s.grantStale g = none → s.coreLive g.core = true → (s.far g.core).placed = true →
    s.ctx t0.ctx = some y → y.spill.any (Spill.taskFor (s.far g.core).vcore.toNat) = false → t0.ctx = s.coreCtx g.core → (s.far g.core).grantHold = [] → (s.far g.core).coreQ.length < 8 → t0.anchored = true →
    ∃ t, exec (.stealGrantDelivery k) s = .next t ∧ (t.far g.core).coreQ = (s.far g.core).coreQ ++ [t0] ∧ t.grants = dropAt s.grants k) ∧
  (let f := s.far core
   let a := Agent.far core
   ∀ l, f.placed = true → f.task = none → (s.hart a).active = false → (s.hart a).stopped = false → s.dispatches (s.coreCtx core) = true →
    f.coreQ = t0 :: l → f.autoHome = none → t0.anchored = false → f.grantHold = [] → f.held = [] →
    (∀ y, s.ctx (s.coreCtx core) = some y → y.held = [] ∧ y.spill = []) →
    ∃ t, exec (.farTaskTake core) s = .next t ∧ (t.far core).task = some t0 ∧ (t.far core).coreQ = l ∧ (t.hart a).active = true ∧
      (t.hart a).pc = t0.entry ∧ (t.hart a).reg 1 = 0 ∧ (t.hart a).reg 2 = 0 ∧ (t.hart a).reg 3 = t0.arg0 ∧ (t.hart a).reg 4 = t0.arg1 ∧
      (t.hart a).reg 5 = t0.seq.zeroExtend 64 ∧ (t.hart a).reg 6 = 2) ∧
  (∀ y, (s.far core).autoHome = some h → y ∈ x.steals → y.core = core → (s.far core).stealSet = 0 → ∃ t,
    exec (.autoStealWithdraw core) s = .next t ∧ (t.far core).autoHome = none ∧ ∀ z ∈ (t.home h).steals, z.core ≠ core)

/-- R51, R223, R237, R241, R242, R328, R337, R394 and R396: ARRAY_INSTRUCTION_START takes the oldest instruction of the queue once
its current is held, and ARRAY_INSTRUCTION_RETIRE writes what it does and gives the current back. An instruction of several array
cycles makes one of them at a time: FMOV and FROT move their columns in ascending order where the destination does not lie above the
source, else in descending order, FMOV the bits of one value in each of its two passes; XROW reads a column, which then lands in the
neighbour. A reservation is granted to the one contender whose units fit, at the arbiter of a cluster or of a stack. (Which cycles
the other instructions make, which value FMOV moves first and that a macro makes one step are the model's choice, log entry 61; that
an event whose condition does not hold changes nothing is log entry 1.) -/
def Obligations.ReservationEvents : Prop := ∀ (s : State) (c k i : Nat) (o : ArrOp) (q : List ArrOp),
  let f := s.far c
  let cl := c / 16
  let x := s.cluster cl
  let y := s.stack k
  (f.arun = none → f.aq = o :: q → f.aheld ≠ 0 → ∃ t, exec (.arrayInstructionStart c) s = .next t ∧
    FarIs c s t { f with aq := q, arun := some o, mid := f.arr.midway o.instr, acol := 0, xcol := [] }) ∧
  (f.aheld = 0 → exec (.arrayInstructionStart c) s = .next s) ∧
  (f.arun = some o → f.aq = [] → f.acol = 0 → arraySteps o.instr = 1 → (∀ m, f.mid = some m → f.arr.unsettled o.instr m = []) → ∃ t,
    exec (.arrayInstructionRetire c) s = .next t ∧
    t.far c = { f with arun := none, aheld := 0, mid := none, acol := 0, xcol := [], arr := (f.arr.effect o).arr
                       aflags := f.aflags ||| (f.arr.effect o).conds.code } ∧
    (t.cluster cl).heldUnits = x.heldUnits - f.aheld ∧
    ∀ d v, (f.arr.effect o).res = some (d, v) → RegSet (s.hart (.far c)) (t.hart (.far c)) d v) ∧
  (let n := arraySteps o.instr
   let cols := fun (a : Arr) (g : Nat → Nat → Nat → Bool) => ∀ r l j, r < 32768 → l < f.arr.lanesN → j < f.arr.laneW → a.col r l j = g r l j
   let goes := fun (p : State → Prop) => ∃ t, exec (.arrayInstructionRetire c) s = .next t ∧ p t ∧
     (f.acol + 1 < n → (t.far c).arun = some o ∧ (t.far c).acol = f.acol + 1 ∧ (t.far c).aheld = f.aheld) ∧
     (f.acol + 1 = n → (t.far c).arun = none ∧ (t.far c).aheld = 0)
   f.arun = some o → f.aq = [] → 1 < n → f.acol < n →
   ((∀ prev r cd cs n1, o.instr ≠ .xrow prev r cd cs n1) → goes fun t => (t.far c).arr = f.arr.pass o f.acol ∧ ∀ k, k ≠ c → t.far k = s.far k) ∧
   (∀ r d cs w1, let i := if d.toNat ≤ cs.toNat then f.acol / 2 else w1.toNat - f.acol / 2
     o.instr = .fmov r d cs w1 → d.toNat + w1.toNat < f.arr.laneW → cs.toNat + w1.toNat < f.arr.laneW → goes fun t =>
       cols (t.far c).arr fun a l j => let b := f.arr.col a l (cs.toNat + i)
         if f.arr.acts r a l ∧ j = d.toNat + i ∧ b = ((f.acol % 2 == 0) == Config.moveOnes) then b else f.arr.col a l j) ∧
   (∀ r e d cs w1, let i := if d.toNat ≤ cs.toNat then f.acol else w1.toNat - f.acol
     o.instr = .frot r e d cs w1 → d.toNat + w1.toNat < f.arr.laneW → cs.toNat + w1.toNat < f.arr.laneW → goes fun t =>
       cols (t.far c).arr fun a l j => if f.arr.acts r a l ∧ a + 2 ^ e.toNat ≤ 32767 ∧ j = d.toNat + i then
         f.arr.col (a + 2 ^ e.toNat) l (cs.toNat + i) else f.arr.col a l j) ∧
   (∀ prev r d cs w1, let i := if d.toNat ≤ cs.toNat then f.acol / 2 else w1.toNat - f.acol / 2
     let z := ringTo c prev
     let B := (s.far z).arr
     o.instr = .xrow prev r d cs w1 → d.toNat + w1.toNat < f.arr.laneW → cs.toNat + w1.toNat < f.arr.laneW →
     (f.acol % 2 = 0 → goes fun t => (∀ k, (t.far k).arr = (s.far k).arr) ∧ ∀ a l, a < 32768 → l < f.arr.lanesN →
       (mget (fun _ => 0) (t.far c).xcol a).getLsbD l = f.arr.col a l (cs.toNat + i)) ∧
     (f.acol % 2 = 1 → goes fun t => (∀ k, k ≠ z → (t.far k).arr = (s.far k).arr) ∧ { (t.far z).arr with rows := B.rows } = B ∧
       ∀ a l j, a < 32768 → l < f.arr.lanesN → j < f.arr.laneW → ((t.far z).arr.row a).getLsbD (l * f.arr.laneW + j) =
         if f.arr.acts r a l ∧ j = d.toNat + i then (mget (fun _ => 0) f.xcol a).getLsbD l else (B.row a).getLsbD (l * f.arr.laneW + j)))) ∧
  (f.arun = none → f.aq = o :: q → f.aheld = 0 → f.task = none → x.reqs = [] → arrayUnits f.arr.lanes o.instr + x.heldUnits ≤ x.budget.toNat →
    (∀ j, j < 32 → j ≠ 2 * (c % 16) → s.clusterWants cl j = none) → ∃ t, exec (.reservationGrant cl) s = .next t ∧
      (t.far c).aheld = arrayUnits f.arr.lanes o.instr ∧ (t.cluster cl).heldUnits = x.heldUnits + arrayUnits f.arr.lanes o.instr ∧
      (t.cluster cl).arbPtr = (2 * (c % 16) + 1) % 32) ∧
  (i < 64 → (s.home (k * 64 + i)).idxRun.isSome = true → (s.home (k * 64 + i)).idxHeld = false → 1 + y.heldUnits ≤ y.budget.toNat →
    (∀ j, j < 65 → j ≠ i → s.stackWants k j = none) → ∃ t, exec (.stackReservationGrant k) s = .next t ∧
      (t.home (k * 64 + i)).idxHeld = true ∧ (t.stack k).heldUnits = y.heldUnits + 1 ∧ (t.stack k).arbPtr = i + 1)

/-- R163 to R166, R309, R329 and R421: once the module is up, LAUNCH_TAKE takes the record whose turn it is of a partition of the
mode in force: the pointer of the partition moves past it; a record with a reserved field, or of another context than its index is
assigned to, fails in its arm word with that cause and task 0, and one task of an unanchored record is delivered, the arm word
becomes DONE and the record is let go. LAUNCH_RESUME appends the next task where its queue has room, and after the last the arm word
becomes DONE and the record is let go. (That cause 5 comes before cause 6, and that the notice goes to the context assigned to the
index, is the model's choice, log entry 26; that an event whose condition does not hold changes nothing is log entry 1.) -/
def Obligations.LaunchEvents : Prop := ∀ (s u v r q : State) (part i assigned : Nat) (ws : List Word) (l : Launch) (old z : Nat) (y : Context),
  let pa := s.launchPa part i
  let w0 := ws.getD 0 0
  let gone := fun (t : State) => mget (fun _ => none) t.hub.launches part = none
  (s.hub.partBusy = false → s.hub.stage = 3 → part < s.partCount → s.launchFree part = true →
    firstFrom 4096 (mget (fun _ => 0) s.hub.cpPtr part) (s.launchArmed part) = some i → s.recordWords pa = .ok ws u →
    l = { index := i, pa := pa, ctx := bits (ws.getD 7 0) 5 0, words := ws } → u.armSwap pa w0 l.taken = .ok w0.toNat v →
    let n := (i + 1) % 4096
    let x := fun (f : Option (Nat × Nat × Option Nat)) => (v.updHub fun h => { h with cpPtr := mput h.cpPtr part n }).setLaunch part { l with failed := f }
    let fails := fun (cause : Nat) =>
      (x (some (cause, 0, some assigned))).armSwap l.pa l.taken (BitVec.ofNat 64 (cause * 2 ^ 24 + 4)) = .ok z r →
      ∃ t, exec (.launchTake part i assigned) s = .next t ∧ mget (fun _ => 0) t.hub.cpPtr part = n ∧ gone t ∧
        ∀ y, memByte t.mem y = memByte r.mem y
    let t0 := l.task 0 (max 1 y.nv) y.rr
    (l.reserved = true → fails 5) ∧ (l.reserved = false → l.ctx ≠ assigned → fails 6) ∧
    (l.reserved = false → l.ctx = assigned → v.ctx l.ctx = some y → y.st ≠ .exited → l.len = 0 → l.count = 1 →
      (x none).taskDeliver none t0.vcore t0 = .done q → q.armSwap l.pa l.taken 3 = .ok z r →
      ∃ t, exec (.launchTake part i assigned) s = .next t ∧ mget (fun _ => 0) t.hub.cpPtr part = n ∧ gone t ∧
        ∀ y, memByte t.mem y = memByte r.mem y)) ∧
  (mget (fun _ => none) s.hub.launches part = some l → l.failed = none → l.len ≠ 0 → l.count = l.next + 1 → l.count ≤ l.bases.length →
    let t0 := l.task l.next (max 1 ((s.ctx l.ctx).getD {}).nv) ((s.ctx l.ctx).getD {}).rr
    ((s.home t0.home).queueAt t0.queue).ctx = some t0.ctx → s.queueRoom t0.home t0.queue 0 = true →
    let x := s.updHome t0.home fun h => { h with arrivals := h.arrivals ++ [{ src := 8192 + part % 4, items := [(t0.queue, t0)] }] }
    x.armSwap l.pa l.taken 3 = .ok old r → ∃ t, exec (.launchResume part) s = .next t ∧ gone t ∧
      (t.home t0.home).arrivals = (r.home t0.home).arrivals ∧ ∀ y, memByte t.mem y = memByte r.mem y) ∧
  (mget (fun _ => none) s.hub.launches part = none → exec (.launchResume part) s = .next s)

/-- R39, R142 to R144: a command of ops 1 to 7 of one element leaves the fabric and its element takes the new value at its bank, the
operation of its row, where the floating adds are not kept in order; there, with EN set, a floating add enters the sort buffer of
its bank instead and no byte changes. STACK_DETRED sets BUSY, and the change of EN takes effect at its completion. -/
def Obligations.BankEvents : Prop := ∀ (s : State) (k stk : Nat) (c : BankCmd) (en : Bool),
  let ln := c.pa / 64
  let st := s.stack (stackOf c.pa)
  let o := memRead s.mem c.pa c.n
  let v := (getBytes c.data 0 c.n).toNat
  let applied := fun (op n : Nat) (i : Instr) (new : Nat) => c.op = op → c.n = n → ((op = 3 ∨ op = 4) → st.busy = false ∧ st.en = false) →
    ∃ t, exec i s = .next t ∧ t.fabric = dropAt s.fabric k ∧
      ∀ x, memByte t.mem x = if c.pa ≤ x ∧ x < c.pa + n then BitVec.ofNat 8 (new / 256 ^ (x - c.pa)) else memByte s.mem x
  let f32 := fun (a b : Nat) => (roundF (xadd .rne (decodeElem .fp32 a) (decodeElem .fp32 b)).1 .rne .fp32 false).1
  let bf := fun (a b : Nat) => (roundF (xadd .rne (decodeElem .bf16 a) (decodeElem .bf16 b)).1 .rne .bf16 false).1
  let pick := fun (mx : Bool) (a b : Nat) => (roundF (xpick mx (decodeElem .fp32 a) (decodeElem .fp32 b)) .rne .fp32 false).1
  (s.fabric[k]? = some c → c.pa % c.n = 0 → s.homeLost (homeOf c.pa) = false → mhas (s.stack (lineStack ln)).msc ln = false →
    s.heldOn c.pa c.n = false →
    applied 1 4 (.bankAddI32 k) ((o + v) % 2 ^ 32) ∧ applied 2 8 (.bankAddI64 k) ((o + v) % 2 ^ 64) ∧ applied 3 4 (.bankAddF32 k) (f32 o v) ∧
    applied 4 4 (.bankAddBf16x2 k) (bf (o % 2 ^ 16) (v % 2 ^ 16) + 2 ^ 16 * bf (o / 2 ^ 16 % 2 ^ 16) (v / 2 ^ 16 % 2 ^ 16)) ∧
    applied 5 4 (.bankMaxF32 k) (pick true o v) ∧ applied 6 4 (.bankMinF32 k) (pick false o v) ∧ applied 7 8 (.bankOr64 k) (o ||| v) ∧
    (c.op = 3 → c.n = 4 → st.busy = false → st.en = true → (mget (fun _ => []) st.sort (bankKey c.pa)).length < 64 →
      ∃ t, exec (.bankAddF32 k) s = .next t ∧ t.fabric = dropAt s.fabric k ∧ (∀ x, memByte t.mem x = memByte s.mem x) ∧
        mget (fun _ => []) (t.stack (stackOf c.pa)).sort (bankKey c.pa) = mget (fun _ => []) st.sort (bankKey c.pa) ++
          [{ src := c.src, seq := c.seq, pa := c.pa, op := 3, v := BitVec.ofNat 32 v }])) ∧
  ((s.stack stk).sort = [] → (s.stack stk).busy = false → s.hub.fail = 0 → ∃ t, exec (.stackDetredWrite stk en) s = .next t ∧ (t.stack stk).busy = true ∧
    (t.stack stk).newEn = en ∧ (t.stack stk).en = (s.stack stk).en ∧ ∀ x, memByte t.mem x = memByte s.mem x) ∧
  ((s.stack stk).busy = true → (s.stack stk).sort = [] → s.fabric.any (s.earlyFloat stk) = false → ∃ t, exec (.detredChangeComplete stk) s = .next t ∧ (t.stack stk).busy = false ∧
    (t.stack stk).en = (s.stack stk).newEn ∧
    (t.stack stk).splits = if (s.stack stk).newEn = true ∧ (s.stack stk).en = false then 0 else (s.stack stk).splits)

/-- R41 to R45 and R146 to R149: ALLBANK_FILL enters its stack's queue and starts; FILL_WAVE writes the pattern over the rows of its
wave, and the last wave completes the command. IDXSUM that passes its checks enters its home's queue; IDXSUM_EXECUTE cleans its
lines and then adds the table rows, as they stood before the command, to the destination, one element at a time, or in a turn that
does not overlap all of them (log entry 2); IDXSUM_COMPLETE ends it. A counter write stores its eight bytes, and a counter packet
binds the counter to its source's command. -/
def Obligations.StackCommands : Prop := ∀ (s : State) (k stk h p : Nat) (c : BankCmd) (f : FillCmd) (d : IdxCmd),
  let x := s.stack stk
  let y := s.home h
  (s.fabric[k]? = some c → c.op = 8 → stackOf c.pa = stk → stackOf (c.page % 2 ^ 40) = stk → x.waveQ = [] → x.msc = [] → x.sort = [] →
    ∃ t, exec (.allbankFill k) s = .next t ∧ t.fabric = dropAt s.fabric k ∧ (t.stack stk).waveQ =
      [{ id := c.id, src := c.src, page := c.page % 2 ^ 40, size := c.size, pattern := c.data, started := true }]) ∧
  (x.waveGrant = some p → x.waveQ = [f] → stackOf f.page = stk → f.page % 1024 = 0 → (∀ j, (s.stack j).msc = [] ∧ (s.stack j).sort = []) → (∀ j, s.homeLost j = false) →
    let rows := waveRows f [] p f.next (f.size / 1024 - f.next)
    let g := f.after rows
    f.size / 1024 ≤ g.next → (mget (fun _ => ({} : CmdInfo)) s.cmds f.id).counter = none →
    ∃ t, exec (.fillWave stk) s = .next t ∧ (t.stack stk).waveQ = [] ∧ (t.stack stk).waveGrant = none ∧
      (mget (fun _ => ({} : CmdInfo)) t.cmds f.id).done = true ∧
      ∀ a, memByte t.mem a = if f.page ≤ a ∧ (a - f.page) / 1024 ∈ rows then byteOf f.pattern (a % 64) else memByte s.mem a) ∧
  (s.fabric[k]? = some c → c.op = 9 → homeOf c.pa = h → y.idxQ.length < 16 → s.homeLost h = false →
    idxFlaw (c.pa / 4096 * 4096) (c.page % 2 ^ 40) c.size c.data = 0 → ∃ t e, exec (.idxsum k) s = .next t ∧ t.fabric = dropAt s.fabric k ∧
      (t.home h).idxQ = y.idxQ ++ [e] ∧ e.id = c.id ∧ e.granule = c.pa / 4096 * 4096 ∧ e.packet = c.data ∧ e.flaw = 0) ∧
  (y.idxRun = some d → y.idxHeld = true → d.flaw = 0 → (∀ j, (s.stack j).msc = [] ∧ (s.stack j).sort = []) → s.bad = [] →
    (∀ j, s.homeLost j = false) →
    let rlen := packetByte d.packet 2 2
    let dst := d.granule + packetByte d.packet 4 2
    let rows := (List.range (packetByte d.packet 6 1)).map fun j => (idxRow d.granule d.packet j).toNat
    let was := fun (m : List Host.Cell) (e : Nat) => memRead m (dst + 4 * e) 4
    let before := fun (x : Nat) => match d.old.find? fun p => p.1 == x with | some p => p.2 | none => memRead s.mem x 4
    (s.overlap = true → d.cleaned = false → ∃ t, exec (.idxsumExecute h) s = .next t ∧ (t.home h).idxRun = some { d with cleaned := true } ∧
      t.mem = s.mem) ∧
    (s.overlap = true → d.cleaned = true → packetByte d.packet 7 1 ≠ 0 → ∃ t, exec (.idxsumExecute h) s = .next t ∧
      (t.home h).idxRun = some { d with done := d.done + 1, old := (dst + 4 * d.done, was s.mem d.done) :: d.old
                                        flaw := if rlen ≤ d.done + 1 then 7 else 0 } ∧
      was t.mem d.done = (was s.mem d.done + (rows.map fun r => before (r + 4 * d.done)).sum) % 2 ^ 32 ∧
      ∀ a, a < dst + 4 * d.done ∨ dst + 4 * d.done + 4 ≤ a → memByte t.mem a = memByte s.mem a) ∧
    (s.overlap = false → d.cleaned = false → d.done = 0 → d.old = [] → packetByte d.packet 7 1 ≠ 0 → 0 < rlen → d.granule % 4 = 0 → dst % 4 = 0 →
      ∃ t z, exec (.idxsumExecute h) s = .next t ∧ (t.home h).idxRun = some z ∧ z.flaw = 7 ∧ z.id = d.id ∧
      (∀ e, e < rlen → was t.mem e = (was s.mem e + (rows.map fun r => memRead s.mem (r + 4 * e) 4).sum) % 2 ^ 32) ∧
      ∀ a, a < dst ∨ dst + 4 * rlen ≤ a → memByte t.mem a = memByte s.mem a)) ∧
  (y.idxRun = some d → d.flaw = 7 → (mget (fun _ => ({} : CmdInfo)) s.cmds d.id).counter = none → ∃ t, exec (.idxsumComplete h) s = .next t ∧
    (t.home h).idxRun = none ∧ (t.home h).idxHeld = false ∧ (t.stack (h / 64)).heldUnits = (s.stack (h / 64)).heldUnits - 1 ∧
    (mget (fun _ => ({} : CmdInfo)) t.cmds d.id).done = true) ∧
  (s.fabric[k]? = some c → c.op = 10 → c.n = 8 → c.pa % 8 = 0 → s.homeServes c.pa → ∃ t, exec (.counterWrite k) s = .next t ∧
    t.fabric = dropAt s.fabric k ∧
    ∀ a, t.homeByte a = if c.pa ≤ a ∧ a < c.pa + 8 then byteOf c.data (a - c.pa) else s.homeByte a) ∧
  (∀ id, s.fabric[k]? = some c → c.op = 10 → c.n = 64 →
    (mget hartDefault s.harts c.src).slots.find? (fun p => p.1 == stackOf c.pa) = some (stackOf c.pa, id) →
    (mget (fun _ => ({} : CmdInfo)) s.cmds id).counter = none → (mget (fun _ => ({} : CmdInfo)) s.cmds id).done = false →
    ∃ t, exec (.counterPacket k) s = .next t ∧ t.fabric = dropAt s.fabric k ∧
      (mget (fun _ => ({} : CmdInfo)) t.cmds id).counter = some c.pa ∧ ∀ a, memByte t.mem a = memByte s.mem a)

/-! ### Events of the host, the links, power, the map, contexts and start-up -/

/-- R64, R65, R268, R408 and R410: HOST_MEM_READ answers the bytes that the home of a line sees and HOST_MEM_WRITE writes them
there, where no island holds the line; neither reaches an address that is no device memory. A snoop of a line that no island holds
misses; one that an island holds answers its dirty sectors, and the copy goes or loses its ownership. The answer to a
back-invalidation ends it, with the host's data where it had changed them, and asked for a write-back alone the host may keep a
shared copy; the answers to the device's own requests fill the sectors asked for, perform a write, or reach the load. HOST_NOTICE
clears the bits written 1 and is a request to every hub core; a measurement is answered once function 0 is active. (That an access
to no device memory stops as noSuchAddress, and that HOST is set by a read of a whole line alone, is the model's choice, log entry
31; so are the request for a write-back alone, log entry 41, Config.sign, log entry 32, and that an event whose condition does not
hold changes nothing, log entry 1.) -/
def Obligations.HostEvents : Prop := ∀ (s : State) (pa n k fn ln : Nat) (data : List Byte) (kind : SnoopKind) (d : BitVec 512) (v : Word)
    (r : HostAcc),
  let die := s.island (stackOf pa)
  let up := s.hub.stage = 3 ∧ s.dstate (stackOf pa) = 0 ∧ die.linkLow = false ∧ die.linkWaking = false ∧ die.heldReqs = []
  let free := s.islandHolds (stackOf pa) (pa / 64) = false ∧ s.homeLost (homeOf pa) = false ∧ s.heldOn (64 * (pa / 64)) 64 = false ∧
    s.mscVictim (pa / 64) = none ∧ s.bad = []
  let idle := ∀ e, e < 16 → (s.island e).heldReqs = []
  (isDevice pa = false → exec (.hostMemRead pa n) s = .fault .noSuchAddress ∧ exec (.hostMemWrite pa data) s = .fault .noSuchAddress) ∧
  (isDevice pa = true → up → free → (n = 64 → s.hub.dir.length < 16) → 0 < n → pa % 64 + n ≤ 64 → ∃ t, exec (.hostMemRead pa n) s = .next t ∧
    t.toHost = s.toHost ++ [.readData pa n (s.homeRead pa n)] ∧ (∀ x, t.homeByte x = s.homeByte x) ∧
    (t.mscAt (pa / 64)).host = ((s.mscAt (pa / 64)).host || n == 64)) ∧
  (isDevice pa = true → up → free → 0 < data.length → pa % 64 + data.length ≤ 64 → ∃ t, exec (.hostMemWrite pa data) s = .next t ∧
    t.toHost = s.toHost ++ [.writeDone pa] ∧
    ∀ x, t.homeByte x = if pa ≤ x ∧ x < pa + data.length then data.getD (x - pa) 0 else s.homeByte x) ∧
  (lineHost ln = true → (∀ d, d < 16 → s.islandHolds d ln = false) → ∃ t, exec (.hostSnoop ln kind) s = .next t ∧
    t.toHost = s.toHost ++ [.snoopResp ln none] ∧ { t with toHost := s.toHost } = s) ∧
  (lineHost ln = true → k < 16 → s.l1Holders k ln = [] → mhas (s.island k).l2 ln = true → (∀ e, e < 16 → e ≠ k → s.islandHolds e ln = false) →
    s.hub.stage = 3 → s.dstate k = 0 → s.linkBusy k = false → (s.island k).heldReqs = [] → s.bad = [] →
    let u := s.l2At k ln
    ∃ t, exec (.hostSnoop ln kind) s = .next t ∧
      t.toHost = s.toHost ++ [.snoopResp ln (if u.dirty = 0 then none else some (u.data, u.dirty))] ∧
      (kind = .invalidate → mhas (t.island k).l2 ln = false) ∧
      (kind = .share → t.l2At k ln = { u with dirty := 0, owned := false })) ∧
  (idle → HostMsg.backInvalidate ln ∈ s.toHost →
    (∃ t, exec (.hostBiResponse ln ⟨false, none⟩) s = .next t ∧ HostMsg.backInvalidate ln ∉ t.toHost ∧
      t.mscAt ln = { s.mscAt ln with host := false, shared := false }) ∧
    (s.islandHolds (lineStack ln) ln = false → s.homeLost (homeOf (64 * ln)) = false →
      ∃ t, exec (.hostBiResponse ln ⟨false, some d⟩) s = .next t ∧ HostMsg.backInvalidate ln ∉ t.toHost ∧
      t.mscAt ln = { s.mscAt ln with data := d, valid := 3, dirty := 3, host := false, shared := false })) ∧
  (idle → HostMsg.backRead ln ∈ s.toHost →
    (∃ t, exec (.hostBiResponse ln ⟨true, none⟩) s = .next t ∧ HostMsg.backRead ln ∉ t.toHost ∧
      t.mscAt ln = { s.mscAt ln with host := true, shared := true }) ∧
    (s.islandHolds (lineStack ln) ln = false → s.homeLost (homeOf (64 * ln)) = false →
      ∃ t, exec (.hostBiResponse ln ⟨true, some d⟩) s = .next t ∧ HostMsg.backRead ln ∉ t.toHost ∧
      t.mscAt ln = { s.mscAt ln with data := d, valid := 3, dirty := 3, host := true, shared := true })) ∧
  (s.hostReqs[k]? = some r →
    let e := r.src / 256
    let w := r.pa / 64
    let u := s.l2At e w
    let miss := r.need &&& ~~~u.valid
    (r.write = none → r.cached = true → (s.hostReqs.take k).any (fun q => q.cached && q.pa == r.pa) = false →
      (∀ x, x < 16 → x ≠ e → s.islandHolds x w = false) → s.lineWriting w = false → mhas (s.island e).l2 w = true → s.hub.dir.length < 16 → idle →
      ∃ t, exec (.hostCacheResponse k d) s = .next t ∧ t.hostReqs = dropAt s.hostReqs k ∧ (t.l2At e w).valid = u.valid ||| r.need ∧
      (t.l2At e w).owned = (u.owned || r.own) ∧ w ∈ t.hub.dir ∧
      ∀ i, i < 64 → byteOf (t.l2At e w).data i = if miss.getLsbD (i / 32) then byteOf d i else byteOf u.data i) ∧
    (r.write.isSome = true → idle → exec (.hostCacheResponse k d) s = .next { s with hostReqs := dropAt s.hostReqs k }) ∧
    (∀ q, r.write = none → r.cached = false → r.src < 4096 → (s.hart (.far r.src)).hostLds = [q] → q.acc.pa = r.pa → q.n = r.n → q.ans = none →
      ∃ t, exec (.hostCacheResponse k d) s = .next t ∧ t.hostReqs = dropAt s.hostReqs k ∧
      (t.hart (.far r.src)).hostLds = [{ q with ans := some d }])) ∧
  (s.hub.fail = 0 → s.hub.linkUp = true → fn < s.partCount → ∃ t, exec (.hostNoticeWrite fn v) s = .next t ∧
    mget (fun _ => 0) t.hub.notice fn = mget (fun _ => 0) s.hub.notice fn &&& ~~~(v &&& 31) ∧
    ∀ c, c < 7 → (t.hubCore c).hirq.getLsbD 2 = true) ∧
  (s.hub.fail ≠ 0 ∨ s.hub.linkUp = false ∨ s.partCount ≤ fn → exec (.hostNoticeWrite fn v) s = .next s) ∧
  (s.hub.fail ≠ 0 ∨ s.hub.linkUp = true → ∃ t, exec (.spdmRequest 1) s = .next t ∧ t.toHost = s.toHost ++ [.spdm 1 s.hub.fwDigest (Config.sign s.hub.fwDigest)] ∧
    { t with toHost := s.toHost } = s) ∧
  (s.hub.linkUp = false → s.hub.fail = 0 → exec (.spdmRequest n) s = .next s)

/-- R126, R129, R130 and R382: a link that is low or waking comes up again, a third failed retraining isolates its die, and a
missing heartbeat resets it: its state of R374 changes with a new version, and a reset die keeps no cache line, no core state and no
vcore; DIE_REJOIN brings it back live with the next incarnation. (That the array and the registers of a reset die stand at their
reset values is the model's choice, log entry 28, and so are those values where the manual gives none, log entry 7.) -/
def Obligations.LinkAndDieEvents : Prop := ∀ (s : State) (d c : Nat) (ways cl : BitVec 16) (cores : BitVec 256),
  let x := s.island d
  let next := if s.mapVersion + 1 = 0 then 1 else s.mapVersion + 1
  d < 16 →
  (x.linkLow = true → s.dstate d = 0 → x.heldReqs = [] → ∃ t, exec (.linkWake d) s = .next t ∧ (t.island d).linkLow = false ∧
    (t.island d).linkWaking = false) ∧
  (s.dstate d = 0 → x.linkWaking = false → ∃ t, exec (.linkLowPowerEntry d) s = .next t ∧ (t.island d).linkLow = true) ∧
  (x.linkWaking = true → s.dstate d = 0 → x.heldReqs = [] →
    (∃ t, exec (.linkRetrain d true) s = .next t ∧ (t.island d).linkWaking = false ∧ (t.island d).linkLow = false ∧ t.dstate d = 0) ∧
    (x.attempts < 2 → ∃ t, exec (.linkRetrain d false) s = .next t ∧ (t.island d).attempts = x.attempts + 1 ∧ t.dstate d = 0) ∧
    (2 ≤ x.attempts → ∃ t, exec (.linkRetrain d false) s = .next t ∧ t.dstate d = 1 ∧ t.mapVersion = next)) ∧
  (s.dstate d = 0 → ∃ t, exec (.heartbeatMissing d) s = .next t ∧ t.dstate d = 2 ∧ t.mapVersion = next ∧ (t.island d).l2 = [] ∧
    (c < 4096 → dieOf c = d → (t.far c).placed = false ∧ (t.far c).task = none ∧ (t.far c).arr = {} ∧ (t.far c).sb = [] ∧ (t.far c).l1d = [] ∧
      (t.far c).l1i = [] ∧ (t.far c).coreQ = [] ∧ (t.hart (.far c)).active = false ∧ ∀ r, (t.hart (.far c)).reg r = 0)) ∧
  (s.dstate d = 2 → s.incOf d ≠ 0xFFFF → ∃ t, exec (.dieRejoin d ways cl cores) s = .next t ∧ t.dstate d = 0 ∧
    t.incOf d = s.incOf d + 1 ∧ t.mapVersion = next ∧ (c / 256 = d → t.coreLive c = (cl.getLsbD (c % 256 / 16) && cores.getLsbD (c % 256)))) ∧
  (s.dstate d = 2 → s.incOf d = 0xFFFF → ∃ t, exec (.dieRejoin d ways cl cores) s = .next t ∧ t.dstate d = 3)

/-- R338, R339, R389 to R400: CL_CLOCK and DIE_VDD refuse a request by the first check that fails, and take one that passes them
all: the new values, BUSY and STATUS 0, the values before kept until the change has settled, or STATUS 0 alone where nothing
changes; budgets and refills take the values written within their limits; a stall sample, a forecast and a thermal sample write
their registers, and a trip clears 5 degrees below its limit. R415: after a boot that failed no register is written. (That an event
whose condition does not hold changes nothing is the model's choice: log entry 1.) -/
def Obligations.PowerEvents : Prop := ∀ (s : State) (c d i : Nat) (v : Word) (a b e : BitVec 20) (temps : List (BitVec 16)),
  let x := s.cluster c
  let y := s.island d
  let f := bits v 10 0
  let bb : BitVec 5 := v.extractLsb' 16 5
  let w9 := s.dieWord (c / 16) 9
  let ranged := 650 ≤ f ∧ f ≤ 1500 ∧ f % 25 = 0 ∧ -12 ≤ bb.toInt ∧ bb.toInt ≤ 8
  let z : Cluster := { x with freq := BitVec.ofNat 11 f, bias := bb, busy := true, status := 0, oldFreq := x.freq, oldBias := x.bias }
  let fast := 1300 < f ∧ (bb.toInt < 4 ∨ ∃ k, k < 4 ∧ ((s.island (c / 16)).sensorAt k).alert = true)
  let floors := (s.setCluster c z).floorsHold (c / 16) (s.island (c / 16)).settledVdd
  let n := bits v 9 0
  let allowed := f ≤ bits w9 10 0 ∧ bb.toInt ≤ (bits w9 19 16 : Int) ∧ -bb.toInt ≤ (bits w9 23 20 : Int)
  (c < 256 → s.hub.fail = 0 →
    (f < 650 ∨ 1500 < f ∨ f % 25 ≠ 0 → ∃ t, exec (.clClockWrite c v) s = .next t ∧ t.cluster c = { x with status := 1 }) ∧
    (ranged → ¬ allowed → ∃ t, exec (.clClockWrite c v) s = .next t ∧ t.cluster c = { x with status := 2 }) ∧
    (ranged → allowed → x.busy = true → ∃ t, exec (.clClockWrite c v) s = .next t ∧ t.cluster c = { x with status := 3 }) ∧
    (ranged → allowed → x.busy = false → fast → ∃ t, exec (.clClockWrite c v) s = .next t ∧ t.cluster c = { x with status := 4 }) ∧
    (ranged → allowed → x.busy = false → ¬ fast →
      (floors = false → ∃ t, exec (.clClockWrite c v) s = .next t ∧ t.cluster c = { x with status := 5 }) ∧
      (floors = true → f ≠ x.freq.toNat ∨ bb ≠ x.bias → ∃ t, exec (.clClockWrite c v) s = .next t ∧ t.cluster c = z ∧
        ∀ k, k ≠ c → t.cluster k = s.cluster k) ∧
      (floors = true → f = x.freq.toNat → bb = x.bias → ∃ t, exec (.clClockWrite c v) s = .next t ∧ t.cluster c = { x with status := 0 })) ∧
    (∃ t, exec (.clCurrentWrite c v) s = .next t ∧ (t.cluster c).budget.toNat = max 1 (v.toNat % 1024) ∧ ∀ k, k ≠ c → t.cluster k = s.cluster k) ∧
    (∃ t, exec (.clPermitWrite c v) s = .next t ∧ (t.cluster c).pMacro.toNat = min (v.toNat % 128) 64 ∧
      (t.cluster c).pMem.toNat = min (v.toNat / 2 ^ 24 % 128) 64 ∧ ∀ k, k ≠ c → t.cluster k = s.cluster k) ∧
    (bits v 47 42 = 0 → bits v 39 7 = 0 → bits v 41 40 = 1 → ∃ t, exec (.permitBcastWrite v) s = .next t ∧ (t.cluster c).pPass =
      (if (v.toNat / 2 ^ 48).testBit (c / 16) then BitVec.ofNat 7 (min (v.toNat % 128) 64) else x.pPass) ∧ (t.cluster c).pMem = x.pMem)) ∧
  (∃ t, exec (.clockChangeComplete c) s = .next t ∧ t.cluster c = { x with busy := false, oldFreq := x.freq, oldBias := x.bias }) ∧
  (d < 16 → s.hub.fail = 0 →
    (n < 620 ∨ 900 < n ∨ n % 10 ≠ 0 → ∃ t, exec (.dieVddWrite d v) s = .next t ∧ t.island d = { y with vddStatus := 1 }) ∧
    (620 ≤ n → n ≤ 900 → n % 10 = 0 →
      (y.vddBusy = true → ∃ t, exec (.dieVddWrite d v) s = .next t ∧ t.island d = { y with vddStatus := 3 }) ∧
      (y.vddBusy = false → s.floorsHold d (min n y.vdd.toNat) = false → ∃ t, exec (.dieVddWrite d v) s = .next t ∧
        t.island d = { y with vddStatus := 5 }) ∧
      (y.vddBusy = false → s.floorsHold d (min n y.vdd.toNat) = true →
        (n ≠ y.vdd.toNat → ∃ t, exec (.dieVddWrite d v) s = .next t ∧
          t.island d = { y with vdd := BitVec.ofNat 10 n, vddBusy := true, vddStatus := 0, oldVdd := y.vdd }) ∧
        (n = y.vdd.toNat → ∃ t, exec (.dieVddWrite d v) s = .next t ∧ t.island d = { y with vddStatus := 0 })))) ∧
  (∃ t, exec (.vddRampComplete d) s = .next t ∧ t.island d = { y with vddBusy := false, oldVdd := y.vdd }) ∧
  (∃ t, exec (.stallSample c a b e) s = .next t ∧ bits (t.cluster c).stall 63 60 = (bits x.stall 63 60 + 1) % 16 ∧
    bits (t.cluster c).stall 59 40 = a.toNat ∧ bits (t.cluster c).stall 39 20 = b.toNat ∧ bits (t.cluster c).stall 19 0 = e.toNat) ∧
  (d < 16 → ∃ t, exec .forecastUpdate s = .next t ∧ bits (t.stack d).forecast 15 0 =
    min 0xFFFF (((List.range 64).map fun p => (((s.home (64 * d + p)).queues.map fun q => q.2.tasks.length).sum)).sum)) ∧
  (temps.length = 80 → i < 80 → ∃ t, exec (.thermalSample temps) s = .next t ∧
    (let o := s.sensor i
     let m := temps.getD i 0
     (t.sensor i).temp = m ∧ (t.sensor i).seq = o.seq + 1 ∧ ((t.sensor i).alert = true ↔ 16 * (s.hub.alertC.toNat : Int) ≤ m.toInt) ∧
     (t.sensor i).trip = if 16 * (s.hub.tripC.toNat : Int) ≤ m.toInt then true
       else if m.toInt < 16 * ((s.hub.tripC.toNat : Int) - 5) then false else o.trip) ∧
    t.hub.therm.getLsbD 32 = true ∧ ∀ k, k < 7 → (t.hubCore k).hirq.getLsbD 0 = true) ∧
  (v.getLsbD 32 = true → s.hub.fail = 0 → ∃ t, exec (.thermStatWrite v) s = .next t ∧ t.hub.therm.getLsbD 32 = false ∧ t.hub.therm.toNat % 2 ^ 32 = s.hub.therm.toNat % 2 ^ 32) ∧
  (v.getLsbD 32 = false → exec (.thermStatWrite v) s = .next s) ∧
  (s.hub.fail ≠ 0 → exec (.clClockWrite c v) s = .next s ∧ exec (.clCurrentWrite c v) s = .next s ∧ exec (.clPermitWrite c v) s = .next s ∧
    exec (.permitBcastWrite v) s = .next s ∧ exec (.dieVddWrite d v) s = .next s ∧ exec (.thermStatWrite v) s = .next s)

/-- R375 to R380, R386 to R388 and R354: a commit that changes a word sets it and raises the version, which skips 0; an
acknowledgement of the version ends the pending change of its context and lifts its hold, and a deadline that passes first suspends
it for reason 3; a partition mode is requested, and applied once every context is quiet; a supervisor brings a stopped core back, or
moves its vcore to a free one, with the state it can read or anew, and so the vcore of a die that was reset. (That an event whose
condition does not hold changes nothing is the model's choice: log entry 1.) -/
def Obligations.MapEvents : Prop := ∀ (s u : State) (d c core target : Nat) (v : Word) (x : Context) (readable : Bool) (sv : Saved) (w : Fallen),
  let next := fun (u : BitVec 32) => if u + 1 = 0 then 1 else u + 1
  (d < 16 → v ≠ s.mapWord (16 + 16 * d + 6) → ∃ t, exec (.mapCommit [(16 + 16 * d + 6, v)]) s = .next t ∧ t.mapWord (16 + 16 * d + 6) = v ∧ t.mapVersion = next s.mapVersion) ∧
  (s.ctx c = some x → s.hub.fail = 0 → v.extractLsb' 0 32 = s.mapVersion → ∃ t y, exec (.ctxMapackWrite c v) s = .next t ∧ t.ctx c = some y ∧
    y.ack = s.mapVersion ∧ y.pend = false ∧ y.hold = false ∧ ∀ p ∈ x.placed, (t.hart (.far p.2)).evMap = none) ∧
  (v.extractLsb' 0 32 ≠ s.mapVersion → exec (.ctxMapackWrite c v) s = .next s) ∧
  (s.ctx c = some x → x.pend = true → x.deadline ≤ s.time → x.st = .running → x.susp = none → ∃ t y u, exec (.mapGraceExpire c) s = .next t ∧
    t.ctx c = some y ∧ y.susp = some u ∧ u.reason = 3 ∧ y.suspReason = 3 ∧ y.hold = true ∧
    u.deadline = s.time + (mget (fun _ => 1000000) s.hub.suspLimit x.part).toNat ∧
    ∀ p ∈ x.placed, (t.hart (.far p.2)).sreq = true ∧ (t.hart (.far p.2)).evSusp.isSome = true) ∧
  (s.ctx c = some x → x.pend = false ∨ s.time < x.deadline → exec (.mapGraceExpire c) s = .next s) ∧
  (s.hub.fail = 0 → s.hub.partBusy = false → bits v 6 4 ≤ 4 → bits v 6 4 ≠ s.mapMode → ∃ t, exec (.partModeWrite v) s = .next t ∧ t.hub.partBusy = true ∧
    t.hub.partReq.toNat = bits v 6 4 ∧ t.mapMode = s.mapMode) ∧
  (s.hub.partBusy = true ∨ 4 < bits v 6 4 → exec (.partModeWrite v) s = .next s) ∧
  (s.hub.partBusy = true → s.hub.partReq.toNat ≤ 4 → s.allQuiet = true → d < 16 → ∃ t, exec .partModeApply s = .next t ∧
    t.hub.partBusy = false ∧ t.mapMode = s.hub.partReq.toNat ∧ t.partOfDie d = d * 2 ^ s.hub.partReq.toNat / 16 ∧
    t.mapVersion = next s.mapVersion) ∧
  ((s.hart (.far core)).stopped = true → (s.far core).placed = false → ∃ t, exec (.supervisorRepair core readable) s = .next t ∧
    (t.hart (.far core)).stopped = false ∧ t.mapVersion = next (next s.mapVersion)) ∧
  (
    (s.spareFor (s.coreCtx core) core target = true → (s.hart (.far core)).stopped = true → (s.far core).placed = true → s.coreEnds core = false →
      (∃ t, exec (.supervisorReplace core target false) s = .next t ∧ (t.far target).placed = true ∧
        (t.far target).vcore = (s.far core).vcore ∧ t.coreCtx target = s.coreCtx core) ∧
      (s.readVcore core true = (u, some sv) → (u.far core).placed = true → ∃ t, exec (.supervisorReplace core target true) s = .next t ∧
        (t.far target).placed = true ∧ (t.far target).vcore = (u.far core).vcore ∧ t.coreCtx target = u.coreCtx core ∧
        (t.far target).arr = sv.far.arr ∧ ∀ g, (t.hart (.far target)).reg g = sv.hart.reg g)) ∧
    (s.spareFor w.ctx core target = true → (s.far core).placed = false → s.hub.fallen = [w] → w.core = core → w.ctx < 64 → w.vcore < 4096 → s.ctx w.ctx = some x → x.st = .running →
      s.placedOn w.ctx w.vcore = none → ∃ t, exec (.supervisorReplace core target readable) s = .next t ∧ t.hub.fallen = [] ∧
        (t.far target).placed = true ∧ (t.far target).vcore.toNat = w.vcore ∧ t.coreCtx target = w.ctx)) ∧
  ((s.hart (.far core)).stopped = false → exec (.supervisorRepair core readable) s = .next s)

/-- R361 to R365 and R412 to R414: at the deadline of a suspension its near tasks are aborted; it is complete once no vcore is
placed and no near task runs; CONTEXT_RESUME places a saved vcore on the core named; an ARMED service record is taken and its
operation begun, here SUSPEND, and a record that has done what it waits for ends with SVC set in the notice of its partition. (That
an event whose condition does not hold changes nothing is the model's choice: log entry 1.) -/
def Obligations.ContextEvents : Prop := ∀ (s p q : State) (c h n core v part i : Nat) (x : Context) (u : Susp) (sv : Saved) (t0 : Task) (r : SvcRun)
    (ws : List Word),
  (s.ctx c = some x → x.susp = some u → s.time < u.deadline → exec (.suspendDeadline c) s = .next s) ∧
  (s.ctx c = some x → x.susp = some u → u.deadline ≤ s.time → x.placed = [] → n < 2 → (s.near h n).task = some t0 → t0.ctx = c →
    ∃ t, exec (.suspendDeadline c) s = .next t ∧ (t.near h n).task = none ∧ (t.hart (.near h n)).active = false) ∧
  (s.ctx c = some x → x.st = .running → x.susp = some u → x.placed = [] → s.nearTasks c = [] → ∃ t y,
    exec (.suspensionComplete c) s = .next t ∧ t.ctx c = some y ∧ y.st = .suspended ∧ y.susp = none ∧ y.saved = x.saved) ∧
  (s.ctx c = some x → c < 64 → v < 4096 → s.mayResume x = true → x.saved = [(v, some sv)] → s.coreFree x.part core = true → ∃ t y,
    exec (.contextResume c [core]) s = .next t ∧ t.ctx c = some y ∧ y.st = .running ∧ (t.far core).placed = true ∧
    (t.far core).vcore.toNat = v ∧ t.coreCtx core = c ∧ (t.far core).arr = sv.far.arr ∧ (t.hart (.far core)).pc = sv.hart.pc ∧
    ∀ g, (t.hart (.far core)).reg g = sv.hart.reg g) ∧
  (s.hub.stage ≠ 3 → exec (.serviceRecordTake part) s = .next s) ∧
  (let pa := s.svcPa part i
   let w0 := ws.getD 0 0
   s.hub.stage = 3 → s.hub.svcRun = [] → s.hub.svcHeld = [] → s.hub.partBusy = false → part < s.partCount →
    firstFrom 64 (mget (fun _ => 0) s.hub.svcPtr part) (s.svcArmed part) = some i → s.recordWords pa = .ok ws p →
    p.armSwap pa w0 ((w0 &&& ~~~15#64) ||| 2#64) = .ok w0.toNat q → svcReserved ws = false → bits (ws.getD 1 0) 7 0 = 3 →
    bits (ws.getD 1 0) 13 8 = c → q.ctx c = some x → x.part = part → x.st = .running → x.susp = none → ∃ t y z,
    exec (.serviceRecordTake part) s = .next t ∧ t.ctx c = some y ∧ y.susp = some z ∧ z.reason = 4 ∧
      mget (fun _ => 0) t.hub.svcPtr part = (i + 1) % 64 ∧ mget (fun _ => r) t.hub.svcRun part = { index := i, pa := pa, op := 3, ctx := c, arg := ws.getD 2 0 }) ∧
  (s.hub.stage = 3 → s.hub.svcRun = [(part, r)] → r.op = 3 → r.ended = none → s.ctx r.ctx = some x → x.st = .suspended → part < s.partCount →
    s.storeM (stackOf r.pa) r.pa 8 kStore 3 = .ok () q → ∃ t,
    exec (.serviceRecordTake part) s = .next t ∧ t.hub.svcRun = [] ∧ (mget (fun _ => 0) t.hub.notice part).getLsbD 4 = true ∧
      ∀ y, memByte t.mem y = memByte q.mem y)

/-- R15, R407 to R410, R412, R415 to R418 and R421: the boot ROM stops at the first step that fails, with its number, and else
starts hub core 4; it keeps the digest of the image it has read. BRING_UP then builds the map at stage 2, trains the host link,
which makes function 0 active, and with the pools in their partitions starts the other hub cores and reaches stage 3. SNAP_CTL
latches every block at one module time, and its end raises SEQ and SNAP in every notice; a host write of a control register has the
effect that the register gives it, here GRACE and the current budget of a cluster, once function 0 is active. A host read through
BAR2 answers HOST_NOTICE at 0 and SVC_BASE at 8, through BAR0 the control region, or after a failed boot BOOT_STAT alone; a function
that is not active answers nothing. (That an image below 512 bytes fails at step 2 is the model's choice, log entry 32; so are the
firmware's entries, its bases as arguments and the BARs' reads, log entry 38, where the launch pools lie, log entry 8, that a block
latches exactly at the trigger, log entry 43, what the CDAT holds, log entry 38, and that an event whose condition does not hold
changes nothing, log entry 1.) -/
def Obligations.StartupAndControl : Prop := ∀ (s : State) (image : List Byte) (tested : List (Nat × Word)) (pools : Pools) (v : Word) (c d fn dt : Nat) (q : List Turn),
  let asks := fun (o : Outside) (m : List HostMsg) => s.turns = .outside o dt :: q →
    step s = .next { s with turns := q, overlap := true, time := s.time + dt, toHost := s.toHost ++ m }
  let active := s.hub.fail = 0 ∧ s.hub.linkUp = true
  let sig := Config.verifyFirmware (sha256 (image.drop 512)) (image.take 384)
  let svn := BitVec.ofNat 32 (((image.drop 384).take 4).foldr (fun b acc => b.toNat + 256 * acc) 0)
  let fails := fun (ok : Bool) (k : BitVec 4) => ∃ t, exec (.bootRom ok image) s = .next t ∧ t.hub.fail = k ∧ t.hub.stage = 0
  (s.hub.stage = 0 → s.hub.fail = 0 → fails false 1 ∧ (image.length < 512 → fails true 2) ∧ (512 ≤ image.length → sig = false → fails true 3) ∧
    (512 ≤ image.length → sig = true → svn < Config.fusedMinimum → fails true 4) ∧
    (512 ≤ image.length → ∃ t, exec (.bootRom true image) s = .next t ∧ t.hub.fwDigest = sha256 (image.drop 512)) ∧
    (512 ≤ image.length → sig = true → ¬ svn < Config.fusedMinimum → ∃ t, exec (.bootRom true image) s = .next t ∧ t.hub.stage = 1 ∧
      t.hub.fail = 0 ∧ t.hub.svn = svn ∧ (t.hart (.hub 4)).active = true ∧ (t.hart (.hub 4)).pc = Config.firmwareEntry 4)) ∧
  (s.hub.stage ≠ 0 → exec (.bootRom true image) s = .next s) ∧
  (s.hub.stage = 1 → ∃ t, exec (.bringUp tested pools) s = .next t ∧ t.hub.stage = 2 ∧ t.hub.linkUp = s.hub.linkUp ∧
    t.mapVersion = s.mapVersion ∧ (d < 16 → tested = [(16 + 16 * d + 6, v)] → t.mapWord (16 + 16 * d + 6) = v)) ∧
  (s.hub.stage = 2 → s.hub.linkUp = false → exec (.bringUp tested pools) s = .next { s with hub := { s.hub with linkUp := true } }) ∧
  (s.hub.stage = 2 → s.hub.linkUp = true → pools.svc.length = 16 → pools.launch.length = 16 →
    (∀ p, p < 16 → let b := pools.svc.getD p 0
      b % 8192 = 0 ∧ isDevice b = true ∧ (p < s.partCount → s.partOfDie (stackOf b) = p) ∧
      (s.partCount ≤ p → ∃ m, m ∈ [2, 4, 8, 16] ∧ p < m ∧ stackOf b * m / 16 = p)) →
    (∀ b ∈ pools.launch, b % 128 = 0 ∧ isDevice (b + 524287) = true) → (∀ d, d < 16 → (s.island d).heldReqs = []) → ∃ t,
    exec (.bringUp tested pools) s = .next t ∧ t.hub.stage = 3 ∧ (∀ k, k < 16 → t.svcPa k 0 = pools.svc.getD k 0 ∧
      t.launchPa k 0 = pools.launch.getD k 0) ∧ ∀ n, n < 7 → n ≠ 4 → (t.hart (.hub n)).active = true) ∧
  (s.hub.stage = 0 ∨ s.hub.stage = 3 → exec (.bringUp tested pools) s = .next s) ∧
  (s.hub.snapBusy = false → ∃ t, exec .snapTrig s = .next t ∧ t.hub.snapBusy = true ∧ t.hub.snap.time = s.time ∧ t.hub.snap.harts = s.harts ∧
    t.hub.snap.fars = s.fars ∧ t.hub.snap.clusters = s.clusters ∧ t.hub.snap.islands = s.islands ∧ t.hub.snap.rmap = s.hub.rmap ∧
    t.hub.snap.units = s.units ∧ t.hub.snap.ctxs = s.ctxs ∧ t.hub.snap.acks = s.hub.acks ∧ t.hub.snapSeq = s.hub.snapSeq) ∧
  (s.hub.snapBusy = true → exec .snapTrig s = .next s ∧ ∃ t, exec .snapshotComplete s = .next t ∧ t.hub.snapBusy = false ∧
    t.hub.snapSeq = s.hub.snapSeq + 1 ∧ t.hub.snap = s.hub.snap ∧ ∀ fn, fn < s.partCount → (mget (fun _ => 0) t.hub.notice fn).getLsbD 2 = true) ∧
  (active → (∃ t, exec (.controlRegisterWrite 0x05000000 8 v) s = .next t ∧ t.hub.grace.toNat = max 13000 (v.toNat % 2 ^ 32)) ∧
    (c < 256 → ∃ t, exec (.controlRegisterWrite (0x06000010 + 256 * c) 8 v) s = .next t ∧
      (t.cluster c).budget.toNat = max 1 (v.toNat % 1024))) ∧
  (¬ active → exec (.controlRegisterWrite 0x05000000 8 v) s = .next s) ∧
  (active → fn < s.partCount →
    asks (.barRead fn 2 0 8) [.barData fn 2 0 8 (mget (fun _ => 0) s.hub.notice fn)] ∧
    asks (.barRead fn 2 8 8) [.barData fn 2 8 8 (if s.hub.stage = 3 then BitVec.ofNat 64 (mget (fun _ => 0) s.hub.svcBase fn) else 0)] ∧
    asks (.barRead fn 2 16 8) [.barData fn 2 16 8 0]) ∧
  (active → asks (.barRead 0 0 0x06000010 8) [.barData 0 0 0x06000010 8 (currentWord (s.cluster 0).heldUnits (s.cluster 0).budget)]) ∧
  (active ∨ s.hub.fail ≠ 0 → asks (.barRead 0 0 0x0B000000 8)
      [.barData 0 0 0x0B000000 8 (BitVec.ofNat 64 (s.hub.svn.toNat * 2 ^ 32 + s.hub.fail.toNat * 2 ^ 4 + s.hub.stage.toNat))] ∧
    asks (.cdat c) [.cdat c (Config.cdat c)]) ∧
  (s.hub.fail ≠ 0 → asks (.barRead 0 0 0x06000010 8) [.barData 0 0 0x06000010 8 0] ∧ asks (.barRead 0 2 0 8) []) ∧
  (¬ active → s.hub.fail = 0 ∨ fn ≠ 0 → asks (.barRead fn 0 0x0B000000 8) [] ∧ asks (.barRead fn 2 0 8) [])
end

