-- ==== Sys2Proof/Laws/Dispatch.lean ====
section
/-! SUPPORT. What `exec` calls for each constructor. -/
namespace Sys2Proof.Machine
variable {s : State}

theorem exec_ill (head : BitVec 16) (tail : BitVec 64) : exec (.ill head tail) s = execIll head tail s := rfl
theorem exec_add (w : Bool) (d a b : Reg) : exec (.add w d a b) s = execAdd w d a b s := rfl
theorem exec_sub (w : Bool) (d a b : Reg) : exec (.sub w d a b) s = execSub w d a b s := rfl
theorem exec_and (w : Bool) (d a b : Reg) : exec (.and w d a b) s = execAnd w d a b s := rfl
theorem exec_or (w : Bool) (d a b : Reg) : exec (.or w d a b) s = execOr w d a b s := rfl
theorem exec_xor (w : Bool) (d a b : Reg) : exec (.xor w d a b) s = execXor w d a b s := rfl
theorem exec_andn (w : Bool) (d a b : Reg) : exec (.andn w d a b) s = execAndn w d a b s := rfl
theorem exec_shl (w : Bool) (d a b : Reg) : exec (.shl w d a b) s = execShl w d a b s := rfl
theorem exec_shr (w : Bool) (d a b : Reg) : exec (.shr w d a b) s = execShr w d a b s := rfl
theorem exec_sha (w : Bool) (d a b : Reg) : exec (.sha w d a b) s = execSha w d a b s := rfl
theorem exec_rot (w : Bool) (d a b : Reg) : exec (.rot w d a b) s = execRot w d a b s := rfl
theorem exec_mul (w : Bool) (d a b : Reg) : exec (.mul w d a b) s = execMul w d a b s := rfl
theorem exec_mulh (m : MulhMode) (d a b : Reg) : exec (.mulh m d a b) s = execMulh m d a b s := rfl
theorem exec_div (w u rem : Bool) (d a b : Reg) : exec (.div w u rem d a b) s = execDiv w u rem d a b s := rfl
theorem exec_minmax (w u max : Bool) (d a b : Reg) : exec (.minmax w u max d a b) s = execMinmax w u max d a b s := rfl
theorem exec_cmp (c : Cond) (d a b : Reg) : exec (.cmp c d a b) s = execCmp c d a b s := rfl
theorem exec_sel (d a b c : Reg) : exec (.sel d a b c) s = execSel d a b c s := rfl
theorem exec_addi (w : Bool) (d a : Reg) (k : BitVec 20) : exec (.addi w d a k) s = execAddi w d a k s := rfl
theorem exec_li (f : LiForm) (d : Reg) (k : BitVec 24) : exec (.li f d k) s = execLi f d k s := rfl
theorem exec_logi (op : LogOp) (d a : Reg) (k : BitVec 20) : exec (.logi op d a k) s = execLogi op d a k s := rfl
theorem exec_shi (op : ShOp) (w : Bool) (d a : Reg) (n : BitVec 6) : exec (.shi op w d a n) s = execShi op w d a n s := rfl
theorem exec_bext (sx : Bool) (d a : Reg) (lo : BitVec 6) (len : BitVec 7) : exec (.bext sx d a lo len) s = execBext sx d a lo len s := rfl
theorem exec_bins (d a : Reg) (lo : BitVec 6) (len : BitVec 7) : exec (.bins d a lo len) s = execBins d a lo len s := rfl
theorem exec_bitc (op : BitcOp) (d a : Reg) : exec (.bitc op d a) s = execBitc op d a s := rfl
theorem exec_hdrx (d a : Reg) (layout : BitVec 6) (field : BitVec 8) : exec (.hdrx d a layout field) s = execHdrx d a layout field s := rfl
theorem exec_hdrp (d a : Reg) (layout : BitVec 6) (field : BitVec 8) : exec (.hdrp d a layout field) s = execHdrp d a layout field s := rfl
theorem exec_addpc (d : Reg) (k : BitVec 26) : exec (.addpc d k) s = execAddpc d k s := rfl
theorem exec_br (c : Cond) (a b : Reg) (delta : BitVec 11) (slot : BitVec 5) : exec (.br c a b delta slot) s = execBr c a b delta slot s := rfl
theorem exec_brz (nz : Bool) (a : Reg) (delta : BitVec 20) (slot : BitVec 5) : exec (.brz nz a delta slot) s = execBrz nz a delta slot s := rfl
theorem exec_jmp (delta : BitVec 27) (slot : BitVec 5) : exec (.jmp delta slot) s = execJmp delta slot s := rfl
theorem exec_jal (d : Reg) (delta : BitVec 27) (slot : BitVec 5) : exec (.jal d delta slot) s = execJal d delta slot s := rfl
theorem exec_jr (d a : Reg) : exec (.jr d a) s = execJr d a s := rfl
theorem exec_lineFetch (ag : Agent) : exec (.lineFetch ag) s = execLineFetch ag s := rfl
theorem exec_ld (w : Width) (sx : Bool) (p : Policy) (d a : Reg) (k : BitVec 20) : exec (.ld w sx p d a k) s = execLd w sx p d a k s := rfl
theorem exec_st (w : Width) (p : Policy) (d a : Reg) (k : BitVec 20) : exec (.st w p d a k) s = execSt w p d a k s := rfl
theorem exec_lda (w : Width) (sx : Bool) (p : Policy) (sc : Scope) (d a : Reg) (k : BitVec 24) : exec (.lda w sx p sc d a k) s = execLda w sx p sc d a k s := rfl
theorem exec_stl (w : Width) (p : Policy) (sc : Scope) (d a : Reg) (k : BitVec 24) : exec (.stl w p sc d a k) s = execStl w p sc d a k s := rfl
theorem exec_ldx (w : Width) (sx : Bool) (p : Policy) (d a b : Reg) (k : BitVec 24) : exec (.ldx w sx p d a b k) s = execLdx w sx p d a b k s := rfl
theorem exec_stx (w : Width) (p : Policy) (d a b : Reg) (k : BitVec 24) : exec (.stx w p d a b k) s = execStx w p d a b k s := rfl
theorem exec_amo (op : AmoOp) (dbl : Bool) (p : Policy) (sc : Scope) (ord : Order) (d a b : Reg) : exec (.amo op dbl p sc ord d a b) s = execAmo op dbl p sc ord d a b s := rfl
theorem exec_cas (dbl : Bool) (p : Policy) (sc : Scope) (ord : Order) (d a b : Reg) (k : BitVec 24) : exec (.cas dbl p sc ord d a b k) s = execCas dbl p sc ord d a b k s := rfl
theorem exec_amof (op : AmofOp) (p : Policy) (sc : Scope) (ord : Order) (d a b : Reg) : exec (.amof op p sc ord d a b) s = execAmof op p sc ord d a b s := rfl
theorem exec_fence (sc : Scope) : exec (.fence sc) s = execFence sc s := rfl
theorem exec_waitm (w : Width) (p : Policy) (d a b c : Reg) (k : BitVec 24) : exec (.waitm w p d a b c k) s = execWaitm w p d a b c k s := rfl
theorem exec_waitmWake (ag : Agent) : exec (.waitmWake ag) s = execWaitmWake ag s := rfl
theorem exec_waitmLimitExpire (ag : Agent) : exec (.waitmLimitExpire ag) s = execWaitmLimitExpire ag s := rfl
theorem exec_waitc (ch : BitVec 4) (sc : Scope) (a b : Reg) : exec (.waitc ch sc a b) s = execWaitc ch sc a b s := rfl
theorem exec_cmaint (op : CmOp) (reach : CmReach) (ext : CmExt) (a : Reg) (k : BitVec 20) : exec (.cmaint op reach ext a k) s = execCmaint op reach ext a k s := rfl
theorem exec_get (w : Width) (ord : Bool) (d a : Reg) (k : BitVec 24) : exec (.get w ord d a k) s = execGet w ord d a k s := rfl
theorem exec_put (w : Width) (ord : Bool) (d a : Reg) (k : BitVec 24) : exec (.put w ord d a k) s = execPut w ord d a k s := rfl
theorem exec_ramo (op : AmoOp) (dbl : Bool) (ord : Bool) (d a b : Reg) : exec (.ramo op dbl ord d a b) s = execRamo op dbl ord d a b s := rfl
theorem exec_remoteOpPerform (k : Nat) : exec (.remoteOpPerform k) s = execRemoteOpPerform k s := rfl
theorem exec_remoteReply (k : Nat) : exec (.remoteReply k) s = execRemoteReply k s := rfl
theorem exec_csrr (d : Reg) (csr : BitVec 12) : exec (.csrr d csr) s = execCsrr d csr s := rfl
theorem exec_csrw (csr : BitVec 12) (a : Reg) : exec (.csrw csr a) s = execCsrw csr a s := rfl
theorem exec_csrx (op : CsrxOp) (d : Reg) (csr : BitVec 12) (a : Reg) : exec (.csrx op d csr a) s = execCsrx op d csr a s := rfl
theorem exec_trap (k : BitVec 20) : exec (.trap k) s = execTrap k s := rfl
theorem exec_sysc (k : BitVec 20) : exec (.sysc k) s = execSysc k s := rfl
theorem exec_eret : exec .eret s = execEret s := rfl
theorem exec_idle (a : Reg) : exec (.idle a) s = execIdle a s := rfl
theorem exec_ckpt (k : BitVec 20) : exec (.ckpt k) s = execCkpt k s := rfl
theorem exec_rmread (d a : Reg) : exec (.rmread d a) s = execRmread d a s := rfl
theorem exec_rmack (d : Reg) : exec (.rmack d) s = execRmack d s := rfl
theorem exec_time (d : Reg) : exec (.time d) s = execTime d s := rfl
theorem exec_snap : exec .snap s = execSnap s := rfl
theorem exec_tlbi (op : TlbiOp) : exec (.tlbi op) s = execTlbi op s := rfl
theorem exec_tlbiComplete (ag : Agent) : exec (.tlbiComplete ag) s = execTlbiComplete ag s := rfl
theorem exec_ien (en : Bool) (d : Reg) : exec (.ien en d) s = execIen en d s := rfl
theorem exec_nrowOpen (a : Reg) (k : BitVec 20) : exec (.nrowOpen a k) s = execNrowOpen a k s := rfl
theorem exec_nrowClose : exec .nrowClose s = execNrowClose s := rfl
theorem exec_nlut (acc : Bool) (d a b : Reg) : exec (.nlut acc d a b) s = execNlut acc d a b s := rfl
theorem exec_pcmp (d : TagNo) (rows : Rows) (comb : Comb) (spec : Spec) : exec (.pcmp d rows comb spec) s = execPcmp d rows comb spec s := rfl
theorem exec_pset (rows : Rows) (spec : Spec) : exec (.pset rows spec) s = execPset rows spec s := rfl
theorem exec_pcs (d : TagNo) (rows : Rows) (comb : Comb) (cmp wr : List (Col × Bool)) : exec (.pcs d rows comb cmp wr) s = execPcs d rows comb cmp wr s := rfl
theorem exec_top (op : TopOp) : exec (.top op) s = execTop op s := rfl
theorem exec_tshf (op : TshfOp) (d a : TagNo) : exec (.tshf op d a) s = execTshf op d a s := rfl
theorem exec_tcnt (d : Reg) (t : TagNo) (span : BitVec 2) (lane : Option (BitVec 2)) : exec (.tcnt d t span lane) s = execTcnt d t span lane s := rfl
theorem exec_tany (d : Reg) (t : TagNo) (span : BitVec 2) (lane : Option (BitVec 2)) : exec (.tany d t span lane) s = execTany d t span lane s := rfl
theorem exec_tfirst (clr : Bool) (d : Reg) (t : TagNo) (span : BitVec 2) (lane : Option (BitVec 2)) : exec (.tfirst clr d t span lane) s = execTfirst clr d t span lane s := rfl
theorem exec_span (ls : BitVec 2) (a b : Reg) : exec (.span ls a b) s = execSpan ls a b s := rfl
theorem exec_spanRd (d : Reg) (ls : BitVec 2) : exec (.spanRd d ls) s = execSpanRd d ls s := rfl
theorem exec_seg (m : LaneMode) : exec (.seg m) s = execSeg m s := rfl
theorem exec_segRd (d : Reg) : exec (.segRd d) s = execSegRd d s := rfl
theorem exec_key (q : BitVec 2) (a : Reg) : exec (.key q a) s = execKey q a s := rfl
theorem exec_cfill (rows : Rows) (c : Col) (n1 : BitVec 6) (src : FillSrc) : exec (.cfill rows c n1 src) s = execCfill rows c n1 src s := rfl
theorem exec_cread (sx : Bool) (d a : Reg) (c : Col) (n1 : BitVec 6) (lane : BitVec 2) : exec (.cread sx d a c n1 lane) s = execCread sx d a c n1 lane s := rfl
theorem exec_cwrite (a b : Reg) (c : Col) (n1 : BitVec 6) (lane : BitVec 2) : exec (.cwrite a b c n1 lane) s = execCwrite a b c n1 lane s := rfl
theorem exec_tload (t : TagNo) (span : BitVec 2) (c : Col) : exec (.tload t span c) s = execTload t span c s := rfl
theorem exec_tstore (t : TagNo) (span : BitVec 2) (c : Col) : exec (.tstore t span c) s = execTstore t span c s := rfl
theorem exec_fmov (rows : Rows) (cd cs : Col) (n1 : BitVec 8) : exec (.fmov rows cd cs n1) s = execFmov rows cd cs n1 s := rfl
theorem exec_frot (rows : Rows) (k : BitVec 4) (cd cs : Col) (n1 : BitVec 8) : exec (.frot rows k cd cs n1) s = execFrot rows k cd cs n1 s := rfl
theorem exec_xrow (prev : Bool) (rows : Rows) (cd cs : Col) (n1 : BitVec 8) : exec (.xrow prev rows cd cs n1) s = execXrow prev rows cd cs n1 s := rfl
theorem exec_ttld (e : BitVec 8) (regs : TtRegs) : exec (.ttld e regs) s = execTtld e regs s := rfl
theorem exec_ttrun (desc : Bool) (rows : Rows) (e : BitVec 8) (m1 : BitVec 5) (n1 : BitVec 6) (x0 x1 x2 x3 : Col) : exec (.ttrun desc rows e m1 n1 x0 x1 x2 x3) s = execTtrun desc rows e m1 n1 x0 x1 x2 x3 s := rfl
theorem exec_arrayInstructionStart (core : Nat) : exec (.arrayInstructionStart core) s = execArrayInstructionStart core s := rfl
theorem exec_arrayInstructionRetire (core : Nat) : exec (.arrayInstructionRetire core) s = execArrayInstructionRetire core s := rfl
theorem exec_aadd (rows : Rows) (dc ac xc : Col) (f : Fmt) (rnd : Rnd) (sat : Bool) : exec (.aadd rows dc ac xc f rnd sat) s = execAadd rows dc ac xc f rnd sat s := rfl
theorem exec_asub (rows : Rows) (dc ac xc : Col) (f : Fmt) (rnd : Rnd) (sat : Bool) : exec (.asub rows dc ac xc f rnd sat) s = execAsub rows dc ac xc f rnd sat s := rfl
theorem exec_aaddk (rows : Rows) (dc kc xc : Col) (f : FmtRnd) : exec (.aaddk rows dc kc xc f) s = execAaddk rows dc kc xc f s := rfl
theorem exec_amul (rows : Rows) (dc ac bc xc : Col) (f : Fmt) (rnd : Rnd) (sat : Bool) : exec (.amul rows dc ac bc xc f rnd sat) s = execAmul rows dc ac bc xc f rnd sat s := rfl
theorem exec_amulk (rows : Rows) (dc ac kc xc : Col) (f : Fmt) (rnd : Rnd) (sat : Bool) : exec (.amulk rows dc ac kc xc f rnd sat) s = execAmulk rows dc ac kc xc f rnd sat s := rfl
theorem exec_amac (rows : Rows) (dc ac bc xc : Col) (f1 f2 : Fmt) (rnd : Rnd) (sat : Bool) : exec (.amac rows dc ac bc xc f1 f2 rnd sat) s = execAmac rows dc ac bc xc f1 f2 rnd sat s := rfl
theorem exec_amack (rows : Rows) (dc ac kc xc : Col) (f1 f2 : Fmt) (rnd : Rnd) (sat : Bool) (wa : BitVec 2) : exec (.amack rows dc ac kc xc f1 f2 rnd sat wa) s = execAmack rows dc ac kc xc f1 f2 rnd sat wa s := rfl
theorem exec_afma (rows : Rows) (dc ac bc xc : Col) (f : Fmt) (rnd : Rnd) (sat : Bool) : exec (.afma rows dc ac bc xc f rnd sat) s = execAfma rows dc ac bc xc f rnd sat s := rfl
theorem exec_acvt (rows : Rows) (dc ac rc xc : Col) (fs fd : Fmt) (rnd : Rnd) (sat : Bool) : exec (.acvt rows dc ac rc xc fs fd rnd sat) s = execAcvt rows dc ac rc xc fs fd rnd sat s := rfl
theorem exec_acmp (cond : ACond) (d : TagNo) (rows : Rows) (ac bc xc : Col) (f : FmtRnd) (comb : Comb) : exec (.acmp cond d rows ac bc xc f comb) s = execAcmp cond d rows ac bc xc f comb s := rfl
theorem exec_aminmax (max : Bool) (rows : Rows) (dc ac xc : Col) (f : FmtRnd) : exec (.aminmax max rows dc ac xc f) s = execAminmax max rows dc ac xc f s := rfl
theorem exec_ared (rows : Rows) (dc xc : Col) (f : Fmt) (rnd : Rnd) (sat : Bool) : exec (.ared rows dc xc f rnd sat) s = execAred rows dc xc f rnd sat s := rfl
theorem exec_alut (rows : Rows) (dc ac : Col) (f : FmtRnd) (n1 : BitVec 2) : exec (.alut rows dc ac f n1) s = execAlut rows dc ac f n1 s := rfl
theorem exec_aresolve (rows : Rows) (dc xc : Col) (wa : BitVec 2) : exec (.aresolve rows dc xc wa) s = execAresolve rows dc xc wa s := rfl
theorem exec_aqdec (rows : Rows) (dc ac bc xc : Col) (f1 f2 : Fmt) (rnd : Rounding) : exec (.aqdec rows dc ac bc xc f1 f2 rnd) s = execAqdec rows dc ac bc xc f1 f2 rnd s := rfl
theorem exec_aspmac (rows : Rows) (dc ac : Col) (s0 : BitVec 6) (wa : BitVec 2) (m1 : BitVec 6) (xc : Col) (f1 f2 : Fmt) (rnd : Rounding) : exec (.aspmac rows dc ac s0 wa m1 xc f1 f2 rnd) s = execAspmac rows dc ac s0 wa m1 xc f1 f2 rnd s := rfl
theorem exec_aspmacLdx (q : BitVec 2) : exec (.aspmacLdx q) s = execAspmacLdx q s := rfl
theorem exec_aspmacLdm : exec .aspmacLdm s = execAspmacLdm s := rfl
theorem exec_reservationGrant (cluster : Nat) : exec (.reservationGrant cluster) s = execReservationGrant cluster s := rfl
theorem exec_stackReservationGrant (stack : Nat) : exec (.stackReservationGrant stack) s = execStackReservationGrant stack s := rfl
theorem exec_permitRefill (ag : Agent) : exec (.permitRefill ag) s = execPermitRefill ag s := rfl
theorem exec_cpy (sc : Scope) (a : Reg) : exec (.cpy sc a) s = execCpy sc a s := rfl
theorem exec_afill (win : Win) (p : Policy) (sc : Scope) (a b c : Reg) : exec (.afill win p sc a b c) s = execAfill win p sc a b c s := rfl
theorem exec_aspill (win : Win) (p : Policy) (sc : Scope) (a b c : Reg) : exec (.aspill win p sc a b c) s = execAspill win p sc a b c s := rfl
theorem exec_engineCommandStart (core k : Nat) : exec (.engineCommandStart core k) s = execEngineCommandStart core k s := rfl
theorem exec_engineCompletion (core k : Nat) : exec (.engineCompletion core k) s = execEngineCompletion core k s := rfl
theorem exec_mbwait (d a : Reg) : exec (.mbwait d a) s = execMbwait d a s := rfl
theorem exec_mbpop (d a : Reg) : exec (.mbpop d a) s = execMbpop d a s := rfl
theorem exec_msend (ch : BitVec 4) (len : BitVec 7) (a b c : Reg) : exec (.msend ch len a b c) s = execMsend ch len a b c s := rfl
theorem exec_mailboxDelivery (k : Nat) : exec (.mailboxDelivery k) s = execMailboxDelivery k s := rfl
theorem exec_bar (lvl : BitVec 2) (c : Bool) (a : Reg) : exec (.bar lvl c a) s = execBar lvl c a s := rfl
theorem exec_barrierArrival (k : Nat) : exec (.barrierArrival k) s = execBarrierArrival k s := rfl
theorem exec_larm (a : Reg) : exec (.larm a) s = execLarm a s := rfl
theorem exec_launchTake (part index : Nat) (assigned : Nat) : exec (.launchTake part index assigned) s = execLaunchTake part index assigned s := rfl
theorem exec_launchResume (part : Nat) : exec (.launchResume part) s = execLaunchResume part s := rfl
theorem exec_qbind (a : Reg) (q : BitVec 4) (home : BitVec 10) : exec (.qbind a q home) s = execQbind a q home s := rfl
theorem exec_qstat (d a : Reg) (q : BitVec 4) : exec (.qstat d a q) s = execQstat d a q s := rfl
theorem exec_tenq (a b c : Reg) : exec (.tenq a b c) s = execTenq a b c s := rfl
theorem exec_tsteal (a b : Reg) : exec (.tsteal a b) s = execTsteal a b s := rfl
theorem exec_tnext (a : Reg) : exec (.tnext a) s = execTnext a s := rfl
theorem exec_tend : exec .tend s = execTend s := rfl
theorem exec_homeCycle (home : Nat) : exec (.homeCycle home) s = execHomeCycle home s := rfl
theorem exec_stealGrantDelivery (k : Nat) : exec (.stealGrantDelivery k) s = execStealGrantDelivery k s := rfl
theorem exec_stealRequestArrival (k : Nat) : exec (.stealRequestArrival k) s = execStealRequestArrival k s := rfl
theorem exec_farTaskTake (core : Nat) : exec (.farTaskTake core) s = execFarTaskTake core s := rfl
theorem exec_autoStealWithdraw (core : Nat) : exec (.autoStealWithdraw core) s = execAutoStealWithdraw core s := rfl
theorem exec_waitLimitExpire (ag : Agent) : exec (.waitLimitExpire ag) s = execWaitLimitExpire ag s := rfl
theorem exec_storeBufferDrain (core k : Nat) : exec (.storeBufferDrain core k) s = execStoreBufferDrain core k s := rfl
theorem exec_walkStart (unit : Nat) : exec (.walkStart unit) s = execWalkStart unit s := rfl
theorem exec_walkComplete (unit k : Nat) : exec (.walkComplete unit k) s = execWalkComplete unit k s := rfl
theorem exec_cacheEviction (cache : CacheId) (line : Nat) : exec (.cacheEviction cache line) s = execCacheEviction cache line s := rfl
theorem exec_writtenLineInvalidate (home line : Nat) : exec (.writtenLineInvalidate home line) s = execWrittenLineInvalidate home line s := rfl
theorem exec_bankAddI32 (k : Nat) : exec (.bankAddI32 k) s = execBankAddI32 k s := rfl
theorem exec_bankAddI64 (k : Nat) : exec (.bankAddI64 k) s = execBankAddI64 k s := rfl
theorem exec_bankAddF32 (k : Nat) : exec (.bankAddF32 k) s = execBankAddF32 k s := rfl
theorem exec_bankAddBf16x2 (k : Nat) : exec (.bankAddBf16x2 k) s = execBankAddBf16x2 k s := rfl
theorem exec_bankMaxF32 (k : Nat) : exec (.bankMaxF32 k) s = execBankMaxF32 k s := rfl
theorem exec_bankMinF32 (k : Nat) : exec (.bankMinF32 k) s = execBankMinF32 k s := rfl
theorem exec_bankOr64 (k : Nat) : exec (.bankOr64 k) s = execBankOr64 k s := rfl
theorem exec_allbankFill (k : Nat) : exec (.allbankFill k) s = execAllbankFill k s := rfl
theorem exec_fillWave (stack : Nat) : exec (.fillWave stack) s = execFillWave stack s := rfl
theorem exec_idxsum (k : Nat) : exec (.idxsum k) s = execIdxsum k s := rfl
theorem exec_idxsumExecute (home : Nat) : exec (.idxsumExecute home) s = execIdxsumExecute home s := rfl
theorem exec_idxsumComplete (home : Nat) : exec (.idxsumComplete home) s = execIdxsumComplete home s := rfl
theorem exec_counterWrite (k : Nat) : exec (.counterWrite k) s = execCounterWrite k s := rfl
theorem exec_counterPacket (k : Nat) : exec (.counterPacket k) s = execCounterPacket k s := rfl
theorem exec_stackDetredWrite (stack : Nat) (en : Bool) : exec (.stackDetredWrite stack en) s = execStackDetredWrite stack en s := rfl
theorem exec_detredChangeComplete (stack : Nat) : exec (.detredChangeComplete stack) s = execDetredChangeComplete stack s := rfl
theorem exec_hostMemRead (pa n : Nat) : exec (.hostMemRead pa n) s = execHostMemRead pa n s := rfl
theorem exec_hostMemWrite (pa : Nat) (data : List Byte) : exec (.hostMemWrite pa data) s = execHostMemWrite pa data s := rfl
theorem exec_hostSnoop (line : Nat) (kind : SnoopKind) : exec (.hostSnoop line kind) s = execHostSnoop line kind s := rfl
theorem exec_linkWake (die : Nat) : exec (.linkWake die) s = execLinkWake die s := rfl
theorem exec_linkRetrain (die : Nat) (ok : Bool) : exec (.linkRetrain die ok) s = execLinkRetrain die ok s := rfl
theorem exec_heartbeatMissing (die : Nat) : exec (.heartbeatMissing die) s = execHeartbeatMissing die s := rfl
theorem exec_dieRejoin (die : Nat) (l2ways livecl : BitVec 16) (livecore : BitVec 256) : exec (.dieRejoin die l2ways livecl livecore) s = execDieRejoin die l2ways livecl livecore s := rfl
theorem exec_mapCommit (changes : List (Nat × Word)) : exec (.mapCommit changes) s = execMapCommit changes s := rfl
theorem exec_mapGraceExpire (ctx : Nat) : exec (.mapGraceExpire ctx) s = execMapGraceExpire ctx s := rfl
theorem exec_ctxMapackWrite (ctx : Nat) (v : Word) : exec (.ctxMapackWrite ctx v) s = execCtxMapackWrite ctx v s := rfl
theorem exec_takeEvent (ag : Agent) : exec (.takeEvent ag) s = execTakeEvent ag s := rfl
theorem exec_coreStop (core : Nat) (order sbLost : Bool) : exec (.coreStop core order sbLost) s = execCoreStop core order sbLost s := rfl
theorem exec_supervisorRepair (core : Nat) (readable : Bool) : exec (.supervisorRepair core readable) s = execSupervisorRepair core readable s := rfl
theorem exec_supervisorReplace (core target : Nat) (readable : Bool) : exec (.supervisorReplace core target readable) s = execSupervisorReplace core target readable s := rfl
theorem exec_suspendDeadline (ctx : Nat) : exec (.suspendDeadline ctx) s = execSuspendDeadline ctx s := rfl
theorem exec_suspensionComplete (ctx : Nat) : exec (.suspensionComplete ctx) s = execSuspensionComplete ctx s := rfl
theorem exec_contextResume (ctx : Nat) (cores : List Nat) : exec (.contextResume ctx cores) s = execContextResume ctx cores s := rfl
theorem exec_serviceRecordTake (part : Nat) : exec (.serviceRecordTake part) s = execServiceRecordTake part s := rfl
theorem exec_partModeWrite (v : Word) : exec (.partModeWrite v) s = execPartModeWrite v s := rfl
theorem exec_partModeApply : exec .partModeApply s = execPartModeApply s := rfl
theorem exec_clClockWrite (cluster : Nat) (v : Word) : exec (.clClockWrite cluster v) s = execClClockWrite cluster v s := rfl
theorem exec_dieVddWrite (die : Nat) (v : Word) : exec (.dieVddWrite die v) s = execDieVddWrite die v s := rfl
theorem exec_clockChangeComplete (cluster : Nat) : exec (.clockChangeComplete cluster) s = execClockChangeComplete cluster s := rfl
theorem exec_vddRampComplete (die : Nat) : exec (.vddRampComplete die) s = execVddRampComplete die s := rfl
theorem exec_clCurrentWrite (cluster : Nat) (v : Word) : exec (.clCurrentWrite cluster v) s = execClCurrentWrite cluster v s := rfl
theorem exec_clPermitWrite (cluster : Nat) (v : Word) : exec (.clPermitWrite cluster v) s = execClPermitWrite cluster v s := rfl
theorem exec_permitBcastWrite (v : Word) : exec (.permitBcastWrite v) s = execPermitBcastWrite v s := rfl
theorem exec_stallSample (cluster : Nat) (cyc pstall rstall : BitVec 20) : exec (.stallSample cluster cyc pstall rstall) s = execStallSample cluster cyc pstall rstall s := rfl
theorem exec_forecastUpdate : exec .forecastUpdate s = execForecastUpdate s := rfl
theorem exec_thermalSample (temps : List (BitVec 16)) : exec (.thermalSample temps) s = execThermalSample temps s := rfl
theorem exec_thermStatWrite (v : Word) : exec (.thermStatWrite v) s = execThermStatWrite v s := rfl
theorem exec_snapTrig : exec .snapTrig s = execSnapTrig s := rfl
theorem exec_snapshotComplete : exec .snapshotComplete s = execSnapshotComplete s := rfl
theorem exec_hostNoticeWrite (fn : Nat) (v : Word) : exec (.hostNoticeWrite fn v) s = execHostNoticeWrite fn v s := rfl
theorem exec_spdmRequest (index : Nat) : exec (.spdmRequest index) s = execSpdmRequest index s := rfl
theorem exec_bootRom (readOk : Bool) (image : List Byte) : exec (.bootRom readOk image) s = execBootRom readOk image s := rfl
theorem exec_bringUp (tested : List (Nat × Word)) (pools : Pools) : exec (.bringUp tested pools) s = execBringUp tested pools s := rfl
theorem exec_controlRegisterWrite (offset n : Nat) (v : Word) : exec (.controlRegisterWrite offset n v) s = execControlRegisterWrite offset n v s := rfl
theorem exec_hostBiResponse (line : Nat) (data : BiAnswer) : exec (.hostBiResponse line data) s = execHostBiResponse line data s := rfl
theorem exec_hostCacheResponse (k : Nat) (data : BitVec 512) : exec (.hostCacheResponse k data) s = execHostCacheResponse k data s := rfl
theorem exec_linkLowPowerEntry (die : Nat) : exec (.linkLowPowerEntry die) s = execLinkLowPowerEntry die s := rfl
theorem exec_corePowerGate (core : Nat) : exec (.corePowerGate core) s = execCorePowerGate core s := rfl

end Sys2Proof.Machine
end

