-- ==== Sys2Proof/Laws/Maps.lean ====
section
/-! SUPPORT. Laws of the finite maps: what a key reads as after an insertion, and that insertions keep the keys rising. -/
namespace Sys2Proof.Machine
variable {α : Type}

@[simp] theorem mget_mput_same (dflt : Nat → α) (m : FMap α) (k : Nat) (v : α) : mget dflt (mput m k v) k = v := by
  induction m with
  | nil => simp [mput, mget]
  | cons p t ih =>
    obtain ⟨j, w⟩ := p
    unfold mput
    split
    · simp [mget]
    · split
      · simp [mget]
      · have : ¬j = k := fun e => by omega
        simp [mget, this, ih]
theorem mget_mput_other (dflt : Nat → α) (m : FMap α) (k j : Nat) (v : α) (h : j ≠ k) :
    mget dflt (mput m k v) j = mget dflt m j := by
  have hk : ¬k = j := fun e => h e.symm
  induction m with
  | nil => simp [mput, mget, hk]
  | cons p t ih =>
    obtain ⟨i, w⟩ := p
    unfold mput
    split
    · simp [mget, hk]
    · split
      · rename_i e
        subst e
        simp [mget, hk]
      · simp [mget, ih]
@[simp] theorem mput_mput (m : FMap α) (k : Nat) (v w : α) : mput (mput m k v) k w = mput m k w := by
  induction m with
  | nil => simp [mput]
  | cons p t ih =>
    obtain ⟨i, u⟩ := p
    by_cases h1 : k < i
    · simp [mput, h1]
    · by_cases h2 : k = i
      · simp [mput, h2]
      · simp [mput, h1, h2, ih]

/-- Every key of a rising list lies above a bound. -/
def above (b : Nat) (m : FMap α) : Prop := ∀ p ∈ m, b < p.1

theorem rising_cons (p : Nat × α) (t : List (Nat × α)) : rising (p :: t) = true ↔ above p.1 t ∧ rising t = true := by
  induction t generalizing p with
  | nil => simp [rising, above]
  | cons q t ih =>
    simp only [rising, Bool.and_eq_true, decide_eq_true_eq, above, List.mem_cons, forall_eq_or_imp]
    constructor
    · rintro ⟨h, r⟩
      have := ((ih q).mp r).1
      exact ⟨⟨h, fun x hx => Nat.lt_trans h (this x hx)⟩, r⟩
    · rintro ⟨⟨h, -⟩, r⟩
      exact ⟨h, r⟩

end Sys2Proof.Machine
end

