-- ==== Sys2Proof/Laws/Memory.lean ====
section
/-! SUPPORT. Memory as a list of cells: a byte after a write, and the canonical form that every write keeps. -/
namespace Sys2Proof.Machine

/-- The canonical form by its two parts: keys that rise, and no byte listed that an unlisted one equals. -/
theorem Memory.wf_iff (m : List Host.Cell) : Memory.wf m = true ↔ rising m = true ∧ ∀ c ∈ m, c.2 ≠ unwritten := by
  simp [Memory.wf, List.all_eq_true]
@[simp] theorem Memory.wf_nil : Memory.wf [] = true := rfl
theorem rising_append {α : Type} (l m : List (Nat × α)) (hl : rising l = true) (hm : rising m = true)
    (h : ∀ p ∈ l, ∀ q ∈ m, p.1 < q.1) : rising (l ++ m) = true := by
  induction l with
  | nil => exact hm
  | cons p t ih =>
    obtain ⟨ha, ht⟩ := (rising_cons p t).mp hl
    refine (rising_cons p (t ++ m)).mpr ⟨fun q hq => ?_, ih ht fun a ha => h a (List.mem_cons_of_mem _ ha)⟩
    rcases List.mem_append.mp hq with hq | hq
    · exact ha q hq
    · exact h p List.mem_cons_self q hq
theorem rising_filter {α : Type} (l : List (Nat × α)) (f : Nat × α → Bool) (h : rising l = true) : rising (l.filter f) = true := by
  induction l with
  | nil => rfl
  | cons p t ih =>
    obtain ⟨ha, ht⟩ := (rising_cons p t).mp h
    rw [List.filter_cons]
    split
    · exact (rising_cons p _).mpr ⟨fun q hq => ha q (List.mem_of_mem_filter hq), ih ht⟩
    · exact ih ht
theorem cellsOf_range (a n v : Nat) : ∀ c ∈ cellsOf a n v, a ≤ c.1 ∧ c.1 < a + n ∧ c.2 ≠ unwritten := by
  induction n generalizing a v with
  | zero => intro c h; simp [cellsOf] at h
  | succ n ih =>
    intro c h
    unfold cellsOf at h
    split at h
    · have := ih (a + 1) (v / 256) c h
      exact ⟨by omega, by omega, this.2.2⟩
    · rename_i hv
      rcases List.mem_cons.mp h with rfl | h
      · exact ⟨Nat.le_refl _, by omega, hv⟩
      · have := ih (a + 1) (v / 256) c h
        exact ⟨by omega, by omega, this.2.2⟩
theorem cellsOf_rising (a n v : Nat) : rising (cellsOf a n v) = true := by
  induction n generalizing a v with
  | zero => rfl
  | succ n ih =>
    unfold cellsOf
    split
    · exact ih _ _
    · exact (rising_cons _ _).mpr ⟨fun c hc => by have := cellsOf_range (a + 1) n (v / 256) c hc; show a < c.1; omega, ih _ _⟩
/-- A write keeps the canonical form. -/
theorem memWrite_wf (m : List Host.Cell) (a n v : Nat) (h : Memory.wf m = true) : Memory.wf (memWrite m a n v) = true := by
  obtain ⟨hr, hz⟩ := (Memory.wf_iff m).mp h
  refine (Memory.wf_iff _).mpr ⟨?_, ?_⟩
  · refine rising_append _ _ (rising_append _ _ (rising_filter _ _ hr) (cellsOf_rising _ _ _) ?_) (rising_filter _ _ hr) ?_
    · intro p hp q hq
      have h1 := (List.mem_filter.mp hp).2
      have h2 := cellsOf_range a n v q hq
      simp only [decide_eq_true_eq] at h1
      omega
    · intro p hp q hq
      have h2 := (List.mem_filter.mp hq).2
      simp only [decide_eq_true_eq] at h2
      rcases List.mem_append.mp hp with hp | hp
      · have h1 := (List.mem_filter.mp hp).2
        simp only [decide_eq_true_eq] at h1
        omega
      · have h1 := cellsOf_range a n v p hp
        omega
  · intro c hc
    rcases List.mem_append.mp hc with hc | hc
    · rcases List.mem_append.mp hc with hc | hc
      · exact hz c (List.mem_of_mem_filter hc)
      · exact (cellsOf_range a n v c hc).2.2
    · exact hz c (List.mem_of_mem_filter hc)

/-! ### One byte after a write -/

theorem mget_append {α : Type} (dflt : Nat → α) (l m : FMap α) (k : Nat) :
    mget dflt (l ++ m) k = if mhas l k then mget dflt l k else mget dflt m k := by
  induction l with
  | nil => simp [mhas]
  | cons p t ih =>
    obtain ⟨j, w⟩ := p
    by_cases h : j = k
    · simp [mget, mhas, h]
    · have hb : (j == k) = false := by simp [h]
      simp only [List.cons_append, mget, if_neg h, ih, mhas, List.any_cons, hb, Bool.false_or]
      rfl
theorem mget_absent {α : Type} (dflt : Nat → α) (l : FMap α) (k : Nat) (h : ∀ p ∈ l, p.1 ≠ k) : mget dflt l k = dflt k := by
  induction l with
  | nil => rfl
  | cons p t ih =>
    obtain ⟨j, w⟩ := p
    have : ¬j = k := h (j, w) List.mem_cons_self
    simp only [mget, if_neg this]
    exact ih fun q hq => h q (List.mem_cons_of_mem _ hq)
theorem mhas_false {α : Type} (l : FMap α) (k : Nat) (h : ∀ p ∈ l, p.1 ≠ k) : mhas l k = false := by
  simp only [mhas, List.any_eq_false, beq_iff_eq]
  exact h
theorem mget_filter {α : Type} (dflt : Nat → α) (l : FMap α) (f : Nat → Bool) (k : Nat) (hk : f k = true) :
    mget dflt (l.filter fun p => f p.1) k = mget dflt l k := by
  induction l with
  | nil => rfl
  | cons p t ih =>
    obtain ⟨j, w⟩ := p
    rw [List.filter_cons]
    by_cases h : j = k
    · simp [h, hk, mget]
    · split <;> simp [mget, h, ih]
theorem cellsOf_byte (a n v x : Nat) (h1 : a ≤ x) (h2 : x < a + n) :
    mget (fun _ => unwritten) (cellsOf a n v) x = BitVec.ofNat 8 (v / 256 ^ (x - a)) := by
  induction n generalizing a v with
  | zero => omega
  | succ n ih =>
    unfold cellsOf
    by_cases hx : x = a
    · subst hx
      split
      · rename_i hv
        rw [mget_absent _ _ _ fun c hc => by have := cellsOf_range (x + 1) n (v / 256) c hc; omega]
        simp [hv]
      · simp [mget]
    · have e : v / 256 / 256 ^ (x - (a + 1)) = v / 256 ^ (x - a) := by
        rw [Nat.div_div_eq_div_mul, ← Nat.pow_succ']
        congr 2
        omega
      have := ih (a + 1) (v / 256) (by omega) (by omega)
      rw [e] at this
      split
      · exact this
      · have hx' : ¬a = x := fun q => hx q.symm
        simp only [mget, if_neg hx', this]
/-- A byte outside a write reads as before. -/
theorem memByte_memWrite_other (m : List Host.Cell) (a n v x : Nat) (h : x < a ∨ a + n ≤ x) :
    memByte (memWrite m a n v) x = memByte m x := by
  unfold memByte memWrite
  have hc : ∀ c ∈ cellsOf a n v, c.1 ≠ x := fun c hc => by have := cellsOf_range a n v c hc; omega
  rw [List.append_assoc, mget_append, mget_append]
  rw [mhas_false _ _ hc]
  rcases h with h | h
  · have e := mget_filter (fun _ => unwritten) m (fun k => decide (k < a)) x (by simpa using h)
    split
    · exact e
    · rename_i hn
      have hb : ∀ c ∈ m.filter (fun c => decide (a + n ≤ c.1)), c.1 ≠ x := fun c hc => by
        have := (List.mem_filter.mp hc).2
        simp only [decide_eq_true_eq] at this
        omega
      rw [if_neg (by simp), mget_absent _ _ _ hb, ← e, mget_absent]
      intro p hp hpx
      apply hn
      simp only [mhas, List.any_eq_true, beq_iff_eq]
      exact ⟨p, hp, hpx⟩
  · have hb : ∀ c ∈ m.filter (fun c => decide (c.1 < a)), c.1 ≠ x := fun c hc => by
      have := (List.mem_filter.mp hc).2
      simp only [decide_eq_true_eq] at this
      omega
    rw [mhas_false _ _ hb, if_neg (by simp), if_neg (by simp)]
    exact mget_filter (fun _ => unwritten) m (fun k => decide (a + n ≤ k)) x (by simpa using h)
/-- A byte inside a write reads as the write has it, little-endian. -/
theorem memByte_memWrite (m : List Host.Cell) (a n v x : Nat) (h1 : a ≤ x) (h2 : x < a + n) :
    memByte (memWrite m a n v) x = BitVec.ofNat 8 (v / 256 ^ (x - a)) := by
  unfold memByte memWrite
  have hb : ∀ c ∈ m.filter (fun c => decide (c.1 < a)), c.1 ≠ x := fun c hc => by
    have := (List.mem_filter.mp hc).2
    simp only [decide_eq_true_eq] at this
    omega
  have ha : ∀ c ∈ m.filter (fun c => decide (a + n ≤ c.1)), c.1 ≠ x := fun c hc => by
    have := (List.mem_filter.mp hc).2
    simp only [decide_eq_true_eq] at this
    omega
  rw [List.append_assoc, mget_append, mhas_false _ _ hb, if_neg (by simp), mget_append]
  split
  · exact cellsOf_byte a n v x h1 h2
  · rename_i hn
    rw [mget_absent _ _ _ ha, ← cellsOf_byte a n v x h1 h2, mget_absent]
    intro p hp hpx
    apply hn
    simp only [mhas, List.any_eq_true, beq_iff_eq]
    exact ⟨p, hp, hpx⟩

end Sys2Proof.Machine
end

