-- ==== Sys2Proof/Laws/MemOk.lean ====
section
/-! SUPPORT. The canonical form of memory as a property of states and of results, and how it passes through sequencing, folds and
the updates of other parts of the state. -/
namespace Sys2Proof.Machine

/-- The memory of a state is in its canonical form. -/
def MemOk (s : State) : Prop := Memory.wf s.mem = true
/-- The state of a result is. -/
def Res.Ok {α : Type} (r : Res α) : Prop := MemOk r.state
/-- The state of a result that may be absent is. -/
structure OptOk (o : Option State) : Prop where
  mem : ∀ t, o = some t → MemOk t

variable {s : State} {α β : Type}

theorem MemOk.wf (h : MemOk s) : Memory.wf s.mem = true := h
theorem memOk_fold : Memory.wf s.mem = true ↔ MemOk s := Iff.rfl
theorem memOk_of_eq {t : State} (h : MemOk s) (e : t.mem = s.mem) : MemOk t := by unfold MemOk; rw [e]; exact h
@[simp] theorem Res.ok_ok (a : α) : (Res.ok a s).Ok ↔ MemOk s := Iff.rfl
@[simp] theorem Res.ok_trap (t : Trap) : (Res.trap t s : Res α).Ok ↔ MemOk s := Iff.rfl
@[simp] theorem Res.ok_wait : (Res.wait s : Res α).Ok ↔ MemOk s := Iff.rfl
theorem Res.ok_state {r : Res α} (h : r.Ok) : MemOk r.state := h
theorem Res.bind_ok {r : Res α} {f : α → State → Res β} (h : r.Ok) (hf : ∀ a s, MemOk s → (f a s).Ok) : (r.bind f).Ok := by
  cases r with
  | ok a s => exact hf a s h
  | trap t s => exact h
  | wait s => exact h
theorem foldl_memOk {f : State → α → State} (hf : ∀ s x, MemOk s → MemOk (f s x)) (l : List α) (h : MemOk s) : MemOk (l.foldl f s) := by
  induction l generalizing s with
  | nil => exact h
  | cons x t ih => exact ih (hf s x h)
@[simp] theorem optOk_none : OptOk none := ⟨fun _ e => by cases e⟩
@[simp] theorem optOk_some : OptOk (some s) ↔ MemOk s := ⟨fun h => h.mem s rfl, fun h => ⟨fun t e => by cases e; exact h⟩⟩
theorem optOk_getD {o : Option State} (h : OptOk o) (hs : MemOk s) : MemOk (o.getD s) := by
  cases o with
  | none => exact hs
  | some t => exact h.mem t rfl

@[simp] theorem memOk_setHart (a : Agent) (v : Hart) : MemOk (s.setHart a v) ↔ MemOk s := Iff.rfl
@[simp] theorem memOk_setFar (c : Nat) (v : Far) : MemOk (s.setFar c v) ↔ MemOk s := Iff.rfl
@[simp] theorem memOk_setNear (h c : Nat) (v : NearCtx) : MemOk (s.setNear h c v) ↔ MemOk s := Iff.rfl
@[simp] theorem memOk_setUnit (h : Nat) (v : NearUnit) : MemOk (s.setUnit h v) ↔ MemOk s := Iff.rfl
@[simp] theorem memOk_setHome (h : Nat) (v : Home) : MemOk (s.setHome h v) ↔ MemOk s := Iff.rfl
@[simp] theorem memOk_setCluster (c : Nat) (v : Cluster) : MemOk (s.setCluster c v) ↔ MemOk s := Iff.rfl
@[simp] theorem memOk_setIsland (d : Nat) (v : Island) : MemOk (s.setIsland d v) ↔ MemOk s := Iff.rfl
@[simp] theorem memOk_setStack (k : Nat) (v : Stack) : MemOk (s.setStack k v) ↔ MemOk s := Iff.rfl
@[simp] theorem memOk_setCtx (c : Nat) (v : Context) : MemOk (s.setCtx c v) ↔ MemOk s := Iff.rfl
@[simp] theorem memOk_updHub (f : Hub → Hub) : MemOk (s.updHub f) ↔ MemOk s := Iff.rfl
@[simp] theorem memOk_updHart (a : Agent) (f : Hart → Hart) : MemOk (s.updHart a f) ↔ MemOk s := Iff.rfl
@[simp] theorem memOk_updFar (c : Nat) (f : Far → Far) : MemOk (s.updFar c f) ↔ MemOk s := Iff.rfl
@[simp] theorem memOk_updNear (h c : Nat) (f : NearCtx → NearCtx) : MemOk (s.updNear h c f) ↔ MemOk s := Iff.rfl
@[simp] theorem memOk_updUnit (h : Nat) (f : NearUnit → NearUnit) : MemOk (s.updUnit h f) ↔ MemOk s := Iff.rfl
@[simp] theorem memOk_updHome (h : Nat) (f : Home → Home) : MemOk (s.updHome h f) ↔ MemOk s := Iff.rfl
@[simp] theorem memOk_updCluster (c : Nat) (f : Cluster → Cluster) : MemOk (s.updCluster c f) ↔ MemOk s := Iff.rfl
@[simp] theorem memOk_updIsland (d : Nat) (f : Island → Island) : MemOk (s.updIsland d f) ↔ MemOk s := Iff.rfl
@[simp] theorem memOk_updStack (k : Nat) (f : Stack → Stack) : MemOk (s.updStack k f) ↔ MemOk s := Iff.rfl
@[simp] theorem memOk_setHubCore (n : Nat) (x : HubCore) : MemOk (s.setHubCore n x) ↔ MemOk s := Iff.rfl
@[simp] theorem memOk_setMapWord (w : Nat) (v : Word) : MemOk (s.setMapWord w v) ↔ MemOk s := Iff.rfl
@[simp] theorem memOk_tick : MemOk (s.tick) ↔ MemOk s := Iff.rfl
@[simp] theorem memOk_updCtx (c : Nat) (f : Context → Context) : MemOk (s.updCtx c f) ↔ MemOk s := by
  unfold State.updCtx; split <;> exact Iff.rfl
theorem memOk_mk (a : List Turn) (b : Agent) (c : Bool) (d e f : Nat) (m : List Host.Cell) (g : FMap Hart) (h : FMap Far) (i : FMap NearCtx)
    (j : FMap NearUnit) (k : FMap Home) (l : FMap Cluster) (n : FMap Island) (o : FMap Stack) (p : Hub) (q : FMap (Option Context))
    (r : List BankCmd) (t : FMap CmdInfo) (u : List Remote) (v : List Msg) (w : List BarMsg) (x : List StealMsg) (y : List Grant)
    (z : List HostAcc) (z' : List HostMsg) (b' : List BadSector) :
    MemOk ⟨a, b, c, d, e, f, m, g, h, i, j, k, l, n, o, p, q, r, t, u, v, w, x, y, z, z', b'⟩ ↔ Memory.wf m = true :=
  Iff.rfl

theorem memOk.setHart (a : Agent) (v : Hart) (hs : MemOk s) : MemOk (s.setHart a v) := (memOk_setHart ..).mpr hs
theorem memOk.setFar (c : Nat) (v : Far) (hs : MemOk s) : MemOk (s.setFar c v) := (memOk_setFar ..).mpr hs
theorem memOk.setNear (h c : Nat) (v : NearCtx) (hs : MemOk s) : MemOk (s.setNear h c v) := (memOk_setNear ..).mpr hs
theorem memOk.setUnit (h : Nat) (v : NearUnit) (hs : MemOk s) : MemOk (s.setUnit h v) := (memOk_setUnit ..).mpr hs
theorem memOk.setHome (h : Nat) (v : Home) (hs : MemOk s) : MemOk (s.setHome h v) := (memOk_setHome ..).mpr hs
theorem memOk.setCluster (c : Nat) (v : Cluster) (hs : MemOk s) : MemOk (s.setCluster c v) := (memOk_setCluster ..).mpr hs
theorem memOk.setIsland (d : Nat) (v : Island) (hs : MemOk s) : MemOk (s.setIsland d v) := (memOk_setIsland ..).mpr hs
theorem memOk.setStack (k : Nat) (v : Stack) (hs : MemOk s) : MemOk (s.setStack k v) := (memOk_setStack ..).mpr hs
theorem memOk.setCtx (c : Nat) (v : Context) (hs : MemOk s) : MemOk (s.setCtx c v) := (memOk_setCtx ..).mpr hs
theorem memOk.updHub (f : Hub → Hub) (hs : MemOk s) : MemOk (s.updHub f) := (memOk_updHub ..).mpr hs
theorem memOk.updHart (a : Agent) (f : Hart → Hart) (hs : MemOk s) : MemOk (s.updHart a f) := (memOk_updHart ..).mpr hs
theorem memOk.updFar (c : Nat) (f : Far → Far) (hs : MemOk s) : MemOk (s.updFar c f) := (memOk_updFar ..).mpr hs
theorem memOk.updNear (h c : Nat) (f : NearCtx → NearCtx) (hs : MemOk s) : MemOk (s.updNear h c f) := (memOk_updNear ..).mpr hs
theorem memOk.updUnit (h : Nat) (f : NearUnit → NearUnit) (hs : MemOk s) : MemOk (s.updUnit h f) := (memOk_updUnit ..).mpr hs
theorem memOk.updHome (h : Nat) (f : Home → Home) (hs : MemOk s) : MemOk (s.updHome h f) := (memOk_updHome ..).mpr hs
theorem memOk.updCluster (c : Nat) (f : Cluster → Cluster) (hs : MemOk s) : MemOk (s.updCluster c f) := (memOk_updCluster ..).mpr hs
theorem memOk.updIsland (d : Nat) (f : Island → Island) (hs : MemOk s) : MemOk (s.updIsland d f) := (memOk_updIsland ..).mpr hs
theorem memOk.updStack (k : Nat) (f : Stack → Stack) (hs : MemOk s) : MemOk (s.updStack k f) := (memOk_updStack ..).mpr hs
theorem memOk.setHubCore (n : Nat) (x : HubCore) (hs : MemOk s) : MemOk (s.setHubCore n x) := (memOk_setHubCore ..).mpr hs
theorem memOk.setMapWord (w : Nat) (v : Word) (hs : MemOk s) : MemOk (s.setMapWord w v) := (memOk_setMapWord ..).mpr hs
theorem memOk.tick (h : MemOk s) : MemOk s.tick := h
theorem memOk.updCtx (c : Nat) (f : Context → Context) (hs : MemOk s) : MemOk (s.updCtx c f) := (memOk_updCtx ..).mpr hs
theorem memOk.mk {a b c d e f m g h i j k l n o p q r t u v w x y z z' b'} (hm : Memory.wf m = true) :
    MemOk ⟨a, b, c, d, e, f, m, g, h, i, j, k, l, n, o, p, q, r, t, u, v, w, x, y, z, z', b'⟩ := hm
theorem memOk_ite {c : Prop} [Decidable c] {x y : State} (hx : MemOk x) (hy : MemOk y) : MemOk (if c then x else y) := by
  split
  · exact hx
  · exact hy
theorem resOk_ite {c : Prop} [Decidable c] {x y : Res α} (hx : x.Ok) (hy : y.Ok) : (if c then x else y).Ok := by
  split
  · exact hx
  · exact hy
theorem optOk_ite {c : Prop} [Decidable c] {x y : Option State} (hx : OptOk x) (hy : OptOk y) : OptOk (if c then x else y) := by
  split
  · exact hx
  · exact hy
theorem resOk.ok {a : α} (h : MemOk s) : (Res.ok a s).Ok := h
theorem resOk.trap {t : Trap} (h : MemOk s) : (Res.trap t s : Res α).Ok := h
theorem resOk.wait (h : MemOk s) : (Res.wait s : Res α).Ok := h
theorem optOk.some (h : MemOk s) : OptOk (Option.some s) := optOk_some.mpr h
theorem OptOk.of_eq {o : Option State} {t : State} (e : o = Option.some t) (h : OptOk o) : MemOk t := h.mem t e
theorem fst_memOk {β : Type} {p : State × β} {t : State} {b : β} (e : p = (t, b)) (h : MemOk p.1) : MemOk t := by rw [e] at h; exact h
theorem res_memOk {r : Res α} {a : α} {t : State} (e : r = .ok a t) (h : r.Ok) : MemOk t := by rw [e] at h; exact h
theorem resTrap_memOk {r : Res α} {a : Trap} {t : State} (e : r = .trap a t) (h : r.Ok) : MemOk t := by rw [e] at h; exact h
theorem resWait_memOk {r : Res α} {t : State} (e : r = .wait t) (h : r.Ok) : MemOk t := by rw [e] at h; exact h

theorem foldWf {β : Type} {g : List Host.Cell → β → List Host.Cell} (hg : ∀ m x, Memory.wf m = true → Memory.wf (g m x) = true) (l : List β)
    {m : List Host.Cell} (h : Memory.wf m = true) : Memory.wf (l.foldl g m) = true := by
  induction l generalizing m with
  | nil => exact h
  | cons x t ih => exact ih (hg m x h)
theorem applyElem_wf {m : List Host.Cell} {op pa v : Nat} (h : Memory.wf m = true) : Memory.wf (applyElem m op pa v) = true :=
  memWrite_wf _ _ _ _ h
theorem memWrite_ok {m : List Host.Cell} {a n v : Nat} (h : Memory.wf m = true) : Memory.wf (memWrite m a n v) = true :=
  memWrite_wf _ _ _ _ h
/-- Whether every result of a function keeps the canonical form. -/
theorem foldRes_ok {β : Type} {f : Res α → β → Res α} (hf : ∀ r x, r.Ok → (f r x).Ok) (l : List β) {r : Res α} (h : r.Ok) : (l.foldl f r).Ok := by
  induction l generalizing r with
  | nil => exact h
  | cons x t ih => exact ih (hf r x h)
theorem foldFst_ok {β γ : Type} {f : State × γ → β → State × γ} (hf : ∀ r x, MemOk r.1 → MemOk (f r x).1) (l : List β) {r : State × γ}
    (h : MemOk r.1) : MemOk (l.foldl f r).1 := by
  induction l generalizing r with
  | nil => exact h
  | cons x t ih => exact ih (hf r x h)

end Sys2Proof.Machine
end

