-- ==== Sys2Proof/Laws/MemOkMemory.lean ====
section
/-! SUPPORT. Every operation of the log, of the units and of the memory system keeps memory in its canonical form. -/
set_option linter.unusedTactic false
set_option linter.unreachableTactic false
set_option linter.unusedSimpArgs false
namespace Sys2Proof.Machine

theorem State.hirq_memOk (s : State) (k : Nat) (hs : MemOk s) : MemOk (s.hirq k) := by
  unfold State.hirq
  repeat' first
    | with_reducible assumption
    | intro _
    | with_reducible apply memOk.setHubCore
    | with_reducible apply foldl_memOk

theorem State.raise_memOk (s : State) (fn k : Nat) (hs : MemOk s) : MemOk (s.raise fn k) := by
  unfold State.raise
  repeat' first
    | with_reducible assumption
    | with_reducible apply memOk.updHub
    | simp only [memOk_mk, memOk_fold]
    | with_reducible apply memOk_ite

theorem State.raiseAll_memOk (s : State) (k : Nat) (hs : MemOk s) : MemOk (s.raiseAll k) := by
  unfold State.raiseAll
  repeat' first
    | with_reducible assumption
    | intro _
    | with_reducible apply State.raise_memOk
    | with_reducible apply foldl_memOk

theorem State.log_memOk (s : State) (kind unit cls id addr detail die : Nat) (hs : MemOk s) : MemOk (s.log kind unit cls id addr detail die) := by
  unfold State.log
  repeat' first
    | with_reducible assumption
    | with_reducible apply memOk.updHub
    | with_reducible apply State.hirq_memOk
    | with_reducible apply State.raise_memOk
    | simp only [memOk_mk, memOk_fold]
    | with_reducible apply memOk_ite

theorem State.slotIn_memOk (s : State) (core ch : Nat) (d : BitVec 512) (hs : MemOk s) : MemOk (s.slotIn core ch d) := by
  unfold State.slotIn
  repeat' first
    | with_reducible assumption
    | with_reducible apply memOk.setFar
    | with_reducible apply memOk.setHart
    | simp only [memOk_mk, memOk_fold]
    | with_reducible apply memOk_ite
    | split

theorem State.dropStale_memOk (s : State) (d : Option Nat) (sender : Nat) (inc : BitVec 16) (hs : MemOk s) : MemOk (s.dropStale d sender inc) := by
  unfold State.dropStale
  repeat' first
    | with_reducible assumption
    | with_reducible apply State.log_memOk

theorem State.portPast_memOk (s : State) (core : Nat) (m : Msg) (hs : MemOk s) : MemOk (s.portPast core m) := by
  unfold State.portPast
  repeat' first
    | with_reducible assumption
    | with_reducible apply memOk.updFar

theorem State.acceptOwn_memOk (s : State) (m : Msg) (hs : MemOk s) : MemOk (s.acceptOwn m) := by
  unfold State.acceptOwn
  repeat' first
    | with_reducible assumption
    | with_reducible apply State.log_memOk
    | with_reducible apply State.dropStale_memOk
    | with_reducible apply State.portPast_memOk
    | with_reducible apply memOk.updFar
    | with_reducible apply State.slotIn_memOk
    | with_reducible apply memOk.setCtx
    | simp only [memOk_mk, memOk_fold]
    | with_reducible apply memOk_ite
    | split

theorem State.deliverOwn_memOk (s : State) (m : Msg) (hs : MemOk s) : MemOk (s.deliverOwn m) := by
  unfold State.deliverOwn
  repeat' first
    | with_reducible assumption
    | with_reducible apply State.acceptOwn_memOk
    | simp only [memOk_mk, memOk_fold]
    | with_reducible apply memOk_ite
    | split

theorem State.notice_memOk (s : State) (ctx vcore kind nvcore wher : Nat) (body : BitVec 448) (hs : MemOk s) : MemOk (s.notice ctx vcore kind nvcore wher body) := by
  unfold State.notice
  repeat' first
    | with_reducible assumption
    | with_reducible apply State.deliverOwn_memOk

theorem State.deadLetter_memOk (s : State) (sender : Option (Nat × Nat)) (kind vcore wher ctx : Nat) (body : BitVec 448) (hs : MemOk s) : MemOk (s.deadLetter sender kind vcore wher ctx body) := by
  unfold State.deadLetter
  repeat' first
    | with_reducible assumption
    | with_reducible apply State.notice_memOk
    | with_reducible apply State.log_memOk
    | split

theorem State.flushChannel_memOk (s : State) (core ch : Nat) (fuel : Nat) (hs : MemOk s) : MemOk (s.flushChannel core ch fuel) := by
  induction fuel generalizing s core ch with
  | zero =>
    unfold State.flushChannel
    repeat' first
      | with_reducible assumption
  | succ n ih =>
    unfold State.flushChannel
    repeat' first
      | with_reducible assumption
      | with_reducible apply memOk.setFar
      | with_reducible apply State.slotIn_memOk
      | with_reducible apply memOk.setCtx
      | with_reducible apply ih
      | simp only [memOk_mk, memOk_fold]
      | with_reducible apply memOk_ite
      | split

theorem State.flushMailbox_memOk (s : State) (core : Nat) (hs : MemOk s) : MemOk (s.flushMailbox core) := by
  unfold State.flushMailbox
  repeat' first
    | with_reducible assumption
    | intro _
    | with_reducible apply State.flushChannel_memOk
    | with_reducible apply foldl_memOk

theorem State.stealDrop_memOk (s : State) (core home : Nat) (hs : MemOk s) : MemOk (s.stealDrop core home) := by
  unfold State.stealDrop
  repeat' first
    | with_reducible assumption
    | with_reducible apply memOk.updHome
    | simp only [memOk_mk, memOk_fold]
    | with_reducible apply memOk_ite

theorem State.autoCancel_memOk (s : State) (core : Nat) (hs : MemOk s) : MemOk (s.autoCancel core) := by
  unfold State.autoCancel
  repeat' first
    | with_reducible assumption
    | with_reducible apply State.stealDrop_memOk
    | with_reducible apply memOk.updFar
    | with_reducible apply memOk_ite
    | split

theorem State.autoCancelAll_memOk (s : State) (ctx : Nat) (here : Nat → Bool) (hs : MemOk s) : MemOk (s.autoCancelAll ctx here) := by
  unfold State.autoCancelAll
  repeat' first
    | with_reducible assumption
    | intro _
    | with_reducible apply State.autoCancel_memOk
    | with_reducible apply memOk_ite
    | with_reducible apply foldl_memOk

theorem State.clusterRoom_memOk (s : State) (cl ctx need : Nat) (hs : MemOk s) : OptOk (s.clusterRoom cl ctx need) := by
  unfold State.clusterRoom
  repeat' first
    | with_reducible assumption
    | with_reducible apply memOk.updCluster
    | with_reducible apply memOk.setIsland
    | with_reducible apply State.autoCancelAll_memOk
    | simp only [memOk_mk, memOk_fold]
    | with_reducible apply optOk_ite
    | with_reducible apply optOk.some
    | with_reducible exact optOk_none

theorem State.coreRoom_memOk (s : State) (core ctx : Nat) (hs : MemOk s) : OptOk (s.coreRoom core ctx) := by
  unfold State.coreRoom
  repeat' first
    | with_reducible assumption
    | with_reducible apply State.clusterRoom_memOk
    | with_reducible apply memOk.updCluster
    | with_reducible apply memOk.updFar
    | with_reducible apply State.autoCancelAll_memOk
    | simp only [memOk_mk, memOk_fold]
    | with_reducible apply optOk_ite
    | with_reducible apply optOk.some
    | with_reducible exact optOk_none
    | split
    | (with_reducible refine OptOk.of_eq (by with_reducible assumption) ?_)

theorem State.coreEnqueue_memOk (s : State) (core : Nat) (t : Task) (hs : MemOk s) : OptOk (s.coreEnqueue core t) := by
  unfold State.coreEnqueue
  repeat' first
    | with_reducible assumption
    | with_reducible apply State.coreRoom_memOk
    | with_reducible apply memOk.setFar
    | with_reducible apply State.autoCancel_memOk
    | with_reducible apply memOk.setHart
    | simp only [memOk_mk, memOk_fold]
    | with_reducible apply optOk_ite
    | with_reducible apply optOk.some
    | with_reducible exact optOk_none
    | split
    | (with_reducible refine OptOk.of_eq (by with_reducible assumption) ?_)

theorem State.redeliver_memOk (s : State) (c v core : Nat) (hs : MemOk s) : MemOk (s.redeliver c v core) := by
  unfold State.redeliver
  repeat' first
    | with_reducible assumption
    | intro _
    | with_reducible apply memOk.setCtx
    | with_reducible apply memOk.updFar
    | with_reducible apply State.flushMailbox_memOk
    | with_reducible apply State.coreEnqueue_memOk
    | with_reducible apply memOk.updCtx
    | simp only [memOk_mk, memOk_fold]
    | with_reducible apply memOk_ite
    | with_reducible apply foldl_memOk
    | split
    | (with_reducible refine OptOk.of_eq (by with_reducible assumption) ?_)

theorem State.logSector_memOk (s : State) (kind unit own pa detail : Nat) (hs : MemOk s) : MemOk (s.logSector kind unit own pa detail) := by
  unfold State.logSector
  repeat' first
    | with_reducible assumption
    | with_reducible apply State.log_memOk

theorem memoryError_ok {α : Type} {s : State} {pa unit kind own : Nat} (hs : MemOk s) : (memoryError s pa unit kind own : Res α).Ok := by
  unfold memoryError
  exact resOk.trap (State.logSector_memOk _ _ _ _ _ _ hs)

theorem State.freshen_memOk (s : State) (unit own sec : Nat) (hs : MemOk s) : MemOk (s.freshen unit own sec) := by
  unfold State.freshen
  repeat' first
    | with_reducible assumption
    | simp only [memOk_mk, memOk_fold]
    | with_reducible apply memOk_ite

theorem State.coverFresh_memOk (s : State) (unit own ln : Nat) (cov : BitVec 2) (hs : MemOk s) : MemOk (s.coverFresh unit own ln cov) := by
  unfold State.coverFresh
  repeat' first
    | with_reducible assumption
    | with_reducible apply State.freshen_memOk
    | simp only [memOk_mk, memOk_fold]
    | with_reducible apply memOk_ite

theorem State.checkSectors_memOk (s : State) (unit own ln : Nat) (b : BitVec 2) (kind : Nat) (hs : MemOk s) : (s.checkSectors unit own ln b kind).Ok := by
  unfold State.checkSectors
  repeat' first
    | with_reducible assumption
    | with_reducible apply State.freshen_memOk
    | with_reducible apply memoryError_ok
    | with_reducible apply resOk_ite
    | with_reducible apply resOk.ok
    | split

theorem State.errorOut_memOk (s : State) (unit own ln : Nat) (b : BitVec 2) (agent : Option Agent) (hs : MemOk s) : MemOk (s.errorOut unit own ln b agent) := by
  unfold State.errorOut
  repeat' first
    | with_reducible assumption
    | with_reducible apply State.freshen_memOk
    | with_reducible apply State.logSector_memOk
    | with_reducible apply memOk.updHart
    | simp only [memOk_mk, memOk_fold]
    | with_reducible apply memOk_ite
    | split

theorem State.wake_memOk (s : State) (msc : Bool) (ln code : Nat) (hs : MemOk s) : MemOk (s.wake msc ln code) := by
  unfold State.wake
  repeat' first
    | with_reducible assumption
    | simp only [memOk_mk, memOk_fold]
    | with_reducible apply memOk_ite

theorem State.lostWrite_memOk (s : State) (pa : Nat) (hs : MemOk s) : MemOk (s.lostWrite pa) := by
  unfold State.lostWrite
  repeat' first
    | with_reducible assumption
    | with_reducible apply State.log_memOk

theorem State.flushBank_memOk (s : State) (stk bank : Nat) (hs : MemOk s) : MemOk (s.flushBank stk bank) := by
  unfold State.flushBank
  repeat' first
    | with_reducible assumption
    | intro _
    | with_reducible apply State.lostWrite_memOk
    | with_reducible apply memOk.updStack
    | simp only [memOk_mk, memOk_fold]
    | with_reducible apply memOk_ite
    | with_reducible apply foldl_memOk
    | with_reducible apply foldWf
    | with_reducible apply applyElem_wf

theorem State.flushFor_memOk (s : State) (pa n : Nat) (hs : MemOk s) : MemOk (s.flushFor pa n) := by
  unfold State.flushFor
  repeat' first
    | with_reducible assumption
    | with_reducible apply State.flushBank_memOk
    | with_reducible apply memOk_ite

theorem State.flushStack_memOk (s : State) (stk : Nat) (hs : MemOk s) : MemOk (s.flushStack stk) := by
  unfold State.flushStack
  repeat' first
    | with_reducible assumption
    | intro _
    | with_reducible apply State.flushBank_memOk
    | with_reducible apply foldl_memOk

theorem State.setMsc_memOk (s : State) (ln : Nat) (l : CLine) (hs : MemOk s) : MemOk (s.setMsc ln l) := by
  unfold State.setMsc
  repeat' first
    | with_reducible assumption
    | with_reducible apply memOk.updStack

theorem State.dropMsc_memOk (s : State) (ln : Nat) (hs : MemOk s) : MemOk (s.dropMsc ln) := by
  unfold State.dropMsc
  repeat' first
    | with_reducible assumption
    | with_reducible apply memOk.updStack

theorem State.setL2_memOk (s : State) (d ln : Nat) (l : CLine) (hs : MemOk s) : MemOk (s.setL2 d ln l) := by
  unfold State.setL2
  repeat' first
    | with_reducible assumption
    | with_reducible apply memOk.updIsland

theorem State.putL1_memOk (s : State) (c ln : Nat) (l : CLine) (hs : MemOk s) : MemOk (s.putL1 c ln l) := by
  unfold State.putL1
  repeat' first
    | with_reducible assumption
    | with_reducible apply memOk.updFar

theorem State.backInvalidate_memOk (s : State) (ln : Nat) (hs : MemOk s) : MemOk (s.backInvalidate ln) := by
  unfold State.backInvalidate
  repeat' first
    | with_reducible assumption
    | simp only [memOk_mk, memOk_fold]
    | with_reducible apply memOk_ite

theorem State.backRead_memOk (s : State) (ln : Nat) (hs : MemOk s) : MemOk (s.backRead ln) := by
  unfold State.backRead
  repeat' first
    | with_reducible assumption
    | simp only [memOk_mk, memOk_fold]
    | with_reducible apply memOk_ite

theorem State.askHostOff_memOk (s : State) (x ln : Nat) (write : Bool) (hs : MemOk s) : MemOk (s.askHostOff x ln write) := by
  unfold State.askHostOff
  repeat' first
    | with_reducible assumption
    | with_reducible apply State.backRead_memOk
    | with_reducible apply State.backInvalidate_memOk
    | with_reducible apply memOk_ite

theorem State.mscClean_memOk (s : State) (ln : Nat) (hs : MemOk s) : MemOk (s.mscClean ln) := by
  unfold State.mscClean
  repeat' first
    | with_reducible assumption
    | with_reducible apply State.errorOut_memOk
    | with_reducible apply State.lostWrite_memOk
    | with_reducible apply State.coverFresh_memOk
    | with_reducible apply State.setMsc_memOk
    | simp only [memOk_mk, memOk_fold]
    | with_reducible apply memOk_ite
    | with_reducible apply memWrite_ok

theorem State.mscDrop_memOk (s : State) (ln : Nat) (hs : MemOk s) : MemOk (s.mscDrop ln) := by
  unfold State.mscDrop
  repeat' first
    | with_reducible assumption
    | with_reducible apply State.mscClean_memOk
    | with_reducible apply State.dropMsc_memOk
    | with_reducible apply State.wake_memOk
    | with_reducible apply memOk_ite

theorem State.mscMake_memOk (s : State) (ln : Nat) (hs : MemOk s) : MemOk (s.mscMake ln) := by
  unfold State.mscMake
  repeat' first
    | with_reducible assumption
    | with_reducible apply State.mscDrop_memOk
    | split

theorem State.flushTouch_memOk (s : State) (pa n : Nat) (need : BitVec 2) (hs : MemOk s) : MemOk (s.flushTouch pa n need) := by
  unfold State.flushTouch
  repeat' first
    | with_reducible assumption
    | with_reducible apply State.flushFor_memOk
    | with_reducible apply memOk_ite

theorem State.checkMsc_memOk (s : State) (ln : Nat) (need : BitVec 2) (kind : Nat) (hs : MemOk s) : (s.checkMsc ln need kind).Ok := by
  unfold State.checkMsc
  repeat' first
    | with_reducible assumption
    | intro _
    | with_reducible apply State.checkSectors_memOk
    | with_reducible apply resOk_ite
    | with_reducible apply resOk.ok
    | with_reducible apply Res.bind_ok

theorem State.mscRead_memOk (s : State) (pa n kind : Nat) (hs : MemOk s) : (s.mscRead pa n kind).Ok := by
  unfold State.mscRead
  repeat' first
    | with_reducible assumption
    | intro _
    | with_reducible apply State.askHostOff_memOk
    | with_reducible apply State.checkMsc_memOk
    | with_reducible apply State.mscMake_memOk
    | with_reducible apply State.flushTouch_memOk
    | with_reducible apply State.coverFresh_memOk
    | with_reducible apply State.setMsc_memOk
    | with_reducible apply memoryError_ok
    | simp only [memOk_mk, memOk_fold]
    | with_reducible apply resOk_ite
    | with_reducible apply resOk.ok
    | with_reducible apply resOk.wait
    | with_reducible apply Res.bind_ok
    | split

theorem State.mscPeek_memOk (s : State) (ln : Nat) (need : BitVec 2) (kind : Nat) (hs : MemOk s) : (s.mscPeek ln need kind).Ok := by
  unfold State.mscPeek
  repeat' first
    | with_reducible assumption
    | intro _
    | with_reducible apply State.backRead_memOk
    | with_reducible apply State.checkMsc_memOk
    | with_reducible apply State.flushFor_memOk
    | with_reducible apply memoryError_ok
    | simp only [memOk_mk, memOk_fold]
    | with_reducible apply memOk_ite
    | with_reducible apply resOk_ite
    | with_reducible apply resOk.ok
    | with_reducible apply resOk.wait
    | with_reducible apply Res.bind_ok

theorem State.mscWrite_memOk (s : State) (pa n kind : Nat) (v : BitVec 512) (hs : MemOk s) : (s.mscWrite pa n kind v).Ok := by
  unfold State.mscWrite
  repeat' first
    | with_reducible assumption
    | intro _
    | with_reducible apply State.askHostOff_memOk
    | with_reducible apply State.checkMsc_memOk
    | with_reducible apply State.mscMake_memOk
    | with_reducible apply State.flushTouch_memOk
    | with_reducible apply State.coverFresh_memOk
    | with_reducible apply State.setMsc_memOk
    | with_reducible apply State.wake_memOk
    | with_reducible apply memoryError_ok
    | simp only [memOk_mk, memOk_fold]
    | with_reducible apply resOk_ite
    | with_reducible apply resOk.ok
    | with_reducible apply resOk.wait
    | with_reducible apply Res.bind_ok
    | split

theorem State.mscMerge_memOk (s : State) (ln : Nat) (d : BitVec 512) (sec : BitVec 2) (hs : MemOk s) : MemOk (s.mscMerge ln d sec) := by
  unfold State.mscMerge
  repeat' first
    | with_reducible assumption
    | with_reducible apply State.log_memOk
    | with_reducible apply State.mscMake_memOk
    | with_reducible apply State.coverFresh_memOk
    | with_reducible apply State.flushFor_memOk
    | with_reducible apply State.setMsc_memOk
    | with_reducible apply State.wake_memOk
    | simp only [memOk_mk, memOk_fold]
    | with_reducible apply memOk_ite

theorem State.pbForget_memOk (s : State) (c ln : Nat) (hs : MemOk s) : MemOk (s.pbForget c ln) := by
  unfold State.pbForget
  repeat' first
    | with_reducible assumption
    | with_reducible apply memOk.updFar
    | with_reducible apply memOk_ite

theorem State.l1Clean_memOk (s : State) (c ln : Nat) (drop : Bool) (own : Option Agent) (hs : MemOk s) : MemOk (s.l1Clean c ln drop own) := by
  unfold State.l1Clean
  repeat' first
    | with_reducible assumption
    | with_reducible apply State.errorOut_memOk
    | with_reducible apply State.coverFresh_memOk
    | with_reducible apply State.setL2_memOk
    | with_reducible apply State.pbForget_memOk
    | with_reducible apply memOk.updFar
    | with_reducible apply State.putL1_memOk
    | simp only [memOk_mk, memOk_fold]
    | with_reducible apply memOk_ite

theorem State.setL1_memOk (s : State) (c ln : Nat) (l : CLine) (hs : MemOk s) : MemOk (s.setL1 c ln l) := by
  unfold State.setL1
  repeat' first
    | with_reducible assumption
    | with_reducible apply State.l1Clean_memOk
    | with_reducible apply State.putL1_memOk
    | split

theorem State.l1CleanAll_memOk (s : State) (d ln : Nat) (drop : Bool) (own : Option Agent) (hs : MemOk s) : MemOk (s.l1CleanAll d ln drop own) := by
  unfold State.l1CleanAll
  repeat' first
    | with_reducible assumption
    | intro _
    | with_reducible apply State.l1Clean_memOk
    | with_reducible apply foldl_memOk

theorem State.l1CleanOthers_memOk (s : State) (c ln : Nat) (drop : Bool) (hs : MemOk s) : MemOk (s.l1CleanOthers c ln drop) := by
  unfold State.l1CleanOthers
  repeat' first
    | with_reducible assumption
    | intro _
    | with_reducible apply State.l1Clean_memOk
    | with_reducible apply memOk_ite
    | with_reducible apply foldl_memOk

theorem State.lineToHost_memOk (s : State) (d ln : Nat) (data : BitVec 512) (sec : BitVec 2) (hs : MemOk s) : MemOk (s.lineToHost d ln data sec) := by
  unfold State.lineToHost
  repeat' first
    | with_reducible assumption
    | simp only [memOk_mk, memOk_fold]
    | with_reducible apply memOk_ite

theorem State.l2Clean_memOk (s : State) (d ln : Nat) (drop : Bool) (own : Option Agent) (hs : MemOk s) : MemOk (s.l2Clean d ln drop own) := by
  unfold State.l2Clean
  repeat' first
    | with_reducible assumption
    | with_reducible apply State.errorOut_memOk
    | with_reducible apply State.lineToHost_memOk
    | with_reducible apply State.mscMerge_memOk
    | with_reducible apply memOk.updIsland
    | with_reducible apply State.setL2_memOk
    | simp only [memOk_mk, memOk_fold]
    | with_reducible apply memOk_ite

theorem State.islandClean_memOk (s : State) (d ln : Nat) (drop : Bool) (own : Option Agent) (hs : MemOk s) : MemOk (s.islandClean d ln drop own) := by
  unfold State.islandClean
  repeat' first
    | with_reducible assumption
    | with_reducible apply State.l1CleanAll_memOk
    | with_reducible apply State.l2Clean_memOk

theorem State.cleanTry_memOk (s : State) (d ln : Nat) (drop : Bool) (own : Option Agent) (hs : MemOk s) : (s.cleanTry d ln drop own).Ok := by
  unfold State.cleanTry
  repeat' first
    | with_reducible assumption
    | with_reducible apply State.backInvalidate_memOk
    | with_reducible apply State.islandClean_memOk
    | with_reducible apply resOk.ok
    | with_reducible apply resOk.wait
    | split

theorem State.l2Room_memOk (s : State) (d ln : Nat) (hs : MemOk s) : (s.l2Room d ln).Ok := by
  unfold State.l2Room
  repeat' first
    | with_reducible assumption
    | intro _
    | with_reducible apply State.cleanTry_memOk
    | with_reducible apply State.wake_memOk
    | with_reducible apply resOk.ok
    | with_reducible apply Res.bind_ok
    | split

theorem State.recallLine_memOk (s : State) (d ln : Nat) (drop : Bool) (hs : MemOk s) : MemOk (s.recallLine d ln drop) := by
  unfold State.recallLine
  repeat' first
    | with_reducible assumption
    | with_reducible apply State.islandClean_memOk
    | with_reducible apply State.wake_memOk
    | with_reducible apply State.setL2_memOk
    | simp only [memOk_mk, memOk_fold]
    | with_reducible apply memOk_ite

theorem State.recallOne_memOk (s : State) (d ln : Nat) (drop : Bool) (hs : MemOk s) : (s.recallOne d ln drop).Ok := by
  unfold State.recallOne
  repeat' first
    | with_reducible assumption
    | with_reducible apply memOk.updIsland
    | with_reducible apply State.recallLine_memOk
    | with_reducible apply memOk_ite
    | with_reducible apply resOk_ite
    | with_reducible apply resOk.ok
    | with_reducible apply resOk.wait

theorem State.hostElsewhere_memOk (s : State) (d ln : Nat) (drop : Bool) (hs : MemOk s) : (s.hostElsewhere d ln drop).Ok := by
  unfold State.hostElsewhere
  repeat' first
    | with_reducible assumption
    | intro _
    | with_reducible apply State.recallOne_memOk
    | with_reducible apply resOk_ite
    | with_reducible apply resOk.ok
    | with_reducible apply Res.bind_ok
    | with_reducible apply foldRes_ok

theorem State.dirPut_memOk (s : State) (ln : Nat) (hs : MemOk s) : MemOk (s.dirPut ln) := by
  unfold State.dirPut
  repeat' first
    | with_reducible assumption
    | with_reducible apply memOk.updHub

theorem State.dirRoom_memOk (s : State) (ln : Nat) (hs : MemOk s) : (s.dirRoom ln).Ok := by
  unfold State.dirRoom
  repeat' first
    | with_reducible assumption
    | intro _
    | with_reducible apply memOk.updHub
    | with_reducible apply State.hostElsewhere_memOk
    | with_reducible apply State.backInvalidate_memOk
    | simp only [memOk_mk, memOk_fold]
    | with_reducible apply resOk_ite
    | with_reducible apply resOk.ok
    | with_reducible apply resOk.wait
    | with_reducible apply Res.bind_ok
    | split

theorem State.askHost_memOk (s : State) (src ln : Nat) (need : BitVec 2) (own : Bool) (hs : MemOk s) : MemOk (s.askHost src ln need own) := by
  unfold State.askHost
  repeat' first
    | with_reducible assumption
    | simp only [memOk_mk, memOk_fold]
    | with_reducible apply memOk_ite

theorem State.l2Fill_memOk (s : State) (core ln : Nat) (need : BitVec 2) (kind : Nat) (hs : MemOk s) : (s.l2Fill core ln need kind).Ok := by
  unfold State.l2Fill
  repeat' first
    | with_reducible assumption
    | intro _
    | with_reducible apply State.l2Room_memOk
    | with_reducible apply State.checkSectors_memOk
    | with_reducible apply State.setL2_memOk
    | with_reducible apply State.dirRoom_memOk
    | with_reducible apply State.hostElsewhere_memOk
    | with_reducible apply State.askHost_memOk
    | with_reducible apply State.mscPeek_memOk
    | with_reducible apply State.coverFresh_memOk
    | simp only [memOk_mk, memOk_fold]
    | with_reducible apply resOk_ite
    | with_reducible apply resOk.ok
    | with_reducible apply resOk.wait
    | with_reducible apply Res.bind_ok

theorem State.own_memOk (s : State) (core ln : Nat) (hs : MemOk s) : (s.own core ln).Ok := by
  unfold State.own
  repeat' first
    | with_reducible assumption
    | intro _
    | with_reducible apply State.l2Room_memOk
    | with_reducible apply State.dirRoom_memOk
    | with_reducible apply State.hostElsewhere_memOk
    | with_reducible apply State.askHost_memOk
    | simp only [memOk_mk, memOk_fold]
    | with_reducible apply resOk_ite
    | with_reducible apply resOk.ok
    | with_reducible apply resOk.wait
    | with_reducible apply Res.bind_ok

theorem State.loadC_memOk (s : State) (core pa n kind : Nat) (hs : MemOk s) : (s.loadC core pa n kind).Ok := by
  unfold State.loadC
  repeat' first
    | with_reducible assumption
    | intro _
    | with_reducible apply State.checkSectors_memOk
    | with_reducible apply State.putL1_memOk
    | with_reducible apply State.l1CleanOthers_memOk
    | with_reducible apply State.l2Fill_memOk
    | with_reducible apply State.coverFresh_memOk
    | with_reducible apply State.setL1_memOk
    | simp only [memOk_mk, memOk_fold]
    | with_reducible apply resOk_ite
    | with_reducible apply resOk.ok
    | with_reducible apply Res.bind_ok

theorem State.loadG_memOk (s : State) (core pa n kind : Nat) (own : Option Agent) (hs : MemOk s) : (s.loadG core pa n kind own).Ok := by
  unfold State.loadG
  repeat' first
    | with_reducible assumption
    | intro _
    | with_reducible apply State.l1CleanAll_memOk
    | with_reducible apply State.l2Fill_memOk
    | simp only [memOk_mk, memOk_fold]
    | with_reducible apply resOk.ok
    | with_reducible apply Res.bind_ok

theorem State.loadM_memOk (s : State) (d pa n kind : Nat) (own : Option Agent) (hs : MemOk s) : (s.loadM d pa n kind own).Ok := by
  unfold State.loadM
  repeat' first
    | with_reducible assumption
    | intro _
    | with_reducible apply State.cleanTry_memOk
    | with_reducible apply State.mscRead_memOk
    | with_reducible apply Res.bind_ok

theorem State.noteDirty_memOk (s : State) (core pa n : Nat) (hs : MemOk s) : MemOk (s.noteDirty core pa n) := by
  unfold State.noteDirty
  repeat' first
    | with_reducible assumption
    | with_reducible apply memOk.updFar

theorem State.storeC_memOk (s : State) (core pa n : Nat) (v : BitVec 512) (hs : MemOk s) : (s.storeC core pa n v).Ok := by
  unfold State.storeC
  repeat' first
    | with_reducible assumption
    | intro _
    | with_reducible apply State.own_memOk
    | with_reducible apply State.l1CleanOthers_memOk
    | with_reducible apply State.l2Fill_memOk
    | with_reducible apply State.coverFresh_memOk
    | with_reducible apply State.setL1_memOk
    | with_reducible apply State.noteDirty_memOk
    | with_reducible apply State.pbForget_memOk
    | with_reducible apply State.wake_memOk
    | simp only [memOk_mk, memOk_fold]
    | with_reducible apply resOk.ok
    | with_reducible apply Res.bind_ok

theorem State.storeG_memOk (s : State) (core pa n : Nat) (v : BitVec 512) (own : Option Agent) (hs : MemOk s) : (s.storeG core pa n v own).Ok := by
  unfold State.storeG
  repeat' first
    | with_reducible assumption
    | intro _
    | with_reducible apply State.own_memOk
    | with_reducible apply State.l1CleanAll_memOk
    | with_reducible apply State.l2Fill_memOk
    | with_reducible apply State.coverFresh_memOk
    | with_reducible apply State.setL2_memOk
    | with_reducible apply State.noteDirty_memOk
    | with_reducible apply State.pbForget_memOk
    | with_reducible apply State.wake_memOk
    | simp only [memOk_mk, memOk_fold]
    | with_reducible apply resOk.ok
    | with_reducible apply Res.bind_ok

theorem State.storeM_memOk (s : State) (d pa n kind : Nat) (v : BitVec 512) (own : Option Agent) (hs : MemOk s) : (s.storeM d pa n kind v own).Ok := by
  unfold State.storeM
  repeat' first
    | with_reducible assumption
    | intro _
    | with_reducible apply State.cleanTry_memOk
    | with_reducible apply State.mscWrite_memOk
    | with_reducible apply State.wake_memOk
    | with_reducible apply resOk.ok
    | with_reducible apply Res.bind_ok

theorem State.amoM_memOk (s : State) (d pa n : Nat) (f : Nat → Option Nat) (own : Option Agent) (hs : MemOk s) : (s.amoM d pa n f own).Ok := by
  unfold State.amoM
  repeat' first
    | with_reducible assumption
    | intro _
    | with_reducible apply State.backInvalidate_memOk
    | with_reducible apply State.cleanTry_memOk
    | with_reducible apply State.mscRead_memOk
    | with_reducible apply State.wake_memOk
    | with_reducible apply State.mscWrite_memOk
    | simp only [memOk_mk, memOk_fold]
    | with_reducible apply resOk.ok
    | with_reducible apply resOk.wait
    | with_reducible apply Res.bind_ok
    | split

theorem State.amoNear_memOk (s : State) (pa n : Nat) (f : Nat → Option Nat) (hs : MemOk s) : (s.amoNear pa n f).Ok := by
  unfold State.amoNear
  repeat' first
    | with_reducible assumption
    | intro _
    | with_reducible apply State.backInvalidate_memOk
    | with_reducible apply State.mscRead_memOk
    | with_reducible apply State.mscWrite_memOk
    | with_reducible apply resOk.ok
    | with_reducible apply resOk.wait
    | with_reducible apply Res.bind_ok
    | split

theorem State.amoG_memOk (s : State) (core pa n : Nat) (f : Nat → Option Nat) (hs : MemOk s) : (s.amoG core pa n f).Ok := by
  unfold State.amoG
  repeat' first
    | with_reducible assumption
    | intro _
    | with_reducible apply State.own_memOk
    | with_reducible apply State.l1CleanAll_memOk
    | with_reducible apply State.l2Fill_memOk
    | with_reducible apply State.setL2_memOk
    | with_reducible apply State.noteDirty_memOk
    | with_reducible apply State.pbForget_memOk
    | with_reducible apply State.wake_memOk
    | simp only [memOk_mk, memOk_fold]
    | with_reducible apply resOk.ok
    | with_reducible apply Res.bind_ok
    | split

theorem HostLoad.result_ok (l : HostLoad) (n : Nat) (s : State) (hs : MemOk s) : (l.result n s).Ok := by
  unfold HostLoad.result
  split <;> exact hs

theorem State.hostLoad_memOk (s : State) (a : Agent) (acc : Acc) (n : Nat) (hs : MemOk s) : (s.hostLoad a acc n).Ok := by
  unfold State.hostLoad
  repeat' first
    | with_reducible assumption
    | with_reducible apply memOk.setHart
    | with_reducible apply HostLoad.result_ok
    | simp only [memOk_mk, memOk_fold]
    | with_reducible apply resOk.wait
    | split

theorem State.hostStore_memOk (s : State) (a : Agent) (pa n : Nat) (rel : Option Scope) (v : BitVec 512) (hs : MemOk s) : MemOk (s.hostStore a pa n rel v) := by
  unfold State.hostStore
  repeat' first
    | with_reducible assumption
    | simp only [memOk_mk, memOk_fold]

theorem State.sectorOut_memOk (s : State) (core sec : Nat) (host : Bool) (hs : MemOk s) : (s.sectorOut core sec host).Ok := by
  unfold State.sectorOut
  repeat' first
    | with_reducible assumption
    | with_reducible apply State.backInvalidate_memOk
    | with_reducible apply State.errorOut_memOk
    | with_reducible apply State.pbForget_memOk
    | with_reducible apply State.coverFresh_memOk
    | with_reducible apply State.setL2_memOk
    | with_reducible apply State.putL1_memOk
    | with_reducible apply State.lineToHost_memOk
    | with_reducible apply State.mscMerge_memOk
    | simp only [memOk_mk, memOk_fold]
    | with_reducible apply memOk_ite
    | with_reducible apply resOk_ite
    | with_reducible apply resOk.ok
    | with_reducible apply resOk.wait
    | split

theorem State.writeBacks_memOk (s : State) (core : Nat) (host : Bool) (hs : MemOk s) : (s.writeBacks core host).Ok := by
  unfold State.writeBacks
  repeat' first
    | with_reducible assumption
    | intro _
    | with_reducible apply State.sectorOut_memOk
    | with_reducible apply memOk.updFar
    | simp only [memOk_mk, memOk_fold]
    | with_reducible apply memOk_ite
    | with_reducible apply resOk_ite
    | with_reducible apply resOk.ok
    | with_reducible apply resOk.wait
    | with_reducible apply Res.bind_ok
    | with_reducible apply foldRes_ok

theorem State.releaseLines_memOk (s : State) (a : Agent) (host : Bool) (hs : MemOk s) : (s.releaseLines a host).Ok := by
  unfold State.releaseLines
  repeat' first
    | with_reducible assumption
    | with_reducible apply State.writeBacks_memOk
    | with_reducible apply resOk.ok
    | split

end Sys2Proof.Machine
end

