-- ==== Sys2Proof/Laws/MemOkTypes.lean ====
section
/-! SUPPORT. The canonical form of memory in the state of the other kinds of result: engine accesses and copies, deliveries, and
what a turn comes to. -/
namespace Sys2Proof.Machine
variable {s : State} {α : Type}

def EngRes.state : EngRes α → State
  | .ok _ s => s
  | .stop _ s => s
  | .wait s => s
def EngRun.state : EngRun → State
  | .done _ s => s
  | .stopped _ _ s => s
  | .waiting _ s => s
def Delivered.state (s : State) : Delivered → State
  | .done t => t
  | .full => s
def Ready.state : Ready → State
  | .done s => s
  | .run _ s => s
def EngRes.Ok (r : EngRes α) : Prop := MemOk r.state
def EngRun.Ok (r : EngRun) : Prop := MemOk r.state
/-- Every state that a delivery answers is canonical. -/
structure Delivered.Ok (r : Delivered) : Prop where
  mem : ∀ t, r = .done t → MemOk t
def Ready.Ok (r : Ready) : Prop := MemOk r.state

theorem engResOk.ok {a : α} (h : MemOk s) : (EngRes.ok a s).Ok := h
theorem engResOk.stop {e : EngStop} (h : MemOk s) : (EngRes.stop e s : EngRes α).Ok := h
theorem engResOk.wait (h : MemOk s) : (EngRes.wait s : EngRes α).Ok := h
theorem engRunOk.done {c : EngCmd} (h : MemOk s) : (EngRun.done c s).Ok := h
theorem engRunOk.stopped {e : EngStop} {c : EngCmd} (h : MemOk s) : (EngRun.stopped e c s).Ok := h
theorem engRunOk.waiting {c : EngCmd} (h : MemOk s) : (EngRun.waiting c s).Ok := h
theorem readyOk.done (h : MemOk s) : (Ready.done s).Ok := h
theorem readyOk.run {i : Instr} (h : MemOk s) : (Ready.run i s).Ok := h
theorem deliveredOk.done (h : MemOk s) : (Delivered.done s).Ok := ⟨fun t e => by cases e; exact h⟩
theorem deliveredOk.full : Delivered.full.Ok := ⟨fun t e => by cases e⟩
theorem engRes_ite {c : Prop} [Decidable c] {x y : EngRes α} (hx : x.Ok) (hy : y.Ok) : (if c then x else y).Ok := by
  split
  · exact hx
  · exact hy
theorem engRun_ite {c : Prop} [Decidable c] {x y : EngRun} (hx : x.Ok) (hy : y.Ok) : (if c then x else y).Ok := by
  split
  · exact hx
  · exact hy
theorem ready_ite {c : Prop} [Decidable c] {x y : Ready} (hx : x.Ok) (hy : y.Ok) : (if c then x else y).Ok := by
  split
  · exact hx
  · exact hy
theorem delivered_ite {c : Prop} [Decidable c] {x y : Delivered} (hx : x.Ok) (hy : y.Ok) : (if c then x else y).Ok := by
  split
  · exact hx
  · exact hy
theorem fst_ite {β : Type} {c : Prop} [Decidable c] {x y : State × β} (hx : MemOk x.1) (hy : MemOk y.1) : MemOk (if c then x else y).1 := by
  split
  · exact hx
  · exact hy
theorem engResOk_ok {r : EngRes α} {a : α} {t : State} (e : r = .ok a t) (h : r.Ok) : MemOk t := by rw [e] at h; exact h
theorem engResOk_stop {r : EngRes α} {a : EngStop} {t : State} (e : r = .stop a t) (h : r.Ok) : MemOk t := by rw [e] at h; exact h
theorem engResOk_wait {r : EngRes α} {t : State} (e : r = .wait t) (h : r.Ok) : MemOk t := by rw [e] at h; exact h
theorem engRunOk_done {r : EngRun} {c : EngCmd} {t : State} (e : r = .done c t) (h : r.Ok) : MemOk t := by rw [e] at h; exact h
theorem engRunOk_stopped {r : EngRun} {a : EngStop} {c : EngCmd} {t : State} (e : r = .stopped a c t) (h : r.Ok) : MemOk t := by
  rw [e] at h; exact h
theorem engRunOk_waiting {r : EngRun} {c : EngCmd} {t : State} (e : r = .waiting c t) (h : r.Ok) : MemOk t := by rw [e] at h; exact h
theorem readyOk_done {r : Ready} {t : State} (e : r = .done t) (h : r.Ok) : MemOk t := by rw [e] at h; exact h
theorem readyOk_run {r : Ready} {i : Instr} {t : State} (e : r = .run i t) (h : r.Ok) : MemOk t := by rw [e] at h; exact h
theorem deliveredOk_done {r : Delivered} {t : State} (e : r = .done t) (h : r.Ok) : MemOk t := h.mem t e

set_option linter.unusedTactic false
set_option linter.unreachableTactic false
set_option linter.unusedSimpArgs false
theorem State.deliverMsg_memOk (s : State) (m : Msg) (hs : MemOk s) : (s.deliverMsg m).Ok := by
  unfold State.deliverMsg
  dsimp only
  repeat' first
    | with_reducible assumption
    | with_reducible apply State.acceptOwn_memOk
    | with_reducible apply State.dropStale_memOk
    | with_reducible apply State.portPast_memOk
    | with_reducible apply State.deadLetter_memOk
    | with_reducible apply memOk.setCtx
    | with_reducible apply State.slotIn_memOk
    | split
    | with_reducible apply deliveredOk.done
    | with_reducible apply deliveredOk.full

theorem State.taskDeliver_memOk (s : State) (sender : Option (Nat × Nat)) (vcore : Nat) (t : Task) (hs : MemOk s) :
    (s.taskDeliver sender vcore t).Ok := by
  unfold State.taskDeliver
  dsimp only
  repeat' first
    | with_reducible assumption
    | with_reducible apply State.deadLetter_memOk
    | with_reducible apply memOk.setCtx
    | with_reducible apply State.coreEnqueue_memOk
    | split
    | (with_reducible refine OptOk.of_eq (by with_reducible assumption) ?_)
    | with_reducible apply deliveredOk.done
    | with_reducible apply deliveredOk.full

end Sys2Proof.Machine
end

