-- ==== Sys2Proof/Laws/MemOkCore.lean ====
section
/-! SUPPORT. Every operation of the aliases, translation, control registers, accesses, arrays, engines, remote operations, suspension and tasks keeps memory in its canonical form. -/
set_option linter.unusedTactic false
set_option linter.unreachableTactic false
set_option linter.unusedSimpArgs false
namespace Sys2Proof.Machine

theorem State.checkRows_memOk (s : State) (core lo hi kind : Nat) (hs : MemOk s) : (s.checkRows core lo hi kind).Ok := by
  unfold State.checkRows
  repeat' first
    | with_reducible assumption
    | with_reducible apply State.freshen_memOk
    | with_reducible apply memoryError_ok
    | with_reducible apply resOk.ok
    | split

theorem State.winSee_memOk (s : State) (core w off n : Nat) (hs : MemOk s) : MemOk (s.winSee core w off n).2 := by
  unfold State.winSee
  repeat' first
    | with_reducible assumption
    | with_reducible apply memOk.tick
    | simp only [memOk_mk, memOk_fold]
    | split

theorem State.winPut_memOk (s : State) (core w off n : Nat) (v : BitVec 512) (hs : MemOk s) : MemOk (s.winPut core w off n v) := by
  unfold State.winPut
  repeat' first
    | with_reducible assumption
    | with_reducible apply memOk.updFar

theorem State.winStore_memOk (s : State) (pa n : Nat) (v : BitVec 512) (hs : MemOk s) : MemOk (s.winStore pa n v) := by
  unfold State.winStore
  repeat' first
    | with_reducible assumption
    | with_reducible apply State.winPut_memOk

theorem State.fabricAccept_memOk (s : State) (a : Agent) (pa n : Nat) (v : BitVec 512) (page size : Nat) (hs : MemOk s) : MemOk (s.fabricAccept a pa n v page size) := by
  unfold State.fabricAccept
  repeat' first
    | with_reducible assumption
    | with_reducible apply memOk.setHart
    | simp only [memOk_mk, memOk_fold]
    | with_reducible apply memOk_ite

theorem State.sortEnter_memOk (s : State) (e : SortEntry) (hs : MemOk s) : MemOk (s.sortEnter e) := by
  unfold State.sortEnter
  repeat' first
    | with_reducible assumption
    | with_reducible apply memOk.updStack
    | with_reducible apply State.flushBank_memOk
    | simp only [memOk_mk, memOk_fold]
    | with_reducible apply memOk_ite

theorem State.bankApply_memOk (s : State) (c : BankCmd) (hs : MemOk s) : OptOk (s.bankApply c) := by
  unfold State.bankApply
  repeat' first
    | with_reducible assumption
    | intro _
    | with_reducible apply State.log_memOk
    | with_reducible apply State.mscDrop_memOk
    | with_reducible apply State.sortEnter_memOk
    | with_reducible apply State.flushFor_memOk
    | with_reducible apply State.errorOut_memOk
    | with_reducible apply State.wake_memOk
    | simp only [memOk_mk, memOk_fold]
    | with_reducible apply memOk_ite
    | with_reducible apply optOk_ite
    | with_reducible apply optOk.some
    | with_reducible exact optOk_none
    | with_reducible apply foldl_memOk
    | with_reducible apply foldWf
    | with_reducible apply applyElem_wf

theorem State.askLine_memOk (s : State) (pa : Nat) (hs : MemOk s) : MemOk (s.askLine pa) := by
  unfold State.askLine
  repeat' first
    | with_reducible assumption
    | with_reducible apply State.backInvalidate_memOk
    | with_reducible apply memOk_ite

theorem State.raiseCounter_memOk (s : State) (pa : Nat) (valid : Bool) (hs : MemOk s) : OptOk (s.raiseCounter pa valid) := by
  unfold State.raiseCounter
  repeat' first
    | with_reducible assumption
    | with_reducible apply State.amoNear_memOk
    | with_reducible apply optOk.some
    | with_reducible exact optOk_none
    | split
    | (with_reducible refine res_memOk (by with_reducible assumption) ?_)
    | (with_reducible refine resTrap_memOk (by with_reducible assumption) ?_)

theorem State.cmdDone_memOk (s : State) (id : Nat) (hs : MemOk s) : OptOk (s.cmdDone id) := by
  unfold State.cmdDone
  repeat' first
    | with_reducible assumption
    | with_reducible apply State.raiseCounter_memOk
    | simp only [memOk_mk, memOk_fold]
    | with_reducible apply optOk.some
    | split

theorem State.askCounter_memOk (s : State) (id : Nat) (hs : MemOk s) : MemOk (s.askCounter id) := by
  unfold State.askCounter
  repeat' first
    | with_reducible assumption
    | with_reducible apply State.askLine_memOk
    | split

theorem State.bindCounter_memOk (s : State) (src pa : Nat) (hs : MemOk s) : OptOk (s.bindCounter src pa) := by
  unfold State.bindCounter
  repeat' first
    | with_reducible assumption
    | with_reducible apply State.log_memOk
    | with_reducible apply State.raiseCounter_memOk
    | simp only [memOk_mk, memOk_fold]
    | with_reducible apply optOk_ite
    | with_reducible apply optOk.some
    | split

theorem State.writeCounter_memOk (s : State) (pa : Nat) (v : BitVec 512) (hs : MemOk s) : OptOk (s.writeCounter pa v) := by
  unfold State.writeCounter
  repeat' first
    | with_reducible assumption
    | with_reducible apply State.mscWrite_memOk
    | with_reducible apply optOk.some
    | with_reducible exact optOk_none
    | split
    | (with_reducible refine res_memOk (by with_reducible assumption) ?_)
    | (with_reducible refine resTrap_memOk (by with_reducible assumption) ?_)

theorem State.fillTake_memOk (s : State) (f : FillCmd) (hs : MemOk s) : MemOk (s.fillTake f) := by
  unfold State.fillTake
  repeat' first
    | with_reducible assumption
    | intro _
    | with_reducible apply State.mscDrop_memOk
    | with_reducible apply State.flushBank_memOk
    | simp only [memOk_mk, memOk_fold]
    | with_reducible apply foldl_memOk

theorem State.fillRows_memOk (s : State) (f : FillCmd) (rows : List Nat) (hs : MemOk s) : MemOk (s.fillRows f rows) := by
  unfold State.fillRows
  repeat' first
    | with_reducible assumption
    | intro _
    | with_reducible apply State.log_memOk
    | with_reducible apply State.flushFor_memOk
    | with_reducible apply State.coverFresh_memOk
    | with_reducible apply State.mscDrop_memOk
    | with_reducible apply State.wake_memOk
    | simp only [memOk_mk, memOk_fold]
    | with_reducible apply memOk_ite
    | with_reducible apply foldl_memOk
    | with_reducible apply memWrite_ok

theorem State.idxClean_memOk (s : State) (lines : List Nat) (hs : MemOk s) : MemOk (s.idxClean lines) := by
  unfold State.idxClean
  repeat' first
    | with_reducible assumption
    | intro _
    | with_reducible apply State.flushBank_memOk
    | with_reducible apply State.mscDrop_memOk
    | with_reducible apply foldl_memOk

theorem State.idxTouch_memOk (s : State) (elems : List Nat) (hs : MemOk s) : MemOk (s.idxTouch elems) := by
  unfold State.idxTouch
  repeat' first
    | with_reducible assumption
    | intro _
    | with_reducible apply State.flushFor_memOk
    | with_reducible apply State.mscDrop_memOk
    | with_reducible apply foldl_memOk

theorem State.idxElem_memOk (s : State) (c : IdxCmd) (hs : MemOk s) : MemOk (s.idxElem c).1 := by
  unfold State.idxElem
  repeat' first
    | with_reducible assumption
    | with_reducible apply State.idxTouch_memOk
    | with_reducible apply State.wake_memOk
    | simp only [memOk_mk, memOk_fold]
    | with_reducible apply memWrite_ok

theorem State.fillNext_memOk (s : State) (stk : Nat) (hs : MemOk s) : MemOk (s.fillNext stk) := by
  unfold State.fillNext
  repeat' first
    | with_reducible assumption
    | with_reducible apply State.backInvalidate_memOk
    | with_reducible apply State.fillTake_memOk
    | with_reducible apply memOk.updStack
    | with_reducible apply memOk_ite
    | split

theorem State.fillEnter_memOk (s : State) (k : Nat) (hs : MemOk s) : MemOk (s.fillEnter k) := by
  unfold State.fillEnter
  repeat' first
    | with_reducible assumption
    | with_reducible apply memOk.updStack
    | with_reducible apply State.fillNext_memOk
    | simp only [memOk_mk, memOk_fold]
    | with_reducible apply memOk_ite
    | split

theorem State.stackGrant_memOk (s : State) (stk : Nat) (hs : MemOk s) : MemOk (s.stackGrant stk) := by
  unfold State.stackGrant
  repeat' first
    | with_reducible assumption
    | with_reducible apply memOk.setStack
    | with_reducible apply memOk.updHome
    | simp only [memOk_mk, memOk_fold]
    | with_reducible apply memOk_ite
    | split

theorem State.fillWave_memOk (s : State) (stk : Nat) (hs : MemOk s) : MemOk (s.fillWave stk) := by
  unfold State.fillWave
  repeat' first
    | with_reducible assumption
    | with_reducible apply State.backInvalidate_memOk
    | with_reducible apply State.fillRows_memOk
    | with_reducible apply State.cmdDone_memOk
    | with_reducible apply State.askCounter_memOk
    | with_reducible apply memOk.updStack
    | with_reducible apply State.fillNext_memOk
    | simp only [memOk_mk, memOk_fold]
    | with_reducible apply memOk_ite
    | split
    | (with_reducible refine OptOk.of_eq (by with_reducible assumption) ?_)

theorem State.idxEnter_memOk (s : State) (k : Nat) (hs : MemOk s) : MemOk (s.idxEnter k) := by
  unfold State.idxEnter
  repeat' first
    | with_reducible assumption
    | with_reducible apply memOk.updHome
    | with_reducible apply State.log_memOk
    | with_reducible apply State.cmdDone_memOk
    | with_reducible apply State.askCounter_memOk
    | simp only [memOk_mk, memOk_fold]
    | with_reducible apply memOk_ite
    | with_reducible apply optOk_getD
    | split

theorem State.idxBegin_memOk (s : State) (h : Nat) (hs : MemOk s) : MemOk (s.idxBegin h) := by
  unfold State.idxBegin
  repeat' first
    | with_reducible assumption
    | with_reducible apply memOk.setHome
    | simp only [memOk_mk, memOk_fold]
    | split

theorem State.idxFail_memOk (s : State) (h : Nat) (c : IdxCmd) (unit sec : Nat) (hs : MemOk s) : MemOk (s.idxFail h c unit sec) := by
  unfold State.idxFail
  repeat' first
    | with_reducible assumption
    | with_reducible apply State.freshen_memOk
    | with_reducible apply State.log_memOk
    | with_reducible apply memOk.updHome
    | simp only [memOk_mk, memOk_fold]

theorem State.idxStep_memOk (s : State) (h : Nat) (hs : MemOk s) : MemOk (s.idxStep h) := by
  unfold State.idxStep
  repeat' first
    | with_reducible assumption
    | with_reducible apply State.backInvalidate_memOk
    | with_reducible apply State.idxFail_memOk
    | with_reducible apply State.idxClean_memOk
    | with_reducible apply memOk.updHome
    | with_reducible apply State.idxElem_memOk
    | simp only [memOk_mk, memOk_fold]
    | with_reducible apply memOk_ite
    | split

theorem State.idxSteps_memOk (s : State) (h : Nat) (fuel : Nat) (hs : MemOk s) : MemOk (s.idxSteps h fuel) := by
  induction fuel generalizing s h with
  | zero =>
    unfold State.idxSteps
    repeat' first
      | with_reducible assumption
  | succ n ih =>
    unfold State.idxSteps
    repeat' first
      | with_reducible assumption
      | with_reducible apply State.idxStep_memOk
      | with_reducible apply ih

theorem State.idxExecute_memOk (s : State) (h : Nat) (hs : MemOk s) : MemOk (s.idxExecute h) := by
  unfold State.idxExecute
  repeat' first
    | with_reducible assumption
    | with_reducible apply State.idxBegin_memOk
    | with_reducible apply State.idxStep_memOk
    | with_reducible apply State.idxSteps_memOk
    | simp only [memOk_mk, memOk_fold]
    | with_reducible apply memOk_ite

theorem State.idxComplete_memOk (s : State) (h : Nat) (hs : MemOk s) : MemOk (s.idxComplete h) := by
  unfold State.idxComplete
  repeat' first
    | with_reducible assumption
    | with_reducible apply State.cmdDone_memOk
    | with_reducible apply State.askCounter_memOk
    | with_reducible apply memOk.updHome
    | with_reducible apply memOk.updStack
    | simp only [memOk_mk, memOk_fold]
    | with_reducible apply memOk_ite
    | split
    | (with_reducible refine OptOk.of_eq (by with_reducible assumption) ?_)

theorem State.fillAll_memOk (s : State) (stk : Nat) (fuel : Nat) (hs : MemOk s) : MemOk (s.fillAll stk fuel) := by
  induction fuel generalizing s stk with
  | zero =>
    unfold State.fillAll
    repeat' first
      | with_reducible assumption
  | succ n ih =>
    unfold State.fillAll
    repeat' first
      | with_reducible assumption
      | with_reducible apply State.fillNext_memOk
      | with_reducible apply State.stackGrant_memOk
      | with_reducible apply State.fillWave_memOk
      | with_reducible apply ih
      | simp only [memOk_mk, memOk_fold]
      | with_reducible apply memOk_ite

theorem State.fabricLast_memOk (s : State) (hs : MemOk s) : MemOk (s.fabricLast) := by
  unfold State.fabricLast
  repeat' first
    | with_reducible assumption
    | with_reducible apply State.bankApply_memOk
    | with_reducible apply State.askLine_memOk
    | with_reducible apply State.fillEnter_memOk
    | with_reducible apply State.fillAll_memOk
    | with_reducible apply State.idxEnter_memOk
    | with_reducible apply State.idxBegin_memOk
    | with_reducible apply State.stackGrant_memOk
    | with_reducible apply State.idxExecute_memOk
    | with_reducible apply State.idxComplete_memOk
    | with_reducible apply State.writeCounter_memOk
    | with_reducible apply State.bindCounter_memOk
    | simp only [memOk_mk, memOk_fold]
    | with_reducible apply memOk_ite
    | with_reducible apply optOk_getD
    | split

theorem State.walkFrom_memOk (s : State) (t : Nat) (va : Word) (tag : Nat) (fuel : Nat) (hs : MemOk s) : (s.walkFrom t va tag fuel).Ok := by
  induction fuel generalizing s t va tag with
  | zero =>
    unfold State.walkFrom
    repeat' first
      | with_reducible assumption
      | intro _
      | with_reducible apply State.mscRead_memOk
      | simp only [memOk_mk, memOk_fold]
      | with_reducible apply resOk_ite
      | with_reducible apply resOk.ok
      | with_reducible apply Res.bind_ok
  | succ n ih =>
    unfold State.walkFrom
    repeat' first
      | with_reducible assumption
      | intro _
      | with_reducible apply State.mscRead_memOk
      | with_reducible apply ih
      | simp only [memOk_mk, memOk_fold]
      | with_reducible apply resOk_ite
      | with_reducible apply resOk.ok
      | with_reducible apply Res.bind_ok

theorem State.walk_memOk (s : State) (root va : Word) (tag : Nat) (hs : MemOk s) : (s.walk root va tag).Ok := by
  unfold State.walk
  repeat' first
    | with_reducible assumption
    | with_reducible apply State.walkFrom_memOk
    | simp only [memOk_mk, memOk_fold]
    | with_reducible apply resOk_ite
    | with_reducible apply resOk.ok

theorem State.tlbFill_memOk (s : State) (a : Agent) (e : TlbEntry) (hs : MemOk s) : MemOk (s.tlbFill a e) := by
  unfold State.tlbFill
  repeat' first
    | with_reducible assumption
    | with_reducible apply memOk.updHart
    | with_reducible apply memOk.updCluster
    | with_reducible apply memOk.updIsland
    | with_reducible apply memOk.updUnit
    | with_reducible apply memOk.updHub
    | simp only [memOk_mk, memOk_fold]
    | split

theorem State.tlbTouch_memOk (s : State) (a : Agent) (va : Word) (tag : Nat) (e : TlbEntry) (hs : MemOk s) : MemOk (s.tlbTouch a va tag e) := by
  unfold State.tlbTouch
  repeat' first
    | with_reducible assumption
    | with_reducible apply memOk.updHart
    | with_reducible apply memOk.updCluster
    | with_reducible apply memOk.updIsland
    | with_reducible apply memOk.updUnit
    | with_reducible apply memOk.updHub
    | simp only [memOk_mk, memOk_fold]
    | with_reducible apply memOk_ite
    | split

theorem State.setWalkQ_memOk (s : State) (u : Nat) (q : List WalkReq) (hs : MemOk s) : MemOk (s.setWalkQ u q) := by
  unfold State.setWalkQ
  repeat' first
    | with_reducible assumption
    | with_reducible apply memOk.updIsland
    | with_reducible apply memOk.updHub
    | with_reducible apply memOk_ite

theorem State.setWalks_memOk (s : State) (u : Nat) (q : List WalkReq) (hs : MemOk s) : MemOk (s.setWalks u q) := by
  unfold State.setWalks
  repeat' first
    | with_reducible assumption
    | with_reducible apply memOk.updIsland
    | with_reducible apply memOk.updHub
    | with_reducible apply memOk_ite

theorem State.walkPast_memOk (s : State) (a : Agent) (hs : MemOk s) : MemOk (s.walkPast a) := by
  unfold State.walkPast
  repeat' first
    | with_reducible assumption
    | with_reducible apply memOk.updIsland
    | with_reducible apply memOk.updHub
    | split

theorem State.walkMissBy_memOk (s : State) (a : Agent) (key : Nat) (root : Word) (tag : Nat) (va : Word) (kind : Nat) (hs : MemOk s) : MemOk (s.walkMissBy a key root tag va kind) := by
  unfold State.walkMissBy
  repeat' first
    | with_reducible assumption
    | with_reducible apply State.setWalks_memOk
    | with_reducible apply State.setWalkQ_memOk
    | with_reducible apply State.walkPast_memOk
    | simp only [memOk_mk, memOk_fold]
    | with_reducible apply memOk_ite

theorem State.walkMiss_memOk (s : State) (a : Agent) (va : Word) (kind : Nat) (hs : MemOk s) : MemOk (s.walkMiss a va kind) := by
  unfold State.walkMiss
  repeat' first
    | with_reducible assumption
    | with_reducible apply State.walkMissBy_memOk

theorem State.walkForget_memOk (s : State) (a : Agent) (hs : MemOk s) : MemOk (s.walkForget a) := by
  unfold State.walkForget
  repeat' first
    | with_reducible assumption
    | with_reducible apply State.setWalkQ_memOk
    | with_reducible apply State.setWalks_memOk
    | simp only [memOk_mk, memOk_fold]
    | with_reducible apply memOk_ite

theorem State.missWalk_memOk (s : State) (a : Agent) (key : Nat) (root : Word) (tag : Nat) (priv : Bool) (va : Word) (kind : Nat) (hs : MemOk s) : (s.missWalk a key root tag priv va kind).Ok := by
  unfold State.missWalk
  repeat' first
    | with_reducible assumption
    | intro _
    | with_reducible apply State.walkMissBy_memOk
    | with_reducible apply State.walkPast_memOk
    | with_reducible apply State.walk_memOk
    | with_reducible apply State.tlbFill_memOk
    | with_reducible apply resOk_ite
    | with_reducible apply resOk.ok
    | with_reducible apply resOk.trap
    | with_reducible apply resOk.wait
    | with_reducible apply Res.bind_ok
    | split

theorem State.translate_memOk (s : State) (a : Agent) (va : Word) (kind : Nat) (hs : MemOk s) : (s.translate a va kind).Ok := by
  unfold State.translate
  repeat' first
    | with_reducible assumption
    | with_reducible apply State.tlbTouch_memOk
    | with_reducible apply memOk.setHart
    | with_reducible apply State.missWalk_memOk
    | simp only [memOk_mk, memOk_fold]
    | with_reducible apply resOk_ite
    | with_reducible apply resOk.ok
    | with_reducible apply resOk.trap
    | split

theorem State.translateFor_memOk (s : State) (a : Agent) (key : Nat) (ans : List WalkAnswer) (root : Word) (tag : Nat) (priv : Bool) (va : Word) (kind : Nat) (hs : MemOk s) : (s.translateFor a key ans root tag priv va kind).Ok := by
  unfold State.translateFor
  repeat' first
    | with_reducible assumption
    | with_reducible apply State.tlbTouch_memOk
    | with_reducible apply State.missWalk_memOk
    | simp only [memOk_mk, memOk_fold]
    | with_reducible apply resOk_ite
    | with_reducible apply resOk.ok
    | with_reducible apply resOk.trap
    | split

theorem State.tlbiRemove_memOk (s : State) (op : TlbiOp) (a b : Word) (hs : MemOk s) : MemOk (s.tlbiRemove op a b) := by
  unfold State.tlbiRemove
  repeat' first
    | with_reducible assumption
    | simp only [memOk_mk, memOk_fold]

theorem State.latched_memOk (s : State) (hs : MemOk s) : MemOk (s.latched) := by
  unfold State.latched
  repeat' first
    | with_reducible assumption
    | simp only [memOk_mk, memOk_fold]

theorem State.clClockWrite_memOk (s : State) (c : Nat) (v : Word) (hs : MemOk s) : MemOk (s.clClockWrite c v) := by
  unfold State.clClockWrite
  repeat' first
    | with_reducible assumption
    | with_reducible apply memOk.setCluster
    | simp only [memOk_mk, memOk_fold]
    | with_reducible apply memOk_ite

theorem State.dieVddWrite_memOk (s : State) (d : Nat) (v : Word) (hs : MemOk s) : MemOk (s.dieVddWrite d v) := by
  unfold State.dieVddWrite
  repeat' first
    | with_reducible assumption
    | with_reducible apply memOk.setIsland
    | simp only [memOk_mk, memOk_fold]
    | with_reducible apply memOk_ite

theorem State.clPermitWrite_memOk (s : State) (c : Nat) (v : Word) (hs : MemOk s) : MemOk (s.clPermitWrite c v) := by
  unfold State.clPermitWrite
  repeat' first
    | with_reducible assumption
    | with_reducible apply memOk.updCluster

theorem State.clCurrentWrite_memOk (s : State) (c : Nat) (v : Word) (hs : MemOk s) : MemOk (s.clCurrentWrite c v) := by
  unfold State.clCurrentWrite
  repeat' first
    | with_reducible assumption
    | with_reducible apply memOk.updCluster

theorem State.permitBcast_memOk (s : State) (v : Word) (hs : MemOk s) : MemOk (s.permitBcast v) := by
  unfold State.permitBcast
  repeat' first
    | with_reducible assumption
    | intro _
    | with_reducible apply memOk.updCluster
    | simp only [memOk_mk, memOk_fold]
    | with_reducible apply memOk_ite
    | with_reducible apply foldl_memOk

theorem State.fabricFloats_memOk (s : State) (k : Nat) (hs : MemOk s) : MemOk (s.fabricFloats k) := by
  unfold State.fabricFloats
  repeat' first
    | with_reducible assumption
    | intro _
    | with_reducible apply State.bankApply_memOk
    | with_reducible apply State.askLine_memOk
    | simp only [memOk_mk, memOk_fold]
    | with_reducible apply memOk_ite
    | with_reducible apply foldl_memOk
    | split
    | (with_reducible refine OptOk.of_eq (by with_reducible assumption) ?_)

theorem State.detredWrite_memOk (s : State) (k : Nat) (en : Bool) (hs : MemOk s) : MemOk (s.detredWrite k en) := by
  unfold State.detredWrite
  repeat' first
    | with_reducible assumption
    | with_reducible apply State.flushStack_memOk
    | with_reducible apply memOk.updStack

theorem State.detredDone_memOk (s : State) (k : Nat) (hs : MemOk s) : MemOk (s.detredDone k) := by
  unfold State.detredDone
  repeat' first
    | with_reducible assumption
    | with_reducible apply State.fabricFloats_memOk
    | with_reducible apply State.flushStack_memOk
    | with_reducible apply memOk.updStack
    | simp only [memOk_mk, memOk_fold]
    | with_reducible apply memOk_ite

theorem State.requestSuspend_memOk (s : State) (c reason : Nat) (hs : MemOk s) : MemOk (s.requestSuspend c reason) := by
  unfold State.requestSuspend
  repeat' first
    | with_reducible assumption
    | intro _
    | with_reducible apply memOk.setCtx
    | with_reducible apply memOk.updHart
    | simp only [memOk_mk, memOk_fold]
    | with_reducible apply memOk_ite
    | with_reducible apply foldl_memOk
    | split

theorem State.acknowledge_memOk (s : State) (c : Nat) (v : BitVec 32) (hs : MemOk s) : MemOk (s.acknowledge c v) := by
  unfold State.acknowledge
  repeat' first
    | with_reducible assumption
    | intro _
    | with_reducible apply memOk.updHub
    | with_reducible apply memOk.setCtx
    | with_reducible apply memOk.updHart
    | simp only [memOk_mk, memOk_fold]
    | with_reducible apply memOk_ite
    | with_reducible apply foldl_memOk
    | split

theorem State.mapackWrite_memOk (s : State) (c : Nat) (v : BitVec 32) (hs : MemOk s) : MemOk (s.mapackWrite c v) := by
  unfold State.mapackWrite
  repeat' first
    | with_reducible assumption
    | with_reducible apply State.acknowledge_memOk
    | with_reducible apply memOk.updCtx
    | with_reducible apply memOk_ite

theorem State.partModeWrite_memOk (s : State) (v : Word) (hs : MemOk s) : MemOk (s.partModeWrite v) := by
  unfold State.partModeWrite
  repeat' first
    | with_reducible assumption
    | intro _
    | with_reducible apply memOk.updHub
    | with_reducible apply State.requestSuspend_memOk
    | simp only [memOk_mk, memOk_fold]
    | with_reducible apply memOk_ite
    | with_reducible apply foldl_memOk

theorem State.thermStatWrite_memOk (s : State) (v : Word) (hs : MemOk s) : MemOk (s.thermStatWrite v) := by
  unfold State.thermStatWrite
  repeat' first
    | with_reducible assumption
    | with_reducible apply memOk.updHub
    | with_reducible apply memOk_ite

theorem State.cregWrite_memOk (s : State) (r : CReg) (v raw : Word) (hs : MemOk s) : MemOk (s.cregWrite r v raw) := by
  unfold State.cregWrite
  repeat' first
    | with_reducible assumption
    | with_reducible apply State.detredWrite_memOk
    | with_reducible apply memOk.updStack
    | with_reducible apply memOk.updHub
    | with_reducible apply State.partModeWrite_memOk
    | with_reducible apply State.mapackWrite_memOk
    | with_reducible apply State.clPermitWrite_memOk
    | with_reducible apply State.clClockWrite_memOk
    | with_reducible apply State.clCurrentWrite_memOk
    | with_reducible apply State.dieVddWrite_memOk
    | with_reducible apply State.thermStatWrite_memOk
    | with_reducible apply State.permitBcast_memOk
    | with_reducible apply memOk_ite
    | split

theorem State.ctlStore1_memOk (s : State) (pa n v : Nat) (hs : MemOk s) : MemOk (s.ctlStore1 pa n v) := by
  unfold State.ctlStore1
  repeat' first
    | with_reducible assumption
    | with_reducible apply State.cregWrite_memOk
    | with_reducible apply State.flushStack_memOk
    | simp only [memOk_mk, memOk_fold]
    | with_reducible apply memOk_ite
    | split

theorem State.ctlStore_memOk (s : State) (pa n : Nat) (v : BitVec 512) (hs : MemOk s) : MemOk (s.ctlStore pa n v) := by
  unfold State.ctlStore
  repeat' first
    | with_reducible assumption
    | intro _
    | with_reducible apply State.ctlStore1_memOk
    | with_reducible apply memOk_ite
    | with_reducible apply foldl_memOk

theorem State.access_memOk (s : State) (a : Agent) (va : Word) (n kind : Nat) (k : AccKind) (pol : Policy) (align : Bool) (hs : MemOk s) : (s.access a va n kind k pol align).Ok := by
  unfold State.access
  repeat' first
    | with_reducible assumption
    | intro _
    | with_reducible apply State.translate_memOk
    | simp only [memOk_mk, memOk_fold]
    | with_reducible apply resOk_ite
    | with_reducible apply resOk.ok
    | with_reducible apply resOk.trap
    | with_reducible apply Res.bind_ok
    | split

theorem State.winRead_memOk (s : State) (pa n : Nat) (hs : MemOk s) : (s.winRead pa n).Ok := by
  unfold State.winRead
  repeat' first
    | with_reducible assumption
    | intro _
    | with_reducible apply State.checkRows_memOk
    | with_reducible apply State.winSee_memOk
    | simp only [memOk_mk, memOk_fold]
    | with_reducible apply resOk.ok
    | with_reducible apply Res.bind_ok

theorem State.loadAt_memOk (s : State) (a : Agent) (acc : Acc) (n : Nat) (pol : Policy) (hs : MemOk s) : (s.loadAt a acc n pol).Ok := by
  unfold State.loadAt
  repeat' first
    | with_reducible assumption
    | with_reducible apply State.loadC_memOk
    | with_reducible apply State.loadG_memOk
    | with_reducible apply State.loadM_memOk
    | with_reducible apply State.mscRead_memOk
    | with_reducible apply State.hostLoad_memOk
    | with_reducible apply State.winRead_memOk
    | simp only [memOk_mk, memOk_fold]
    | with_reducible apply resOk_ite
    | with_reducible apply resOk.ok
    | with_reducible apply resOk.wait
    | split

theorem State.nearNote_memOk (s : State) (h c pa n : Nat) (hs : MemOk s) : MemOk (s.nearNote h c pa n) := by
  unfold State.nearNote
  repeat' first
    | with_reducible assumption
    | with_reducible apply memOk.updUnit
    | with_reducible apply memOk.updNear

theorem State.nearStore_memOk (s : State) (h c pa n : Nat) (v : BitVec 512) (hs : MemOk s) : (s.nearStore h c pa n v).Ok := by
  unfold State.nearStore
  repeat' first
    | with_reducible assumption
    | intro _
    | with_reducible apply State.mscWrite_memOk
    | with_reducible apply State.nearNote_memOk
    | with_reducible apply resOk_ite
    | with_reducible apply resOk.ok
    | with_reducible apply resOk.wait
    | with_reducible apply Res.bind_ok

theorem State.memEvent_memOk (s : State) (a : Agent) (i : Infos) (hs : MemOk s) : MemOk (s.memEvent a i) := by
  unfold State.memEvent
  repeat' first
    | with_reducible assumption
    | with_reducible apply memOk.updHart

theorem State.storeAt_memOk (s : State) (a : Agent) (pa n : Nat) (pol : Policy) (page size : Nat) (v : BitVec 512) (rel : Option Scope) (hs : MemOk s) : (s.storeAt a pa n pol page size v rel).Ok := by
  unfold State.storeAt
  repeat' first
    | with_reducible assumption
    | intro _
    | with_reducible apply State.storeC_memOk
    | with_reducible apply State.storeG_memOk
    | with_reducible apply State.storeM_memOk
    | with_reducible apply State.pbForget_memOk
    | with_reducible apply State.nearStore_memOk
    | with_reducible apply State.hostStore_memOk
    | with_reducible apply State.fabricAccept_memOk
    | with_reducible apply State.fabricLast_memOk
    | with_reducible apply State.winStore_memOk
    | with_reducible apply State.ctlStore_memOk
    | with_reducible apply State.memEvent_memOk
    | simp only [memOk_mk, memOk_fold]
    | with_reducible apply resOk_ite
    | with_reducible apply resOk.ok
    | with_reducible apply resOk.wait
    | with_reducible apply Res.bind_ok
    | split
    | (with_reducible refine resTrap_memOk (by with_reducible assumption) ?_)

theorem State.releaseAt_memOk (s : State) (a : Agent) (sc : Scope) (hs : MemOk s) : (s.releaseAt a sc).Ok := by
  unfold State.releaseAt
  repeat' first
    | with_reducible assumption
    | with_reducible apply State.releaseLines_memOk
    | with_reducible apply resOk_ite
    | with_reducible apply resOk.ok
    | with_reducible apply resOk.wait
    | split

theorem State.sbPerform_memOk (s : State) (core k : Nat) (hs : MemOk s) : MemOk (s.sbPerform core k).1 := by
  unfold State.sbPerform
  repeat' first
    | with_reducible assumption
    | intro _
    | with_reducible apply State.releaseAt_memOk
    | with_reducible apply State.storeAt_memOk
    | with_reducible apply memOk.updFar
    | simp only [memOk_mk, memOk_fold]
    | with_reducible apply resOk.ok
    | with_reducible apply Res.bind_ok
    | with_reducible apply Res.ok_state
    | split
    | (with_reducible refine res_memOk (by with_reducible assumption) ?_)

theorem State.sbDrain_memOk (s : State) (core : Nat) (fuel : Nat) (hs : MemOk s) : MemOk (s.sbDrain core fuel) := by
  induction fuel generalizing s core with
  | zero =>
    unfold State.sbDrain
    repeat' first
      | with_reducible assumption
  | succ n ih =>
    unfold State.sbDrain
    repeat' first
      | with_reducible assumption
      | with_reducible apply State.sbPerform_memOk
      | with_reducible apply ih
      | split
      | (with_reducible refine fst_memOk (by with_reducible assumption) ?_)

theorem State.needDrained_memOk (s : State) (a : Agent) (hs : MemOk s) : (s.needDrained a).Ok := by
  unfold State.needDrained
  repeat' first
    | with_reducible assumption
    | with_reducible apply State.sbDrain_memOk
    | simp only [memOk_mk, memOk_fold]
    | with_reducible apply resOk_ite
    | with_reducible apply resOk.ok
    | with_reducible apply resOk.wait
    | split

theorem State.uOrder_memOk (s : State) (a : Agent) (pa : Nat) (pol : Policy) (mt1 : Bool) (hs : MemOk s) : (s.uOrder a pa pol mt1).Ok := by
  unfold State.uOrder
  repeat' first
    | with_reducible assumption
    | with_reducible apply resOk_ite
    | with_reducible apply resOk.ok
    | with_reducible apply resOk.wait

theorem State.sbShut_memOk (s : State) (a : Agent) (hs : MemOk s) : MemOk (s.sbShut a) := by
  unfold State.sbShut
  repeat' first
    | with_reducible assumption
    | with_reducible apply memOk.updFar
    | with_reducible apply memOk_ite
    | split

theorem State.acquireOrder_memOk (s : State) (a : Agent) (sc : Scope) (hs : MemOk s) : (s.acquireOrder a sc).Ok := by
  unfold State.acquireOrder
  repeat' first
    | with_reducible assumption
    | intro _
    | with_reducible apply State.sbShut_memOk
    | with_reducible apply State.needDrained_memOk
    | with_reducible apply resOk_ite
    | with_reducible apply resOk.ok
    | with_reducible apply resOk.wait
    | with_reducible apply Res.bind_ok

theorem State.storeIssue_memOk (s : State) (a : Agent) (acc : Acc) (n : Nat) (pol : Policy) (rel : Option Scope) (v : BitVec 512) (hs : MemOk s) : (s.storeIssue a acc n pol rel v).Ok := by
  unfold State.storeIssue
  repeat' first
    | with_reducible assumption
    | intro _
    | with_reducible apply State.sbDrain_memOk
    | with_reducible apply memOk.setFar
    | with_reducible apply State.releaseAt_memOk
    | with_reducible apply State.storeAt_memOk
    | simp only [memOk_mk, memOk_fold]
    | with_reducible apply memOk_ite
    | with_reducible apply resOk_ite
    | with_reducible apply resOk.ok
    | with_reducible apply resOk.wait
    | with_reducible apply Res.bind_ok
    | split

theorem State.loadIssue_memOk (s : State) (a : Agent) (acc : Acc) (n : Nat) (pol : Policy) (hs : MemOk s) : (s.loadIssue a acc n pol).Ok := by
  unfold State.loadIssue
  repeat' first
    | with_reducible assumption
    | intro _
    | with_reducible apply State.uOrder_memOk
    | with_reducible apply State.loadAt_memOk
    | with_reducible apply State.needDrained_memOk
    | simp only [memOk_mk, memOk_fold]
    | with_reducible apply resOk_ite
    | with_reducible apply resOk.ok
    | with_reducible apply Res.bind_ok
    | split

theorem State.loadOnce_memOk (s : State) (a : Agent) (acc : Acc) (n : Nat) (pol : Policy) (hs : MemOk s) : (s.loadOnce a acc n pol).Ok := by
  unfold State.loadOnce
  repeat' first
    | with_reducible assumption
    | intro _
    | with_reducible apply State.loadIssue_memOk
    | with_reducible apply memOk.updHart
    | with_reducible apply HostLoad.result_ok
    | with_reducible apply memOk_ite
    | with_reducible apply resOk.ok
    | with_reducible apply Res.bind_ok
    | split

theorem State.wlogOut_memOk (s : State) (h ln : Nat) (hs : MemOk s) : (s.wlogOut h ln).Ok := by
  unfold State.wlogOut
  repeat' first
    | with_reducible assumption
    | intro _
    | with_reducible apply State.cleanTry_memOk
    | with_reducible apply State.wake_memOk
    | with_reducible apply memOk.updUnit
    | simp only [memOk_mk, memOk_fold]
    | with_reducible apply resOk_ite
    | with_reducible apply resOk.ok
    | with_reducible apply Res.bind_ok

theorem State.wlogEmpty_memOk (s : State) (h : Nat) (hs : MemOk s) : MemOk (s.wlogEmpty h) := by
  unfold State.wlogEmpty
  repeat' first
    | with_reducible assumption
    | intro _
    | with_reducible apply State.wlogOut_memOk
    | with_reducible apply foldl_memOk
    | with_reducible apply Res.ok_state

theorem State.fence_memOk (s : State) (a : Agent) (sc : Scope) (hs : MemOk s) : (s.fence a sc).Ok := by
  unfold State.fence
  repeat' first
    | with_reducible assumption
    | intro _
    | with_reducible apply State.sbShut_memOk
    | with_reducible apply State.needDrained_memOk
    | with_reducible apply State.wlogEmpty_memOk
    | with_reducible apply State.releaseAt_memOk
    | simp only [memOk_mk, memOk_fold]
    | with_reducible apply memOk_ite
    | with_reducible apply resOk_ite
    | with_reducible apply resOk.ok
    | with_reducible apply resOk.wait
    | with_reducible apply Res.bind_ok
    | split

theorem State.arrayEffect_memOk (s : State) (core : Nat) (o : ArrOp) (hs : MemOk s) : MemOk (s.arrayEffect core o) := by
  unfold State.arrayEffect
  repeat' first
    | with_reducible assumption
    | with_reducible apply memOk.setFar
    | with_reducible apply memOk.tick
    | with_reducible apply memOk.updHart
    | simp only [memOk_mk, memOk_fold]
    | split

theorem State.xrowLand_memOk (s : State) (core : Nat) (prev : Bool) (r : Rows) (c : Nat) (hs : MemOk s) : MemOk (s.xrowLand core prev r c) := by
  unfold State.xrowLand
  repeat' first
    | with_reducible assumption
    | with_reducible apply memOk.updFar

theorem State.arrayStep_memOk (s : State) (core : Nat) (o : ArrOp) (k : Nat) (hs : MemOk s) : MemOk (s.arrayStep core o k) := by
  unfold State.arrayStep
  repeat' first
    | with_reducible assumption
    | with_reducible apply memOk.updFar
    | with_reducible apply State.xrowLand_memOk
    | with_reducible apply State.arrayEffect_memOk
    | simp only [memOk_mk, memOk_fold]
    | with_reducible apply memOk_ite
    | split

theorem State.arrayRun_memOk (s : State) (core : Nat) (o : ArrOp) (fuel : Nat) (hs : MemOk s) : MemOk (s.arrayRun core o fuel) := by
  induction fuel generalizing s core o with
  | zero =>
    unfold State.arrayRun
    repeat' first
      | with_reducible assumption
  | succ n ih =>
    unfold State.arrayRun
    repeat' first
      | with_reducible assumption
      | with_reducible apply State.arrayStep_memOk
      | with_reducible apply memOk.updFar
      | with_reducible apply ih

theorem State.giveUnits_memOk (s : State) (cl i u : Nat) (hs : MemOk s) : MemOk (s.giveUnits cl i u) := by
  unfold State.giveUnits
  repeat' first
    | with_reducible assumption
    | with_reducible apply memOk.updCluster
    | with_reducible apply memOk.updFar

theorem State.reservationGrant_memOk (s : State) (cl : Nat) (hs : MemOk s) : MemOk (s.reservationGrant cl) := by
  unfold State.reservationGrant
  repeat' first
    | with_reducible assumption
    | with_reducible apply memOk.setCluster
    | with_reducible apply State.giveUnits_memOk
    | simp only [memOk_mk, memOk_fold]
    | split

theorem State.askUnits_memOk (s : State) (cl i : Nat) (hs : MemOk s) : MemOk (s.askUnits cl i) := by
  unfold State.askUnits
  repeat' first
    | with_reducible assumption
    | with_reducible apply State.reservationGrant_memOk
    | with_reducible apply memOk_ite

theorem State.arrayRelease_memOk (s : State) (core : Nat) (hs : MemOk s) : MemOk (s.arrayRelease core) := by
  unfold State.arrayRelease
  repeat' first
    | with_reducible assumption
    | with_reducible apply memOk.updCluster
    | with_reducible apply memOk.updFar

theorem State.copyRelease_memOk (s : State) (core : Nat) (hs : MemOk s) : MemOk (s.copyRelease core) := by
  unfold State.copyRelease
  repeat' first
    | with_reducible assumption
    | with_reducible apply memOk.updCluster
    | with_reducible apply memOk.updFar
    | with_reducible apply memOk_ite

theorem State.arrayStart_memOk (s : State) (core : Nat) (hs : MemOk s) : MemOk (s.arrayStart core) := by
  unfold State.arrayStart
  repeat' first
    | with_reducible assumption
    | with_reducible apply memOk.setFar
    | simp only [memOk_mk, memOk_fold]
    | with_reducible apply memOk_ite
    | split

theorem State.arrayLeave_memOk (s : State) (core : Nat) (o : ArrOp) (hs : MemOk s) : MemOk (s.arrayLeave core o) := by
  unfold State.arrayLeave
  repeat' first
    | with_reducible assumption
    | with_reducible apply memOk.updFar
    | with_reducible apply State.arrayRelease_memOk
    | simp only [memOk_mk, memOk_fold]
    | with_reducible apply memOk_ite

theorem State.arrayRetire_memOk (s : State) (core cycles : Nat) (hs : MemOk s) : MemOk (s.arrayRetire core cycles) := by
  unfold State.arrayRetire
  repeat' first
    | with_reducible assumption
    | with_reducible apply State.arrayEffect_memOk
    | with_reducible apply State.arrayLeave_memOk
    | with_reducible apply State.arrayRun_memOk
    | simp only [memOk_mk, memOk_fold]
    | with_reducible apply memOk_ite
    | split

theorem State.arrayAsk_memOk (s : State) (core : Nat) (hs : MemOk s) : MemOk (s.arrayAsk core) := by
  unfold State.arrayAsk
  repeat' first
    | with_reducible assumption
    | with_reducible apply State.askUnits_memOk

theorem State.arrayDrain_memOk (s : State) (core : Nat) (fuel : Nat) (hs : MemOk s) : MemOk (s.arrayDrain core fuel) := by
  induction fuel generalizing s core with
  | zero =>
    unfold State.arrayDrain
    repeat' first
      | with_reducible assumption
  | succ n ih =>
    unfold State.arrayDrain
    repeat' first
      | with_reducible assumption
      | with_reducible apply State.arrayAsk_memOk
      | with_reducible apply State.arrayStart_memOk
      | with_reducible apply State.arrayRetire_memOk
      | with_reducible apply ih
      | simp only [memOk_mk, memOk_fold]
      | with_reducible apply memOk_ite

theorem State.engCheck_memOk (s : State) (core : Nat) (c : EngCmd) (va : Word) (kind : Nat) (hs : MemOk s) : (s.engCheck core c va kind).Ok := by
  unfold State.engCheck
  repeat' first
    | with_reducible assumption
    | with_reducible apply State.translateFor_memOk
    | simp only [memOk_mk, memOk_fold]
    | split
    | (with_reducible refine res_memOk (by with_reducible assumption) ?_)
    | (with_reducible refine resTrap_memOk (by with_reducible assumption) ?_)
    | (with_reducible refine resWait_memOk (by with_reducible assumption) ?_)
    | with_reducible apply engResOk.ok
    | with_reducible apply engResOk.stop
    | with_reducible apply engResOk.wait

theorem State.setEng_memOk (s : State) (core : Nat) (c : EngCmd) (hs : MemOk s) : MemOk (s.setEng core c) := by
  unfold State.setEng
  repeat' first
    | with_reducible assumption
    | with_reducible apply memOk.updFar

theorem State.engRead_memOk (s : State) (core : Nat) (c : EngCmd) (pa n : Nat) (pol : Policy) (mt1 : Bool) (va : Word) (hs : MemOk s) : (s.engRead core c pa n pol mt1 va).Ok := by
  unfold State.engRead
  repeat' first
    | with_reducible assumption
    | with_reducible apply State.loadG_memOk
    | with_reducible apply State.loadM_memOk
    | with_reducible apply State.setEng_memOk
    | simp only [memOk_mk, memOk_fold]
    | with_reducible apply resOk_ite
    | split
    | (with_reducible refine res_memOk (by with_reducible assumption) ?_)
    | (with_reducible refine resTrap_memOk (by with_reducible assumption) ?_)
    | (with_reducible refine resWait_memOk (by with_reducible assumption) ?_)
    | with_reducible apply engResOk.ok
    | with_reducible apply engResOk.stop
    | with_reducible apply engResOk.wait

theorem State.engWrite_memOk (s : State) (core : Nat) (c : EngCmd) (pa n : Nat) (pol : Policy) (mt1 : Bool) (va : Word) (v : BitVec 512) (hs : MemOk s) : (s.engWrite core c pa n pol mt1 va v).Ok := by
  unfold State.engWrite
  repeat' first
    | with_reducible assumption
    | with_reducible apply State.storeG_memOk
    | with_reducible apply State.storeM_memOk
    | with_reducible apply memOk.updFar
    | simp only [memOk_mk, memOk_fold]
    | with_reducible apply resOk_ite
    | split
    | (with_reducible refine res_memOk (by with_reducible assumption) ?_)
    | (with_reducible refine resTrap_memOk (by with_reducible assumption) ?_)
    | (with_reducible refine resWait_memOk (by with_reducible assumption) ?_)
    | with_reducible apply engResOk.ok
    | with_reducible apply engResOk.stop
    | with_reducible apply engResOk.wait

theorem State.cpyRead_memOk (s : State) (core : Nat) (c : EngCmd) (row byte : Nat) (hs : MemOk s) : (s.cpyRead core c row byte).Ok := by
  unfold State.cpyRead
  repeat' first
    | with_reducible assumption
    | with_reducible apply State.engCheck_memOk
    | with_reducible apply State.engRead_memOk
    | simp only [memOk_mk, memOk_fold]
    | split
    | with_reducible apply engResOk.ok
    | with_reducible apply engResOk.stop
    | with_reducible apply engResOk.wait
    | with_reducible refine engResOk_ok (by with_reducible assumption) ?_
    | with_reducible refine engResOk_stop (by with_reducible assumption) ?_
    | with_reducible refine engResOk_wait (by with_reducible assumption) ?_

theorem State.cpyGather_memOk (s : State) (core : Nat) (c : EngCmd) (row byte : Nat) (fuel : Nat) (hs : MemOk s) : (s.cpyGather core c row byte fuel).Ok := by
  induction fuel generalizing s core c row byte with
  | zero =>
    unfold State.cpyGather
    repeat' first
      | with_reducible assumption
      | with_reducible apply engRunOk.done
  | succ n ih =>
    unfold State.cpyGather
    repeat' first
      | with_reducible assumption
      | with_reducible apply State.cpyRead_memOk
      | with_reducible apply State.setEng_memOk
      | with_reducible apply ih
      | simp only [memOk_mk, memOk_fold]
      | split
      | with_reducible apply engRunOk.done
      | with_reducible apply engRunOk.stopped
      | with_reducible apply engRunOk.waiting
      | with_reducible refine engResOk_ok (by with_reducible assumption) ?_
      | with_reducible refine engResOk_stop (by with_reducible assumption) ?_
      | with_reducible refine engResOk_wait (by with_reducible assumption) ?_

theorem State.cpyScatter_memOk (s : State) (core : Nat) (c : EngCmd) (fuel : List (BitVec 512)) (hs : MemOk s) : (s.cpyScatter core c fuel).Ok := by
  induction fuel generalizing s core c with
  | nil =>
    unfold State.cpyScatter
    repeat' first
      | with_reducible assumption
      | with_reducible apply engRunOk.done
  | cons x l ih =>
    unfold State.cpyScatter
    repeat' first
      | with_reducible assumption
      | with_reducible apply State.engCheck_memOk
      | with_reducible apply State.engWrite_memOk
      | with_reducible apply ih
      | simp only [memOk_mk, memOk_fold]
      | split
      | with_reducible apply engRunOk.stopped
      | with_reducible apply engRunOk.waiting
      | with_reducible refine engResOk_ok (by with_reducible assumption) ?_
      | with_reducible refine engResOk_stop (by with_reducible assumption) ?_
      | with_reducible refine engResOk_wait (by with_reducible assumption) ?_

theorem State.cpyFail_memOk (s : State) (core : Nat) (c : EngCmd) (e : EngStop) (hs : MemOk s) : (s.cpyFail core c e).Ok := by
  unfold State.cpyFail
  repeat' first
    | with_reducible assumption
    | with_reducible apply State.engCheck_memOk
    | with_reducible apply State.engWrite_memOk
    | simp only [memOk_mk, memOk_fold]
    | split
    | with_reducible apply engRunOk.stopped
    | with_reducible apply engRunOk.waiting
    | with_reducible refine engResOk_ok (by with_reducible assumption) ?_
    | with_reducible refine engResOk_stop (by with_reducible assumption) ?_
    | with_reducible refine engResOk_wait (by with_reducible assumption) ?_

theorem State.cpyRun_memOk (s : State) (core : Nat) (c : EngCmd) (hs : MemOk s) : (s.cpyRun core c).Ok := by
  unfold State.cpyRun
  repeat' first
    | with_reducible assumption
    | with_reducible apply State.cpyGather_memOk
    | with_reducible apply State.cpyScatter_memOk
    | with_reducible apply State.cpyFail_memOk
    | simp only [memOk_mk, memOk_fold]
    | split
    | with_reducible apply engRunOk.waiting
    | with_reducible refine engRunOk_done (by with_reducible assumption) ?_
    | with_reducible refine engRunOk_stopped (by with_reducible assumption) ?_
    | with_reducible refine engRunOk_waiting (by with_reducible assumption) ?_

theorem State.arrayCopy_memOk (s : State) (core : Nat) (c : EngCmd) (fuel : Nat) (hs : MemOk s) : (s.arrayCopy core c fuel).Ok := by
  induction fuel generalizing s core c with
  | zero =>
    unfold State.arrayCopy
    repeat' first
      | with_reducible assumption
      | with_reducible apply engRunOk.done
  | succ n ih =>
    unfold State.arrayCopy
    repeat' first
      | with_reducible assumption
      | with_reducible apply State.engCheck_memOk
      | with_reducible apply State.engRead_memOk
      | with_reducible apply State.winPut_memOk
      | with_reducible apply State.checkRows_memOk
      | with_reducible apply State.winSee_memOk
      | with_reducible apply State.engWrite_memOk
      | with_reducible apply ih
      | simp only [memOk_mk, memOk_fold]
      | split
      | (with_reducible refine res_memOk (by with_reducible assumption) ?_)
      | (with_reducible refine resTrap_memOk (by with_reducible assumption) ?_)
      | (with_reducible refine resWait_memOk (by with_reducible assumption) ?_)
      | with_reducible apply engRunOk.done
      | with_reducible apply engRunOk.stopped
      | with_reducible apply engRunOk.waiting
      | with_reducible refine engResOk_ok (by with_reducible assumption) ?_
      | with_reducible refine engResOk_stop (by with_reducible assumption) ?_
      | with_reducible refine engResOk_wait (by with_reducible assumption) ?_

theorem State.engRun_memOk (s : State) (core : Nat) (c : EngCmd) (hs : MemOk s) : (s.engRun core c).Ok := by
  unfold State.engRun
  repeat' first
    | with_reducible assumption
    | with_reducible apply State.cpyRun_memOk
    | with_reducible apply State.arrayCopy_memOk
    | split

theorem State.engDeliver_memOk (s : State) (core : Nat) (c : EngCmd) (e : EngStop) (row byte : Nat) (hs : MemOk s) : MemOk (s.engDeliver core c e row byte) := by
  unfold State.engDeliver
  repeat' first
    | with_reducible assumption
    | with_reducible apply memOk.updFar
    | with_reducible apply State.copyRelease_memOk
    | with_reducible apply State.deliverOwn_memOk
    | with_reducible apply memOk_ite

theorem State.engOut_memOk (s : State) (core : Nat) (c : EngCmd) (hs : MemOk s) : (s.engOut core c).Ok := by
  unfold State.engOut
  repeat' first
    | with_reducible assumption
    | intro _
    | with_reducible apply State.sectorOut_memOk
    | with_reducible apply resOk_ite
    | with_reducible apply resOk.ok
    | with_reducible apply Res.bind_ok
    | with_reducible apply foldRes_ok

theorem State.engClose_memOk (s : State) (core : Nat) (c : EngCmd) (e : EngStop) (hs : MemOk s) : MemOk (s.engClose core c e) := by
  unfold State.engClose
  repeat' first
    | with_reducible assumption
    | with_reducible apply State.setEng_memOk
    | with_reducible apply State.engOut_memOk
    | with_reducible apply State.engDeliver_memOk
    | simp only [memOk_mk, memOk_fold]
    | with_reducible apply memOk_ite
    | with_reducible apply Res.ok_state
    | split
    | (with_reducible refine res_memOk (by with_reducible assumption) ?_)

theorem State.engFinish_memOk (s : State) (core : Nat) (c : EngCmd) (hs : MemOk s) : MemOk (s.engFinish core c) := by
  unfold State.engFinish
  repeat' first
    | with_reducible assumption
    | with_reducible apply State.engClose_memOk
    | with_reducible apply State.engRun_memOk
    | with_reducible apply State.setEng_memOk
    | split
    | with_reducible refine engRunOk_done (by with_reducible assumption) ?_
    | with_reducible refine engRunOk_stopped (by with_reducible assumption) ?_
    | with_reducible refine engRunOk_waiting (by with_reducible assumption) ?_

theorem State.engStart_memOk (s : State) (core k : Nat) (hs : MemOk s) : MemOk (s.engStart core k) := by
  unfold State.engStart
  repeat' first
    | with_reducible assumption
    | with_reducible apply State.setEng_memOk
    | simp only [memOk_mk, memOk_fold]
    | with_reducible apply memOk_ite
    | split

theorem State.engComplete_memOk (s : State) (core k : Nat) (hs : MemOk s) : MemOk (s.engComplete core k) := by
  unfold State.engComplete
  repeat' first
    | with_reducible assumption
    | with_reducible apply State.engDeliver_memOk
    | with_reducible apply State.engFinish_memOk
    | with_reducible apply memOk_ite
    | split

theorem State.engAsk_memOk (s : State) (core : Nat) (hs : MemOk s) : MemOk (s.engAsk core) := by
  unfold State.engAsk
  repeat' first
    | with_reducible assumption
    | with_reducible apply State.askUnits_memOk

theorem State.engDrain_memOk (s : State) (core : Nat) (hs : MemOk s) : MemOk (s.engDrain core) := by
  unfold State.engDrain
  repeat' first
    | with_reducible assumption
    | intro _
    | with_reducible apply State.engAsk_memOk
    | with_reducible apply State.engStart_memOk
    | with_reducible apply State.engComplete_memOk
    | with_reducible apply foldl_memOk

theorem State.engStopAll_memOk (s : State) (core : Nat) (hs : MemOk s) : MemOk (s.engStopAll core) := by
  unfold State.engStopAll
  repeat' first
    | with_reducible assumption
    | intro _
    | with_reducible apply State.engDeliver_memOk
    | with_reducible apply State.engClose_memOk
    | simp only [memOk_mk, memOk_fold]
    | with_reducible apply foldl_memOk
    | split

theorem State.engIssue_memOk (s : State) (core : Nat) (c : EngCmd) (hs : MemOk s) : MemOk (s.engIssue core c) := by
  unfold State.engIssue
  repeat' first
    | with_reducible assumption
    | with_reducible apply memOk.updFar
    | with_reducible apply State.engDrain_memOk
    | simp only [memOk_mk, memOk_fold]
    | with_reducible apply memOk_ite

theorem State.setRemote_memOk (s : State) (k : Nat) (r : Remote) (hs : MemOk s) : MemOk (s.setRemote k r) := by
  unfold State.setRemote
  repeat' first
    | with_reducible assumption
    | simp only [memOk_mk, memOk_fold]

theorem State.dropRemote_memOk (s : State) (k : Nat) (hs : MemOk s) : MemOk (s.dropRemote k) := by
  unfold State.dropRemote
  repeat' first
    | with_reducible assumption
    | simp only [memOk_mk, memOk_fold]

theorem State.lossNotice_memOk (s : State) (r : Remote) (hs : MemOk s) : MemOk (s.lossNotice r) := by
  unfold State.lossNotice
  repeat' first
    | with_reducible assumption
    | with_reducible apply State.notice_memOk
    | simp only [memOk_mk, memOk_fold]
    | with_reducible apply memOk_ite

theorem State.loseRemote_memOk (s : State) (k : Nat) (r : Remote) (hs : MemOk s) : MemOk (s.loseRemote k r) := by
  unfold State.loseRemote
  repeat' first
    | with_reducible assumption
    | with_reducible apply State.dropRemote_memOk
    | with_reducible apply State.lossNotice_memOk
    | with_reducible apply State.setRemote_memOk
    | with_reducible apply memOk_ite

theorem State.answer_memOk (s : State) (k : Nat) (r : Remote) (v : Nat) (hs : MemOk s) : MemOk (s.answer k r v) := by
  unfold State.answer
  repeat' first
    | with_reducible assumption
    | with_reducible apply State.setRemote_memOk

theorem State.remotesLost_memOk (s : State) (d : Nat) (from' : Bool) (hs : MemOk s) : MemOk (s.remotesLost d from') := by
  unfold State.remotesLost
  repeat' first
    | with_reducible assumption
    | intro _
    | with_reducible apply State.lossNotice_memOk
    | simp only [memOk_mk, memOk_fold]
    | with_reducible apply foldl_memOk

theorem State.remotePerform_memOk (s : State) (k : Nat) (hs : MemOk s) : MemOk (s.remotePerform k) := by
  unfold State.remotePerform
  repeat' first
    | with_reducible assumption
    | with_reducible apply State.dropRemote_memOk
    | with_reducible apply State.log_memOk
    | with_reducible apply State.loseRemote_memOk
    | with_reducible apply State.memEvent_memOk
    | with_reducible apply State.mscRead_memOk
    | with_reducible apply State.wake_memOk
    | with_reducible apply State.answer_memOk
    | with_reducible apply State.storeM_memOk
    | with_reducible apply State.amoM_memOk
    | simp only [memOk_mk, memOk_fold]
    | with_reducible apply memOk_ite
    | split
    | (with_reducible refine res_memOk (by with_reducible assumption) ?_)
    | (with_reducible refine resTrap_memOk (by with_reducible assumption) ?_)
    | (with_reducible refine resWait_memOk (by with_reducible assumption) ?_)

theorem State.remoteReply_memOk (s : State) (k : Nat) (hs : MemOk s) : MemOk (s.remoteReply k) := by
  unfold State.remoteReply
  repeat' first
    | with_reducible assumption
    | with_reducible apply State.dropRemote_memOk
    | with_reducible apply State.dropStale_memOk
    | with_reducible apply State.setRemote_memOk
    | with_reducible apply memOk.updHart
    | simp only [memOk_mk, memOk_fold]
    | with_reducible apply memOk_ite
    | split

theorem State.remoteDrain_memOk (s : State) (core : Nat) (fuel : Nat) (hs : MemOk s) : MemOk (s.remoteDrain core fuel) := by
  induction fuel generalizing s core with
  | zero =>
    unfold State.remoteDrain
    repeat' first
      | with_reducible assumption
  | succ n ih =>
    unfold State.remoteDrain
    repeat' first
      | with_reducible assumption
      | with_reducible apply State.remotePerform_memOk
      | with_reducible apply State.remoteReply_memOk
      | with_reducible apply ih
      | split

theorem State.setBars_memOk (s : State) (core lvl : Nat) (b : List Bar) (hs : MemOk s) : MemOk (s.setBars core lvl b) := by
  unfold State.setBars
  repeat' first
    | with_reducible assumption
    | with_reducible apply memOk.updCluster
    | with_reducible apply memOk.updIsland
    | with_reducible apply memOk.updHub
    | with_reducible apply memOk_ite

theorem State.barLeave_memOk (s : State) (core : Nat) (b : Bar) (hs : MemOk s) : MemOk (s.barLeave core b) := by
  unfold State.barLeave
  repeat' first
    | with_reducible assumption
    | intro _
    | with_reducible apply State.setBars_memOk
    | with_reducible apply memOk.updHart
    | simp only [memOk_mk, memOk_fold]
    | with_reducible apply foldl_memOk

theorem State.barCheck_memOk (s : State) (core : Nat) (b : Bar) (hs : MemOk s) : MemOk (s.barCheck core b) := by
  unfold State.barCheck
  repeat' first
    | with_reducible assumption
    | with_reducible apply State.barLeave_memOk
    | with_reducible apply memOk_ite

theorem State.barArrive_memOk (s : State) (m : BarMsg) (hs : MemOk s) : MemOk (s.barArrive m) := by
  unfold State.barArrive
  repeat' first
    | with_reducible assumption
    | with_reducible apply State.setBars_memOk
    | with_reducible apply State.barCheck_memOk
    | simp only [memOk_mk, memOk_fold]
    | split

theorem State.barrierArrival_memOk (s : State) (k : Nat) (hs : MemOk s) : MemOk (s.barrierArrival k) := by
  unfold State.barrierArrival
  repeat' first
    | with_reducible assumption
    | with_reducible apply State.dropStale_memOk
    | with_reducible apply State.barArrive_memOk
    | simp only [memOk_mk, memOk_fold]
    | with_reducible apply memOk_ite
    | split

theorem State.barWithdraw_memOk (s : State) (core lvl : Nat) (hs : MemOk s) : MemOk (s.barWithdraw core lvl) := by
  unfold State.barWithdraw
  repeat' first
    | with_reducible assumption
    | with_reducible apply State.setBars_memOk
    | simp only [memOk_mk, memOk_fold]

theorem State.arrayEnd_memOk (s : State) (core : Nat) (hs : MemOk s) : MemOk (s.arrayEnd core) := by
  unfold State.arrayEnd
  repeat' first
    | with_reducible assumption
    | with_reducible apply State.arrayDrain_memOk

theorem State.waitDone_memOk (s : State) (a : Agent) (hs : MemOk s) : MemOk (s.waitDone a) := by
  unfold State.waitDone
  repeat' first
    | with_reducible assumption
    | with_reducible apply memOk.setHart
    | with_reducible apply memOk.updFar
    | simp only [memOk_mk, memOk_fold]
    | with_reducible apply memOk_ite
    | split

theorem State.endWait_memOk (s : State) (a : Agent) (hs : MemOk s) : MemOk (s.endWait a) := by
  unfold State.endWait
  repeat' first
    | with_reducible assumption
    | with_reducible apply memOk.setHart
    | with_reducible apply State.barWithdraw_memOk
    | with_reducible apply State.stealDrop_memOk
    | with_reducible apply memOk.updFar
    | with_reducible apply memOk.updHart
    | simp only [memOk_mk, memOk_fold]
    | with_reducible apply memOk_ite
    | split

theorem State.lostNotices_memOk (s : State) (core : Nat) (hs : MemOk s) : MemOk (s.lostNotices core) := by
  unfold State.lostNotices
  repeat' first
    | with_reducible assumption
    | intro _
    | with_reducible apply State.lossNotice_memOk
    | simp only [memOk_mk, memOk_fold]
    | with_reducible apply foldl_memOk

theorem State.remoteEnd_memOk (s : State) (core : Nat) (hs : MemOk s) : MemOk (s.remoteEnd core) := by
  unfold State.remoteEnd
  repeat' first
    | with_reducible assumption
    | with_reducible apply State.remoteDrain_memOk
    | with_reducible apply State.lostNotices_memOk

theorem State.quiesce_memOk (s : State) (core : Nat) (hs : MemOk s) : MemOk (s.quiesce core).1 := by
  unfold State.quiesce
  repeat' first
    | with_reducible assumption
    | intro _
    | with_reducible apply State.arrayEnd_memOk
    | with_reducible apply State.engStopAll_memOk
    | with_reducible apply State.remoteEnd_memOk
    | with_reducible apply State.needDrained_memOk
    | with_reducible apply State.releaseAt_memOk
    | simp only [memOk_mk, memOk_fold]
    | with_reducible apply resOk_ite
    | with_reducible apply resOk.wait
    | with_reducible apply Res.bind_ok
    | with_reducible apply Res.ok_state
    | split
    | (with_reducible refine res_memOk (by with_reducible assumption) ?_)

theorem State.waitmEnd_memOk (s : State) (a : Agent) (code : Nat) (hs : MemOk s) : MemOk (s.waitmEnd a code) := by
  unfold State.waitmEnd
  repeat' first
    | with_reducible assumption
    | with_reducible apply memOk.setHart
    | simp only [memOk_mk, memOk_fold]
    | split

theorem State.waitmReturn_memOk (s : State) (a : Agent) (hs : MemOk s) : MemOk (s.waitmReturn a) := by
  unfold State.waitmReturn
  repeat' first
    | with_reducible assumption
    | with_reducible apply State.waitmEnd_memOk

theorem State.halt_memOk (s : State) (a : Agent) (hs : MemOk s) : MemOk (s.halt a) := by
  unfold State.halt
  repeat' first
    | with_reducible assumption
    | with_reducible apply State.endWait_memOk
    | with_reducible apply memOk.updHart

theorem State.stopCore_memOk (s : State) (core cause : Nat) (hs : MemOk s) : MemOk (s.stopCore core cause) := by
  unfold State.stopCore
  repeat' first
    | with_reducible assumption
    | with_reducible apply State.waitDone_memOk
    | with_reducible apply State.waitmReturn_memOk
    | with_reducible apply State.arrayEnd_memOk
    | with_reducible apply State.engStopAll_memOk
    | with_reducible apply State.sbDrain_memOk
    | with_reducible apply State.barWithdraw_memOk
    | with_reducible apply State.notice_memOk
    | with_reducible apply State.halt_memOk
    | with_reducible apply memOk.updFar
    | with_reducible apply State.log_memOk
    | simp only [memOk_mk, memOk_fold]
    | with_reducible apply memOk_ite
    | split

theorem State.tableWord_memOk (s : State) (core : Nat) (va : Word) (hs : MemOk s) : (s.tableWord core va).Ok := by
  unfold State.tableWord
  repeat' first
    | with_reducible assumption
    | with_reducible apply State.translateFor_memOk
    | with_reducible apply State.loadM_memOk
    | simp only [memOk_mk, memOk_fold]
    | with_reducible apply resOk_ite
    | with_reducible apply resOk.ok
    | with_reducible apply resOk.wait
    | split
    | (with_reducible refine res_memOk (by with_reducible assumption) ?_)
    | (with_reducible refine resTrap_memOk (by with_reducible assumption) ?_)
    | (with_reducible refine resWait_memOk (by with_reducible assumption) ?_)

theorem State.tableItems_memOk (s : State) (core : Nat) (va : Word) (fuel : Nat) (hs : MemOk s) : (s.tableItems core va fuel).Ok := by
  induction fuel generalizing s core va with
  | zero =>
    unfold State.tableItems
    repeat' first
      | with_reducible assumption
      | with_reducible apply resOk.ok
  | succ n ih =>
    unfold State.tableItems
    repeat' first
      | with_reducible assumption
      | intro _
      | with_reducible apply State.tableWord_memOk
      | with_reducible apply ih
      | with_reducible apply resOk_ite
      | with_reducible apply resOk.ok
      | with_reducible apply Res.bind_ok
      | split

theorem State.liveTable_memOk (s : State) (core k : Nat) (hs : MemOk s) : (s.liveTable core k).Ok := by
  unfold State.liveTable
  repeat' first
    | with_reducible assumption
    | intro _
    | with_reducible apply State.tableWord_memOk
    | with_reducible apply State.tableItems_memOk
    | simp only [memOk_mk, memOk_fold]
    | with_reducible apply resOk_ite
    | with_reducible apply resOk.ok
    | with_reducible apply Res.bind_ok
    | split

theorem State.taskHold_memOk (s : State) (core : Nat) (t : Task) (hs : MemOk s) : MemOk (s.taskHold core t) := by
  unfold State.taskHold
  repeat' first
    | with_reducible assumption
    | with_reducible apply memOk.updFar

theorem State.taskAside_memOk (s : State) (core : Nat) (t : Task) (hs : MemOk s) : MemOk (s.taskAside core t) := by
  unfold State.taskAside
  repeat' first
    | with_reducible assumption
    | with_reducible apply memOk.setCtx
    | with_reducible apply State.taskHold_memOk
    | with_reducible apply memOk_ite
    | split

theorem State.grantEnter_memOk (s : State) (core : Nat) (t : Task) (hs : MemOk s) : MemOk (s.grantEnter core t) := by
  unfold State.grantEnter
  repeat' first
    | with_reducible assumption
    | with_reducible apply State.taskHold_memOk
    | with_reducible apply State.taskAside_memOk
    | with_reducible apply State.coreEnqueue_memOk
    | with_reducible apply memOk_ite
    | split
    | (with_reducible refine OptOk.of_eq (by with_reducible assumption) ?_)

theorem State.taskDone_memOk (s : State) (t : Task) (hs : MemOk s) : MemOk (s.taskDone t) := by
  unfold State.taskDone
  repeat' first
    | with_reducible assumption
    | with_reducible apply memOk.updHome
    | with_reducible apply memOk_ite

theorem State.grantBack_memOk (s : State) (ts : List Task) (hs : MemOk s) : MemOk (s.grantBack ts) := by
  unfold State.grantBack
  repeat' first
    | with_reducible assumption
    | intro _
    | with_reducible apply State.taskDone_memOk
    | with_reducible apply memOk.updHome
    | with_reducible apply foldl_memOk

theorem State.grantReach_memOk (s : State) (g : Grant) (hs : MemOk s) : MemOk (s.grantReach g) := by
  unfold State.grantReach
  repeat' first
    | with_reducible assumption
    | intro _
    | with_reducible apply State.grantBack_memOk
    | with_reducible apply State.dropStale_memOk
    | with_reducible apply State.grantEnter_memOk
    | with_reducible apply memOk_ite
    | with_reducible apply foldl_memOk
    | split

theorem State.grantsIn_memOk (s : State) (core : Nat) (hs : MemOk s) : MemOk (s.grantsIn core) := by
  unfold State.grantsIn
  repeat' first
    | with_reducible assumption
    | intro _
    | with_reducible apply State.grantReach_memOk
    | simp only [memOk_mk, memOk_fold]
    | with_reducible apply foldl_memOk

theorem State.queuesIn_memOk (s : State) (core : Nat) (hs : MemOk s) : MemOk (s.queuesIn core).1 := by
  unfold State.queuesIn
  repeat' first
    | with_reducible assumption
    | with_reducible apply memOk.updCluster
    | with_reducible apply memOk.updIsland
    | simp only [memOk_mk, memOk_fold]
    | with_reducible apply memOk_ite

theorem State.queuesOut_memOk (s : State) (core : Nat) (low high : List Task) (hs : MemOk s) : MemOk (s.queuesOut core low high) := by
  unfold State.queuesOut
  repeat' first
    | with_reducible assumption
    | intro _
    | with_reducible apply memOk.updCluster
    | with_reducible apply State.taskAside_memOk
    | with_reducible apply memOk.updIsland
    | with_reducible apply State.autoCancelAll_memOk
    | simp only [memOk_mk, memOk_fold]
    | with_reducible apply memOk_ite
    | with_reducible apply foldl_memOk

theorem State.stealsOut_memOk (s : State) (core : Nat) (hs : MemOk s) : MemOk (s.stealsOut core) := by
  unfold State.stealsOut
  repeat' first
    | with_reducible assumption
    | with_reducible apply State.stealDrop_memOk
    | simp only [memOk_mk, memOk_fold]
    | split

theorem State.unitsBack_memOk (s : State) (core : Nat) (hs : MemOk s) : MemOk (s.unitsBack core) := by
  unfold State.unitsBack
  repeat' first
    | with_reducible assumption
    | with_reducible apply State.arrayRelease_memOk
    | with_reducible apply State.copyRelease_memOk

theorem State.remotesStray_memOk (s : State) (core : Nat) (hs : MemOk s) : MemOk (s.remotesStray core) := by
  unfold State.remotesStray
  repeat' first
    | with_reducible assumption
    | simp only [memOk_mk, memOk_fold]
    | with_reducible apply memOk_ite

theorem State.unitHeld_memOk (s : State) (c v : Nat) (hs : MemOk s) : MemOk (s.unitHeld c v) := by
  unfold State.unitHeld
  repeat' first
    | with_reducible assumption
    | with_reducible apply memOk.updCtx
    | simp only [memOk_mk, memOk_fold]
    | with_reducible apply memOk_ite

theorem State.unplace_memOk (s : State) (c core : Nat) (sv : Option Saved) (hs : MemOk s) : MemOk (s.unplace c core sv) := by
  unfold State.unplace
  repeat' first
    | with_reducible assumption
    | with_reducible apply State.unitsBack_memOk
    | with_reducible apply State.walkForget_memOk
    | with_reducible apply State.remotesStray_memOk
    | with_reducible apply memOk.setFar
    | with_reducible apply memOk.setHart
    | with_reducible apply memOk.updCtx
    | with_reducible apply State.unitHeld_memOk

theorem State.saveParity_memOk (s : State) (core : Nat) (hs : MemOk s) : MemOk (s.saveParity core) := by
  unfold State.saveParity
  repeat' first
    | with_reducible assumption
    | intro _
    | with_reducible apply State.freshen_memOk
    | with_reducible apply State.log_memOk
    | with_reducible apply foldl_memOk

theorem State.saveVcore_memOk (s : State) (core : Nat) (k : Keep) (hs : MemOk s) : MemOk (s.saveVcore core k).1 := by
  unfold State.saveVcore
  repeat' first
    | with_reducible assumption
    | with_reducible apply State.waitDone_memOk
    | with_reducible apply State.waitmReturn_memOk
    | with_reducible apply State.endWait_memOk
    | with_reducible apply State.stealsOut_memOk
    | with_reducible apply State.grantsIn_memOk
    | with_reducible apply State.quiesce_memOk
    | with_reducible apply State.queuesIn_memOk
    | with_reducible apply State.saveParity_memOk
    | with_reducible apply State.unplace_memOk
    | simp only [memOk_mk, memOk_fold]
    | split
    | (with_reducible refine fst_memOk (by with_reducible assumption) ?_)

theorem State.placeVcore_memOk (s : State) (c v core : Nat) (sv : Saved) (hs : MemOk s) : MemOk (s.placeVcore c v core sv) := by
  unfold State.placeVcore
  repeat' first
    | with_reducible assumption
    | with_reducible apply memOk.setFar
    | with_reducible apply memOk.setHart
    | with_reducible apply memOk.updCtx
    | with_reducible apply State.queuesOut_memOk
    | with_reducible apply State.redeliver_memOk

theorem State.mapEvent_memOk (s : State) (core : Nat) (hs : MemOk s) : MemOk (s.mapEvent core) := by
  unfold State.mapEvent
  repeat' first
    | with_reducible assumption
    | with_reducible apply memOk.updHart

theorem State.startGrace_memOk (s : State) (c : Nat) (anew : Bool) (hs : MemOk s) : MemOk (s.startGrace c anew) := by
  unfold State.startGrace
  repeat' first
    | with_reducible assumption
    | with_reducible apply memOk.updCtx

theorem State.mapNew_memOk (s : State) (c core : Nat) (hs : MemOk s) : MemOk (s.mapNew c core) := by
  unfold State.mapNew
  repeat' first
    | with_reducible assumption
    | with_reducible apply State.mapEvent_memOk
    | with_reducible apply State.startGrace_memOk
    | with_reducible apply memOk_ite
    | split

theorem State.returnTask_memOk (s : State) (h q : Nat) (t : Task) (hs : MemOk s) : MemOk (s.returnTask h q t) := by
  unfold State.returnTask
  repeat' first
    | with_reducible assumption
    | with_reducible apply State.notice_memOk

theorem State.appendTask_memOk (s : State) (h q : Nat) (keep : Bool) (t : Task) (hs : MemOk s) : MemOk (s.appendTask h q keep t) := by
  unfold State.appendTask
  repeat' first
    | with_reducible assumption
    | with_reducible apply memOk.setHome
    | with_reducible apply State.log_memOk
    | with_reducible apply State.returnTask_memOk
    | simp only [memOk_mk, memOk_fold]
    | with_reducible apply memOk_ite
    | split

theorem State.homeArrive_memOk (s : State) (h : Nat) (hs : MemOk s) : MemOk (s.homeArrive h) := by
  unfold State.homeArrive
  repeat' first
    | with_reducible assumption
    | intro _
    | with_reducible apply State.log_memOk
    | with_reducible apply State.appendTask_memOk
    | with_reducible apply memOk.setHome
    | simp only [memOk_mk, memOk_fold]
    | with_reducible apply memOk_ite
    | with_reducible apply foldl_memOk

theorem State.homeGrant_memOk (s : State) (h : Nat) (hs : MemOk s) : MemOk (s.homeGrant h).1 := by
  unfold State.homeGrant
  repeat' first
    | with_reducible assumption
    | with_reducible apply memOk.setHome
    | simp only [memOk_mk, memOk_fold]
    | split

theorem State.lineOut_memOk (s : State) (d ln : Nat) (hs : MemOk s) : (s.lineOut d ln).Ok := by
  unfold State.lineOut
  repeat' first
    | with_reducible assumption
    | with_reducible apply State.l1CleanAll_memOk
    | with_reducible apply memOk.updIsland
    | with_reducible apply State.cleanTry_memOk
    | with_reducible apply resOk_ite
    | with_reducible apply resOk.ok

theorem eachLine_ok {f : State → Nat → Res Unit} (hf : ∀ s x, MemOk s → (f s x).Ok) (l : List Nat) (s : State) (hs : MemOk s) :
    (eachLine f l s).Ok := by
  unfold eachLine
  exact foldRes_ok (fun r x hr => Res.bind_ok hr fun _ s hs => hf s x hs) l hs

theorem State.anchorClean_memOk (s : State) (t : Task) (hs : MemOk s) : (s.anchorClean t).Ok := by
  unfold State.anchorClean
  repeat' first
    | with_reducible assumption
    | intro _
    | with_reducible apply State.lineOut_memOk
    | with_reducible apply State.wake_memOk
    | with_reducible apply eachLine_ok
    | with_reducible apply resOk.ok
    | with_reducible apply Res.bind_ok

theorem State.wroteOut_memOk (s : State) (h ln : Nat) (hs : MemOk s) : (s.wroteOut h ln).Ok := by
  unfold State.wroteOut
  repeat' first
    | with_reducible assumption
    | intro _
    | with_reducible apply State.lineOut_memOk
    | with_reducible apply State.wake_memOk
    | with_reducible apply resOk_ite
    | with_reducible apply resOk.ok
    | with_reducible apply Res.bind_ok

theorem State.anchorNear_memOk (s : State) (h c : Nat) (hs : MemOk s) : (s.anchorNear h c).Ok := by
  unfold State.anchorNear
  repeat' first
    | with_reducible assumption
    | intro _
    | with_reducible apply State.wroteOut_memOk
    | with_reducible apply eachLine_ok

theorem State.l2Out_memOk (s : State) (d ln : Nat) (hs : MemOk s) : (s.l2Out d ln).Ok := by
  unfold State.l2Out
  repeat' first
    | with_reducible assumption
    | with_reducible apply State.backInvalidate_memOk
    | with_reducible apply State.l2Clean_memOk
    | with_reducible apply resOk.ok
    | with_reducible apply resOk.wait
    | split

theorem State.anchorFar_memOk (s : State) (core : Nat) (t : Task) (hs : MemOk s) : (s.anchorFar core t).Ok := by
  unfold State.anchorFar
  repeat' first
    | with_reducible assumption
    | intro _
    | with_reducible apply State.l1Clean_memOk
    | with_reducible apply State.l2Out_memOk
    | with_reducible apply eachLine_ok
    | simp only [memOk_mk, memOk_fold]
    | with_reducible apply resOk_ite
    | with_reducible apply resOk.ok

theorem State.nearDispatch_memOk (s : State) (h c : Nat) (t : Task) (hs : MemOk s) : MemOk (s.nearDispatch h c t) := by
  unfold State.nearDispatch
  repeat' first
    | with_reducible assumption
    | with_reducible apply memOk.setHart
    | with_reducible apply memOk.setNear

theorem State.farDispatch_memOk (s : State) (core : Nat) (t : Task) (hs : MemOk s) : MemOk (s.farDispatch core t) := by
  unfold State.farDispatch
  repeat' first
    | with_reducible assumption
    | with_reducible apply memOk.updHart
    | with_reducible apply memOk.updFar

theorem State.homePlace_memOk (s : State) (h c : Nat) (hs : MemOk s) : MemOk (s.homePlace h c).1 := by
  unfold State.homePlace
  repeat' first
    | with_reducible assumption
    | with_reducible apply State.anchorClean_memOk
    | with_reducible apply memOk.setHome
    | with_reducible apply State.nearDispatch_memOk
    | simp only [memOk_mk, memOk_fold]
    | split
    | (with_reducible refine res_memOk (by with_reducible assumption) ?_)
    | (with_reducible refine resTrap_memOk (by with_reducible assumption) ?_)
    | (with_reducible refine resWait_memOk (by with_reducible assumption) ?_)

theorem State.homeCycle_memOk (s : State) (h : Nat) (hs : MemOk s) : MemOk (s.homeCycle h) := by
  unfold State.homeCycle
  repeat' first
    | with_reducible assumption
    | with_reducible apply State.homeArrive_memOk
    | with_reducible apply State.homeGrant_memOk
    | with_reducible apply State.homePlace_memOk
    | with_reducible apply memOk.updHome

theorem State.stealArrive_memOk (s : State) (m : StealMsg) (hs : MemOk s) : MemOk (s.stealArrive m) := by
  unfold State.stealArrive
  repeat' first
    | with_reducible assumption
    | with_reducible apply State.log_memOk
    | with_reducible apply memOk.updHome
    | simp only [memOk_mk, memOk_fold]
    | with_reducible apply memOk_ite

theorem State.stealPost_memOk (s : State) (core home count : Nat) (hs : MemOk s) : MemOk (s.stealPost core home count) := by
  unfold State.stealPost
  repeat' first
    | with_reducible assumption
    | with_reducible apply State.stealArrive_memOk
    | simp only [memOk_mk, memOk_fold]
    | with_reducible apply memOk_ite

theorem State.grantDeliver_memOk (s : State) (k : Nat) (hs : MemOk s) : MemOk (s.grantDeliver k) := by
  unfold State.grantDeliver
  repeat' first
    | with_reducible assumption
    | with_reducible apply State.grantReach_memOk
    | with_reducible apply memOk.updFar
    | with_reducible apply memOk.updHart
    | simp only [memOk_mk, memOk_fold]
    | with_reducible apply memOk_ite
    | split

theorem State.grantsDrain_memOk (s : State) (core : Nat) (fuel : Nat) (hs : MemOk s) : MemOk (s.grantsDrain core fuel) := by
  induction fuel generalizing s core with
  | zero =>
    unfold State.grantsDrain
    repeat' first
      | with_reducible assumption
  | succ n ih =>
    unfold State.grantsDrain
    repeat' first
      | with_reducible assumption
      | with_reducible apply State.grantDeliver_memOk
      | with_reducible apply ih
      | split

theorem State.autoPost_memOk (s : State) (core : Nat) (hs : MemOk s) : MemOk (s.autoPost core) := by
  unfold State.autoPost
  repeat' first
    | with_reducible assumption
    | with_reducible apply memOk.setFar
    | with_reducible apply State.stealPost_memOk
    | simp only [memOk_mk, memOk_fold]
    | with_reducible apply memOk_ite
    | split

theorem State.autoWithdraw_memOk (s : State) (core : Nat) (hs : MemOk s) : MemOk (s.autoWithdraw core) := by
  unfold State.autoWithdraw
  repeat' first
    | with_reducible assumption
    | with_reducible apply State.stealDrop_memOk
    | with_reducible apply memOk.updFar
    | with_reducible apply State.autoPost_memOk
    | with_reducible apply memOk_ite
    | split

theorem State.queueRefill_memOk (s : State) (core : Nat) (hs : MemOk s) : MemOk (s.queueRefill core) := by
  unfold State.queueRefill
  repeat' first
    | with_reducible assumption
    | intro _
    | with_reducible apply State.redeliver_memOk
    | with_reducible apply State.coreEnqueue_memOk
    | with_reducible apply memOk.updFar
    | simp only [memOk_mk, memOk_fold]
    | with_reducible apply memOk_ite
    | with_reducible apply foldl_memOk
    | split
    | (with_reducible refine OptOk.of_eq (by with_reducible assumption) ?_)

theorem State.farSearch_memOk (s : State) (core : Nat) (hs : MemOk s) : MemOk (s.farSearch core) := by
  unfold State.farSearch
  repeat' first
    | with_reducible assumption
    | with_reducible apply memOk.updFar
    | with_reducible apply State.autoCancel_memOk
    | with_reducible apply memOk.updCluster
    | with_reducible apply State.queueRefill_memOk
    | with_reducible apply memOk.updIsland
    | with_reducible apply State.autoPost_memOk
    | with_reducible apply State.grantsDrain_memOk
    | simp only [memOk_mk, memOk_fold]
    | with_reducible apply memOk_ite

theorem State.farTake_memOk (s : State) (core : Nat) (hs : MemOk s) : MemOk (s.farTake core) := by
  unfold State.farTake
  repeat' first
    | with_reducible assumption
    | with_reducible apply State.saveVcore_memOk
    | with_reducible apply State.farSearch_memOk
    | with_reducible apply State.anchorClean_memOk
    | with_reducible apply memOk.updFar
    | with_reducible apply State.farDispatch_memOk
    | with_reducible apply State.queueRefill_memOk
    | simp only [memOk_mk, memOk_fold]
    | with_reducible apply memOk_ite
    | with_reducible apply Res.ok_state
    | split
    | (with_reducible refine res_memOk (by with_reducible assumption) ?_)

theorem State.nearRetire_memOk (s : State) (h c : Nat) (hs : MemOk s) : MemOk (s.nearRetire h c) := by
  unfold State.nearRetire
  repeat' first
    | with_reducible assumption
    | with_reducible apply State.taskDone_memOk
    | with_reducible apply memOk.updNear
    | with_reducible apply memOk.updHart
    | split

theorem State.anchorLeave_memOk (s : State) (h c : Nat) (hs : MemOk s) : MemOk (s.anchorLeave h c) := by
  unfold State.anchorLeave
  repeat' first
    | with_reducible assumption
    | intro _
    | with_reducible apply State.wroteOut_memOk
    | with_reducible apply memOk.updUnit
    | with_reducible apply foldl_memOk
    | with_reducible apply Res.ok_state
    | split
    | (with_reducible refine res_memOk (by with_reducible assumption) ?_)

theorem State.nearAbort_memOk (s : State) (h c cause : Nat) (pc : Word) (hs : MemOk s) : MemOk (s.nearAbort h c cause pc) := by
  unfold State.nearAbort
  repeat' first
    | with_reducible assumption
    | with_reducible apply State.anchorLeave_memOk
    | with_reducible apply State.nearRetire_memOk
    | with_reducible apply State.notice_memOk
    | with_reducible apply State.log_memOk
    | simp only [memOk_mk, memOk_fold]
    | split

theorem State.farRetire_memOk (s : State) (core : Nat) (hs : MemOk s) : MemOk (s.farRetire core) := by
  unfold State.farRetire
  repeat' first
    | with_reducible assumption
    | with_reducible apply memOk.updHart
    | with_reducible apply State.taskDone_memOk
    | with_reducible apply memOk.updFar
    | split

end Sys2Proof.Machine
end

