-- ==== Sys2Proof/Laws/MemOkOps.lean ====
section
/-! SUPPORT. Every operation of the instructions keeps memory in its canonical form. -/
set_option linter.unusedTactic false
set_option linter.unreachableTactic false
set_option linter.unusedSimpArgs false
namespace Sys2Proof.Machine

theorem State.settle_memOk (s : State) (a : Agent) (hs : MemOk s) : MemOk (s.settle a) := by
  unfold State.settle
  repeat' first
    | with_reducible assumption
    | with_reducible apply State.arrayDrain_memOk
    | with_reducible apply State.remoteDrain_memOk
    | split

theorem State.enterTrap_memOk (s : State) (a : Agent) (t : Trap) (hs : MemOk s) : MemOk (s.enterTrap a t) := by
  unfold State.enterTrap
  repeat' first
    | with_reducible assumption
    | with_reducible apply memOk.updNear
    | with_reducible apply memOk.setHart
    | with_reducible apply State.nearAbort_memOk
    | with_reducible apply State.stopCore_memOk
    | simp only [memOk_mk, memOk_fold]
    | with_reducible apply memOk_ite
    | split

theorem State.takeTrap_memOk (s : State) (a : Agent) (t : Trap) (hs : MemOk s) : MemOk (s.takeTrap a t) := by
  unfold State.takeTrap
  repeat' first
    | with_reducible assumption
    | with_reducible apply State.endWait_memOk
    | with_reducible apply State.walkForget_memOk
    | with_reducible apply State.settle_memOk
    | with_reducible apply State.enterTrap_memOk
    | with_reducible apply memOk.updHart
    | simp only [memOk_mk, memOk_fold]
    | with_reducible apply memOk_ite

theorem State.boundary_memOk (s : State) (a : Agent) (hs : MemOk s) : OptOk (s.boundary a) := by
  unfold State.boundary
  repeat' first
    | with_reducible assumption
    | with_reducible apply memOk.setHart
    | with_reducible apply State.takeTrap_memOk
    | with_reducible apply optOk_ite
    | with_reducible apply optOk.some
    | with_reducible exact optOk_none
    | split

theorem State.lineCheck_memOk (s : State) (a : Agent) (l : BitVec 512) (hs : MemOk s) : (s.lineCheck a l).Ok := by
  unfold State.lineCheck
  repeat' first
    | with_reducible assumption
    | simp only [memOk_mk, memOk_fold]
    | with_reducible apply resOk_ite
    | with_reducible apply resOk.ok
    | with_reducible apply resOk.trap
    | split

theorem State.fillLine_memOk (s : State) (a : Agent) (pa : Nat) (hs : MemOk s) : (s.fillLine a pa).Ok := by
  unfold State.fillLine
  repeat' first
    | with_reducible assumption
    | intro _
    | with_reducible apply State.checkSectors_memOk
    | with_reducible apply memOk.updFar
    | with_reducible apply State.loadG_memOk
    | with_reducible apply State.coverFresh_memOk
    | with_reducible apply memOk.updUnit
    | with_reducible apply State.hostLoad_memOk
    | with_reducible apply State.mscRead_memOk
    | with_reducible apply State.loadM_memOk
    | simp only [memOk_mk, memOk_fold]
    | with_reducible apply resOk_ite
    | with_reducible apply resOk.ok
    | with_reducible apply Res.bind_ok
    | split

theorem State.fetchNew_memOk (s : State) (a : Agent) (base : Word) (hs : MemOk s) : (s.fetchNew a base).Ok := by
  unfold State.fetchNew
  repeat' first
    | with_reducible assumption
    | intro _
    | with_reducible apply State.translate_memOk
    | with_reducible apply State.fillLine_memOk
    | with_reducible apply State.lineCheck_memOk
    | with_reducible apply memOk.updHart
    | with_reducible apply resOk.ok
    | with_reducible apply resOk.trap
    | with_reducible apply Res.bind_ok
    | split

theorem State.fetch_memOk (s : State) (a : Agent) (hs : MemOk s) : (s.fetch a).Ok := by
  unfold State.fetch
  repeat' first
    | with_reducible assumption
    | with_reducible apply State.lineCheck_memOk
    | with_reducible apply State.fetchNew_memOk
    | simp only [memOk_mk, memOk_fold]
    | with_reducible apply resOk_ite
    | split

theorem State.decodeAt_memOk (s : State) (a : Agent) (l : BitVec 512) (hs : MemOk s) : (s.decodeAt a l).Ok := by
  unfold State.decodeAt
  repeat' first
    | with_reducible assumption
    | with_reducible apply State.takeTrap_memOk
    | simp only [memOk_mk, memOk_fold]
    | split
    | with_reducible apply readyOk.done
    | with_reducible apply readyOk.run

theorem State.ready_memOk (s : State) (hs : MemOk s) : (s.ready).Ok := by
  unfold State.ready
  repeat' first
    | with_reducible assumption
    | with_reducible apply State.farTake_memOk
    | with_reducible apply memOk.setHart
    | with_reducible apply State.takeTrap_memOk
    | with_reducible apply State.boundary_memOk
    | with_reducible apply State.fetch_memOk
    | with_reducible apply State.decodeAt_memOk
    | simp only [memOk_mk, memOk_fold]
    | split
    | (with_reducible refine OptOk.of_eq (by with_reducible assumption) ?_)
    | (with_reducible refine res_memOk (by with_reducible assumption) ?_)
    | (with_reducible refine resTrap_memOk (by with_reducible assumption) ?_)
    | (with_reducible refine resWait_memOk (by with_reducible assumption) ?_)
    | with_reducible apply readyOk.done

theorem State.overwrites_memOk (s : State) (a : Agent) (i : Instr) (hs : MemOk s) : MemOk (s.overwrites a i) := by
  unfold State.overwrites
  repeat' first
    | with_reducible assumption
    | simp only [memOk_mk, memOk_fold]
    | with_reducible apply memOk_ite

theorem State.gate_memOk (s : State) (a : Agent) (i : Instr) (hs : MemOk s) : (s.gate a i).Ok := by
  unfold State.gate
  repeat' first
    | with_reducible assumption
    | with_reducible apply State.settle_memOk
    | simp only [memOk_mk, memOk_fold]
    | with_reducible apply resOk_ite
    | with_reducible apply resOk.ok
    | with_reducible apply resOk.trap
    | with_reducible apply resOk.wait
    | split

theorem State.permitRefill_memOk (s : State) (a : Agent) (hs : MemOk s) : MemOk (s.permitRefill a) := by
  unfold State.permitRefill
  repeat' first
    | with_reducible assumption
    | with_reducible apply memOk.updHart
    | with_reducible apply memOk.updUnit
    | simp only [memOk_mk, memOk_fold]
    | split

theorem State.permitTake_memOk (s : State) (a : Agent) (c : PermitClass) (hs : MemOk s) : MemOk (s.permitTake a c) := by
  unfold State.permitTake
  repeat' first
    | with_reducible assumption
    | with_reducible apply memOk.updHart
    | with_reducible apply memOk.updUnit
    | split

theorem State.permitReady_memOk (s : State) (a : Agent) (op : Nat) (hs : MemOk s) : OptOk (s.permitReady a op) := by
  unfold State.permitReady
  repeat' first
    | with_reducible assumption
    | with_reducible apply State.permitRefill_memOk
    | simp only [memOk_mk, memOk_fold]
    | with_reducible apply optOk_ite
    | with_reducible apply optOk.some
    | with_reducible exact optOk_none
    | split

theorem State.permitUse_memOk (s : State) (a : Agent) (op : Nat) (hs : MemOk s) : MemOk (s.permitUse a op) := by
  unfold State.permitUse
  repeat' first
    | with_reducible assumption
    | with_reducible apply State.permitTake_memOk
    | with_reducible apply memOk_ite
    | split

theorem State.advance_memOk (s : State) (a : Agent) (target : Option Word) (hs : MemOk s) : MemOk (s.advance a target) := by
  unfold State.advance
  repeat' first
    | with_reducible assumption
    | with_reducible apply memOk.updHart

theorem State.perform_memOk (s : State) (i : Instr) (body : Agent → State → Res (Option Word)) (hs : MemOk s)
    (hb : ∀ a t, MemOk t → (body a t).Ok) : MemOk (s.perform i body) := by
  unfold State.perform
  repeat' first
    | with_reducible assumption
    | with_reducible apply State.gate_memOk
    | with_reducible apply State.takeTrap_memOk
    | with_reducible apply State.permitUse_memOk
    | with_reducible apply State.permitReady_memOk
    | with_reducible apply State.overwrites_memOk
    | with_reducible apply State.advance_memOk
    | with_reducible apply hb
    | simp only [memOk_mk, memOk_fold]
    | with_reducible apply memOk_ite
    | with_reducible apply optOk_ite
    | with_reducible apply optOk.some
    | split
    | (with_reducible refine OptOk.of_eq (by with_reducible assumption) ?_)
    | (with_reducible refine res_memOk (by with_reducible assumption) ?_)
    | (with_reducible refine resTrap_memOk (by with_reducible assumption) ?_)
    | (with_reducible refine resWait_memOk (by with_reducible assumption) ?_)

theorem State.performSelf_memOk (s : State) (i : Instr) (body : Agent → State → Res Unit) (hs : MemOk s)
    (hb : ∀ a t, MemOk t → (body a t).Ok) : MemOk (s.performSelf i body) := by
  unfold State.performSelf
  repeat' first
    | with_reducible assumption
    | with_reducible apply State.gate_memOk
    | with_reducible apply State.takeTrap_memOk
    | with_reducible apply hb
    | simp only [memOk_mk, memOk_fold]
    | split
    | (with_reducible refine res_memOk (by with_reducible assumption) ?_)
    | (with_reducible refine resTrap_memOk (by with_reducible assumption) ?_)
    | (with_reducible refine resWait_memOk (by with_reducible assumption) ?_)

theorem State.write_memOk (s : State) (a : Agent) (r : Reg) (v : Word) (hs : MemOk s) : MemOk (s.write a r v) := by
  unfold State.write
  repeat' first
    | with_reducible assumption
    | with_reducible apply memOk.updHart

theorem State.waitOr_memOk {α : Type} (s : State) (a : Agent) (k : WaitKind) (limit : BitVec 32) (obj : Nat) (expired : State → Res α)
    (hs : MemOk s) (hb : ∀ t, MemOk t → (expired t).Ok) : (s.waitOr a k limit obj expired).Ok := by
  unfold State.waitOr
  repeat' first
    | with_reducible assumption
    | with_reducible apply memOk.setHart
    | with_reducible apply hb
    | simp only [memOk_mk, memOk_fold]
    | with_reducible apply resOk_ite
    | with_reducible apply resOk.wait
    | split

theorem State.waitLate_memOk (s : State) (a : Agent) (hs : MemOk s) : MemOk (s.waitLate a) := by
  unfold State.waitLate
  repeat' first
    | with_reducible assumption
    | with_reducible apply memOk.updHart

theorem State.xrowOrder_memOk (s : State) (a : Agent) (sc : Scope) (hs : MemOk s) : (s.xrowOrder a sc).Ok := by
  unfold State.xrowOrder
  repeat' first
    | with_reducible assumption
    | with_reducible apply State.arrayDrain_memOk
    | simp only [memOk_mk, memOk_fold]
    | with_reducible apply memOk_ite
    | with_reducible apply resOk_ite
    | with_reducible apply resOk.ok
    | with_reducible apply resOk.wait
    | split

theorem State.storeOrder_memOk (s : State) (a : Agent) (acc : Acc) (n : Nat) (pol : Policy) (rel : Option Scope) (v : BitVec 512) (hs : MemOk s) : (s.storeOrder a acc n pol rel v).Ok := by
  unfold State.storeOrder
  repeat' first
    | with_reducible assumption
    | intro _
    | with_reducible apply State.xrowOrder_memOk
    | with_reducible apply State.storeIssue_memOk
    | with_reducible apply resOk_ite
    | with_reducible apply resOk.ok
    | with_reducible apply Res.bind_ok

theorem State.loadReg_memOk (s : State) (a : Agent) (va : Word) (w : Width) (sx : Bool) (pol : Policy) (d : Reg) (hs : MemOk s) : (s.loadReg a va w sx pol d).Ok := by
  unfold State.loadReg
  repeat' first
    | with_reducible assumption
    | intro _
    | with_reducible apply State.access_memOk
    | with_reducible apply State.loadIssue_memOk
    | with_reducible apply State.write_memOk
    | with_reducible apply resOk.ok
    | with_reducible apply Res.bind_ok

theorem State.storeReg_memOk (s : State) (a : Agent) (va : Word) (w : Width) (pol : Policy) (rel : Option Scope) (d : Reg) (hs : MemOk s) : (s.storeReg a va w pol rel d).Ok := by
  unfold State.storeReg
  repeat' first
    | with_reducible assumption
    | intro _
    | with_reducible apply State.access_memOk
    | with_reducible apply State.storeOrder_memOk
    | with_reducible apply resOk.ok
    | with_reducible apply Res.bind_ok

theorem State.nearAtomic_memOk (s : State) (h c pa n : Nat) (sc : Scope) (f : Nat → Option Nat) (hs : MemOk s) : (s.nearAtomic h c pa n sc f).Ok := by
  unfold State.nearAtomic
  repeat' first
    | with_reducible assumption
    | intro _
    | with_reducible apply State.amoM_memOk
    | with_reducible apply State.amoNear_memOk
    | with_reducible apply State.nearNote_memOk
    | with_reducible apply memOk_ite
    | with_reducible apply resOk_ite
    | with_reducible apply resOk.ok
    | with_reducible apply resOk.wait
    | with_reducible apply Res.bind_ok

theorem State.atomicAt_memOk (s : State) (a : Agent) (acc : Acc) (n : Nat) (pol : Policy) (sc : Scope) (f : Nat → Option Nat) (hs : MemOk s) : (s.atomicAt a acc n pol sc f).Ok := by
  unfold State.atomicAt
  repeat' first
    | with_reducible assumption
    | intro _
    | with_reducible apply State.amoG_memOk
    | with_reducible apply State.amoM_memOk
    | with_reducible apply State.pbForget_memOk
    | with_reducible apply State.nearAtomic_memOk
    | simp only [memOk_mk, memOk_fold]
    | with_reducible apply resOk_ite
    | with_reducible apply resOk.ok
    | with_reducible apply Res.bind_ok
    | split

theorem State.atomicOrder_memOk (s : State) (a : Agent) (acc : Acc) (n : Nat) (pol : Policy) (sc : Scope) (ord : Order) (hs : MemOk s) : (s.atomicOrder a acc n pol sc ord).Ok := by
  unfold State.atomicOrder
  repeat' first
    | with_reducible assumption
    | intro _
    | with_reducible apply State.uOrder_memOk
    | with_reducible apply State.xrowOrder_memOk
    | with_reducible apply State.needDrained_memOk
    | with_reducible apply State.releaseAt_memOk
    | with_reducible apply State.acquireOrder_memOk
    | simp only [memOk_mk, memOk_fold]
    | with_reducible apply resOk_ite
    | with_reducible apply resOk.ok
    | with_reducible apply resOk.wait
    | with_reducible apply Res.bind_ok
    | split

theorem State.atomic_memOk (s : State) (a : Agent) (va : Word) (n : Nat) (pol : Policy) (sc : Scope) (ord : Order) (d : Reg) (f : Nat → Option Nat) (hs : MemOk s) : (s.atomic a va n pol sc ord d f).Ok := by
  unfold State.atomic
  repeat' first
    | with_reducible assumption
    | intro _
    | with_reducible apply State.access_memOk
    | with_reducible apply State.atomicOrder_memOk
    | with_reducible apply State.atomicAt_memOk
    | with_reducible apply State.write_memOk
    | with_reducible apply resOk.ok
    | with_reducible apply Res.bind_ok

theorem State.islandDiscard_memOk (s : State) (d ln : Nat) (hs : MemOk s) : MemOk (s.islandDiscard d ln) := by
  unfold State.islandDiscard
  repeat' first
    | with_reducible assumption
    | intro _
    | with_reducible apply State.pbForget_memOk
    | with_reducible apply memOk.updFar
    | with_reducible apply memOk.updIsland
    | with_reducible apply foldl_memOk

theorem State.l1iDrop_memOk (s : State) (d ln : Nat) (hs : MemOk s) : MemOk (s.l1iDrop d ln) := by
  unfold State.l1iDrop
  repeat' first
    | with_reducible assumption
    | simp only [memOk_mk, memOk_fold]

theorem State.cmLine_memOk (s : State) (a : Agent) (d : Nat) (op : CmOp) (reach : CmReach) (ln : Nat) (hs : MemOk s) : (s.cmLine a d op reach ln).Ok := by
  unfold State.cmLine
  repeat' first
    | with_reducible assumption
    | intro _
    | with_reducible apply State.l1iDrop_memOk
    | with_reducible apply State.backInvalidate_memOk
    | with_reducible apply State.cleanTry_memOk
    | with_reducible apply State.islandDiscard_memOk
    | with_reducible apply State.wake_memOk
    | with_reducible apply State.mscClean_memOk
    | with_reducible apply State.mscDrop_memOk
    | simp only [memOk_mk, memOk_fold]
    | with_reducible apply memOk_ite
    | with_reducible apply resOk_ite
    | with_reducible apply resOk.ok
    | with_reducible apply resOk.wait
    | with_reducible apply Res.bind_ok
    | split

theorem State.cmHold_memOk (s : State) (a : Agent) (ln k : Nat) (hs : MemOk s) : MemOk (s.cmHold a ln k) := by
  unfold State.cmHold
  repeat' first
    | with_reducible assumption
    | with_reducible apply memOk.updHart

theorem State.cmLines_memOk (s : State) (a : Agent) (d : Nat) (op : CmOp) (reach : CmReach) (ln k : Nat) (fuel : Nat) (hs : MemOk s) : (s.cmLines a d op reach ln k fuel).Ok := by
  induction fuel generalizing s a d op reach ln k with
  | zero =>
    unfold State.cmLines
    repeat' first
      | with_reducible assumption
      | with_reducible apply resOk.ok
  | succ n ih =>
    unfold State.cmLines
    repeat' first
      | with_reducible assumption
      | with_reducible apply State.cmLine_memOk
      | with_reducible apply State.cmHold_memOk
      | with_reducible apply ih
      | with_reducible apply resOk.wait
      | with_reducible apply Res.ok_state
      | split
      | (with_reducible refine res_memOk (by with_reducible assumption) ?_)

theorem State.cmRun_memOk (s : State) (a : Agent) (op : CmOp) (reach : CmReach) (ln k n : Nat) (hs : MemOk s) : (s.cmRun a op reach ln k n).Ok := by
  unfold State.cmRun
  repeat' first
    | with_reducible assumption
    | intro _
    | with_reducible apply State.cmLines_memOk
    | with_reducible apply State.cmHold_memOk
    | with_reducible apply resOk_ite
    | with_reducible apply resOk.ok
    | with_reducible apply resOk.wait
    | with_reducible apply Res.bind_ok

theorem State.cmOrder_memOk (s : State) (a : Agent) (hs : MemOk s) : (s.cmOrder a).Ok := by
  unfold State.cmOrder
  repeat' first
    | with_reducible assumption
    | intro _
    | with_reducible apply State.needDrained_memOk
    | with_reducible apply State.settle_memOk
    | simp only [memOk_mk, memOk_fold]
    | with_reducible apply memOk_ite
    | with_reducible apply resOk_ite
    | with_reducible apply resOk.ok
    | with_reducible apply resOk.wait
    | with_reducible apply Res.bind_ok

theorem State.cmStart_memOk (s : State) (a : Agent) (op : CmOp) (reach : CmReach) (ext : CmExt) (va : Word) (hs : MemOk s) : (s.cmStart a op reach ext va).Ok := by
  unfold State.cmStart
  repeat' first
    | with_reducible assumption
    | intro _
    | with_reducible apply State.translate_memOk
    | with_reducible apply State.cmOrder_memOk
    | with_reducible apply State.cmRun_memOk
    | simp only [memOk_mk, memOk_fold]
    | with_reducible apply resOk_ite
    | with_reducible apply resOk.ok
    | with_reducible apply resOk.trap
    | with_reducible apply Res.bind_ok
    | split

theorem State.remoteCheck_memOk (s : State) (a : Agent) (core : Nat) (va : Word) (n kind : Nat) (put : Bool) (hs : MemOk s) : (s.remoteCheck a core va n kind put).Ok := by
  unfold State.remoteCheck
  repeat' first
    | with_reducible assumption
    | intro _
    | with_reducible apply State.translate_memOk
    | with_reducible apply memoryError_ok
    | simp only [memOk_mk, memOk_fold]
    | with_reducible apply resOk_ite
    | with_reducible apply resOk.ok
    | with_reducible apply resOk.trap
    | with_reducible apply Res.bind_ok
    | split

theorem State.remoteIssue_memOk (s : State) (core : Nat) (r : Remote) (hs : MemOk s) : (s.remoteIssue core r).Ok := by
  unfold State.remoteIssue
  repeat' first
    | with_reducible assumption
    | with_reducible apply State.remoteDrain_memOk
    | simp only [memOk_mk, memOk_fold]
    | with_reducible apply memOk_ite
    | with_reducible apply resOk_ite
    | with_reducible apply resOk.ok
    | with_reducible apply resOk.wait

theorem State.csrWrite_memOk (s : State) (a : Agent) (n : Nat) (v : Word) (hs : MemOk s) : MemOk (s.csrWrite a n v) := by
  unfold State.csrWrite
  repeat' first
    | with_reducible assumption
    | with_reducible apply memOk.updHart
    | with_reducible apply memOk.updFar
    | with_reducible apply State.flushMailbox_memOk
    | with_reducible apply memOk.setHubCore
    | simp only [memOk_mk, memOk_fold]
    | with_reducible apply memOk_ite
    | split

theorem State.csrCheck_memOk (s : State) (a : Agent) (i : Instr) (n : Nat) (write : Bool) (hs : MemOk s) : (s.csrCheck a i n write).Ok := by
  unfold State.csrCheck
  repeat' first
    | with_reducible assumption
    | with_reducible apply State.settle_memOk
    | simp only [memOk_mk, memOk_fold]
    | with_reducible apply memOk_ite
    | with_reducible apply resOk_ite
    | with_reducible apply resOk.ok
    | with_reducible apply resOk.trap
    | with_reducible apply resOk.wait
    | split

theorem State.softTrap_memOk (s : State) (a : Agent) (cause : Nat) (k : BitVec 20) (hs : MemOk s) : (s.softTrap a cause k).Ok := by
  unfold State.softTrap
  repeat' first
    | with_reducible assumption
    | simp only [memOk_mk, memOk_fold]
    | with_reducible apply resOk.trap

theorem State.idleReturn_memOk (s : State) (a : Agent) (hs : MemOk s) : MemOk (s.idleReturn a) := by
  unfold State.idleReturn
  repeat' first
    | with_reducible assumption
    | with_reducible apply memOk.setHubCore
    | simp only [memOk_mk, memOk_fold]
    | split

theorem State.checkpoint_memOk (s : State) (c : Nat) (k : BitVec 20) (hs : MemOk s) : (s.checkpoint c k).Ok := by
  unfold State.checkpoint
  repeat' first
    | with_reducible assumption
    | intro _
    | with_reducible apply State.liveTable_memOk
    | with_reducible apply memOk.updHart
    | with_reducible apply State.saveVcore_memOk
    | with_reducible apply State.log_memOk
    | simp only [memOk_mk, memOk_fold]
    | with_reducible apply memOk_ite
    | with_reducible apply resOk.ok
    | with_reducible apply resOk.wait
    | with_reducible apply Res.bind_ok
    | split
    | (with_reducible refine fst_memOk (by with_reducible assumption) ?_)

theorem State.snapTrigger_memOk (s : State) (hs : MemOk s) : MemOk (s.snapTrigger) := by
  unfold State.snapTrigger
  repeat' first
    | with_reducible assumption
    | with_reducible apply memOk.updHub
    | with_reducible apply memOk_ite

theorem State.snapDone_memOk (s : State) (hs : MemOk s) : MemOk (s.snapDone) := by
  unfold State.snapDone
  repeat' first
    | with_reducible assumption
    | with_reducible apply memOk.updHub
    | with_reducible apply State.raiseAll_memOk
    | with_reducible apply State.hirq_memOk
    | with_reducible apply memOk_ite

theorem State.tlbiOver_memOk (s : State) (hs : MemOk s) : MemOk (s.tlbiOver).1 := by
  unfold State.tlbiOver
  repeat' first
    | with_reducible assumption
    | intro _
    | with_reducible apply State.sbDrain_memOk
    | simp only [memOk_mk, memOk_fold]
    | with_reducible apply foldl_memOk

theorem State.tlbiComplete_memOk (s : State) (a : Agent) (hs : MemOk s) : MemOk (s.tlbiComplete a) := by
  unfold State.tlbiComplete
  repeat' first
    | with_reducible assumption
    | with_reducible apply State.tlbiOver_memOk
    | with_reducible apply memOk.updHart
    | simp only [memOk_mk, memOk_fold]
    | with_reducible apply memOk_ite
    | split

theorem State.readRow_memOk (s : State) (pa : Nat) (fuel : Nat) (hs : MemOk s) : (s.readRow pa fuel).Ok := by
  induction fuel generalizing s pa with
  | zero =>
    unfold State.readRow
    repeat' first
      | with_reducible assumption
      | with_reducible apply resOk.ok
  | succ n ih =>
    unfold State.readRow
    repeat' first
      | with_reducible assumption
      | intro _
      | with_reducible apply State.mscRead_memOk
      | with_reducible apply ih
      | with_reducible apply resOk.ok
      | with_reducible apply Res.bind_ok

theorem State.openRow_memOk (s : State) (a : Agent) (h c : Nat) (va : Word) (hs : MemOk s) : (s.openRow a h c va).Ok := by
  unfold State.openRow
  repeat' first
    | with_reducible assumption
    | intro _
    | with_reducible apply State.translate_memOk
    | with_reducible apply State.readRow_memOk
    | with_reducible apply memOk.updNear
    | simp only [memOk_mk, memOk_fold]
    | with_reducible apply resOk_ite
    | with_reducible apply resOk.ok
    | with_reducible apply resOk.trap
    | with_reducible apply resOk.wait
    | with_reducible apply Res.bind_ok
    | split

theorem State.windowsFirst_memOk (s : State) (a : Agent) (c : Nat) (i : Instr) (hs : MemOk s) : (s.windowsFirst a c i).Ok := by
  unfold State.windowsFirst
  repeat' first
    | with_reducible assumption
    | with_reducible apply State.needDrained_memOk
    | with_reducible apply resOk_ite
    | with_reducible apply resOk.ok

theorem State.engRelease_memOk (s : State) (a : Agent) (sc : Scope) (hs : MemOk s) : (s.engRelease a sc).Ok := by
  unfold State.engRelease
  repeat' first
    | with_reducible assumption
    | intro _
    | with_reducible apply State.xrowOrder_memOk
    | with_reducible apply State.needDrained_memOk
    | with_reducible apply State.releaseAt_memOk
    | with_reducible apply resOk_ite
    | with_reducible apply resOk.wait
    | with_reducible apply Res.bind_ok

theorem State.engAccept_memOk (s : State) (core : Nat) (c : EngCmd) (hs : MemOk s) : (s.engAccept core c).Ok := by
  unfold State.engAccept
  repeat' first
    | with_reducible assumption
    | intro _
    | with_reducible apply State.engDrain_memOk
    | with_reducible apply State.engRelease_memOk
    | with_reducible apply State.engIssue_memOk
    | simp only [memOk_mk, memOk_fold]
    | with_reducible apply memOk_ite
    | with_reducible apply resOk_ite
    | with_reducible apply resOk.ok
    | with_reducible apply resOk.wait
    | with_reducible apply Res.bind_ok

theorem State.pbKeep_memOk (s : State) (core pa : Nat) (hs : MemOk s) : MemOk (s.pbKeep core pa) := by
  unfold State.pbKeep
  repeat' first
    | with_reducible assumption
    | with_reducible apply memOk.updFar
    | with_reducible apply memOk_ite

theorem State.arrayCommand_memOk (s : State) (core : Nat) (c : EngCmd) (hs : MemOk s) : (s.arrayCommand core c).Ok := by
  unfold State.arrayCommand
  repeat' first
    | with_reducible assumption
    | with_reducible apply State.arrayDrain_memOk
    | with_reducible apply State.engAccept_memOk
    | simp only [memOk_mk, memOk_fold]
    | with_reducible apply memOk_ite
    | with_reducible apply resOk_ite
    | with_reducible apply resOk.wait

theorem State.popSlot_memOk (s : State) (core ch : Nat) (hs : MemOk s) : MemOk (s.popSlot core ch) := by
  unfold State.popSlot
  repeat' first
    | with_reducible assumption
    | with_reducible apply memOk.updFar
    | with_reducible apply State.flushChannel_memOk

theorem State.readBytes_memOk (s : State) (a : Agent) (va : Word) (n : Nat) (hs : MemOk s) : (s.readBytes a va n).Ok := by
  unfold State.readBytes
  repeat' first
    | with_reducible assumption
    | intro _
    | with_reducible apply State.access_memOk
    | with_reducible apply State.loadOnce_memOk
    | simp only [memOk_mk, memOk_fold]
    | with_reducible apply resOk_ite
    | with_reducible apply resOk.ok
    | with_reducible apply Res.bind_ok

theorem State.release_memOk (s : State) (a : Agent) (sc : Scope) (hs : MemOk s) : (s.release a sc).Ok := by
  unfold State.release
  repeat' first
    | with_reducible assumption
    | intro _
    | with_reducible apply State.xrowOrder_memOk
    | with_reducible apply State.needDrained_memOk
    | with_reducible apply State.releaseAt_memOk
    | with_reducible apply resOk_ite
    | with_reducible apply resOk.wait
    | with_reducible apply Res.bind_ok

theorem State.deliverEntry_memOk (s : State) (k : Nat) (hs : MemOk s) : OptOk (s.deliverEntry k) := by
  unfold State.deliverEntry
  repeat' first
    | with_reducible assumption
    | with_reducible apply State.deliverMsg_memOk
    | with_reducible apply memOk.updHart
    | simp only [memOk_mk, memOk_fold]
    | with_reducible apply optOk_ite
    | with_reducible apply optOk.some
    | with_reducible exact optOk_none
    | split
    | with_reducible refine deliveredOk_done (by with_reducible assumption) ?_

theorem State.unitAccept_memOk (s : State) (core : Nat) (hs : MemOk s) : MemOk (s.unitAccept core) := by
  unfold State.unitAccept
  repeat' first
    | with_reducible assumption
    | with_reducible apply State.deliverEntry_memOk
    | with_reducible apply memOk.updFar
    | simp only [memOk_mk, memOk_fold]
    | with_reducible apply optOk_getD
    | split

theorem State.deliverAt_memOk (s : State) (k : Nat) (hs : MemOk s) : MemOk (s.deliverAt k) := by
  unfold State.deliverAt
  repeat' first
    | with_reducible assumption
    | with_reducible apply State.unitAccept_memOk
    | with_reducible apply State.deliverEntry_memOk
    | simp only [memOk_mk, memOk_fold]
    | with_reducible apply optOk_getD
    | split

theorem State.deliverFor_memOk (s : State) (core : Nat) (fuel : Nat) (hs : MemOk s) : MemOk (s.deliverFor core fuel) := by
  induction fuel generalizing s core with
  | zero =>
    unfold State.deliverFor
    repeat' first
      | with_reducible assumption
  | succ n ih =>
    unfold State.deliverFor
    repeat' first
      | with_reducible assumption
      | with_reducible apply State.deliverAt_memOk
      | with_reducible apply ih
      | split

theorem State.sendGo_memOk (s : State) (core : Nat) (late : Bool) (limit : BitVec 32) (hs : MemOk s) : (s.sendGo core late limit).Ok := by
  unfold State.sendGo
  repeat' first
    | with_reducible assumption
    | with_reducible apply resOk_ite
    | with_reducible apply resOk.ok
    | with_reducible apply resOk.trap
    | with_reducible apply resOk.wait
    | split

theorem State.sendAgain_memOk (s : State) (core : Nat) (w : Wait) (hs : MemOk s) : (s.sendAgain core w).Ok := by
  unfold State.sendAgain
  repeat' first
    | with_reducible assumption
    | with_reducible apply State.deliverFor_memOk
    | with_reducible apply State.sendGo_memOk
    | with_reducible apply memOk_ite

theorem State.sendOff_memOk (s : State) (core : Nat) (m : Msg) (limit : BitVec 32) (hs : MemOk s) : MemOk (s.sendOff core m limit) := by
  unfold State.sendOff
  repeat' first
    | with_reducible assumption
    | with_reducible apply memOk.updHart
    | with_reducible apply State.deliverFor_memOk
    | with_reducible apply State.deliverAt_memOk
    | simp only [memOk_mk, memOk_fold]
    | with_reducible apply memOk_ite

theorem State.barSettle_memOk (s : State) (core lvl : Nat) (hs : MemOk s) : MemOk (s.barSettle core lvl) := by
  unfold State.barSettle
  repeat' first
    | with_reducible assumption
    | with_reducible apply State.barrierArrival_memOk
    | with_reducible apply State.barCheck_memOk
    | simp only [memOk_mk, memOk_fold]
    | split

theorem State.barGo_memOk (s : State) (core lvl : Nat) (limit : BitVec 32) (hs : MemOk s) : (s.barGo core lvl limit).Ok := by
  unfold State.barGo
  repeat' first
    | with_reducible assumption
    | intro _
    | with_reducible apply State.waitOr_memOk
    | with_reducible apply resOk_ite
    | with_reducible apply resOk.ok
    | with_reducible apply resOk.trap

theorem State.readRecords_memOk (s : State) (a : Agent) (va : Word) (fuel : Nat) (hs : MemOk s) : (s.readRecords a va fuel).Ok := by
  induction fuel generalizing s a va with
  | zero =>
    unfold State.readRecords
    repeat' first
      | with_reducible assumption
      | with_reducible apply resOk.ok
  | succ n ih =>
    unfold State.readRecords
    repeat' first
      | with_reducible assumption
      | intro _
      | with_reducible apply State.access_memOk
      | with_reducible apply State.loadOnce_memOk
      | with_reducible apply ih
      | with_reducible apply resOk.ok
      | with_reducible apply Res.bind_ok

theorem State.checkAnchor_memOk (s : State) (a : Agent) (i : Nat) (r : BitVec 256) (hs : MemOk s) : (s.checkAnchor a i r).Ok := by
  unfold State.checkAnchor
  repeat' first
    | with_reducible assumption
    | intro _
    | with_reducible apply State.translate_memOk
    | simp only [memOk_mk, memOk_fold]
    | with_reducible apply resOk_ite
    | with_reducible apply resOk.ok
    | with_reducible apply resOk.trap
    | with_reducible apply Res.bind_ok
    | split

theorem State.checkRecords_memOk (s : State) (a : Agent) (i : Nat) (fuel : List (BitVec 256)) (hs : MemOk s) : (s.checkRecords a i fuel).Ok := by
  induction fuel generalizing s a i with
  | nil =>
    unfold State.checkRecords
    repeat' first
      | with_reducible assumption
      | with_reducible apply resOk.ok
  | cons x l ih =>
    unfold State.checkRecords
    repeat' first
      | with_reducible assumption
      | intro _
      | with_reducible apply State.checkAnchor_memOk
      | with_reducible apply ih
      | with_reducible apply resOk_ite
      | with_reducible apply resOk.ok
      | with_reducible apply Res.bind_ok

theorem State.tenqRelease_memOk (s : State) (a : Agent) (hs : MemOk s) : (s.tenqRelease a).Ok := by
  unfold State.tenqRelease
  repeat' first
    | with_reducible assumption
    | with_reducible apply State.wlogEmpty_memOk
    | with_reducible apply State.release_memOk
    | simp only [memOk_mk, memOk_fold]
    | with_reducible apply memOk_ite
    | with_reducible apply resOk_ite
    | with_reducible apply resOk.wait
    | split

theorem State.reserve_memOk (s : State) (src : Nat) (b : List (Nat × List (Nat × Task))) (l : List Task) (hs : MemOk s) :
    ∀ t c, s.reserve src b l = .ok (t, c) → MemOk t := by
  induction l generalizing s b with
  | nil => intro t c e; simp only [State.reserve, Except.ok.injEq, Prod.mk.injEq] at e; rw [← e.1]; exact hs
  | cons x l ih =>
    intro t c e
    rw [State.reserve] at e
    split at e
    · split at e
      · exact ih s _ hs t c e
      · cases e
    · split at e
      · rename_i u hu
        exact ih u _ (deliveredOk_done hu (State.taskDeliver_memOk _ _ _ _ hs)) t c e
      · cases e

theorem State.sendBatch_memOk (s : State) (a : Agent) (b : List (Nat × List (Nat × Task))) (hs : MemOk s) : MemOk (s.sendBatch a b) := by
  unfold State.sendBatch
  repeat' first
    | with_reducible assumption
    | intro _
    | with_reducible apply memOk.updHome
    | with_reducible apply State.homeArrive_memOk
    | simp only [memOk_mk, memOk_fold]
    | with_reducible apply memOk_ite
    | with_reducible apply foldl_memOk

theorem State.tenqGo_memOk (s : State) (a : Agent) (limit : BitVec 32) (ts : List Task) (hs : MemOk s) : (s.tenqGo a limit ts).Ok := by
  unfold State.tenqGo
  split
  · rename_i h
    exact resOk.ok (State.sendBatch_memOk _ _ _ (State.reserve_memOk _ _ _ _ hs _ _ h))
  repeat' first
    | with_reducible assumption
    | with_reducible apply memOk.updHart
    | with_reducible apply resOk_ite
    | with_reducible apply resOk.trap
    | with_reducible apply resOk.wait
    | split

theorem State.stealNow_memOk (s : State) (core home : Nat) (hs : MemOk s) : MemOk (s.stealNow core home) := by
  unfold State.stealNow
  repeat' first
    | with_reducible assumption
    | with_reducible apply State.homeCycle_memOk
    | with_reducible apply State.grantsDrain_memOk

theorem State.stealGo_memOk (s : State) (core home : Nat) (late : Bool) (limit : BitVec 32) (hs : MemOk s) : (s.stealGo core home late limit).Ok := by
  unfold State.stealGo
  repeat' first
    | with_reducible assumption
    | with_reducible apply memOk.updFar
    | with_reducible apply resOk_ite
    | with_reducible apply resOk.ok
    | with_reducible apply resOk.trap
    | with_reducible apply resOk.wait

theorem State.anchorRelease_memOk (s : State) (a : Agent) (hs : MemOk s) : (s.anchorRelease a).Ok := by
  unfold State.anchorRelease
  repeat' first
    | with_reducible assumption
    | with_reducible apply State.anchorFar_memOk
    | with_reducible apply State.anchorNear_memOk
    | with_reducible apply resOk.ok
    | split

theorem State.tendReady_memOk (s : State) (a : Agent) (hs : MemOk s) : (s.tendReady a).Ok := by
  unfold State.tendReady
  repeat' first
    | with_reducible assumption
    | intro _
    | with_reducible apply State.settle_memOk
    | with_reducible apply State.engDrain_memOk
    | with_reducible apply State.lostNotices_memOk
    | with_reducible apply State.release_memOk
    | with_reducible apply State.anchorRelease_memOk
    | with_reducible apply State.releaseAt_memOk
    | simp only [memOk_mk, memOk_fold]
    | with_reducible apply memOk_ite
    | with_reducible apply resOk_ite
    | with_reducible apply resOk.wait
    | with_reducible apply Res.bind_ok
    | split


/-- Every next state of an outcome has a canonical memory. -/
structure OutOk (o : Host.Outcome State Fault Refusal) : Prop where
  mem : ∀ t, o = .next t → MemOk t
theorem outOk.next {s : State} (h : MemOk s) : OutOk (.next s) := ⟨fun t e => by cases e; exact h⟩
theorem outOk.fault {r : Fault} : OutOk (.fault r) := ⟨fun t e => by cases e⟩
theorem outOk_ite {c : Prop} [Decidable c] {x y : Host.Outcome State Fault Refusal} (hx : OutOk x) (hy : OutOk y) :
    OutOk (if c then x else y) := by
  split
  · exact hx
  · exact hy
theorem outOk.run {i : Instr} {s : State} {f : Agent → State → Res (Option Word)} (hs : MemOk s) (hf : ∀ a t, MemOk t → (f a t).Ok) :
    OutOk (run i s f) := outOk.next (State.perform_memOk _ _ _ hs hf)
theorem outOk.runSelf {i : Instr} {s : State} {f : Agent → State → Res Unit} (hs : MemOk s) (hf : ∀ a t, MemOk t → (f a t).Ok) :
    OutOk (runSelf i s f) := outOk.next (State.performSelf_memOk _ _ _ hs hf)
theorem outOk.regOp {i : Instr} {d : Reg} {s : State} {f : Hart → Word} (hs : MemOk s) : OutOk (regOp i d s f) :=
  outOk.run hs fun _ _ h => resOk.ok (State.write_memOk _ _ _ _ h)
theorem outOk.runEvent {s : State} (hs : MemOk s) : OutOk (runEvent s) := outOk.next hs
theorem outOk.runWrite {s t : State} (hs : MemOk s) (ht : MemOk t) : OutOk (runWrite s t) := by
  unfold Sys2Proof.Machine.runWrite
  exact outOk.runEvent (memOk_ite ht hs)
theorem outOk.transfer {i : Instr} {s : State} {d : Reg} {f : Hart → Option Word} (hs : MemOk s) : OutOk (transfer i s d f) := by
  unfold Sys2Proof.Machine.transfer
  apply outOk.run hs
  intro a t h
  repeat' first
    | with_reducible assumption
    | with_reducible apply State.write_memOk
    | with_reducible apply resOk.ok

end Sys2Proof.Machine
end

