-- ==== Sys2Proof/Laws/MemOkEvents.lean ====
section
/-! SUPPORT. Every operation of the events keeps memory in its canonical form. -/
set_option linter.unusedTactic false
set_option linter.unreachableTactic false
set_option linter.unusedSimpArgs false
namespace Sys2Proof.Machine

theorem State.walkTell_memOk (s : State) (w : WalkReq) (cause : Nat) (i : Infos) (p : Nat × Nat) (hs : MemOk s) : MemOk (s.walkTell w cause i p) := by
  unfold State.walkTell
  repeat' first
    | with_reducible assumption
    | with_reducible apply memOk.updHart
    | with_reducible apply memOk.updFar
    | with_reducible apply memOk.updHub
    | simp only [memOk_mk, memOk_fold]
    | with_reducible apply memOk_ite
    | split

theorem State.walkLeaf_memOk (s : State) (w : WalkReq) (e : TlbEntry) (hs : MemOk s) : MemOk (s.walkLeaf w e) := by
  unfold State.walkLeaf
  repeat' first
    | with_reducible assumption
    | intro _
    | with_reducible apply State.tlbFill_memOk
    | with_reducible apply State.walkTell_memOk
    | with_reducible apply memOk_ite
    | with_reducible apply foldl_memOk

theorem State.walkBegin_memOk (s : State) (u : Nat) (hs : MemOk s) : MemOk (s.walkBegin u) := by
  unfold State.walkBegin
  repeat' first
    | with_reducible assumption
    | with_reducible apply State.setWalkQ_memOk
    | with_reducible apply State.walkLeaf_memOk
    | with_reducible apply State.setWalks_memOk
    | simp only [memOk_mk, memOk_fold]
    | with_reducible apply memOk_ite
    | split

theorem State.walkEnd_memOk (s : State) (w : WalkReq) (r : Walked) (hs : MemOk s) : MemOk (s.walkEnd w r) := by
  unfold State.walkEnd
  repeat' first
    | with_reducible assumption
    | intro _
    | with_reducible apply State.walkLeaf_memOk
    | with_reducible apply State.walkTell_memOk
    | with_reducible apply memOk_ite
    | with_reducible apply foldl_memOk
    | split

theorem State.walkFinish_memOk (s : State) (u k : Nat) (hs : MemOk s) : MemOk (s.walkFinish u k) := by
  unfold State.walkFinish
  repeat' first
    | with_reducible assumption
    | intro _
    | with_reducible apply State.setWalks_memOk
    | with_reducible apply State.walk_memOk
    | with_reducible apply State.walkTell_memOk
    | with_reducible apply State.walkEnd_memOk
    | simp only [memOk_mk, memOk_fold]
    | with_reducible apply memOk_ite
    | with_reducible apply foldl_memOk
    | split
    | (with_reducible refine res_memOk (by with_reducible assumption) ?_)
    | (with_reducible refine resTrap_memOk (by with_reducible assumption) ?_)
    | (with_reducible refine resWait_memOk (by with_reducible assumption) ?_)

theorem State.evict_memOk (s : State) (c : CacheId) (ln : Nat) (hs : MemOk s) : MemOk (s.evict c ln) := by
  unfold State.evict
  repeat' first
    | with_reducible assumption
    | intro _
    | with_reducible apply State.l1Clean_memOk
    | with_reducible apply memOk.updFar
    | with_reducible apply State.cleanTry_memOk
    | with_reducible apply State.wake_memOk
    | with_reducible apply State.backInvalidate_memOk
    | with_reducible apply State.mscDrop_memOk
    | with_reducible apply memOk.updUnit
    | with_reducible apply memOk_ite
    | with_reducible apply resOk.ok
    | with_reducible apply Res.bind_ok
    | with_reducible apply Res.ok_state
    | split

theorem State.bankEvent_memOk (s : State) (op k : Nat) (hs : MemOk s) : MemOk (s.bankEvent op k) := by
  unfold State.bankEvent
  repeat' first
    | with_reducible assumption
    | with_reducible apply State.bankApply_memOk
    | with_reducible apply State.askLine_memOk
    | simp only [memOk_mk, memOk_fold]
    | with_reducible apply memOk_ite
    | with_reducible apply optOk_getD
    | split

theorem State.counterEvent_memOk (s : State) (n k : Nat) (f : State → BankCmd → Option State) (hs : MemOk s)
    (hb : ∀ t c, MemOk t → OptOk (f t c)) : MemOk (s.counterEvent n k f) := by
  unfold State.counterEvent
  repeat' first
    | with_reducible assumption
    | with_reducible apply State.askLine_memOk
    | with_reducible apply hb
    | simp only [memOk_mk, memOk_fold]
    | with_reducible apply memOk_ite
    | with_reducible apply optOk_getD
    | split

theorem State.monitorWake_memOk (s : State) (a : Agent) (hs : MemOk s) : MemOk (s.monitorWake a) := by
  unfold State.monitorWake
  repeat' first
    | with_reducible assumption
    | with_reducible apply State.waitmEnd_memOk
    | split

theorem State.armSwap_memOk (s : State) (pa : Nat) (old new : Word) (hs : MemOk s) : (s.armSwap pa old new).Ok := by
  unfold State.armSwap
  repeat' first
    | with_reducible assumption
    | with_reducible apply State.amoM_memOk

theorem State.setLaunch_memOk (s : State) (part : Nat) (l : Launch) (hs : MemOk s) : MemOk (s.setLaunch part l) := by
  unfold State.setLaunch
  repeat' first
    | with_reducible assumption
    | with_reducible apply memOk.updHub

theorem State.dropLaunch_memOk (s : State) (part : Nat) (hs : MemOk s) : MemOk (s.dropLaunch part) := by
  unfold State.dropLaunch
  repeat' first
    | with_reducible assumption
    | with_reducible apply memOk.updHub

theorem State.launchFail_memOk (s : State) (part : Nat) (l : Launch) (cause idx : Nat) (dest : Option Nat) (hs : MemOk s) : MemOk (s.launchFail part l cause idx dest) := by
  unfold State.launchFail
  repeat' first
    | with_reducible assumption
    | with_reducible apply State.armSwap_memOk
    | with_reducible apply State.setLaunch_memOk
    | with_reducible apply State.dropLaunch_memOk
    | with_reducible apply State.notice_memOk
    | simp only [memOk_mk, memOk_fold]
    | with_reducible apply Res.ok_state
    | split
    | (with_reducible refine resWait_memOk (by with_reducible assumption) ?_)

theorem State.launchCheck_memOk (s : State) (hub : Nat) (l : Launch) (x : Context) (i : Nat) (hs : MemOk s) : (s.launchCheck hub l x i).Ok := by
  unfold State.launchCheck
  repeat' first
    | with_reducible assumption
    | with_reducible apply State.translateFor_memOk
    | simp only [memOk_mk, memOk_fold]
    | with_reducible apply resOk_ite
    | with_reducible apply resOk.ok
    | with_reducible apply resOk.wait
    | split
    | (with_reducible refine res_memOk (by with_reducible assumption) ?_)
    | (with_reducible refine resTrap_memOk (by with_reducible assumption) ?_)
    | (with_reducible refine resWait_memOk (by with_reducible assumption) ?_)

theorem State.launchChecks_memOk (s : State) (hub : Nat) (l : Launch) (x : Context) (fuel : Nat) (hs : MemOk s) : MemOk (s.launchChecks hub l x fuel).1 := by
  induction fuel generalizing s hub l x with
  | zero =>
    unfold State.launchChecks
    repeat' first
      | with_reducible assumption
  | succ n ih =>
    unfold State.launchChecks
    repeat' first
      | with_reducible assumption
      | with_reducible apply State.launchCheck_memOk
      | with_reducible apply ih
      | simp only [memOk_mk, memOk_fold]
      | with_reducible apply Res.ok_state
      | split
      | (with_reducible refine res_memOk (by with_reducible assumption) ?_)

theorem State.launchGo_memOk (s : State) (hub : Nat) (l : Launch) (x : Context) (fuel : Nat) (hs : MemOk s) : MemOk (s.launchGo hub l x fuel).1 := by
  induction fuel generalizing s l with
  | zero => exact hs
  | succ n ih =>
    unfold State.launchGo
    repeat' first
      | with_reducible assumption
      | with_reducible apply memOk.updHome
      | with_reducible apply State.taskDeliver_memOk
      | with_reducible apply ih
      | simp only [memOk_mk, memOk_fold]
      | split
      | with_reducible refine deliveredOk_done (by with_reducible assumption) ?_

theorem State.launchOn_memOk (s : State) (part : Nat) (l : Launch) (hs : MemOk s) : MemOk (s.launchOn part l) := by
  unfold State.launchOn
  repeat' first
    | with_reducible assumption
    | with_reducible apply State.launchGo_memOk
    | with_reducible apply State.setLaunch_memOk
    | with_reducible apply State.armSwap_memOk
    | with_reducible apply State.dropLaunch_memOk
    | with_reducible apply memOk.updCtx
    | simp only [memOk_mk, memOk_fold]
    | with_reducible apply memOk_ite
    | with_reducible apply Res.ok_state
    | split
    | (with_reducible refine resWait_memOk (by with_reducible assumption) ?_)

theorem State.recordWords_memOk (s : State) (pa : Nat) (hs : MemOk s) : (s.recordWords pa).Ok := by
  unfold State.recordWords
  repeat' first
    | with_reducible assumption
    | intro _
    | with_reducible apply State.loadM_memOk
    | with_reducible apply resOk.ok
    | with_reducible apply Res.bind_ok

theorem State.launchStep_memOk (s : State) (part : Nat) (l : Launch) (hs : MemOk s) : MemOk (s.launchStep part l) := by
  unfold State.launchStep
  repeat' first
    | with_reducible assumption
    | with_reducible apply State.launchFail_memOk
    | with_reducible apply State.launchOn_memOk
    | with_reducible apply State.launchChecks_memOk
    | with_reducible apply State.setLaunch_memOk
    | simp only [memOk_mk, memOk_fold]
    | with_reducible apply memOk_ite
    | split

theorem State.launchTake_memOk (s : State) (part i assigned : Nat) (hs : MemOk s) : MemOk (s.launchTake part i assigned) := by
  unfold State.launchTake
  repeat' first
    | with_reducible assumption
    | intro _
    | with_reducible apply State.recordWords_memOk
    | with_reducible apply State.armSwap_memOk
    | with_reducible apply memOk.updHub
    | with_reducible apply State.setLaunch_memOk
    | with_reducible apply State.launchStep_memOk
    | simp only [memOk_mk, memOk_fold]
    | with_reducible apply memOk_ite
    | with_reducible apply resOk_ite
    | with_reducible apply resOk.ok
    | with_reducible apply Res.bind_ok
    | with_reducible apply Res.ok_state

theorem State.coreStop_memOk (s : State) (core : Nat) (order sbLost : Bool) (hs : MemOk s) : MemOk (s.coreStop core order sbLost) := by
  unfold State.coreStop
  repeat' first
    | with_reducible assumption
    | with_reducible apply memOk.updFar
    | with_reducible apply State.log_memOk
    | with_reducible apply State.stopCore_memOk
    | simp only [memOk_mk, memOk_fold]
    | with_reducible apply memOk_ite

theorem State.mapTell_memOk (s : State) (c : Nat) (hs : MemOk s) : MemOk (s.mapTell c) := by
  unfold State.mapTell
  repeat' first
    | with_reducible assumption
    | intro _
    | with_reducible apply State.mapEvent_memOk
    | with_reducible apply State.startGrace_memOk
    | with_reducible apply memOk_ite
    | with_reducible apply foldl_memOk
    | split

theorem State.commit_memOk (s : State) (hs : MemOk s) : MemOk (s.commit) := by
  unfold State.commit
  repeat' first
    | with_reducible assumption
    | intro _
    | with_reducible apply memOk.setMapWord
    | with_reducible apply State.mapTell_memOk
    | with_reducible apply State.raiseAll_memOk
    | with_reducible apply foldl_memOk

theorem State.setDieWord_memOk (s : State) (d o : Nat) (v : Word) (hs : MemOk s) : MemOk (s.setDieWord d o v) := by
  unfold State.setDieWord
  repeat' first
    | with_reducible assumption
    | with_reducible apply memOk.setMapWord

theorem State.setDstate_memOk (s : State) (d v : Nat) (hs : MemOk s) : MemOk (s.setDstate d v) := by
  unfold State.setDstate
  repeat' first
    | with_reducible assumption
    | with_reducible apply State.setDieWord_memOk

theorem State.setChanges_memOk (s : State) (l : List (Nat × Word)) (hs : MemOk s) : MemOk (s.setChanges l) := by
  unfold State.setChanges
  repeat' first
    | with_reducible assumption
    | intro _
    | with_reducible apply memOk.setMapWord
    | with_reducible apply State.setDieWord_memOk
    | simp only [memOk_mk, memOk_fold]
    | with_reducible apply memOk_ite
    | with_reducible apply foldl_memOk

theorem State.unbindReturn_memOk (s : State) (h q : Nat) (hs : MemOk s) : MemOk (s.unbindReturn h q) := by
  unfold State.unbindReturn
  repeat' first
    | with_reducible assumption
    | intro _
    | with_reducible apply State.returnTask_memOk
    | with_reducible apply memOk.updHome
    | simp only [memOk_mk, memOk_fold]
    | with_reducible apply memOk_ite
    | with_reducible apply foldl_memOk

theorem State.abortHome_memOk (s : State) (h : Nat) (hs : MemOk s) : MemOk (s.abortHome h) := by
  unfold State.abortHome
  repeat' first
    | with_reducible assumption
    | intro _
    | with_reducible apply State.nearAbort_memOk
    | with_reducible apply foldl_memOk

theorem State.nearLost_memOk (s : State) (h : Nat) (hs : MemOk s) : MemOk (s.nearLost h) := by
  unfold State.nearLost
  repeat' first
    | with_reducible assumption
    | intro _
    | with_reducible apply State.unbindReturn_memOk
    | with_reducible apply State.abortHome_memOk
    | with_reducible apply memOk_ite
    | with_reducible apply foldl_memOk

theorem State.memoryLost_memOk (s : State) (h : Nat) (hs : MemOk s) : MemOk (s.memoryLost h) := by
  unfold State.memoryLost
  repeat' first
    | with_reducible assumption
    | intro _
    | with_reducible apply State.unbindReturn_memOk
    | with_reducible apply State.abortHome_memOk
    | with_reducible apply foldl_memOk

theorem State.ceilCluster_memOk (s : State) (c : Nat) (hs : MemOk s) : MemOk (s.ceilCluster c) := by
  unfold State.ceilCluster
  repeat' first
    | with_reducible assumption
    | with_reducible apply memOk.setCluster
    | simp only [memOk_mk, memOk_fold]
    | with_reducible apply memOk_ite

theorem State.waysOut_memOk (s : State) (d : Nat) (new : Word) (hs : MemOk s) : (s.waysOut d new).Ok := by
  unfold State.waysOut
  repeat' first
    | with_reducible assumption
    | intro _
    | with_reducible apply State.cleanTry_memOk
    | with_reducible apply State.wake_memOk
    | simp only [memOk_mk, memOk_fold]
    | with_reducible apply resOk_ite
    | with_reducible apply resOk.ok
    | with_reducible apply Res.bind_ok
    | with_reducible apply foldRes_ok

theorem State.mapCommit_memOk (s : State) (l : List (Nat × Word)) (hs : MemOk s) : MemOk (s.mapCommit l) := by
  unfold State.mapCommit
  repeat' first
    | with_reducible assumption
    | intro _
    | with_reducible apply State.setChanges_memOk
    | with_reducible apply State.waysOut_memOk
    | with_reducible apply State.commit_memOk
    | with_reducible apply State.nearLost_memOk
    | with_reducible apply State.memoryLost_memOk
    | with_reducible apply State.ceilCluster_memOk
    | simp only [memOk_mk, memOk_fold]
    | with_reducible apply memOk_ite
    | with_reducible apply resOk.ok
    | with_reducible apply Res.bind_ok
    | with_reducible apply foldl_memOk
    | with_reducible apply foldRes_ok
    | with_reducible apply Res.ok_state
    | split
    | (with_reducible refine res_memOk (by with_reducible assumption) ?_)

theorem State.graceExpire_memOk (s : State) (c : Nat) (hs : MemOk s) : MemOk (s.graceExpire c) := by
  unfold State.graceExpire
  repeat' first
    | with_reducible assumption
    | with_reducible apply State.requestSuspend_memOk
    | with_reducible apply memOk_ite
    | split

theorem State.tasksLost_memOk (s : State) (core : Nat) (hs : MemOk s) : MemOk (s.tasksLost core) := by
  unfold State.tasksLost
  repeat' first
    | with_reducible assumption
    | intro _
    | with_reducible apply State.taskDone_memOk
    | simp only [memOk_mk, memOk_fold]
    | with_reducible apply foldl_memOk

theorem State.faultNotice_memOk (s : State) (c : Nat) (f : Far) (hs : MemOk s) : MemOk (s.faultNotice c f) := by
  unfold State.faultNotice
  repeat' first
    | with_reducible assumption
    | with_reducible apply State.notice_memOk

theorem State.dropVcore_memOk (s : State) (core : Nat) (hs : MemOk s) : MemOk (s.dropVcore core) := by
  unfold State.dropVcore
  repeat' first
    | with_reducible assumption
    | with_reducible apply State.tasksLost_memOk
    | with_reducible apply State.stealsOut_memOk
    | with_reducible apply State.unplace_memOk

theorem State.loseVcore_memOk (s : State) (core : Nat) (hs : MemOk s) : MemOk (s.loseVcore core) := by
  unfold State.loseVcore
  repeat' first
    | with_reducible assumption
    | with_reducible apply State.dropVcore_memOk
    | with_reducible apply memOk.updHub
    | simp only [memOk_mk, memOk_fold]
    | with_reducible apply memOk_ite

theorem State.readVcore_memOk (s : State) (core : Nat) (away : Bool) (hs : MemOk s) : MemOk (s.readVcore core away).1 := by
  unfold State.readVcore
  repeat' first
    | with_reducible assumption
    | intro _
    | with_reducible apply State.stealsOut_memOk
    | with_reducible apply State.grantBack_memOk
    | with_reducible apply State.quiesce_memOk
    | with_reducible apply State.queuesIn_memOk
    | simp only [memOk_mk, memOk_fold]
    | with_reducible apply foldl_memOk
    | split
    | (with_reducible refine fst_memOk (by with_reducible assumption) ?_)

theorem State.keptNotice_memOk (s : State) (c v core : Nat) (hs : MemOk s) : MemOk (s.keptNotice c v core) := by
  unfold State.keptNotice
  repeat' first
    | with_reducible assumption
    | with_reducible apply State.notice_memOk

theorem State.setLive_memOk (s : State) (core : Nat) (live : Bool) (hs : MemOk s) : MemOk (s.setLive core live) := by
  unfold State.setLive
  repeat' first
    | with_reducible assumption
    | with_reducible apply State.setDieWord_memOk

theorem State.moveVcore_memOk (s : State) (core target : Nat) (sv : Option Saved) (hs : MemOk s) : MemOk (s.moveVcore core target sv) := by
  unfold State.moveVcore
  repeat' first
    | with_reducible assumption
    | with_reducible apply State.unplace_memOk
    | with_reducible apply State.placeVcore_memOk
    | with_reducible apply State.keptNotice_memOk
    | with_reducible apply State.mapNew_memOk
    | with_reducible apply State.dropVcore_memOk
    | with_reducible apply State.faultNotice_memOk
    | simp only [memOk_mk, memOk_fold]
    | split

theorem State.takeCore_memOk (s : State) (core target : Nat) (readable back : Bool) (hs : MemOk s) : MemOk (s.takeCore core target readable back) := by
  unfold State.takeCore
  repeat' first
    | with_reducible assumption
    | with_reducible apply State.readVcore_memOk
    | with_reducible apply State.setLive_memOk
    | with_reducible apply State.commit_memOk
    | with_reducible apply memOk.updHart
    | with_reducible apply State.moveVcore_memOk
    | with_reducible apply memOk.updFar
    | simp only [memOk_mk, memOk_fold]
    | with_reducible apply memOk_ite
    | split

theorem State.repair_memOk (s : State) (core : Nat) (readable : Bool) (hs : MemOk s) : MemOk (s.repair core readable) := by
  unfold State.repair
  repeat' first
    | with_reducible assumption
    | with_reducible apply State.takeCore_memOk
    | with_reducible apply memOk_ite

theorem State.raiseFallen_memOk (s : State) (w : Fallen) (target : Nat) (hs : MemOk s) : MemOk (s.raiseFallen w target) := by
  unfold State.raiseFallen
  repeat' first
    | with_reducible assumption
    | with_reducible apply memOk.updHub
    | with_reducible apply State.placeVcore_memOk
    | with_reducible apply State.mapNew_memOk
    | with_reducible apply memOk_ite
    | split

theorem State.replaceVcore_memOk (s : State) (core target : Nat) (readable : Bool) (hs : MemOk s) : MemOk (s.replaceVcore core target readable) := by
  unfold State.replaceVcore
  repeat' first
    | with_reducible assumption
    | with_reducible apply State.takeCore_memOk
    | with_reducible apply State.stopCore_memOk
    | with_reducible apply State.raiseFallen_memOk
    | with_reducible apply memOk_ite
    | split

theorem State.hostError_memOk (s : State) (d : Nat) (r : HostReq) (hs : MemOk s) : MemOk (s.hostError d r) := by
  unfold State.hostError
  repeat' first
    | with_reducible assumption
    | with_reducible apply State.log_memOk
    | simp only [memOk_mk, memOk_fold]
    | split

theorem State.heldError_memOk (s : State) (d : Nat) (hs : MemOk s) : MemOk (s.heldError d) := by
  unfold State.heldError
  repeat' first
    | with_reducible assumption
    | intro _
    | with_reducible apply State.hostError_memOk
    | with_reducible apply memOk.updIsland
    | with_reducible apply foldl_memOk

theorem State.barsReset_memOk (s : State) (d : Nat) (hs : MemOk s) : MemOk (s.barsReset d) := by
  unfold State.barsReset
  repeat' first
    | with_reducible assumption
    | intro _
    | with_reducible apply State.notice_memOk
    | with_reducible apply memOk.updHub
    | simp only [memOk_mk, memOk_fold]
    | with_reducible apply foldl_memOk

theorem State.linesLost_memOk (s : State) (d : Nat) (hs : MemOk s) : MemOk (s.linesLost d) := by
  unfold State.linesLost
  repeat' first
    | with_reducible assumption
    | intro _
    | with_reducible apply State.log_memOk
    | simp only [memOk_mk, memOk_fold]
    | with_reducible apply foldl_memOk

theorem State.dieReset_memOk (s : State) (d : Nat) (hs : MemOk s) : MemOk (s.dieReset d) := by
  unfold State.dieReset
  repeat' first
    | with_reducible assumption
    | intro _
    | with_reducible apply State.heldError_memOk
    | with_reducible apply State.linesLost_memOk
    | with_reducible apply State.setDstate_memOk
    | with_reducible apply State.commit_memOk
    | with_reducible apply State.remotesLost_memOk
    | with_reducible apply State.barsReset_memOk
    | with_reducible apply State.loseVcore_memOk
    | with_reducible apply State.taskDone_memOk
    | with_reducible apply State.faultNotice_memOk
    | simp only [memOk_mk, memOk_fold]
    | with_reducible apply foldl_memOk

theorem State.isolate_memOk (s : State) (d : Nat) (hs : MemOk s) : MemOk (s.isolate d) := by
  unfold State.isolate
  repeat' first
    | with_reducible assumption
    | with_reducible apply State.heldError_memOk
    | with_reducible apply State.setDstate_memOk
    | with_reducible apply State.commit_memOk
    | with_reducible apply State.remotesLost_memOk

theorem State.pointersZero_memOk (s : State) (d : Nat) (hs : MemOk s) : MemOk (s.pointersZero d) := by
  unfold State.pointersZero
  repeat' first
    | with_reducible assumption
    | with_reducible apply memOk.updIsland
    | simp only [memOk_mk, memOk_fold]

theorem State.rejoin_memOk (s : State) (d : Nat) (ways cl : BitVec 16) (core : BitVec 256) (hs : MemOk s) : MemOk (s.rejoin d ways cl core) := by
  unfold State.rejoin
  repeat' first
    | with_reducible assumption
    | intro _
    | with_reducible apply State.setDstate_memOk
    | with_reducible apply State.commit_memOk
    | with_reducible apply memOk.updStack
    | with_reducible apply memOk.updIsland
    | with_reducible apply State.pointersZero_memOk
    | with_reducible apply State.setDieWord_memOk
    | simp only [memOk_mk, memOk_fold]
    | with_reducible apply memOk_ite
    | with_reducible apply foldl_memOk

theorem State.suspendDeadline_memOk (s : State) (c : Nat) (hs : MemOk s) : MemOk (s.suspendDeadline c) := by
  unfold State.suspendDeadline
  repeat' first
    | with_reducible assumption
    | intro _
    | with_reducible apply State.saveVcore_memOk
    | with_reducible apply State.nearAbort_memOk
    | simp only [memOk_mk, memOk_fold]
    | with_reducible apply memOk_ite
    | with_reducible apply foldl_memOk
    | split

theorem State.barsOut_memOk (s : State) (c : Nat) (hs : MemOk s) : MemOk (s.barsOut c).1 := by
  unfold State.barsOut
  repeat' first
    | with_reducible assumption
    | simp only [memOk_mk, memOk_fold]

theorem State.barsIn_memOk (s : State) (l : List (Nat × Bar)) (hs : MemOk s) : MemOk (s.barsIn l) := by
  unfold State.barsIn
  repeat' first
    | with_reducible assumption
    | intro _
    | with_reducible apply memOk.updCluster
    | with_reducible apply memOk.updIsland
    | with_reducible apply memOk.updHub
    | with_reducible apply memOk_ite
    | with_reducible apply foldl_memOk

theorem State.suspensionDone_memOk (s : State) (c : Nat) (hs : MemOk s) : MemOk (s.suspensionDone c) := by
  unfold State.suspensionDone
  repeat' first
    | with_reducible assumption
    | with_reducible apply State.barsOut_memOk
    | with_reducible apply memOk.updCtx
    | simp only [memOk_mk, memOk_fold]
    | with_reducible apply memOk_ite
    | split

theorem State.resume_memOk (s : State) (c : Nat) (cores : List Nat) (hs : MemOk s) : MemOk (s.resume c cores) := by
  unfold State.resume
  repeat' first
    | with_reducible assumption
    | intro _
    | with_reducible apply memOk.updCtx
    | with_reducible apply State.placeVcore_memOk
    | with_reducible apply State.barsIn_memOk
    | with_reducible apply State.mapEvent_memOk
    | with_reducible apply State.startGrace_memOk
    | simp only [memOk_mk, memOk_fold]
    | with_reducible apply memOk_ite
    | with_reducible apply foldl_memOk
    | split

theorem State.noteFit_memOk (s : State) (hs : MemOk s) : MemOk (s.noteFit) := by
  unfold State.noteFit
  repeat' first
    | with_reducible assumption
    | simp only [memOk_mk, memOk_fold]

theorem State.partModeApply_memOk (s : State) (hs : MemOk s) : MemOk (s.partModeApply) := by
  unfold State.partModeApply
  repeat' first
    | with_reducible assumption
    | intro _
    | with_reducible apply memOk.setMapWord
    | with_reducible apply State.commit_memOk
    | with_reducible apply memOk.updHub
    | with_reducible apply State.noteFit_memOk
    | with_reducible apply State.raiseAll_memOk
    | simp only [memOk_mk, memOk_fold]
    | with_reducible apply memOk_ite
    | with_reducible apply foldl_memOk

theorem State.powerGate_memOk (s : State) (core : Nat) (hs : MemOk s) : MemOk (s.powerGate core) := by
  unfold State.powerGate
  repeat' first
    | with_reducible assumption
    | intro _
    | with_reducible apply State.l1Clean_memOk
    | with_reducible apply memOk.updFar
    | with_reducible apply memOk.tick
    | simp only [memOk_mk, memOk_fold]
    | with_reducible apply memOk_ite
    | with_reducible apply foldl_memOk

theorem State.setSvc_memOk (s : State) (part : Nat) (r : SvcRun) (hs : MemOk s) : MemOk (s.setSvc part r) := by
  unfold State.setSvc
  repeat' first
    | with_reducible assumption
    | with_reducible apply memOk.updHub

theorem State.svcEnd_memOk (s : State) (part : Nat) (r : SvcRun) (status : Nat) (hs : MemOk s) : MemOk (s.svcEnd part r status) := by
  unfold State.svcEnd
  repeat' first
    | with_reducible assumption
    | intro _
    | with_reducible apply State.storeM_memOk
    | with_reducible apply State.setSvc_memOk
    | with_reducible apply memOk.updHub
    | with_reducible apply State.raise_memOk
    | simp only [memOk_mk, memOk_fold]
    | with_reducible apply memOk_ite
    | with_reducible apply resOk_ite
    | with_reducible apply resOk.ok
    | with_reducible apply Res.bind_ok
    | with_reducible apply Res.ok_state
    | split
    | (with_reducible refine resWait_memOk (by with_reducible assumption) ?_)

theorem State.svcCreate_memOk (s : State) (part : Nat) (ws : List Word) (hs : MemOk s) : MemOk (s.svcCreate part ws).1 := by
  unfold State.svcCreate
  repeat' first
    | with_reducible assumption
    | with_reducible apply State.tlbiRemove_memOk
    | with_reducible apply memOk.setCtx
    | simp only [memOk_mk, memOk_fold]
    | split

theorem State.placeList_memOk (s : State) (base v : Nat) (fuel : Nat) (hs : MemOk s) : (s.placeList base v fuel).Ok := by
  induction fuel generalizing s base v with
  | zero =>
    unfold State.placeList
    repeat' first
      | with_reducible assumption
      | with_reducible apply resOk.ok
  | succ n ih =>
    unfold State.placeList
    repeat' first
      | with_reducible assumption
      | intro _
      | with_reducible apply State.loadM_memOk
      | with_reducible apply ih
      | simp only [memOk_mk, memOk_fold]
      | with_reducible apply resOk.ok
      | with_reducible apply Res.bind_ok

theorem State.svcPlace_memOk (s : State) (part : Nat) (r : SvcRun) (x : Context) (hs : MemOk s) : MemOk (s.svcPlace part r x).1 := by
  unfold State.svcPlace
  repeat' first
    | with_reducible assumption
    | intro _
    | with_reducible apply State.placeList_memOk
    | with_reducible apply State.placeVcore_memOk
    | with_reducible apply State.mapNew_memOk
    | simp only [memOk_mk, memOk_fold]
    | with_reducible apply foldl_memOk
    | with_reducible apply Res.ok_state
    | split
    | (with_reducible refine res_memOk (by with_reducible assumption) ?_)

theorem State.exitVcore_memOk (s : State) (c core : Nat) (hs : MemOk s) : MemOk (s.exitVcore c core) := by
  unfold State.exitVcore
  repeat' first
    | with_reducible assumption
    | with_reducible apply State.waitDone_memOk
    | with_reducible apply State.arrayEnd_memOk
    | with_reducible apply State.halt_memOk
    | with_reducible apply State.engStopAll_memOk
    | with_reducible apply State.remoteDrain_memOk
    | with_reducible apply State.needDrained_memOk
    | with_reducible apply State.stealsOut_memOk
    | with_reducible apply State.tasksLost_memOk
    | with_reducible apply State.unplace_memOk
    | with_reducible apply memOk.updHart
    | with_reducible apply memOk.updCtx
    | simp only [memOk_mk, memOk_fold]
    | with_reducible apply memOk_ite
    | with_reducible apply Res.ok_state
    | split
    | (with_reducible refine res_memOk (by with_reducible assumption) ?_)

theorem State.exitQueue_memOk (s : State) (c h q : Nat) (hs : MemOk s) : MemOk (s.exitQueue c h q) := by
  unfold State.exitQueue
  repeat' first
    | with_reducible assumption
    | with_reducible apply memOk.updHome
    | with_reducible apply State.log_memOk
    | simp only [memOk_mk, memOk_fold]
    | with_reducible apply memOk_ite

theorem State.exitFar_memOk (s : State) (c : Nat) (hs : MemOk s) : MemOk (s.exitFar c) := by
  unfold State.exitFar
  repeat' first
    | with_reducible assumption
    | intro _
    | with_reducible apply State.taskDone_memOk
    | simp only [memOk_mk, memOk_fold]
    | with_reducible apply foldl_memOk

theorem State.exitCores_memOk (s : State) (c : Nat) (x : Context) (hs : MemOk s) : MemOk (s.exitCores c x) := by
  unfold State.exitCores
  repeat' first
    | with_reducible assumption
    | intro _
    | with_reducible apply State.exitVcore_memOk
    | with_reducible apply foldl_memOk

theorem State.exitBegin_memOk (s : State) (c : Nat) (x : Context) (hs : MemOk s) : MemOk (s.exitBegin c x) := by
  unfold State.exitBegin
  repeat' first
    | with_reducible assumption
    | intro _
    | with_reducible apply memOk.updCtx
    | with_reducible apply State.exitQueue_memOk
    | with_reducible apply State.exitFar_memOk
    | with_reducible apply State.exitCores_memOk
    | with_reducible apply foldl_memOk

theorem State.exitLaunch_memOk (s : State) (c part : Nat) (hs : MemOk s) : MemOk (s.exitLaunch c part) := by
  unfold State.exitLaunch
  repeat' first
    | with_reducible assumption
    | with_reducible apply State.launchStep_memOk
    | with_reducible apply memOk_ite
    | split

theorem State.exitEnd_memOk (s : State) (c : Nat) (hs : MemOk s) : MemOk (s.exitEnd c) := by
  unfold State.exitEnd
  repeat' first
    | with_reducible assumption
    | intro _
    | with_reducible apply State.barsOut_memOk
    | with_reducible apply memOk.setCtx
    | with_reducible apply memOk.updHub
    | with_reducible apply State.deadLetter_memOk
    | with_reducible apply State.taskDone_memOk
    | with_reducible apply State.log_memOk
    | with_reducible apply State.exitLaunch_memOk
    | simp only [memOk_mk, memOk_fold]
    | with_reducible apply foldl_memOk
    | split

theorem State.svcOp_memOk (s : State) (part : Nat) (r : SvcRun) (x : Context) (hs : MemOk s) : MemOk (s.svcOp part r x).1 := by
  unfold State.svcOp
  repeat' first
    | with_reducible assumption
    | with_reducible apply State.svcPlace_memOk
    | with_reducible apply State.requestSuspend_memOk
    | with_reducible apply State.resume_memOk
    | with_reducible apply State.exitBegin_memOk
    | with_reducible apply State.mapackWrite_memOk
    | simp only [memOk_mk, memOk_fold]
    | split

theorem State.svcCheck_memOk (s : State) (part : Nat) (r : SvcRun) (hs : MemOk s) : MemOk (s.svcCheck part r) := by
  unfold State.svcCheck
  repeat' first
    | with_reducible assumption
    | with_reducible apply State.svcEnd_memOk
    | with_reducible apply State.svcOp_memOk
    | with_reducible apply State.exitCores_memOk
    | with_reducible apply State.exitEnd_memOk
    | simp only [memOk_mk, memOk_fold]
    | with_reducible apply memOk_ite
    | split
    | (with_reducible refine fst_memOk (by with_reducible assumption) ?_)

theorem State.svcBegin_memOk (s : State) (part : Nat) (r : SvcRun) (hs : MemOk s) : MemOk (s.svcBegin part r) := by
  unfold State.svcBegin
  repeat' first
    | with_reducible assumption
    | with_reducible apply State.svcEnd_memOk
    | with_reducible apply memOk.updHub
    | with_reducible apply State.svcOp_memOk
    | with_reducible apply State.setSvc_memOk
    | with_reducible apply State.svcCheck_memOk
    | with_reducible apply memOk_ite
    | split
    | (with_reducible refine fst_memOk (by with_reducible assumption) ?_)

theorem State.svcBody_memOk (s : State) (part : Nat) (r : SvcRun) (ws : List Word) (hs : MemOk s) : MemOk (s.svcBody part r ws) := by
  unfold State.svcBody
  repeat' first
    | with_reducible assumption
    | with_reducible apply State.svcEnd_memOk
    | with_reducible apply State.svcCreate_memOk
    | with_reducible apply State.svcBegin_memOk
    | simp only [memOk_mk, memOk_fold]
    | with_reducible apply memOk_ite

theorem State.svcNext_memOk (s : State) (part : Nat) (hs : MemOk s) : MemOk (s.svcNext part) := by
  unfold State.svcNext
  repeat' first
    | with_reducible assumption
    | intro _
    | with_reducible apply State.recordWords_memOk
    | with_reducible apply State.armSwap_memOk
    | with_reducible apply memOk.updHub
    | with_reducible apply State.svcBody_memOk
    | simp only [memOk_mk, memOk_fold]
    | with_reducible apply resOk_ite
    | with_reducible apply resOk.ok
    | with_reducible apply Res.bind_ok
    | with_reducible apply Res.ok_state
    | split

theorem State.serviceTake_memOk (s : State) (part : Nat) (hs : MemOk s) : MemOk (s.serviceTake part) := by
  unfold State.serviceTake
  repeat' first
    | with_reducible assumption
    | with_reducible apply State.svcCheck_memOk
    | with_reducible apply memOk.updHub
    | with_reducible apply State.svcBegin_memOk
    | with_reducible apply State.svcNext_memOk
    | with_reducible apply memOk_ite
    | split

theorem State.hostCheck_memOk (s : State) (ln : Nat) (need : BitVec 2) (hs : MemOk s) : MemOk (s.hostCheck ln need) := by
  unfold State.hostCheck
  repeat' first
    | with_reducible assumption
    | with_reducible apply State.checkMsc_memOk
    | simp only [memOk_mk, memOk_fold]
    | with_reducible apply Res.ok_state

theorem State.hostRead_memOk (s : State) (pa n : Nat) (hs : MemOk s) : (s.hostRead pa n).Ok := by
  unfold State.hostRead
  repeat' first
    | with_reducible assumption
    | intro _
    | with_reducible apply State.log_memOk
    | with_reducible apply State.cleanTry_memOk
    | with_reducible apply State.dirRoom_memOk
    | with_reducible apply State.backInvalidate_memOk
    | with_reducible apply State.hostCheck_memOk
    | with_reducible apply State.mscMake_memOk
    | with_reducible apply State.flushTouch_memOk
    | with_reducible apply State.coverFresh_memOk
    | with_reducible apply State.setMsc_memOk
    | with_reducible apply State.dirPut_memOk
    | simp only [memOk_mk, memOk_fold]
    | with_reducible apply memOk_ite
    | with_reducible apply resOk_ite
    | with_reducible apply resOk.ok
    | with_reducible apply resOk.wait
    | with_reducible apply Res.bind_ok
    | split

theorem State.hostWrite_memOk (s : State) (pa : Nat) (data : List Byte) (hs : MemOk s) : (s.hostWrite pa data).Ok := by
  unfold State.hostWrite
  repeat' first
    | with_reducible assumption
    | intro _
    | with_reducible apply State.cleanTry_memOk
    | with_reducible apply State.wake_memOk
    | with_reducible apply State.log_memOk
    | with_reducible apply State.backInvalidate_memOk
    | with_reducible apply State.hostCheck_memOk
    | with_reducible apply State.mscMake_memOk
    | with_reducible apply State.flushTouch_memOk
    | with_reducible apply State.coverFresh_memOk
    | with_reducible apply State.setMsc_memOk
    | simp only [memOk_mk, memOk_fold]
    | with_reducible apply resOk_ite
    | with_reducible apply resOk.ok
    | with_reducible apply resOk.wait
    | with_reducible apply Res.bind_ok
    | split

theorem State.snoopIsland_memOk (s : State) (d ln : Nat) (kind : SnoopKind) (hs : MemOk s) : MemOk (s.snoopIsland d ln kind) := by
  unfold State.snoopIsland
  repeat' first
    | with_reducible assumption
    | with_reducible apply State.l1CleanAll_memOk
    | with_reducible apply State.errorOut_memOk
    | with_reducible apply memOk.updIsland
    | with_reducible apply State.wake_memOk
    | with_reducible apply State.setL2_memOk
    | simp only [memOk_mk, memOk_fold]
    | with_reducible apply memOk_ite

theorem State.hostPerform_memOk (s : State) (d : Nat) (r : HostReq) (hs : MemOk s) : (s.hostPerform d r).Ok := by
  unfold State.hostPerform
  repeat' first
    | with_reducible assumption
    | with_reducible apply State.hostRead_memOk
    | with_reducible apply State.hostWrite_memOk
    | with_reducible apply State.snoopIsland_memOk
    | with_reducible apply State.recallLine_memOk
    | with_reducible apply resOk.ok
    | split

theorem State.holdReq_memOk (s : State) (d : Nat) (r : HostReq) (hs : MemOk s) : MemOk (s.holdReq d r) := by
  unfold State.holdReq
  repeat' first
    | with_reducible assumption
    | with_reducible apply memOk.updIsland

theorem State.hostTry_memOk (s : State) (d : Nat) (r : HostReq) (hs : MemOk s) : MemOk (s.hostTry d r) := by
  unfold State.hostTry
  repeat' first
    | with_reducible assumption
    | with_reducible apply State.holdReq_memOk
    | with_reducible apply State.hostPerform_memOk
    | with_reducible apply memOk_ite
    | with_reducible apply Res.ok_state
    | split
    | (with_reducible refine res_memOk (by with_reducible assumption) ?_)

theorem State.hostRequest_memOk (s : State) (d : Nat) (r : HostReq) (hs : MemOk s) : MemOk (s.hostRequest d r) := by
  unfold State.hostRequest
  repeat' first
    | with_reducible assumption
    | with_reducible apply State.holdReq_memOk
    | with_reducible apply State.hostError_memOk
    | with_reducible apply State.hostTry_memOk
    | with_reducible apply memOk_ite

theorem State.heldGo_memOk (s : State) (d : Nat) (hs : MemOk s) : MemOk (s.heldGo d) := by
  unfold State.heldGo
  repeat' first
    | with_reducible assumption
    | intro _
    | with_reducible apply State.heldError_memOk
    | with_reducible apply State.hostTry_memOk
    | with_reducible apply memOk.updIsland
    | with_reducible apply memOk_ite
    | with_reducible apply foldl_memOk

theorem State.heldAll_memOk (s : State) (hs : MemOk s) : MemOk (s.heldAll) := by
  unfold State.heldAll
  repeat' first
    | with_reducible assumption
    | intro _
    | with_reducible apply State.heldGo_memOk
    | with_reducible apply foldl_memOk

theorem State.hostSnoop_memOk (s : State) (ln : Nat) (kind : SnoopKind) (hs : MemOk s) : MemOk (s.hostSnoop ln kind) := by
  unfold State.hostSnoop
  repeat' first
    | with_reducible assumption
    | intro _
    | with_reducible apply State.hostRequest_memOk
    | simp only [memOk_mk, memOk_fold]
    | with_reducible apply memOk_ite
    | with_reducible apply foldl_memOk

theorem State.linkUp_memOk (s : State) (d : Nat) (hs : MemOk s) : MemOk (s.linkUp d) := by
  unfold State.linkUp
  repeat' first
    | with_reducible assumption
    | with_reducible apply memOk.updIsland
    | with_reducible apply State.heldGo_memOk

theorem State.retrain_memOk (s : State) (d : Nat) (ok : Bool) (hs : MemOk s) : MemOk (s.retrain d ok) := by
  unfold State.retrain
  repeat' first
    | with_reducible assumption
    | with_reducible apply State.linkUp_memOk
    | with_reducible apply memOk.setIsland
    | with_reducible apply State.isolate_memOk
    | simp only [memOk_mk, memOk_fold]
    | with_reducible apply memOk_ite

theorem State.hostBack_memOk (s : State) (ln : Nat) (v : BitVec 512) (hs : MemOk s) : MemOk (s.hostBack ln v) := by
  unfold State.hostBack
  repeat' first
    | with_reducible assumption
    | with_reducible apply State.islandClean_memOk
    | with_reducible apply State.log_memOk
    | with_reducible apply State.flushFor_memOk
    | with_reducible apply State.coverFresh_memOk
    | with_reducible apply State.setMsc_memOk
    | with_reducible apply State.wake_memOk
    | simp only [memOk_mk, memOk_fold]
    | with_reducible apply memOk_ite

theorem State.biResponse_memOk (s : State) (ln : Nat) (keep : Bool) (data : Option (BitVec 512)) (hs : MemOk s) : MemOk (s.biResponse ln keep data) := by
  unfold State.biResponse
  repeat' first
    | with_reducible assumption
    | with_reducible apply State.setMsc_memOk
    | with_reducible apply State.hostBack_memOk
    | with_reducible apply State.heldAll_memOk
    | simp only [memOk_mk, memOk_fold]
    | with_reducible apply memOk_ite
    | split

theorem State.hostFill_memOk (s : State) (r : HostAcc) (data : BitVec 512) (hs : MemOk s) : (s.hostFill r data).Ok := by
  unfold State.hostFill
  repeat' first
    | with_reducible assumption
    | intro _
    | with_reducible apply State.hostElsewhere_memOk
    | with_reducible apply State.l2Room_memOk
    | with_reducible apply State.dirRoom_memOk
    | with_reducible apply State.coverFresh_memOk
    | with_reducible apply State.setL2_memOk
    | with_reducible apply State.dirPut_memOk
    | simp only [memOk_mk, memOk_fold]
    | with_reducible apply resOk_ite
    | with_reducible apply resOk.ok
    | with_reducible apply resOk.wait
    | with_reducible apply Res.bind_ok

theorem State.hostAnswer_memOk (s : State) (r : HostAcc) (data : BitVec 512) (hs : MemOk s) : MemOk (s.hostAnswer r data) := by
  unfold State.hostAnswer
  repeat' first
    | with_reducible assumption
    | with_reducible apply memOk.updFar
    | with_reducible apply memOk.updHart
    | with_reducible apply memOk_ite

theorem State.cacheResponse_memOk (s : State) (k : Nat) (data : BitVec 512) (hs : MemOk s) : MemOk (s.cacheResponse k data) := by
  unfold State.cacheResponse
  repeat' first
    | with_reducible assumption
    | with_reducible apply State.heldAll_memOk
    | with_reducible apply State.hostAnswer_memOk
    | with_reducible apply State.hostFill_memOk
    | simp only [memOk_mk, memOk_fold]
    | with_reducible apply memOk_ite
    | with_reducible apply Res.ok_state
    | split
    | (with_reducible refine res_memOk (by with_reducible assumption) ?_)

theorem State.noticeWrite_memOk (s : State) (fn : Nat) (v : Word) (hs : MemOk s) : MemOk (s.noticeWrite fn v) := by
  unfold State.noticeWrite
  repeat' first
    | with_reducible assumption
    | with_reducible apply memOk.updHub
    | with_reducible apply State.hirq_memOk
    | simp only [memOk_mk, memOk_fold]
    | with_reducible apply memOk_ite

theorem State.forecasts_memOk (s : State) (hs : MemOk s) : MemOk (s.forecasts) := by
  unfold State.forecasts
  repeat' first
    | with_reducible assumption
    | intro _
    | with_reducible apply memOk.updIsland
    | with_reducible apply memOk.updStack
    | with_reducible apply foldl_memOk

theorem State.setSensor_memOk (s : State) (i : Nat) (x : Sensor) (hs : MemOk s) : MemOk (s.setSensor i x) := by
  unfold State.setSensor
  repeat' first
    | with_reducible assumption
    | with_reducible apply memOk.updIsland
    | with_reducible apply memOk.updStack
    | with_reducible apply memOk_ite

theorem State.thermalSample_memOk (s : State) (temps : List (BitVec 16)) (hs : MemOk s) : MemOk (s.thermalSample temps) := by
  unfold State.thermalSample
  repeat' first
    | with_reducible assumption
    | intro _
    | with_reducible apply State.setSensor_memOk
    | with_reducible apply memOk.updHub
    | with_reducible apply State.hirq_memOk
    | simp only [memOk_mk, memOk_fold]
    | with_reducible apply memOk_ite
    | with_reducible apply foldl_memOk

theorem State.startHub_memOk (s : State) (n : Nat) (hs : MemOk s) : MemOk (s.startHub n) := by
  unfold State.startHub
  repeat' first
    | with_reducible assumption
    | with_reducible apply memOk.updHart

theorem State.bootRom_memOk (s : State) (readOk : Bool) (image : List Byte) (hs : MemOk s) : MemOk (s.bootRom readOk image) := by
  unfold State.bootRom
  repeat' first
    | with_reducible assumption
    | with_reducible apply memOk.updHub
    | with_reducible apply State.startHub_memOk
    | simp only [memOk_mk, memOk_fold]
    | with_reducible apply memOk_ite

theorem State.mapBuilt_memOk (s : State) (tested : List (Nat × Word)) (hs : MemOk s) : MemOk (s.mapBuilt tested) := by
  unfold State.mapBuilt
  repeat' first
    | with_reducible assumption
    | intro _
    | with_reducible apply State.ceilCluster_memOk
    | with_reducible apply State.setChanges_memOk
    | with_reducible apply memOk.updHub
    | with_reducible apply foldl_memOk

theorem State.ready3_memOk (s : State) (pools : Pools) (hs : MemOk s) : MemOk (s.ready3 pools) := by
  unfold State.ready3
  repeat' first
    | with_reducible assumption
    | intro _
    | with_reducible apply State.startHub_memOk
    | with_reducible apply memOk.updHub
    | with_reducible apply State.raise_memOk
    | with_reducible apply State.heldAll_memOk
    | simp only [memOk_mk, memOk_fold]
    | with_reducible apply memOk_ite
    | with_reducible apply foldl_memOk

theorem State.bringUp_memOk (s : State) (tested : List (Nat × Word)) (pools : Pools) (hs : MemOk s) : MemOk (s.bringUp tested pools) := by
  unfold State.bringUp
  repeat' first
    | with_reducible assumption
    | with_reducible apply State.mapBuilt_memOk
    | with_reducible apply memOk.updHub
    | with_reducible apply State.ready3_memOk
    | with_reducible apply memOk_ite

theorem State.spdm_memOk (s : State) (index : Nat) (hs : MemOk s) : MemOk (s.spdm index) := by
  unfold State.spdm
  repeat' first
    | with_reducible assumption
    | simp only [memOk_mk, memOk_fold]
    | with_reducible apply memOk_ite
    | split

theorem State.barRead_memOk (s : State) (fn bar offset n : Nat) (hs : MemOk s) : MemOk (s.barRead fn bar offset n) := by
  unfold State.barRead
  repeat' first
    | with_reducible assumption
    | simp only [memOk_mk, memOk_fold]
    | with_reducible apply memOk_ite

theorem State.cdatRead_memOk (s : State) (entry : Nat) (hs : MemOk s) : MemOk (s.cdatRead entry) := by
  unfold State.cdatRead
  repeat' first
    | with_reducible assumption
    | simp only [memOk_mk, memOk_fold]
    | with_reducible apply memOk_ite

theorem State.storeBits_memOk (s : State) (unit own sec : Nat) (v : BitVec 256) (hs : MemOk s) : MemOk (s.storeBits unit own sec v) := by
  unfold State.storeBits
  repeat' first
    | with_reducible assumption
    | with_reducible apply memOk.updFar
    | with_reducible apply memOk.updIsland
    | with_reducible apply memOk.updStack
    | simp only [memOk_mk, memOk_fold]
    | with_reducible apply memWrite_ok
    | split

theorem State.upset_memOk (s : State) (unit own sec : Nat) (v : BitVec 256) (hs : MemOk s) : MemOk (s.upset unit own sec v) := by
  unfold State.upset
  repeat' first
    | with_reducible assumption
    | with_reducible apply State.freshen_memOk
    | with_reducible apply State.storeBits_memOk
    | simp only [memOk_mk, memOk_fold]
    | with_reducible apply memOk_ite

theorem State.corrected_memOk (s : State) (unit own sec bit : Nat) (hs : MemOk s) : MemOk (s.corrected unit own sec bit) := by
  unfold State.corrected
  repeat' first
    | with_reducible assumption
    | with_reducible apply State.logSector_memOk
    | with_reducible apply memOk_ite

theorem State.reach_memOk (s : State) (k : Nat) (hs : MemOk s) : MemOk (s.reach k) := by
  unfold State.reach
  repeat' first
    | with_reducible assumption
    | simp only [memOk_mk, memOk_fold]
    | with_reducible apply memOk_ite
    | split

theorem State.outside_memOk (s : State) (o : Outside) (hs : MemOk s) : MemOk (s.outside o) := by
  unfold State.outside
  repeat' first
    | with_reducible assumption
    | with_reducible apply State.upset_memOk
    | with_reducible apply State.corrected_memOk
    | with_reducible apply State.requestSuspend_memOk
    | with_reducible apply State.reach_memOk
    | with_reducible apply State.barRead_memOk
    | with_reducible apply State.cdatRead_memOk
    | split

theorem State.nearWins_memOk (s : State) (h c : Nat) (hs : MemOk s) : MemOk (s.nearWins h c) := by
  unfold State.nearWins
  repeat' first
    | with_reducible assumption
    | with_reducible apply memOk.updUnit
    | simp only [memOk_mk, memOk_fold]

theorem State.nearSlot_memOk (s : State) (h : Nat) (hs : MemOk s) : OptOk (s.nearSlot h) := by
  unfold State.nearSlot
  cases firstFrom 2 (s.unit h).ptr (s.nearReady h) with
  | none => exact optOk_none
  | some c => exact optOk.some (s.nearWins_memOk h c hs)

theorem State.giveTurn_memOk (s : State) (a : Agent) (hs : MemOk s) : MemOk (s.giveTurn a) := by
  unfold State.giveTurn
  repeat' first
    | with_reducible assumption
    | with_reducible apply State.nearWins_memOk
    | simp only [memOk_mk, memOk_fold]
    | with_reducible apply memOk_ite
    | split

end Sys2Proof.Machine
end

