-- ==== Sys2Proof/Laws/MemOkExec.lean ====
section
/-! SUPPORT. Every meaning keeps memory in its canonical form. -/
set_option linter.unusedTactic false
set_option linter.unreachableTactic false
set_option linter.unusedSimpArgs false
namespace Sys2Proof.Machine

theorem outOk.arrayIssue {i : Instr} {s : State} (hs : MemOk s) : OutOk (arrayIssue i s) := by
  unfold Sys2Proof.Machine.arrayIssue
  repeat' first
    | with_reducible assumption
    | intro _
    | with_reducible apply outOk.run
    | with_reducible apply State.windowsFirst_memOk
    | with_reducible apply State.arrayDrain_memOk
    | with_reducible apply memOk.setFar
    | simp only [memOk_mk, memOk_fold]
    | with_reducible apply memOk_ite
    | with_reducible apply resOk_ite
    | with_reducible apply resOk.ok
    | with_reducible apply resOk.trap
    | with_reducible apply resOk.wait
    | with_reducible apply Res.bind_ok
    | split

theorem execIll_memOk (head : BitVec 16) (tail : BitVec 64) (s : State) (hs : MemOk s) : OutOk (execIll head tail s) := by
  unfold execIll
  repeat' first
    | with_reducible assumption
    | with_reducible apply outOk.next
    | with_reducible apply State.takeTrap_memOk

theorem execAdd_memOk (w : Bool) (d a b : Reg) (s : State) (hs : MemOk s) : OutOk (execAdd w d a b s) := by
  unfold execAdd
  repeat' first
    | with_reducible assumption
    | with_reducible apply outOk.regOp

theorem execSub_memOk (w : Bool) (d a b : Reg) (s : State) (hs : MemOk s) : OutOk (execSub w d a b s) := by
  unfold execSub
  repeat' first
    | with_reducible assumption
    | with_reducible apply outOk.regOp

theorem execAnd_memOk (w : Bool) (d a b : Reg) (s : State) (hs : MemOk s) : OutOk (execAnd w d a b s) := by
  unfold execAnd
  repeat' first
    | with_reducible assumption
    | with_reducible apply outOk.regOp

theorem execOr_memOk (w : Bool) (d a b : Reg) (s : State) (hs : MemOk s) : OutOk (execOr w d a b s) := by
  unfold execOr
  repeat' first
    | with_reducible assumption
    | with_reducible apply outOk.regOp

theorem execXor_memOk (w : Bool) (d a b : Reg) (s : State) (hs : MemOk s) : OutOk (execXor w d a b s) := by
  unfold execXor
  repeat' first
    | with_reducible assumption
    | with_reducible apply outOk.regOp

theorem execAndn_memOk (w : Bool) (d a b : Reg) (s : State) (hs : MemOk s) : OutOk (execAndn w d a b s) := by
  unfold execAndn
  repeat' first
    | with_reducible assumption
    | with_reducible apply outOk.regOp

theorem execShl_memOk (w : Bool) (d a b : Reg) (s : State) (hs : MemOk s) : OutOk (execShl w d a b s) := by
  unfold execShl
  repeat' first
    | with_reducible assumption
    | with_reducible apply outOk.regOp

theorem execShr_memOk (w : Bool) (d a b : Reg) (s : State) (hs : MemOk s) : OutOk (execShr w d a b s) := by
  unfold execShr
  repeat' first
    | with_reducible assumption
    | with_reducible apply outOk.regOp

theorem execSha_memOk (w : Bool) (d a b : Reg) (s : State) (hs : MemOk s) : OutOk (execSha w d a b s) := by
  unfold execSha
  repeat' first
    | with_reducible assumption
    | with_reducible apply outOk.regOp

theorem execRot_memOk (w : Bool) (d a b : Reg) (s : State) (hs : MemOk s) : OutOk (execRot w d a b s) := by
  unfold execRot
  repeat' first
    | with_reducible assumption
    | with_reducible apply outOk.regOp

theorem execMul_memOk (w : Bool) (d a b : Reg) (s : State) (hs : MemOk s) : OutOk (execMul w d a b s) := by
  unfold execMul
  repeat' first
    | with_reducible assumption
    | with_reducible apply outOk.regOp

theorem execMulh_memOk (m : MulhMode) (d a b : Reg) (s : State) (hs : MemOk s) : OutOk (execMulh m d a b s) := by
  unfold execMulh
  repeat' first
    | with_reducible assumption
    | with_reducible apply outOk.regOp

theorem execDiv_memOk (w u rem : Bool) (d a b : Reg) (s : State) (hs : MemOk s) : OutOk (execDiv w u rem d a b s) := by
  unfold execDiv
  repeat' first
    | with_reducible assumption
    | with_reducible apply outOk.regOp

theorem execMinmax_memOk (w u max : Bool) (d a b : Reg) (s : State) (hs : MemOk s) : OutOk (execMinmax w u max d a b s) := by
  unfold execMinmax
  repeat' first
    | with_reducible assumption
    | with_reducible apply outOk.regOp

theorem execCmp_memOk (c : Cond) (d a b : Reg) (s : State) (hs : MemOk s) : OutOk (execCmp c d a b s) := by
  unfold execCmp
  repeat' first
    | with_reducible assumption
    | with_reducible apply outOk.regOp

theorem execSel_memOk (d a b c : Reg) (s : State) (hs : MemOk s) : OutOk (execSel d a b c s) := by
  unfold execSel
  repeat' first
    | with_reducible assumption
    | with_reducible apply outOk.regOp

theorem execAddi_memOk (w : Bool) (d a : Reg) (k : BitVec 20) (s : State) (hs : MemOk s) : OutOk (execAddi w d a k s) := by
  unfold execAddi
  repeat' first
    | with_reducible assumption
    | with_reducible apply outOk.regOp

theorem execLi_memOk (f : LiForm) (d : Reg) (k : BitVec 24) (s : State) (hs : MemOk s) : OutOk (execLi f d k s) := by
  unfold execLi
  repeat' first
    | with_reducible assumption
    | with_reducible apply outOk.regOp

theorem execLogi_memOk (op : LogOp) (d a : Reg) (k : BitVec 20) (s : State) (hs : MemOk s) : OutOk (execLogi op d a k s) := by
  unfold execLogi
  repeat' first
    | with_reducible assumption
    | with_reducible apply outOk.regOp

theorem execShi_memOk (op : ShOp) (w : Bool) (d a : Reg) (n : BitVec 6) (s : State) (hs : MemOk s) : OutOk (execShi op w d a n s) := by
  unfold execShi
  repeat' first
    | with_reducible assumption
    | with_reducible apply outOk.regOp

theorem execBext_memOk (sx : Bool) (d a : Reg) (lo : BitVec 6) (len : BitVec 7) (s : State) (hs : MemOk s) : OutOk (execBext sx d a lo len s) := by
  unfold execBext
  repeat' first
    | with_reducible assumption
    | with_reducible apply outOk.regOp

theorem execBins_memOk (d a : Reg) (lo : BitVec 6) (len : BitVec 7) (s : State) (hs : MemOk s) : OutOk (execBins d a lo len s) := by
  unfold execBins
  repeat' first
    | with_reducible assumption
    | with_reducible apply outOk.regOp

theorem execBitc_memOk (op : BitcOp) (d a : Reg) (s : State) (hs : MemOk s) : OutOk (execBitc op d a s) := by
  unfold execBitc
  repeat' first
    | with_reducible assumption
    | with_reducible apply outOk.regOp

theorem execHdrx_memOk (d a : Reg) (layout : BitVec 6) (field : BitVec 8) (s : State) (hs : MemOk s) : OutOk (execHdrx d a layout field s) := by
  unfold execHdrx
  repeat' first
    | with_reducible assumption
    | with_reducible apply outOk.regOp

theorem execHdrp_memOk (d a : Reg) (layout : BitVec 6) (field : BitVec 8) (s : State) (hs : MemOk s) : OutOk (execHdrp d a layout field s) := by
  unfold execHdrp
  repeat' first
    | with_reducible assumption
    | with_reducible apply outOk.regOp

theorem execAddpc_memOk (d : Reg) (k : BitVec 26) (s : State) (hs : MemOk s) : OutOk (execAddpc d k s) := by
  unfold execAddpc
  repeat' first
    | with_reducible assumption
    | with_reducible apply outOk.regOp

theorem execBr_memOk (c : Cond) (a b : Reg) (delta : BitVec 11) (slot : BitVec 5) (s : State) (hs : MemOk s) : OutOk (execBr c a b delta slot s) := by
  unfold execBr
  repeat' first
    | with_reducible assumption
    | with_reducible apply outOk.transfer

theorem execBrz_memOk (nz : Bool) (a : Reg) (delta : BitVec 20) (slot : BitVec 5) (s : State) (hs : MemOk s) : OutOk (execBrz nz a delta slot s) := by
  unfold execBrz
  repeat' first
    | with_reducible assumption
    | with_reducible apply outOk.transfer

theorem execJmp_memOk (delta : BitVec 27) (slot : BitVec 5) (s : State) (hs : MemOk s) : OutOk (execJmp delta slot s) := by
  unfold execJmp
  repeat' first
    | with_reducible assumption
    | with_reducible apply outOk.transfer

theorem execJal_memOk (d : Reg) (delta : BitVec 27) (slot : BitVec 5) (s : State) (hs : MemOk s) : OutOk (execJal d delta slot s) := by
  unfold execJal
  repeat' first
    | with_reducible assumption
    | with_reducible apply outOk.transfer

theorem execJr_memOk (d a : Reg) (s : State) (hs : MemOk s) : OutOk (execJr d a s) := by
  unfold execJr
  repeat' first
    | with_reducible assumption
    | with_reducible apply outOk.transfer

theorem execLineFetch_memOk (ag : Agent) (s : State) (hs : MemOk s) : OutOk (execLineFetch ag s) := by
  unfold execLineFetch
  repeat' first
    | with_reducible assumption
    | with_reducible apply outOk.runEvent
    | with_reducible apply State.fetch_memOk
    | with_reducible apply State.takeTrap_memOk
    | with_reducible apply memOk_ite
    | split
    | (with_reducible refine res_memOk (by with_reducible assumption) ?_)
    | (with_reducible refine resTrap_memOk (by with_reducible assumption) ?_)
    | (with_reducible refine resWait_memOk (by with_reducible assumption) ?_)

theorem execLd_memOk (w : Width) (sx : Bool) (p : Policy) (d a : Reg) (k : BitVec 20) (s : State) (hs : MemOk s) : OutOk (execLd w sx p d a k s) := by
  unfold execLd
  repeat' first
    | with_reducible assumption
    | intro _
    | with_reducible apply outOk.run
    | with_reducible apply State.loadReg_memOk

theorem execSt_memOk (w : Width) (p : Policy) (d a : Reg) (k : BitVec 20) (s : State) (hs : MemOk s) : OutOk (execSt w p d a k s) := by
  unfold execSt
  repeat' first
    | with_reducible assumption
    | intro _
    | with_reducible apply outOk.run
    | with_reducible apply State.storeReg_memOk

theorem execLda_memOk (w : Width) (sx : Bool) (p : Policy) (sc : Scope) (d a : Reg) (k : BitVec 24) (s : State) (hs : MemOk s) : OutOk (execLda w sx p sc d a k s) := by
  unfold execLda
  repeat' first
    | with_reducible assumption
    | intro _
    | with_reducible apply outOk.run
    | with_reducible apply State.acquireOrder_memOk
    | with_reducible apply State.loadReg_memOk
    | with_reducible apply Res.bind_ok

theorem execStl_memOk (w : Width) (p : Policy) (sc : Scope) (d a : Reg) (k : BitVec 24) (s : State) (hs : MemOk s) : OutOk (execStl w p sc d a k s) := by
  unfold execStl
  repeat' first
    | with_reducible assumption
    | intro _
    | with_reducible apply outOk.run
    | with_reducible apply State.xrowOrder_memOk
    | with_reducible apply State.storeReg_memOk
    | with_reducible apply Res.bind_ok

theorem execLdx_memOk (w : Width) (sx : Bool) (p : Policy) (d a b : Reg) (k : BitVec 24) (s : State) (hs : MemOk s) : OutOk (execLdx w sx p d a b k s) := by
  unfold execLdx
  repeat' first
    | with_reducible assumption
    | intro _
    | with_reducible apply outOk.run
    | with_reducible apply State.loadReg_memOk

theorem execStx_memOk (w : Width) (p : Policy) (d a b : Reg) (k : BitVec 24) (s : State) (hs : MemOk s) : OutOk (execStx w p d a b k s) := by
  unfold execStx
  repeat' first
    | with_reducible assumption
    | intro _
    | with_reducible apply outOk.run
    | with_reducible apply State.storeReg_memOk

theorem execAmo_memOk (op : AmoOp) (dbl : Bool) (p : Policy) (sc : Scope) (ord : Order) (d a b : Reg) (s : State) (hs : MemOk s) : OutOk (execAmo op dbl p sc ord d a b s) := by
  unfold execAmo
  repeat' first
    | with_reducible assumption
    | intro _
    | with_reducible apply outOk.run
    | with_reducible apply State.atomic_memOk

theorem execCas_memOk (dbl : Bool) (p : Policy) (sc : Scope) (ord : Order) (d a b : Reg) (k : BitVec 24) (s : State) (hs : MemOk s) : OutOk (execCas dbl p sc ord d a b k s) := by
  unfold execCas
  repeat' first
    | with_reducible assumption
    | intro _
    | with_reducible apply outOk.run
    | with_reducible apply State.atomic_memOk

theorem execAmof_memOk (op : AmofOp) (p : Policy) (sc : Scope) (ord : Order) (d a b : Reg) (s : State) (hs : MemOk s) : OutOk (execAmof op p sc ord d a b s) := by
  unfold execAmof
  repeat' first
    | with_reducible assumption
    | intro _
    | with_reducible apply outOk.run
    | with_reducible apply State.atomic_memOk

theorem execFence_memOk (sc : Scope) (s : State) (hs : MemOk s) : OutOk (execFence sc s) := by
  unfold execFence
  repeat' first
    | with_reducible assumption
    | intro _
    | with_reducible apply outOk.run
    | with_reducible apply State.fence_memOk
    | with_reducible apply State.xrowOrder_memOk
    | with_reducible apply State.settle_memOk
    | simp only [memOk_mk, memOk_fold]
    | with_reducible apply memOk_ite
    | with_reducible apply resOk.ok
    | with_reducible apply resOk.trap
    | with_reducible apply Res.bind_ok
    | split

theorem execWaitm_memOk (w : Width) (p : Policy) (d a b c : Reg) (k : BitVec 24) (s : State) (hs : MemOk s) : OutOk (execWaitm w p d a b c k s) := by
  unfold execWaitm
  repeat' first
    | with_reducible assumption
    | intro _
    | with_reducible apply outOk.run
    | with_reducible apply State.write_memOk
    | with_reducible apply State.access_memOk
    | with_reducible apply State.loadIssue_memOk
    | with_reducible apply memOk.updHart
    | simp only [memOk_mk, memOk_fold]
    | with_reducible apply resOk_ite
    | with_reducible apply resOk.ok
    | with_reducible apply resOk.wait
    | with_reducible apply Res.bind_ok
    | split

theorem execWaitc_memOk (ch : BitVec 4) (sc : Scope) (a b : Reg) (s : State) (hs : MemOk s) : OutOk (execWaitc ch sc a b s) := by
  unfold execWaitc
  repeat' first
    | with_reducible assumption
    | intro _
    | with_reducible apply outOk.run
    | with_reducible apply State.acquireOrder_memOk
    | with_reducible apply State.waitOr_memOk
    | simp only [memOk_mk, memOk_fold]
    | with_reducible apply resOk_ite
    | with_reducible apply resOk.ok
    | with_reducible apply resOk.trap
    | with_reducible apply resOk.wait
    | with_reducible apply Res.bind_ok
    | split

theorem execCmaint_memOk (op : CmOp) (reach : CmReach) (ext : CmExt) (a : Reg) (k : BitVec 20) (s : State) (hs : MemOk s) : OutOk (execCmaint op reach ext a k s) := by
  unfold execCmaint
  repeat' first
    | with_reducible assumption
    | intro _
    | with_reducible apply outOk.run
    | with_reducible apply State.cmRun_memOk
    | with_reducible apply State.cmStart_memOk
    | simp only [memOk_mk, memOk_fold]
    | with_reducible apply resOk.ok
    | with_reducible apply Res.bind_ok
    | split

theorem execGet_memOk (w : Width) (ord : Bool) (d a : Reg) (k : BitVec 24) (s : State) (hs : MemOk s) : OutOk (execGet w ord d a k s) := by
  unfold execGet
  repeat' first
    | with_reducible assumption
    | intro _
    | with_reducible apply outOk.run
    | with_reducible apply State.remoteCheck_memOk
    | with_reducible apply State.remoteIssue_memOk
    | simp only [memOk_mk, memOk_fold]
    | with_reducible apply resOk.wait
    | with_reducible apply Res.bind_ok
    | split

theorem execPut_memOk (w : Width) (ord : Bool) (d a : Reg) (k : BitVec 24) (s : State) (hs : MemOk s) : OutOk (execPut w ord d a k s) := by
  unfold execPut
  repeat' first
    | with_reducible assumption
    | intro _
    | with_reducible apply outOk.run
    | with_reducible apply State.remoteCheck_memOk
    | with_reducible apply State.remoteIssue_memOk
    | simp only [memOk_mk, memOk_fold]
    | with_reducible apply resOk.wait
    | with_reducible apply Res.bind_ok
    | split

theorem execRamo_memOk (op : AmoOp) (dbl ord : Bool) (d a b : Reg) (s : State) (hs : MemOk s) : OutOk (execRamo op dbl ord d a b s) := by
  unfold execRamo
  repeat' first
    | with_reducible assumption
    | intro _
    | with_reducible apply outOk.run
    | with_reducible apply State.remoteCheck_memOk
    | with_reducible apply State.remoteIssue_memOk
    | simp only [memOk_mk, memOk_fold]
    | with_reducible apply resOk.wait
    | with_reducible apply Res.bind_ok
    | split

theorem execCsrr_memOk (d : Reg) (csr : BitVec 12) (s : State) (hs : MemOk s) : OutOk (execCsrr d csr s) := by
  unfold execCsrr
  repeat' first
    | with_reducible assumption
    | intro _
    | with_reducible apply outOk.run
    | with_reducible apply State.csrCheck_memOk
    | with_reducible apply State.write_memOk
    | with_reducible apply resOk.ok
    | with_reducible apply Res.bind_ok

theorem execCsrw_memOk (csr : BitVec 12) (a : Reg) (s : State) (hs : MemOk s) : OutOk (execCsrw csr a s) := by
  unfold execCsrw
  repeat' first
    | with_reducible assumption
    | intro _
    | with_reducible apply outOk.run
    | with_reducible apply State.csrCheck_memOk
    | with_reducible apply State.csrWrite_memOk
    | with_reducible apply resOk.ok
    | with_reducible apply Res.bind_ok

theorem execCsrx_memOk (op : CsrxOp) (d : Reg) (csr : BitVec 12) (a : Reg) (s : State) (hs : MemOk s) : OutOk (execCsrx op d csr a s) := by
  unfold execCsrx
  repeat' first
    | with_reducible assumption
    | intro _
    | with_reducible apply outOk.run
    | with_reducible apply State.csrCheck_memOk
    | with_reducible apply State.csrWrite_memOk
    | with_reducible apply State.write_memOk
    | simp only [memOk_mk, memOk_fold]
    | with_reducible apply resOk.ok
    | with_reducible apply Res.bind_ok

theorem execTrap_memOk (k : BitVec 20) (s : State) (hs : MemOk s) : OutOk (execTrap k s) := by
  unfold execTrap
  repeat' first
    | with_reducible assumption
    | intro _
    | with_reducible apply outOk.run
    | with_reducible apply State.softTrap_memOk

theorem execSysc_memOk (k : BitVec 20) (s : State) (hs : MemOk s) : OutOk (execSysc k s) := by
  unfold execSysc
  repeat' first
    | with_reducible assumption
    | intro _
    | with_reducible apply outOk.run
    | with_reducible apply State.softTrap_memOk

theorem execEret_memOk (s : State) (hs : MemOk s) : OutOk (execEret s) := by
  unfold execEret
  repeat' first
    | with_reducible assumption
    | intro _
    | with_reducible apply outOk.runSelf
    | with_reducible apply memOk.updHart
    | with_reducible apply resOk.ok

theorem execIen_memOk (en : Bool) (d : Reg) (s : State) (hs : MemOk s) : OutOk (execIen en d s) := by
  unfold execIen
  repeat' first
    | with_reducible assumption
    | intro _
    | with_reducible apply outOk.run
    | with_reducible apply State.write_memOk
    | with_reducible apply memOk.updHart
    | with_reducible apply resOk.ok

theorem execIdle_memOk (a : Reg) (s : State) (hs : MemOk s) : OutOk (execIdle a s) := by
  unfold execIdle
  repeat' first
    | with_reducible assumption
    | intro _
    | with_reducible apply outOk.run
    | with_reducible apply State.farSearch_memOk
    | with_reducible apply State.idleReturn_memOk
    | with_reducible apply State.waitOr_memOk
    | simp only [memOk_mk, memOk_fold]
    | with_reducible apply memOk_ite
    | with_reducible apply resOk_ite
    | with_reducible apply resOk.ok
    | split

theorem execCkpt_memOk (k : BitVec 20) (s : State) (hs : MemOk s) : OutOk (execCkpt k s) := by
  unfold execCkpt
  repeat' first
    | with_reducible assumption
    | intro _
    | with_reducible apply outOk.runSelf
    | with_reducible apply State.checkpoint_memOk
    | with_reducible apply State.advance_memOk
    | with_reducible apply resOk_ite
    | with_reducible apply resOk.ok
    | with_reducible apply resOk.wait
    | split

theorem execRmread_memOk (d a : Reg) (s : State) (hs : MemOk s) : OutOk (execRmread d a s) := by
  unfold execRmread
  repeat' first
    | with_reducible assumption
    | intro _
    | with_reducible apply outOk.run
    | with_reducible apply State.write_memOk
    | with_reducible apply resOk.ok

theorem execRmack_memOk (d : Reg) (s : State) (hs : MemOk s) : OutOk (execRmack d s) := by
  unfold execRmack
  repeat' first
    | with_reducible assumption
    | intro _
    | with_reducible apply outOk.run
    | with_reducible apply State.acknowledge_memOk
    | simp only [memOk_mk, memOk_fold]
    | with_reducible apply resOk_ite
    | with_reducible apply resOk.ok
    | with_reducible apply resOk.trap

theorem execTime_memOk (d : Reg) (s : State) (hs : MemOk s) : OutOk (execTime d s) := by
  unfold execTime
  repeat' first
    | with_reducible assumption
    | intro _
    | with_reducible apply outOk.run
    | with_reducible apply State.write_memOk
    | with_reducible apply resOk.ok

theorem execSnap_memOk (s : State) (hs : MemOk s) : OutOk (execSnap s) := by
  unfold execSnap
  repeat' first
    | with_reducible assumption
    | intro _
    | with_reducible apply outOk.run
    | with_reducible apply State.snapDone_memOk
    | with_reducible apply State.snapTrigger_memOk
    | with_reducible apply memOk.updHart
    | simp only [memOk_mk, memOk_fold]
    | with_reducible apply memOk_ite
    | with_reducible apply resOk_ite
    | with_reducible apply resOk.ok
    | with_reducible apply resOk.wait
    | split

theorem execTlbi_memOk (op : TlbiOp) (s : State) (hs : MemOk s) : OutOk (execTlbi op s) := by
  unfold execTlbi
  repeat' first
    | with_reducible assumption
    | intro _
    | with_reducible apply outOk.run
    | with_reducible apply State.tlbiComplete_memOk
    | with_reducible apply State.fence_memOk
    | with_reducible apply State.xrowOrder_memOk
    | with_reducible apply State.tlbiRemove_memOk
    | with_reducible apply memOk.updHart
    | simp only [memOk_mk, memOk_fold]
    | with_reducible apply memOk_ite
    | with_reducible apply resOk_ite
    | with_reducible apply resOk.ok
    | with_reducible apply resOk.wait
    | with_reducible apply Res.bind_ok
    | split

theorem execNrowOpen_memOk (a : Reg) (k : BitVec 20) (s : State) (hs : MemOk s) : OutOk (execNrowOpen a k s) := by
  unfold execNrowOpen
  repeat' first
    | with_reducible assumption
    | intro _
    | with_reducible apply outOk.run
    | with_reducible apply State.openRow_memOk
    | with_reducible apply resOk.wait
    | split

theorem execNrowClose_memOk (s : State) (hs : MemOk s) : OutOk (execNrowClose s) := by
  unfold execNrowClose
  repeat' first
    | with_reducible assumption
    | intro _
    | with_reducible apply outOk.run
    | with_reducible apply memOk.updNear
    | with_reducible apply resOk.ok
    | with_reducible apply resOk.wait
    | split

theorem execNlut_memOk (acc : Bool) (d a b : Reg) (s : State) (hs : MemOk s) : OutOk (execNlut acc d a b s) := by
  unfold execNlut
  repeat' first
    | with_reducible assumption
    | intro _
    | with_reducible apply outOk.run
    | with_reducible apply State.write_memOk
    | simp only [memOk_mk, memOk_fold]
    | with_reducible apply resOk_ite
    | with_reducible apply resOk.ok
    | with_reducible apply resOk.trap
    | with_reducible apply resOk.wait
    | split

theorem execPcmp_memOk (d : TagNo) (rows : Rows) (comb : Comb) (spec : Spec) (s : State) (hs : MemOk s) : OutOk (execPcmp d rows comb spec s) := by
  unfold execPcmp
  repeat' first
    | with_reducible assumption
    | with_reducible apply outOk.arrayIssue

theorem execPset_memOk (rows : Rows) (spec : Spec) (s : State) (hs : MemOk s) : OutOk (execPset rows spec s) := by
  unfold execPset
  repeat' first
    | with_reducible assumption
    | with_reducible apply outOk.arrayIssue

theorem execPcs_memOk (d : TagNo) (rows : Rows) (comb : Comb) (cmp wr : List (Col × Bool)) (s : State) (hs : MemOk s) : OutOk (execPcs d rows comb cmp wr s) := by
  unfold execPcs
  repeat' first
    | with_reducible assumption
    | with_reducible apply outOk.arrayIssue

theorem execTop_memOk (op : TopOp) (s : State) (hs : MemOk s) : OutOk (execTop op s) := by
  unfold execTop
  repeat' first
    | with_reducible assumption
    | with_reducible apply outOk.arrayIssue

theorem execTshf_memOk (op : TshfOp) (d a : TagNo) (s : State) (hs : MemOk s) : OutOk (execTshf op d a s) := by
  unfold execTshf
  repeat' first
    | with_reducible assumption
    | with_reducible apply outOk.arrayIssue

theorem execTcnt_memOk (d : Reg) (t : TagNo) (span : BitVec 2) (lane : Option (BitVec 2)) (s : State) (hs : MemOk s) : OutOk (execTcnt d t span lane s) := by
  unfold execTcnt
  repeat' first
    | with_reducible assumption
    | with_reducible apply outOk.arrayIssue

theorem execTany_memOk (d : Reg) (t : TagNo) (span : BitVec 2) (lane : Option (BitVec 2)) (s : State) (hs : MemOk s) : OutOk (execTany d t span lane s) := by
  unfold execTany
  repeat' first
    | with_reducible assumption
    | with_reducible apply outOk.arrayIssue

theorem execTfirst_memOk (clr : Bool) (d : Reg) (t : TagNo) (span : BitVec 2) (lane : Option (BitVec 2)) (s : State) (hs : MemOk s) : OutOk (execTfirst clr d t span lane s) := by
  unfold execTfirst
  repeat' first
    | with_reducible assumption
    | with_reducible apply outOk.arrayIssue

theorem execSpan_memOk (ls : BitVec 2) (a b : Reg) (s : State) (hs : MemOk s) : OutOk (execSpan ls a b s) := by
  unfold execSpan
  repeat' first
    | with_reducible assumption
    | with_reducible apply outOk.arrayIssue

theorem execSpanRd_memOk (d : Reg) (ls : BitVec 2) (s : State) (hs : MemOk s) : OutOk (execSpanRd d ls s) := by
  unfold execSpanRd
  repeat' first
    | with_reducible assumption
    | with_reducible apply outOk.arrayIssue

theorem execSeg_memOk (m : LaneMode) (s : State) (hs : MemOk s) : OutOk (execSeg m s) := by
  unfold execSeg
  repeat' first
    | with_reducible assumption
    | with_reducible apply outOk.arrayIssue

theorem execSegRd_memOk (d : Reg) (s : State) (hs : MemOk s) : OutOk (execSegRd d s) := by
  unfold execSegRd
  repeat' first
    | with_reducible assumption
    | with_reducible apply outOk.arrayIssue

theorem execKey_memOk (q : BitVec 2) (a : Reg) (s : State) (hs : MemOk s) : OutOk (execKey q a s) := by
  unfold execKey
  repeat' first
    | with_reducible assumption
    | with_reducible apply outOk.arrayIssue

theorem execCfill_memOk (rows : Rows) (c : Col) (n1 : BitVec 6) (src : FillSrc) (s : State) (hs : MemOk s) : OutOk (execCfill rows c n1 src s) := by
  unfold execCfill
  repeat' first
    | with_reducible assumption
    | with_reducible apply outOk.arrayIssue

theorem execCread_memOk (sx : Bool) (d a : Reg) (c : Col) (n1 : BitVec 6) (lane : BitVec 2) (s : State) (hs : MemOk s) : OutOk (execCread sx d a c n1 lane s) := by
  unfold execCread
  repeat' first
    | with_reducible assumption
    | with_reducible apply outOk.arrayIssue

theorem execCwrite_memOk (a b : Reg) (c : Col) (n1 : BitVec 6) (lane : BitVec 2) (s : State) (hs : MemOk s) : OutOk (execCwrite a b c n1 lane s) := by
  unfold execCwrite
  repeat' first
    | with_reducible assumption
    | with_reducible apply outOk.arrayIssue

theorem execTload_memOk (t : TagNo) (span : BitVec 2) (c : Col) (s : State) (hs : MemOk s) : OutOk (execTload t span c s) := by
  unfold execTload
  repeat' first
    | with_reducible assumption
    | with_reducible apply outOk.arrayIssue

theorem execTstore_memOk (t : TagNo) (span : BitVec 2) (c : Col) (s : State) (hs : MemOk s) : OutOk (execTstore t span c s) := by
  unfold execTstore
  repeat' first
    | with_reducible assumption
    | with_reducible apply outOk.arrayIssue

theorem execFmov_memOk (rows : Rows) (cd cs : Col) (n1 : BitVec 8) (s : State) (hs : MemOk s) : OutOk (execFmov rows cd cs n1 s) := by
  unfold execFmov
  repeat' first
    | with_reducible assumption
    | with_reducible apply outOk.arrayIssue

theorem execFrot_memOk (rows : Rows) (k : BitVec 4) (cd cs : Col) (n1 : BitVec 8) (s : State) (hs : MemOk s) : OutOk (execFrot rows k cd cs n1 s) := by
  unfold execFrot
  repeat' first
    | with_reducible assumption
    | with_reducible apply outOk.arrayIssue

theorem execXrow_memOk (prev : Bool) (rows : Rows) (cd cs : Col) (n1 : BitVec 8) (s : State) (hs : MemOk s) : OutOk (execXrow prev rows cd cs n1 s) := by
  unfold execXrow
  repeat' first
    | with_reducible assumption
    | with_reducible apply outOk.arrayIssue

theorem execTtld_memOk (e : BitVec 8) (regs : TtRegs) (s : State) (hs : MemOk s) : OutOk (execTtld e regs s) := by
  unfold execTtld
  repeat' first
    | with_reducible assumption
    | with_reducible apply outOk.arrayIssue

theorem execTtrun_memOk (desc : Bool) (rows : Rows) (e : BitVec 8) (m1 : BitVec 5) (n1 : BitVec 6) (x0 x1 x2 x3 : Col) (s : State) (hs : MemOk s) : OutOk (execTtrun desc rows e m1 n1 x0 x1 x2 x3 s) := by
  unfold execTtrun
  repeat' first
    | with_reducible assumption
    | with_reducible apply outOk.arrayIssue

theorem execAadd_memOk (rows : Rows) (dc ac xc : Col) (f : Fmt) (rnd : Rnd) (sat : Bool) (s : State) (hs : MemOk s) : OutOk (execAadd rows dc ac xc f rnd sat s) := by
  unfold execAadd
  repeat' first
    | with_reducible assumption
    | with_reducible apply outOk.arrayIssue

theorem execAsub_memOk (rows : Rows) (dc ac xc : Col) (f : Fmt) (rnd : Rnd) (sat : Bool) (s : State) (hs : MemOk s) : OutOk (execAsub rows dc ac xc f rnd sat s) := by
  unfold execAsub
  repeat' first
    | with_reducible assumption
    | with_reducible apply outOk.arrayIssue

theorem execAaddk_memOk (rows : Rows) (dc kc xc : Col) (f : FmtRnd) (s : State) (hs : MemOk s) : OutOk (execAaddk rows dc kc xc f s) := by
  unfold execAaddk
  repeat' first
    | with_reducible assumption
    | with_reducible apply outOk.arrayIssue

theorem execAmul_memOk (rows : Rows) (dc ac bc xc : Col) (f : Fmt) (rnd : Rnd) (sat : Bool) (s : State) (hs : MemOk s) : OutOk (execAmul rows dc ac bc xc f rnd sat s) := by
  unfold execAmul
  repeat' first
    | with_reducible assumption
    | with_reducible apply outOk.arrayIssue

theorem execAmulk_memOk (rows : Rows) (dc ac kc xc : Col) (f : Fmt) (rnd : Rnd) (sat : Bool) (s : State) (hs : MemOk s) : OutOk (execAmulk rows dc ac kc xc f rnd sat s) := by
  unfold execAmulk
  repeat' first
    | with_reducible assumption
    | with_reducible apply outOk.arrayIssue

theorem execAmac_memOk (rows : Rows) (dc ac bc xc : Col) (f1 f2 : Fmt) (rnd : Rnd) (sat : Bool) (s : State) (hs : MemOk s) : OutOk (execAmac rows dc ac bc xc f1 f2 rnd sat s) := by
  unfold execAmac
  repeat' first
    | with_reducible assumption
    | with_reducible apply outOk.arrayIssue

theorem execAmack_memOk (rows : Rows) (dc ac kc xc : Col) (f1 f2 : Fmt) (rnd : Rnd) (sat : Bool) (wa : BitVec 2) (s : State) (hs : MemOk s) : OutOk (execAmack rows dc ac kc xc f1 f2 rnd sat wa s) := by
  unfold execAmack
  repeat' first
    | with_reducible assumption
    | with_reducible apply outOk.arrayIssue

theorem execAfma_memOk (rows : Rows) (dc ac bc xc : Col) (f : Fmt) (rnd : Rnd) (sat : Bool) (s : State) (hs : MemOk s) : OutOk (execAfma rows dc ac bc xc f rnd sat s) := by
  unfold execAfma
  repeat' first
    | with_reducible assumption
    | with_reducible apply outOk.arrayIssue

theorem execAcvt_memOk (rows : Rows) (dc ac rc xc : Col) (fs fd : Fmt) (rnd : Rnd) (sat : Bool) (s : State) (hs : MemOk s) : OutOk (execAcvt rows dc ac rc xc fs fd rnd sat s) := by
  unfold execAcvt
  repeat' first
    | with_reducible assumption
    | with_reducible apply outOk.arrayIssue

theorem execAcmp_memOk (cond : ACond) (d : TagNo) (rows : Rows) (ac bc xc : Col) (f : FmtRnd) (comb : Comb) (s : State) (hs : MemOk s) : OutOk (execAcmp cond d rows ac bc xc f comb s) := by
  unfold execAcmp
  repeat' first
    | with_reducible assumption
    | with_reducible apply outOk.arrayIssue

theorem execAminmax_memOk (max : Bool) (rows : Rows) (dc ac xc : Col) (f : FmtRnd) (s : State) (hs : MemOk s) : OutOk (execAminmax max rows dc ac xc f s) := by
  unfold execAminmax
  repeat' first
    | with_reducible assumption
    | with_reducible apply outOk.arrayIssue

theorem execAred_memOk (rows : Rows) (dc xc : Col) (f : Fmt) (rnd : Rnd) (sat : Bool) (s : State) (hs : MemOk s) : OutOk (execAred rows dc xc f rnd sat s) := by
  unfold execAred
  repeat' first
    | with_reducible assumption
    | with_reducible apply outOk.arrayIssue

theorem execAlut_memOk (rows : Rows) (dc ac : Col) (f : FmtRnd) (n1 : BitVec 2) (s : State) (hs : MemOk s) : OutOk (execAlut rows dc ac f n1 s) := by
  unfold execAlut
  repeat' first
    | with_reducible assumption
    | with_reducible apply outOk.arrayIssue

theorem execAresolve_memOk (rows : Rows) (dc xc : Col) (wa : BitVec 2) (s : State) (hs : MemOk s) : OutOk (execAresolve rows dc xc wa s) := by
  unfold execAresolve
  repeat' first
    | with_reducible assumption
    | with_reducible apply outOk.arrayIssue

theorem execAqdec_memOk (rows : Rows) (dc ac bc xc : Col) (f1 f2 : Fmt) (rnd : Rounding) (s : State) (hs : MemOk s) : OutOk (execAqdec rows dc ac bc xc f1 f2 rnd s) := by
  unfold execAqdec
  repeat' first
    | with_reducible assumption
    | with_reducible apply outOk.arrayIssue

theorem execAspmac_memOk (rows : Rows) (dc ac : Col) (s0 : BitVec 6) (wa : BitVec 2) (m1 : BitVec 6) (xc : Col) (f1 f2 : Fmt) (rnd : Rounding) (s : State) (hs : MemOk s) : OutOk (execAspmac rows dc ac s0 wa m1 xc f1 f2 rnd s) := by
  unfold execAspmac
  repeat' first
    | with_reducible assumption
    | with_reducible apply outOk.arrayIssue

theorem execAspmacLdx_memOk (q : BitVec 2) (s : State) (hs : MemOk s) : OutOk (execAspmacLdx q s) := by
  unfold execAspmacLdx
  repeat' first
    | with_reducible assumption
    | with_reducible apply outOk.arrayIssue

theorem execAspmacLdm_memOk (s : State) (hs : MemOk s) : OutOk (execAspmacLdm s) := by
  unfold execAspmacLdm
  repeat' first
    | with_reducible assumption
    | with_reducible apply outOk.arrayIssue

theorem execCpy_memOk (sc : Scope) (a : Reg) (s : State) (hs : MemOk s) : OutOk (execCpy sc a s) := by
  unfold execCpy
  repeat' first
    | with_reducible assumption
    | intro _
    | with_reducible apply outOk.run
    | with_reducible apply State.access_memOk
    | with_reducible apply State.loadOnce_memOk
    | with_reducible apply State.pbKeep_memOk
    | with_reducible apply State.engAccept_memOk
    | with_reducible apply resOk.wait
    | with_reducible apply Res.bind_ok
    | split

theorem execAfill_memOk (win : Win) (p : Policy) (sc : Scope) (a b c : Reg) (s : State) (hs : MemOk s) : OutOk (execAfill win p sc a b c s) := by
  unfold execAfill
  repeat' first
    | with_reducible assumption
    | intro _
    | with_reducible apply outOk.run
    | with_reducible apply State.arrayCommand_memOk
    | with_reducible apply resOk.wait
    | split

theorem execAspill_memOk (win : Win) (p : Policy) (sc : Scope) (a b c : Reg) (s : State) (hs : MemOk s) : OutOk (execAspill win p sc a b c s) := by
  unfold execAspill
  repeat' first
    | with_reducible assumption
    | intro _
    | with_reducible apply outOk.run
    | with_reducible apply State.arrayCommand_memOk
    | with_reducible apply resOk.wait
    | split

theorem execMbwait_memOk (d a : Reg) (s : State) (hs : MemOk s) : OutOk (execMbwait d a s) := by
  unfold execMbwait
  repeat' first
    | with_reducible assumption
    | intro _
    | with_reducible apply outOk.run
    | with_reducible apply State.acquireOrder_memOk
    | with_reducible apply State.write_memOk
    | with_reducible apply State.waitOr_memOk
    | simp only [memOk_mk, memOk_fold]
    | with_reducible apply resOk_ite
    | with_reducible apply resOk.ok
    | with_reducible apply resOk.trap
    | with_reducible apply resOk.wait
    | with_reducible apply Res.bind_ok
    | split

theorem execMbpop_memOk (d a : Reg) (s : State) (hs : MemOk s) : OutOk (execMbpop d a s) := by
  unfold execMbpop
  repeat' first
    | with_reducible assumption
    | intro _
    | with_reducible apply outOk.run
    | with_reducible apply State.write_memOk
    | with_reducible apply State.access_memOk
    | with_reducible apply State.storeOrder_memOk
    | with_reducible apply State.popSlot_memOk
    | simp only [memOk_mk, memOk_fold]
    | with_reducible apply resOk_ite
    | with_reducible apply resOk.ok
    | with_reducible apply resOk.wait
    | with_reducible apply Res.bind_ok
    | split

theorem execMsend_memOk (ch : BitVec 4) (len : BitVec 7) (a b c : Reg) (s : State) (hs : MemOk s) : OutOk (execMsend ch len a b c s) := by
  unfold execMsend
  repeat' first
    | with_reducible assumption
    | intro _
    | with_reducible apply outOk.run
    | with_reducible apply State.sendAgain_memOk
    | with_reducible apply State.readBytes_memOk
    | with_reducible apply State.release_memOk
    | with_reducible apply State.sendOff_memOk
    | with_reducible apply State.sendGo_memOk
    | simp only [memOk_mk, memOk_fold]
    | with_reducible apply resOk_ite
    | with_reducible apply resOk.wait
    | with_reducible apply Res.bind_ok
    | split

theorem execBar_memOk (lvl : BitVec 2) (c : Bool) (a : Reg) (s : State) (hs : MemOk s) : OutOk (execBar lvl c a s) := by
  unfold execBar
  repeat' first
    | with_reducible assumption
    | intro _
    | with_reducible apply outOk.run
    | with_reducible apply State.barSettle_memOk
    | with_reducible apply State.barGo_memOk
    | with_reducible apply State.xrowOrder_memOk
    | with_reducible apply State.needDrained_memOk
    | with_reducible apply State.releaseAt_memOk
    | with_reducible apply memOk.updHart
    | with_reducible apply State.barArrive_memOk
    | simp only [memOk_mk, memOk_fold]
    | with_reducible apply resOk_ite
    | with_reducible apply resOk.ok
    | with_reducible apply resOk.trap
    | with_reducible apply resOk.wait
    | with_reducible apply Res.bind_ok
    | split

theorem execLarm_memOk (a : Reg) (s : State) (hs : MemOk s) : OutOk (execLarm a s) := by
  unfold execLarm
  repeat' first
    | with_reducible assumption
    | intro _
    | with_reducible apply outOk.run
    | with_reducible apply State.access_memOk
    | with_reducible apply State.release_memOk
    | with_reducible apply State.storeAt_memOk
    | simp only [memOk_mk, memOk_fold]
    | with_reducible apply resOk_ite
    | with_reducible apply resOk.ok
    | with_reducible apply resOk.trap
    | with_reducible apply Res.bind_ok

theorem execQbind_memOk (a : Reg) (q : BitVec 4) (home : BitVec 10) (s : State) (hs : MemOk s) : OutOk (execQbind a q home s) := by
  unfold execQbind
  repeat' first
    | with_reducible assumption
    | intro _
    | with_reducible apply outOk.run
    | with_reducible apply State.access_memOk
    | with_reducible apply State.loadOnce_memOk
    | with_reducible apply memOk.updHome
    | simp only [memOk_mk, memOk_fold]
    | with_reducible apply resOk_ite
    | with_reducible apply resOk.ok
    | with_reducible apply resOk.trap
    | with_reducible apply Res.bind_ok
    | split

theorem execQstat_memOk (d a : Reg) (q : BitVec 4) (s : State) (hs : MemOk s) : OutOk (execQstat d a q s) := by
  unfold execQstat
  repeat' first
    | with_reducible assumption
    | intro _
    | with_reducible apply outOk.run
    | with_reducible apply State.write_memOk
    | simp only [memOk_mk, memOk_fold]
    | with_reducible apply resOk_ite
    | with_reducible apply resOk.ok
    | with_reducible apply resOk.trap

theorem execTenq_memOk (a b c : Reg) (s : State) (hs : MemOk s) : OutOk (execTenq a b c s) := by
  unfold execTenq
  repeat' first
    | with_reducible assumption
    | intro _
    | with_reducible apply outOk.run
    | with_reducible apply State.tenqGo_memOk
    | with_reducible apply State.readRecords_memOk
    | with_reducible apply State.checkRecords_memOk
    | with_reducible apply State.tenqRelease_memOk
    | simp only [memOk_mk, memOk_fold]
    | with_reducible apply resOk_ite
    | with_reducible apply resOk.ok
    | with_reducible apply resOk.trap
    | with_reducible apply Res.bind_ok
    | split

theorem execTsteal_memOk (a b : Reg) (s : State) (hs : MemOk s) : OutOk (execTsteal a b s) := by
  unfold execTsteal
  repeat' first
    | with_reducible assumption
    | intro _
    | with_reducible apply outOk.run
    | with_reducible apply State.stealNow_memOk
    | with_reducible apply State.stealGo_memOk
    | with_reducible apply memOk.updFar
    | with_reducible apply memOk.updHart
    | with_reducible apply State.stealPost_memOk
    | simp only [memOk_mk, memOk_fold]
    | with_reducible apply memOk_ite
    | with_reducible apply resOk_ite
    | with_reducible apply resOk.trap
    | with_reducible apply resOk.wait
    | split

theorem execTend_memOk (s : State) (hs : MemOk s) : OutOk (execTend s) := by
  unfold execTend
  repeat' first
    | with_reducible assumption
    | intro _
    | with_reducible apply outOk.runSelf
    | with_reducible apply State.tendReady_memOk
    | with_reducible apply State.farRetire_memOk
    | with_reducible apply State.farTake_memOk
    | with_reducible apply State.nearRetire_memOk
    | simp only [memOk_mk, memOk_fold]
    | with_reducible apply memOk_ite
    | with_reducible apply resOk.ok
    | with_reducible apply resOk.wait
    | with_reducible apply Res.bind_ok
    | split

theorem execTnext_memOk (a : Reg) (s : State) (hs : MemOk s) : OutOk (execTnext a s) := by
  unfold execTnext
  repeat' first
    | with_reducible assumption
    | intro _
    | with_reducible apply outOk.runSelf
    | with_reducible apply State.farSearch_memOk
    | with_reducible apply State.waitOr_memOk
    | with_reducible apply State.tendReady_memOk
    | with_reducible apply State.farRetire_memOk
    | with_reducible apply State.farTake_memOk
    | simp only [memOk_mk, memOk_fold]
    | with_reducible apply resOk_ite
    | with_reducible apply resOk.ok
    | with_reducible apply resOk.trap
    | with_reducible apply resOk.wait
    | with_reducible apply Res.bind_ok
    | split

theorem execStoreBufferDrain_memOk (core k : Nat) (s : State) (hs : MemOk s) : OutOk (execStoreBufferDrain core k s) := by
  unfold execStoreBufferDrain
  repeat' first
    | with_reducible assumption
    | with_reducible apply outOk.runEvent
    | with_reducible apply State.sbPerform_memOk

theorem execWalkStart_memOk (unit : Nat) (s : State) (hs : MemOk s) : OutOk (execWalkStart unit s) := by
  unfold execWalkStart
  repeat' first
    | with_reducible assumption
    | with_reducible apply outOk.runEvent
    | with_reducible apply State.walkBegin_memOk

theorem execWalkComplete_memOk (unit k : Nat) (s : State) (hs : MemOk s) : OutOk (execWalkComplete unit k s) := by
  unfold execWalkComplete
  repeat' first
    | with_reducible assumption
    | with_reducible apply outOk.runEvent
    | with_reducible apply State.walkFinish_memOk

theorem execCacheEviction_memOk (cache : CacheId) (line : Nat) (s : State) (hs : MemOk s) : OutOk (execCacheEviction cache line s) := by
  unfold execCacheEviction
  repeat' first
    | with_reducible assumption
    | with_reducible apply outOk.runEvent
    | with_reducible apply State.evict_memOk

theorem execWrittenLineInvalidate_memOk (home line : Nat) (s : State) (hs : MemOk s) : OutOk (execWrittenLineInvalidate home line s) := by
  unfold execWrittenLineInvalidate
  repeat' first
    | with_reducible assumption
    | with_reducible apply outOk.runEvent
    | with_reducible apply State.wlogOut_memOk
    | with_reducible apply memOk_ite
    | with_reducible apply Res.ok_state

theorem execBankAddI32_memOk (k : Nat) (s : State) (hs : MemOk s) : OutOk (execBankAddI32 k s) := by
  unfold execBankAddI32
  repeat' first
    | with_reducible assumption
    | with_reducible apply outOk.runEvent
    | with_reducible apply State.bankEvent_memOk

theorem execBankAddI64_memOk (k : Nat) (s : State) (hs : MemOk s) : OutOk (execBankAddI64 k s) := by
  unfold execBankAddI64
  repeat' first
    | with_reducible assumption
    | with_reducible apply outOk.runEvent
    | with_reducible apply State.bankEvent_memOk

theorem execBankAddF32_memOk (k : Nat) (s : State) (hs : MemOk s) : OutOk (execBankAddF32 k s) := by
  unfold execBankAddF32
  repeat' first
    | with_reducible assumption
    | with_reducible apply outOk.runEvent
    | with_reducible apply State.bankEvent_memOk

theorem execBankAddBf16x2_memOk (k : Nat) (s : State) (hs : MemOk s) : OutOk (execBankAddBf16x2 k s) := by
  unfold execBankAddBf16x2
  repeat' first
    | with_reducible assumption
    | with_reducible apply outOk.runEvent
    | with_reducible apply State.bankEvent_memOk

theorem execBankMaxF32_memOk (k : Nat) (s : State) (hs : MemOk s) : OutOk (execBankMaxF32 k s) := by
  unfold execBankMaxF32
  repeat' first
    | with_reducible assumption
    | with_reducible apply outOk.runEvent
    | with_reducible apply State.bankEvent_memOk

theorem execBankMinF32_memOk (k : Nat) (s : State) (hs : MemOk s) : OutOk (execBankMinF32 k s) := by
  unfold execBankMinF32
  repeat' first
    | with_reducible assumption
    | with_reducible apply outOk.runEvent
    | with_reducible apply State.bankEvent_memOk

theorem execBankOr64_memOk (k : Nat) (s : State) (hs : MemOk s) : OutOk (execBankOr64 k s) := by
  unfold execBankOr64
  repeat' first
    | with_reducible assumption
    | with_reducible apply outOk.runEvent
    | with_reducible apply State.bankEvent_memOk

theorem execAllbankFill_memOk (k : Nat) (s : State) (hs : MemOk s) : OutOk (execAllbankFill k s) := by
  unfold execAllbankFill
  repeat' first
    | with_reducible assumption
    | with_reducible apply outOk.runEvent
    | with_reducible apply State.fillEnter_memOk

theorem execFillWave_memOk (stack : Nat) (s : State) (hs : MemOk s) : OutOk (execFillWave stack s) := by
  unfold execFillWave
  repeat' first
    | with_reducible assumption
    | with_reducible apply outOk.runEvent
    | with_reducible apply State.fillWave_memOk

theorem execStackReservationGrant_memOk (stack : Nat) (s : State) (hs : MemOk s) : OutOk (execStackReservationGrant stack s) := by
  unfold execStackReservationGrant
  repeat' first
    | with_reducible assumption
    | with_reducible apply outOk.runEvent
    | with_reducible apply State.stackGrant_memOk

theorem execIdxsum_memOk (k : Nat) (s : State) (hs : MemOk s) : OutOk (execIdxsum k s) := by
  unfold execIdxsum
  repeat' first
    | with_reducible assumption
    | with_reducible apply outOk.runEvent
    | with_reducible apply State.idxEnter_memOk

theorem execIdxsumExecute_memOk (home : Nat) (s : State) (hs : MemOk s) : OutOk (execIdxsumExecute home s) := by
  unfold execIdxsumExecute
  repeat' first
    | with_reducible assumption
    | with_reducible apply outOk.runEvent
    | with_reducible apply State.idxExecute_memOk

theorem execIdxsumComplete_memOk (home : Nat) (s : State) (hs : MemOk s) : OutOk (execIdxsumComplete home s) := by
  unfold execIdxsumComplete
  repeat' first
    | with_reducible assumption
    | with_reducible apply outOk.runEvent
    | with_reducible apply State.idxComplete_memOk

theorem execCounterWrite_memOk (k : Nat) (s : State) (hs : MemOk s) : OutOk (execCounterWrite k s) := by
  unfold execCounterWrite
  repeat' first
    | with_reducible assumption
    | intro _
    | with_reducible apply outOk.runEvent
    | with_reducible apply State.counterEvent_memOk
    | with_reducible apply State.writeCounter_memOk

theorem execCounterPacket_memOk (k : Nat) (s : State) (hs : MemOk s) : OutOk (execCounterPacket k s) := by
  unfold execCounterPacket
  repeat' first
    | with_reducible assumption
    | intro _
    | with_reducible apply outOk.runEvent
    | with_reducible apply State.counterEvent_memOk
    | with_reducible apply State.bindCounter_memOk

theorem execStackDetredWrite_memOk (stack : Nat) (en : Bool) (s : State) (hs : MemOk s) : OutOk (execStackDetredWrite stack en s) := by
  unfold execStackDetredWrite
  repeat' first
    | with_reducible assumption
    | with_reducible apply outOk.runWrite
    | with_reducible apply State.detredWrite_memOk

theorem execDetredChangeComplete_memOk (stack : Nat) (s : State) (hs : MemOk s) : OutOk (execDetredChangeComplete stack s) := by
  unfold execDetredChangeComplete
  repeat' first
    | with_reducible assumption
    | with_reducible apply outOk.runEvent
    | with_reducible apply State.detredDone_memOk

theorem execWaitmWake_memOk (ag : Agent) (s : State) (hs : MemOk s) : OutOk (execWaitmWake ag s) := by
  unfold execWaitmWake
  repeat' first
    | with_reducible assumption
    | with_reducible apply outOk.runEvent
    | with_reducible apply State.monitorWake_memOk

theorem execWaitmLimitExpire_memOk (ag : Agent) (s : State) (hs : MemOk s) : OutOk (execWaitmLimitExpire ag s) := by
  unfold execWaitmLimitExpire
  repeat' first
    | with_reducible assumption
    | with_reducible apply outOk.runEvent
    | with_reducible apply State.waitmEnd_memOk

theorem execWaitLimitExpire_memOk (ag : Agent) (s : State) (hs : MemOk s) : OutOk (execWaitLimitExpire ag s) := by
  unfold execWaitLimitExpire
  repeat' first
    | with_reducible assumption
    | with_reducible apply outOk.runEvent
    | with_reducible apply State.waitLate_memOk

theorem execTlbiComplete_memOk (ag : Agent) (s : State) (hs : MemOk s) : OutOk (execTlbiComplete ag s) := by
  unfold execTlbiComplete
  repeat' first
    | with_reducible assumption
    | with_reducible apply outOk.runEvent
    | with_reducible apply State.tlbiComplete_memOk

theorem execRemoteOpPerform_memOk (k : Nat) (s : State) (hs : MemOk s) : OutOk (execRemoteOpPerform k s) := by
  unfold execRemoteOpPerform
  repeat' first
    | with_reducible assumption
    | with_reducible apply outOk.runEvent
    | with_reducible apply State.remotePerform_memOk

theorem execRemoteReply_memOk (k : Nat) (s : State) (hs : MemOk s) : OutOk (execRemoteReply k s) := by
  unfold execRemoteReply
  repeat' first
    | with_reducible assumption
    | with_reducible apply outOk.runEvent
    | with_reducible apply State.remoteReply_memOk

theorem execMailboxDelivery_memOk (k : Nat) (s : State) (hs : MemOk s) : OutOk (execMailboxDelivery k s) := by
  unfold execMailboxDelivery
  repeat' first
    | with_reducible assumption
    | with_reducible apply outOk.runEvent
    | with_reducible apply State.deliverAt_memOk

theorem execBarrierArrival_memOk (k : Nat) (s : State) (hs : MemOk s) : OutOk (execBarrierArrival k s) := by
  unfold execBarrierArrival
  repeat' first
    | with_reducible assumption
    | with_reducible apply outOk.runEvent
    | with_reducible apply State.barrierArrival_memOk

theorem execArrayInstructionStart_memOk (core : Nat) (s : State) (hs : MemOk s) : OutOk (execArrayInstructionStart core s) := by
  unfold execArrayInstructionStart
  repeat' first
    | with_reducible assumption
    | with_reducible apply outOk.runEvent
    | with_reducible apply State.arrayStart_memOk

theorem execArrayInstructionRetire_memOk (core : Nat) (s : State) (hs : MemOk s) : OutOk (execArrayInstructionRetire core s) := by
  unfold execArrayInstructionRetire
  repeat' first
    | with_reducible assumption
    | with_reducible apply outOk.runEvent
    | with_reducible apply State.arrayRetire_memOk

theorem execReservationGrant_memOk (cluster : Nat) (s : State) (hs : MemOk s) : OutOk (execReservationGrant cluster s) := by
  unfold execReservationGrant
  repeat' first
    | with_reducible assumption
    | with_reducible apply outOk.runEvent
    | with_reducible apply State.reservationGrant_memOk

theorem execPermitRefill_memOk (ag : Agent) (s : State) (hs : MemOk s) : OutOk (execPermitRefill ag s) := by
  unfold execPermitRefill
  repeat' first
    | with_reducible assumption
    | with_reducible apply outOk.runEvent
    | with_reducible apply State.permitRefill_memOk

theorem execEngineCommandStart_memOk (core k : Nat) (s : State) (hs : MemOk s) : OutOk (execEngineCommandStart core k s) := by
  unfold execEngineCommandStart
  repeat' first
    | with_reducible assumption
    | with_reducible apply outOk.runEvent
    | with_reducible apply State.engStart_memOk

theorem execEngineCompletion_memOk (core k : Nat) (s : State) (hs : MemOk s) : OutOk (execEngineCompletion core k s) := by
  unfold execEngineCompletion
  repeat' first
    | with_reducible assumption
    | with_reducible apply outOk.runEvent
    | with_reducible apply State.engComplete_memOk

theorem execHomeCycle_memOk (home : Nat) (s : State) (hs : MemOk s) : OutOk (execHomeCycle home s) := by
  unfold execHomeCycle
  repeat' first
    | with_reducible assumption
    | with_reducible apply outOk.runEvent
    | with_reducible apply State.homeCycle_memOk

theorem execStealGrantDelivery_memOk (k : Nat) (s : State) (hs : MemOk s) : OutOk (execStealGrantDelivery k s) := by
  unfold execStealGrantDelivery
  repeat' first
    | with_reducible assumption
    | with_reducible apply outOk.runEvent
    | with_reducible apply State.grantDeliver_memOk

theorem execStealRequestArrival_memOk (k : Nat) (s : State) (hs : MemOk s) : OutOk (execStealRequestArrival k s) := by
  unfold execStealRequestArrival
  repeat' first
    | with_reducible assumption
    | with_reducible apply outOk.runEvent
    | with_reducible apply State.stealArrive_memOk
    | simp only [memOk_mk, memOk_fold]
    | split

theorem execFarTaskTake_memOk (core : Nat) (s : State) (hs : MemOk s) : OutOk (execFarTaskTake core s) := by
  unfold execFarTaskTake
  repeat' first
    | with_reducible assumption
    | with_reducible apply outOk.runEvent
    | with_reducible apply State.farTake_memOk

theorem execAutoStealWithdraw_memOk (core : Nat) (s : State) (hs : MemOk s) : OutOk (execAutoStealWithdraw core s) := by
  unfold execAutoStealWithdraw
  repeat' first
    | with_reducible assumption
    | with_reducible apply outOk.runEvent
    | with_reducible apply State.autoWithdraw_memOk

theorem execLaunchTake_memOk (part index : Nat) (assigned : Nat) (s : State) (hs : MemOk s) : OutOk (execLaunchTake part index assigned s) := by
  unfold execLaunchTake
  repeat' first
    | with_reducible assumption
    | with_reducible apply outOk.runEvent
    | with_reducible apply State.launchTake_memOk

theorem execLaunchResume_memOk (part : Nat) (s : State) (hs : MemOk s) : OutOk (execLaunchResume part s) := by
  unfold execLaunchResume
  repeat' first
    | with_reducible assumption
    | with_reducible apply outOk.runEvent
    | with_reducible apply State.launchStep_memOk
    | split

theorem execTakeEvent_memOk (ag : Agent) (s : State) (hs : MemOk s) : OutOk (execTakeEvent ag s) := by
  unfold execTakeEvent
  repeat' first
    | with_reducible assumption
    | with_reducible apply outOk.runEvent
    | with_reducible apply State.boundary_memOk
    | with_reducible apply memOk_ite
    | with_reducible apply optOk_getD

theorem execCoreStop_memOk (core : Nat) (order sbLost : Bool) (s : State) (hs : MemOk s) : OutOk (execCoreStop core order sbLost s) := by
  unfold execCoreStop
  repeat' first
    | with_reducible assumption
    | with_reducible apply outOk.runEvent
    | with_reducible apply State.coreStop_memOk

theorem execMapCommit_memOk (changes : List (Nat × Word)) (s : State) (hs : MemOk s) : OutOk (execMapCommit changes s) := by
  unfold execMapCommit
  repeat' first
    | with_reducible assumption
    | with_reducible apply outOk.runEvent
    | with_reducible apply State.mapCommit_memOk

theorem execMapGraceExpire_memOk (ctx : Nat) (s : State) (hs : MemOk s) : OutOk (execMapGraceExpire ctx s) := by
  unfold execMapGraceExpire
  repeat' first
    | with_reducible assumption
    | with_reducible apply outOk.runEvent
    | with_reducible apply State.graceExpire_memOk

theorem execCtxMapackWrite_memOk (ctx : Nat) (v : Word) (s : State) (hs : MemOk s) : OutOk (execCtxMapackWrite ctx v s) := by
  unfold execCtxMapackWrite
  repeat' first
    | with_reducible assumption
    | with_reducible apply outOk.runWrite
    | with_reducible apply State.mapackWrite_memOk

theorem execSupervisorRepair_memOk (core : Nat) (readable : Bool) (s : State) (hs : MemOk s) : OutOk (execSupervisorRepair core readable s) := by
  unfold execSupervisorRepair
  repeat' first
    | with_reducible assumption
    | with_reducible apply outOk.runEvent
    | with_reducible apply State.repair_memOk

theorem execSupervisorReplace_memOk (core target : Nat) (readable : Bool) (s : State) (hs : MemOk s) : OutOk (execSupervisorReplace core target readable s) := by
  unfold execSupervisorReplace
  repeat' first
    | with_reducible assumption
    | with_reducible apply outOk.runEvent
    | with_reducible apply State.replaceVcore_memOk

theorem execHeartbeatMissing_memOk (die : Nat) (s : State) (hs : MemOk s) : OutOk (execHeartbeatMissing die s) := by
  unfold execHeartbeatMissing
  repeat' first
    | with_reducible assumption
    | with_reducible apply outOk.runEvent
    | with_reducible apply State.dieReset_memOk
    | with_reducible apply memOk_ite

theorem execDieRejoin_memOk (die : Nat) (l2ways livecl : BitVec 16) (livecore : BitVec 256) (s : State) (hs : MemOk s) : OutOk (execDieRejoin die l2ways livecl livecore s) := by
  unfold execDieRejoin
  repeat' first
    | with_reducible assumption
    | with_reducible apply outOk.runEvent
    | with_reducible apply State.rejoin_memOk
    | with_reducible apply memOk_ite

theorem execSuspendDeadline_memOk (ctx : Nat) (s : State) (hs : MemOk s) : OutOk (execSuspendDeadline ctx s) := by
  unfold execSuspendDeadline
  repeat' first
    | with_reducible assumption
    | with_reducible apply outOk.runEvent
    | with_reducible apply State.suspendDeadline_memOk

theorem execSuspensionComplete_memOk (ctx : Nat) (s : State) (hs : MemOk s) : OutOk (execSuspensionComplete ctx s) := by
  unfold execSuspensionComplete
  repeat' first
    | with_reducible assumption
    | with_reducible apply outOk.runEvent
    | with_reducible apply State.suspensionDone_memOk

theorem execContextResume_memOk (ctx : Nat) (cores : List Nat) (s : State) (hs : MemOk s) : OutOk (execContextResume ctx cores s) := by
  unfold execContextResume
  repeat' first
    | with_reducible assumption
    | with_reducible apply outOk.runEvent
    | with_reducible apply State.resume_memOk

theorem execPartModeWrite_memOk (v : Word) (s : State) (hs : MemOk s) : OutOk (execPartModeWrite v s) := by
  unfold execPartModeWrite
  repeat' first
    | with_reducible assumption
    | with_reducible apply outOk.runWrite
    | with_reducible apply State.partModeWrite_memOk

theorem execPartModeApply_memOk (s : State) (hs : MemOk s) : OutOk (execPartModeApply s) := by
  unfold execPartModeApply
  repeat' first
    | with_reducible assumption
    | with_reducible apply outOk.runEvent
    | with_reducible apply State.partModeApply_memOk

theorem execCorePowerGate_memOk (core : Nat) (s : State) (hs : MemOk s) : OutOk (execCorePowerGate core s) := by
  unfold execCorePowerGate
  repeat' first
    | with_reducible assumption
    | with_reducible apply outOk.runEvent
    | with_reducible apply State.powerGate_memOk

theorem execServiceRecordTake_memOk (part : Nat) (s : State) (hs : MemOk s) : OutOk (execServiceRecordTake part s) := by
  unfold execServiceRecordTake
  repeat' first
    | with_reducible assumption
    | with_reducible apply outOk.runEvent
    | with_reducible apply State.serviceTake_memOk

theorem execHostMemRead_memOk (pa n : Nat) (s : State) (hs : MemOk s) : OutOk (execHostMemRead pa n s) := by
  unfold execHostMemRead
  repeat' first
    | with_reducible assumption
    | with_reducible apply outOk.runEvent
    | with_reducible apply outOk.fault
    | with_reducible apply outOk_ite
    | with_reducible apply State.hostRequest_memOk
    | with_reducible apply memOk_ite

theorem execHostMemWrite_memOk (pa : Nat) (data : List Byte) (s : State) (hs : MemOk s) : OutOk (execHostMemWrite pa data s) := by
  unfold execHostMemWrite
  repeat' first
    | with_reducible assumption
    | with_reducible apply outOk.runEvent
    | with_reducible apply outOk.fault
    | with_reducible apply outOk_ite
    | with_reducible apply State.hostRequest_memOk
    | with_reducible apply memOk_ite

theorem execHostSnoop_memOk (line : Nat) (kind : SnoopKind) (s : State) (hs : MemOk s) : OutOk (execHostSnoop line kind s) := by
  unfold execHostSnoop
  repeat' first
    | with_reducible assumption
    | with_reducible apply outOk.runEvent
    | with_reducible apply State.hostSnoop_memOk

theorem execLinkWake_memOk (die : Nat) (s : State) (hs : MemOk s) : OutOk (execLinkWake die s) := by
  unfold execLinkWake
  repeat' first
    | with_reducible assumption
    | with_reducible apply outOk.runEvent
    | with_reducible apply State.linkUp_memOk
    | with_reducible apply memOk_ite

theorem execLinkRetrain_memOk (die : Nat) (ok : Bool) (s : State) (hs : MemOk s) : OutOk (execLinkRetrain die ok s) := by
  unfold execLinkRetrain
  repeat' first
    | with_reducible assumption
    | with_reducible apply outOk.runEvent
    | with_reducible apply State.retrain_memOk

theorem execLinkLowPowerEntry_memOk (die : Nat) (s : State) (hs : MemOk s) : OutOk (execLinkLowPowerEntry die s) := by
  unfold execLinkLowPowerEntry
  repeat' first
    | with_reducible assumption
    | with_reducible apply outOk.runEvent
    | with_reducible apply memOk.updIsland
    | with_reducible apply memOk_ite

theorem execHostBiResponse_memOk (line : Nat) (data : BiAnswer) (s : State) (hs : MemOk s) : OutOk (execHostBiResponse line data s) := by
  unfold execHostBiResponse
  repeat' first
    | with_reducible assumption
    | with_reducible apply outOk.runEvent
    | with_reducible apply State.biResponse_memOk

theorem execHostCacheResponse_memOk (k : Nat) (data : BitVec 512) (s : State) (hs : MemOk s) : OutOk (execHostCacheResponse k data s) := by
  unfold execHostCacheResponse
  repeat' first
    | with_reducible assumption
    | with_reducible apply outOk.runEvent
    | with_reducible apply State.cacheResponse_memOk

theorem execHostNoticeWrite_memOk (fn : Nat) (v : Word) (s : State) (hs : MemOk s) : OutOk (execHostNoticeWrite fn v s) := by
  unfold execHostNoticeWrite
  repeat' first
    | with_reducible assumption
    | with_reducible apply outOk.runEvent
    | with_reducible apply State.noticeWrite_memOk

theorem execClClockWrite_memOk (cluster : Nat) (v : Word) (s : State) (hs : MemOk s) : OutOk (execClClockWrite cluster v s) := by
  unfold execClClockWrite
  repeat' first
    | with_reducible assumption
    | with_reducible apply outOk.runWrite
    | with_reducible apply State.clClockWrite_memOk
    | with_reducible apply memOk_ite

theorem execDieVddWrite_memOk (die : Nat) (v : Word) (s : State) (hs : MemOk s) : OutOk (execDieVddWrite die v s) := by
  unfold execDieVddWrite
  repeat' first
    | with_reducible assumption
    | with_reducible apply outOk.runWrite
    | with_reducible apply State.dieVddWrite_memOk
    | with_reducible apply memOk_ite

theorem execClockChangeComplete_memOk (cluster : Nat) (s : State) (hs : MemOk s) : OutOk (execClockChangeComplete cluster s) := by
  unfold execClockChangeComplete
  repeat' first
    | with_reducible assumption
    | with_reducible apply outOk.runEvent
    | with_reducible apply memOk.updCluster

theorem execVddRampComplete_memOk (die : Nat) (s : State) (hs : MemOk s) : OutOk (execVddRampComplete die s) := by
  unfold execVddRampComplete
  repeat' first
    | with_reducible assumption
    | with_reducible apply outOk.runEvent
    | with_reducible apply memOk.updIsland

theorem execClCurrentWrite_memOk (cluster : Nat) (v : Word) (s : State) (hs : MemOk s) : OutOk (execClCurrentWrite cluster v s) := by
  unfold execClCurrentWrite
  repeat' first
    | with_reducible assumption
    | with_reducible apply outOk.runWrite
    | with_reducible apply State.clCurrentWrite_memOk
    | with_reducible apply memOk_ite

theorem execClPermitWrite_memOk (cluster : Nat) (v : Word) (s : State) (hs : MemOk s) : OutOk (execClPermitWrite cluster v s) := by
  unfold execClPermitWrite
  repeat' first
    | with_reducible assumption
    | with_reducible apply outOk.runWrite
    | with_reducible apply State.clPermitWrite_memOk
    | with_reducible apply memOk_ite

theorem execPermitBcastWrite_memOk (v : Word) (s : State) (hs : MemOk s) : OutOk (execPermitBcastWrite v s) := by
  unfold execPermitBcastWrite
  repeat' first
    | with_reducible assumption
    | with_reducible apply outOk.runWrite
    | with_reducible apply State.permitBcast_memOk

theorem execStallSample_memOk (cluster : Nat) (cyc pstall rstall : BitVec 20) (s : State) (hs : MemOk s) : OutOk (execStallSample cluster cyc pstall rstall s) := by
  unfold execStallSample
  repeat' first
    | with_reducible assumption
    | with_reducible apply outOk.runEvent
    | with_reducible apply memOk.updCluster

theorem execForecastUpdate_memOk (s : State) (hs : MemOk s) : OutOk (execForecastUpdate s) := by
  unfold execForecastUpdate
  repeat' first
    | with_reducible assumption
    | with_reducible apply outOk.runEvent
    | with_reducible apply State.forecasts_memOk

theorem execThermalSample_memOk (temps : List (BitVec 16)) (s : State) (hs : MemOk s) : OutOk (execThermalSample temps s) := by
  unfold execThermalSample
  repeat' first
    | with_reducible assumption
    | with_reducible apply outOk.runEvent
    | with_reducible apply State.thermalSample_memOk

theorem execThermStatWrite_memOk (v : Word) (s : State) (hs : MemOk s) : OutOk (execThermStatWrite v s) := by
  unfold execThermStatWrite
  repeat' first
    | with_reducible assumption
    | with_reducible apply outOk.runWrite
    | with_reducible apply State.thermStatWrite_memOk

theorem execBootRom_memOk (readOk : Bool) (image : List Byte) (s : State) (hs : MemOk s) : OutOk (execBootRom readOk image s) := by
  unfold execBootRom
  repeat' first
    | with_reducible assumption
    | with_reducible apply outOk.runEvent
    | with_reducible apply State.bootRom_memOk

theorem execBringUp_memOk (tested : List (Nat × Word)) (pools : Pools) (s : State) (hs : MemOk s) : OutOk (execBringUp tested pools s) := by
  unfold execBringUp
  repeat' first
    | with_reducible assumption
    | with_reducible apply outOk.runEvent
    | with_reducible apply State.bringUp_memOk

theorem execSpdmRequest_memOk (index : Nat) (s : State) (hs : MemOk s) : OutOk (execSpdmRequest index s) := by
  unfold execSpdmRequest
  repeat' first
    | with_reducible assumption
    | with_reducible apply outOk.runEvent
    | with_reducible apply State.spdm_memOk

theorem execSnapTrig_memOk (s : State) (hs : MemOk s) : OutOk (execSnapTrig s) := by
  unfold execSnapTrig
  repeat' first
    | with_reducible assumption
    | with_reducible apply outOk.runEvent
    | with_reducible apply State.snapTrigger_memOk

theorem execSnapshotComplete_memOk (s : State) (hs : MemOk s) : OutOk (execSnapshotComplete s) := by
  unfold execSnapshotComplete
  repeat' first
    | with_reducible assumption
    | with_reducible apply outOk.runEvent
    | with_reducible apply State.snapDone_memOk

theorem execControlRegisterWrite_memOk (offset n : Nat) (v : Word) (s : State) (hs : MemOk s) : OutOk (execControlRegisterWrite offset n v s) := by
  unfold execControlRegisterWrite
  repeat' first
    | with_reducible assumption
    | with_reducible apply outOk.runWrite
    | with_reducible apply State.ctlStore1_memOk
    | with_reducible apply memOk_ite

end Sys2Proof.Machine
end

