-- ==== Sys2Proof/Laws/MemOkDispatch.lean ====
section
/-! SUPPORT. Whatever instruction runs, memory keeps its canonical form. -/
namespace Sys2Proof.Machine

theorem exec_memOk (i : Instr) (s : State) (hs : MemOk s) : OutOk (exec i s) := by
  cases i with
  | ill head tail => exact execIll_memOk _ _ _ hs
  | add w d a b => exact execAdd_memOk _ _ _ _ _ hs
  | sub w d a b => exact execSub_memOk _ _ _ _ _ hs
  | and w d a b => exact execAnd_memOk _ _ _ _ _ hs
  | or w d a b => exact execOr_memOk _ _ _ _ _ hs
  | xor w d a b => exact execXor_memOk _ _ _ _ _ hs
  | andn w d a b => exact execAndn_memOk _ _ _ _ _ hs
  | shl w d a b => exact execShl_memOk _ _ _ _ _ hs
  | shr w d a b => exact execShr_memOk _ _ _ _ _ hs
  | sha w d a b => exact execSha_memOk _ _ _ _ _ hs
  | rot w d a b => exact execRot_memOk _ _ _ _ _ hs
  | mul w d a b => exact execMul_memOk _ _ _ _ _ hs
  | mulh m d a b => exact execMulh_memOk _ _ _ _ _ hs
  | div w u rem d a b => exact execDiv_memOk _ _ _ _ _ _ _ hs
  | minmax w u max d a b => exact execMinmax_memOk _ _ _ _ _ _ _ hs
  | cmp c d a b => exact execCmp_memOk _ _ _ _ _ hs
  | sel d a b c => exact execSel_memOk _ _ _ _ _ hs
  | addi w d a k => exact execAddi_memOk _ _ _ _ _ hs
  | li f d k => exact execLi_memOk _ _ _ _ hs
  | logi op d a k => exact execLogi_memOk _ _ _ _ _ hs
  | shi op w d a cnt => exact execShi_memOk _ _ _ _ _ _ hs
  | bext sx d a lo len => exact execBext_memOk _ _ _ _ _ _ hs
  | bins d a lo len => exact execBins_memOk _ _ _ _ _ hs
  | bitc op d a => exact execBitc_memOk _ _ _ _ hs
  | hdrx d a layout field => exact execHdrx_memOk _ _ _ _ _ hs
  | hdrp d a layout field => exact execHdrp_memOk _ _ _ _ _ hs
  | addpc d k => exact execAddpc_memOk _ _ _ hs
  | br c a b delta slot => exact execBr_memOk _ _ _ _ _ _ hs
  | brz nz a delta slot => exact execBrz_memOk _ _ _ _ _ hs
  | jmp delta slot => exact execJmp_memOk _ _ _ hs
  | jal d delta slot => exact execJal_memOk _ _ _ _ hs
  | jr d a => exact execJr_memOk _ _ _ hs
  | lineFetch ag => exact execLineFetch_memOk _ _ hs
  | ld w sx p d a k => exact execLd_memOk _ _ _ _ _ _ _ hs
  | st w p d a k => exact execSt_memOk _ _ _ _ _ _ hs
  | lda w sx p sc d a k => exact execLda_memOk _ _ _ _ _ _ _ _ hs
  | stl w p sc d a k => exact execStl_memOk _ _ _ _ _ _ _ hs
  | ldx w sx p d a b k => exact execLdx_memOk _ _ _ _ _ _ _ _ hs
  | stx w p d a b k => exact execStx_memOk _ _ _ _ _ _ _ hs
  | amo op dbl p sc ord d a b => exact execAmo_memOk _ _ _ _ _ _ _ _ _ hs
  | cas dbl p sc ord d a b k => exact execCas_memOk _ _ _ _ _ _ _ _ _ hs
  | amof op p sc ord d a b => exact execAmof_memOk _ _ _ _ _ _ _ _ hs
  | fence sc => exact execFence_memOk _ _ hs
  | waitm w p d a b c k => exact execWaitm_memOk _ _ _ _ _ _ _ _ hs
  | waitmWake ag => exact execWaitmWake_memOk _ _ hs
  | waitmLimitExpire ag => exact execWaitmLimitExpire_memOk _ _ hs
  | waitc ch sc a b => exact execWaitc_memOk _ _ _ _ _ hs
  | cmaint op reach ext a k => exact execCmaint_memOk _ _ _ _ _ _ hs
  | get w ord d a k => exact execGet_memOk _ _ _ _ _ _ hs
  | put w ord d a k => exact execPut_memOk _ _ _ _ _ _ hs
  | ramo op dbl ord d a b => exact execRamo_memOk _ _ _ _ _ _ _ hs
  | remoteOpPerform k => exact execRemoteOpPerform_memOk _ _ hs
  | remoteReply k => exact execRemoteReply_memOk _ _ hs
  | csrr d csr => exact execCsrr_memOk _ _ _ hs
  | csrw csr a => exact execCsrw_memOk _ _ _ hs
  | csrx op d csr a => exact execCsrx_memOk _ _ _ _ _ hs
  | trap k => exact execTrap_memOk _ _ hs
  | sysc k => exact execSysc_memOk _ _ hs
  | eret => exact execEret_memOk _ hs
  | idle a => exact execIdle_memOk _ _ hs
  | ckpt k => exact execCkpt_memOk _ _ hs
  | rmread d a => exact execRmread_memOk _ _ _ hs
  | rmack d => exact execRmack_memOk _ _ hs
  | time d => exact execTime_memOk _ _ hs
  | snap => exact execSnap_memOk _ hs
  | tlbi op => exact execTlbi_memOk _ _ hs
  | tlbiComplete ag => exact execTlbiComplete_memOk _ _ hs
  | ien en d => exact execIen_memOk _ _ _ hs
  | nrowOpen a k => exact execNrowOpen_memOk _ _ _ hs
  | nrowClose => exact execNrowClose_memOk _ hs
  | nlut acc d a b => exact execNlut_memOk _ _ _ _ _ hs
  | pcmp d rows comb spec => exact execPcmp_memOk _ _ _ _ _ hs
  | pset rows spec => exact execPset_memOk _ _ _ hs
  | pcs d rows comb cmp wr => exact execPcs_memOk _ _ _ _ _ _ hs
  | top op => exact execTop_memOk _ _ hs
  | tshf op d a => exact execTshf_memOk _ _ _ _ hs
  | tcnt d t span lane => exact execTcnt_memOk _ _ _ _ _ hs
  | tany d t span lane => exact execTany_memOk _ _ _ _ _ hs
  | tfirst clr d t span lane => exact execTfirst_memOk _ _ _ _ _ _ hs
  | span ls a b => exact execSpan_memOk _ _ _ _ hs
  | spanRd d ls => exact execSpanRd_memOk _ _ _ hs
  | seg m => exact execSeg_memOk _ _ hs
  | segRd d => exact execSegRd_memOk _ _ hs
  | key q a => exact execKey_memOk _ _ _ hs
  | cfill rows c n1 src => exact execCfill_memOk _ _ _ _ _ hs
  | cread sx d a c n1 lane => exact execCread_memOk _ _ _ _ _ _ _ hs
  | cwrite a b c n1 lane => exact execCwrite_memOk _ _ _ _ _ _ hs
  | tload t span c => exact execTload_memOk _ _ _ _ hs
  | tstore t span c => exact execTstore_memOk _ _ _ _ hs
  | fmov rows cd cs n1 => exact execFmov_memOk _ _ _ _ _ hs
  | frot rows k cd cs n1 => exact execFrot_memOk _ _ _ _ _ _ hs
  | xrow prev rows cd cs n1 => exact execXrow_memOk _ _ _ _ _ _ hs
  | ttld e regs => exact execTtld_memOk _ _ _ hs
  | ttrun desc rows e m1 n1 x0 x1 x2 x3 => exact execTtrun_memOk _ _ _ _ _ _ _ _ _ _ hs
  | arrayInstructionStart core => exact execArrayInstructionStart_memOk _ _ hs
  | arrayInstructionRetire core => exact execArrayInstructionRetire_memOk _ _ hs
  | aadd rows dc ac xc f rnd sat => exact execAadd_memOk _ _ _ _ _ _ _ _ hs
  | asub rows dc ac xc f rnd sat => exact execAsub_memOk _ _ _ _ _ _ _ _ hs
  | aaddk rows dc kc xc f => exact execAaddk_memOk _ _ _ _ _ _ hs
  | amul rows dc ac bc xc f rnd sat => exact execAmul_memOk _ _ _ _ _ _ _ _ _ hs
  | amulk rows dc ac kc xc f rnd sat => exact execAmulk_memOk _ _ _ _ _ _ _ _ _ hs
  | amac rows dc ac bc xc f1 f2 rnd sat => exact execAmac_memOk _ _ _ _ _ _ _ _ _ _ hs
  | amack rows dc ac kc xc f1 f2 rnd sat wa => exact execAmack_memOk _ _ _ _ _ _ _ _ _ _ _ hs
  | afma rows dc ac bc xc f rnd sat => exact execAfma_memOk _ _ _ _ _ _ _ _ _ hs
  | acvt rows dc ac rc xc fs fd rnd sat => exact execAcvt_memOk _ _ _ _ _ _ _ _ _ _ hs
  | acmp cond d rows ac bc xc f comb => exact execAcmp_memOk _ _ _ _ _ _ _ _ _ hs
  | aminmax max rows dc ac xc f => exact execAminmax_memOk _ _ _ _ _ _ _ hs
  | ared rows dc xc f rnd sat => exact execAred_memOk _ _ _ _ _ _ _ hs
  | alut rows dc ac f n1 => exact execAlut_memOk _ _ _ _ _ _ hs
  | aresolve rows dc xc wa => exact execAresolve_memOk _ _ _ _ _ hs
  | aqdec rows dc ac bc xc f1 f2 rnd => exact execAqdec_memOk _ _ _ _ _ _ _ _ _ hs
  | aspmac rows dc ac s0 wa m1 xc f1 f2 rnd => exact execAspmac_memOk _ _ _ _ _ _ _ _ _ _ _ hs
  | aspmacLdx q => exact execAspmacLdx_memOk _ _ hs
  | aspmacLdm => exact execAspmacLdm_memOk _ hs
  | reservationGrant cluster => exact execReservationGrant_memOk _ _ hs
  | stackReservationGrant stack => exact execStackReservationGrant_memOk _ _ hs
  | permitRefill ag => exact execPermitRefill_memOk _ _ hs
  | cpy sc a => exact execCpy_memOk _ _ _ hs
  | afill win p sc a b c => exact execAfill_memOk _ _ _ _ _ _ _ hs
  | aspill win p sc a b c => exact execAspill_memOk _ _ _ _ _ _ _ hs
  | engineCommandStart core k => exact execEngineCommandStart_memOk _ _ _ hs
  | engineCompletion core k => exact execEngineCompletion_memOk _ _ _ hs
  | mbwait d a => exact execMbwait_memOk _ _ _ hs
  | mbpop d a => exact execMbpop_memOk _ _ _ hs
  | msend ch len a b c => exact execMsend_memOk _ _ _ _ _ _ hs
  | mailboxDelivery k => exact execMailboxDelivery_memOk _ _ hs
  | bar lvl c a => exact execBar_memOk _ _ _ _ hs
  | barrierArrival k => exact execBarrierArrival_memOk _ _ hs
  | larm a => exact execLarm_memOk _ _ hs
  | launchTake part index assigned => exact execLaunchTake_memOk _ _ _ _ hs
  | launchResume part => exact execLaunchResume_memOk _ _ hs
  | qbind a q home => exact execQbind_memOk _ _ _ _ hs
  | qstat d a q => exact execQstat_memOk _ _ _ _ hs
  | tenq a b c => exact execTenq_memOk _ _ _ _ hs
  | tsteal a b => exact execTsteal_memOk _ _ _ hs
  | tnext a => exact execTnext_memOk _ _ hs
  | tend => exact execTend_memOk _ hs
  | homeCycle home => exact execHomeCycle_memOk _ _ hs
  | stealGrantDelivery k => exact execStealGrantDelivery_memOk _ _ hs
  | stealRequestArrival k => exact execStealRequestArrival_memOk _ _ hs
  | farTaskTake core => exact execFarTaskTake_memOk _ _ hs
  | autoStealWithdraw core => exact execAutoStealWithdraw_memOk _ _ hs
  | waitLimitExpire ag => exact execWaitLimitExpire_memOk _ _ hs
  | storeBufferDrain core k => exact execStoreBufferDrain_memOk _ _ _ hs
  | walkStart unit => exact execWalkStart_memOk _ _ hs
  | walkComplete unit k => exact execWalkComplete_memOk _ _ _ hs
  | cacheEviction cache line => exact execCacheEviction_memOk _ _ _ hs
  | writtenLineInvalidate home line => exact execWrittenLineInvalidate_memOk _ _ _ hs
  | bankAddI32 k => exact execBankAddI32_memOk _ _ hs
  | bankAddI64 k => exact execBankAddI64_memOk _ _ hs
  | bankAddF32 k => exact execBankAddF32_memOk _ _ hs
  | bankAddBf16x2 k => exact execBankAddBf16x2_memOk _ _ hs
  | bankMaxF32 k => exact execBankMaxF32_memOk _ _ hs
  | bankMinF32 k => exact execBankMinF32_memOk _ _ hs
  | bankOr64 k => exact execBankOr64_memOk _ _ hs
  | allbankFill k => exact execAllbankFill_memOk _ _ hs
  | fillWave stack => exact execFillWave_memOk _ _ hs
  | idxsum k => exact execIdxsum_memOk _ _ hs
  | idxsumExecute home => exact execIdxsumExecute_memOk _ _ hs
  | idxsumComplete home => exact execIdxsumComplete_memOk _ _ hs
  | counterWrite k => exact execCounterWrite_memOk _ _ hs
  | counterPacket k => exact execCounterPacket_memOk _ _ hs
  | stackDetredWrite stack en => exact execStackDetredWrite_memOk _ _ _ hs
  | detredChangeComplete stack => exact execDetredChangeComplete_memOk _ _ hs
  | hostMemRead pa n => exact execHostMemRead_memOk _ _ _ hs
  | hostMemWrite pa data => exact execHostMemWrite_memOk _ _ _ hs
  | hostSnoop line kind => exact execHostSnoop_memOk _ _ _ hs
  | linkWake die => exact execLinkWake_memOk _ _ hs
  | linkRetrain die ok => exact execLinkRetrain_memOk _ _ _ hs
  | heartbeatMissing die => exact execHeartbeatMissing_memOk _ _ hs
  | dieRejoin die l2ways livecl livecore => exact execDieRejoin_memOk _ _ _ _ _ hs
  | mapCommit changes => exact execMapCommit_memOk _ _ hs
  | mapGraceExpire ctx => exact execMapGraceExpire_memOk _ _ hs
  | ctxMapackWrite ctx v => exact execCtxMapackWrite_memOk _ _ _ hs
  | takeEvent ag => exact execTakeEvent_memOk _ _ hs
  | coreStop core order sbLost => exact execCoreStop_memOk _ _ _ _ hs
  | supervisorRepair core readable => exact execSupervisorRepair_memOk _ _ _ hs
  | supervisorReplace core target readable => exact execSupervisorReplace_memOk _ _ _ _ hs
  | suspendDeadline ctx => exact execSuspendDeadline_memOk _ _ hs
  | suspensionComplete ctx => exact execSuspensionComplete_memOk _ _ hs
  | contextResume ctx cores => exact execContextResume_memOk _ _ _ hs
  | serviceRecordTake part => exact execServiceRecordTake_memOk _ _ hs
  | partModeWrite v => exact execPartModeWrite_memOk _ _ hs
  | partModeApply => exact execPartModeApply_memOk _ hs
  | clClockWrite cluster v => exact execClClockWrite_memOk _ _ _ hs
  | dieVddWrite die v => exact execDieVddWrite_memOk _ _ _ hs
  | clockChangeComplete cluster => exact execClockChangeComplete_memOk _ _ hs
  | vddRampComplete die => exact execVddRampComplete_memOk _ _ hs
  | clCurrentWrite cluster v => exact execClCurrentWrite_memOk _ _ _ hs
  | clPermitWrite cluster v => exact execClPermitWrite_memOk _ _ _ hs
  | permitBcastWrite v => exact execPermitBcastWrite_memOk _ _ hs
  | stallSample cluster cyc pstall rstall => exact execStallSample_memOk _ _ _ _ _ hs
  | forecastUpdate => exact execForecastUpdate_memOk _ hs
  | thermalSample temps => exact execThermalSample_memOk _ _ hs
  | thermStatWrite v => exact execThermStatWrite_memOk _ _ hs
  | snapTrig => exact execSnapTrig_memOk _ hs
  | snapshotComplete => exact execSnapshotComplete_memOk _ hs
  | hostNoticeWrite fn v => exact execHostNoticeWrite_memOk _ _ _ hs
  | spdmRequest index => exact execSpdmRequest_memOk _ _ hs
  | bootRom readOk image => exact execBootRom_memOk _ _ _ hs
  | bringUp tested pools => exact execBringUp_memOk _ _ _ hs
  | controlRegisterWrite offset n v => exact execControlRegisterWrite_memOk _ _ _ _ hs
  | hostBiResponse line data => exact execHostBiResponse_memOk _ _ _ hs
  | hostCacheResponse k data => exact execHostCacheResponse_memOk _ _ _ hs
  | linkLowPowerEntry die => exact execLinkLowPowerEntry_memOk _ _ hs
  | corePowerGate core => exact execCorePowerGate_memOk _ _ hs

end Sys2Proof.Machine
end

