-- ==== Sys2Proof/Laws/State.lean ====
section
/-! SUPPORT. What every update of a part of the state leaves: one law for each field and each accessor, and reads after writes. -/
namespace Sys2Proof.Machine
variable (s : State)

/-! ### Fields after updates -/

@[simp] theorem State.setHart_turns (a : Agent) (v : Hart) : (s.setHart a v).turns = s.turns := rfl
@[simp] theorem State.setHart_focus (a : Agent) (v : Hart) : (s.setHart a v).focus = s.focus := rfl
@[simp] theorem State.setHart_overlap (a : Agent) (v : Hart) : (s.setHart a v).overlap = s.overlap := rfl
@[simp] theorem State.setHart_ticks (a : Agent) (v : Hart) : (s.setHart a v).ticks = s.ticks := rfl
@[simp] theorem State.setHart_nextId (a : Agent) (v : Hart) : (s.setHart a v).nextId = s.nextId := rfl
@[simp] theorem State.setHart_time (a : Agent) (v : Hart) : (s.setHart a v).time = s.time := rfl
@[simp] theorem State.setHart_mem (a : Agent) (v : Hart) : (s.setHart a v).mem = s.mem := rfl
@[simp] theorem State.setHart_fars (a : Agent) (v : Hart) : (s.setHart a v).fars = s.fars := rfl
@[simp] theorem State.setHart_nears (a : Agent) (v : Hart) : (s.setHart a v).nears = s.nears := rfl
@[simp] theorem State.setHart_units (a : Agent) (v : Hart) : (s.setHart a v).units = s.units := rfl
@[simp] theorem State.setHart_homes (a : Agent) (v : Hart) : (s.setHart a v).homes = s.homes := rfl
@[simp] theorem State.setHart_clusters (a : Agent) (v : Hart) : (s.setHart a v).clusters = s.clusters := rfl
@[simp] theorem State.setHart_islands (a : Agent) (v : Hart) : (s.setHart a v).islands = s.islands := rfl
@[simp] theorem State.setHart_baseDies (a : Agent) (v : Hart) : (s.setHart a v).baseDies = s.baseDies := rfl
@[simp] theorem State.setHart_hub (a : Agent) (v : Hart) : (s.setHart a v).hub = s.hub := rfl
@[simp] theorem State.setHart_ctxs (a : Agent) (v : Hart) : (s.setHart a v).ctxs = s.ctxs := rfl
@[simp] theorem State.setHart_fabric (a : Agent) (v : Hart) : (s.setHart a v).fabric = s.fabric := rfl
@[simp] theorem State.setHart_cmds (a : Agent) (v : Hart) : (s.setHart a v).cmds = s.cmds := rfl
@[simp] theorem State.setHart_remotes (a : Agent) (v : Hart) : (s.setHart a v).remotes = s.remotes := rfl
@[simp] theorem State.setHart_deliveries (a : Agent) (v : Hart) : (s.setHart a v).deliveries = s.deliveries := rfl
@[simp] theorem State.setHart_barMsgs (a : Agent) (v : Hart) : (s.setHart a v).barMsgs = s.barMsgs := rfl
@[simp] theorem State.setHart_stealMsgs (a : Agent) (v : Hart) : (s.setHart a v).stealMsgs = s.stealMsgs := rfl
@[simp] theorem State.setHart_grants (a : Agent) (v : Hart) : (s.setHart a v).grants = s.grants := rfl
@[simp] theorem State.setHart_hostReqs (a : Agent) (v : Hart) : (s.setHart a v).hostReqs = s.hostReqs := rfl
@[simp] theorem State.setHart_toHost (a : Agent) (v : Hart) : (s.setHart a v).toHost = s.toHost := rfl
@[simp] theorem State.setHart_bad (a : Agent) (v : Hart) : (s.setHart a v).bad = s.bad := rfl

@[simp] theorem State.setFar_turns (c : Nat) (v : Far) : (s.setFar c v).turns = s.turns := rfl
@[simp] theorem State.setFar_focus (c : Nat) (v : Far) : (s.setFar c v).focus = s.focus := rfl
@[simp] theorem State.setFar_overlap (c : Nat) (v : Far) : (s.setFar c v).overlap = s.overlap := rfl
@[simp] theorem State.setFar_ticks (c : Nat) (v : Far) : (s.setFar c v).ticks = s.ticks := rfl
@[simp] theorem State.setFar_nextId (c : Nat) (v : Far) : (s.setFar c v).nextId = s.nextId := rfl
@[simp] theorem State.setFar_time (c : Nat) (v : Far) : (s.setFar c v).time = s.time := rfl
@[simp] theorem State.setFar_mem (c : Nat) (v : Far) : (s.setFar c v).mem = s.mem := rfl
@[simp] theorem State.setFar_harts (c : Nat) (v : Far) : (s.setFar c v).harts = s.harts := rfl
@[simp] theorem State.setFar_nears (c : Nat) (v : Far) : (s.setFar c v).nears = s.nears := rfl
@[simp] theorem State.setFar_units (c : Nat) (v : Far) : (s.setFar c v).units = s.units := rfl
@[simp] theorem State.setFar_homes (c : Nat) (v : Far) : (s.setFar c v).homes = s.homes := rfl
@[simp] theorem State.setFar_clusters (c : Nat) (v : Far) : (s.setFar c v).clusters = s.clusters := rfl
@[simp] theorem State.setFar_islands (c : Nat) (v : Far) : (s.setFar c v).islands = s.islands := rfl
@[simp] theorem State.setFar_baseDies (c : Nat) (v : Far) : (s.setFar c v).baseDies = s.baseDies := rfl
@[simp] theorem State.setFar_hub (c : Nat) (v : Far) : (s.setFar c v).hub = s.hub := rfl
@[simp] theorem State.setFar_ctxs (c : Nat) (v : Far) : (s.setFar c v).ctxs = s.ctxs := rfl
@[simp] theorem State.setFar_fabric (c : Nat) (v : Far) : (s.setFar c v).fabric = s.fabric := rfl
@[simp] theorem State.setFar_cmds (c : Nat) (v : Far) : (s.setFar c v).cmds = s.cmds := rfl
@[simp] theorem State.setFar_remotes (c : Nat) (v : Far) : (s.setFar c v).remotes = s.remotes := rfl
@[simp] theorem State.setFar_deliveries (c : Nat) (v : Far) : (s.setFar c v).deliveries = s.deliveries := rfl
@[simp] theorem State.setFar_barMsgs (c : Nat) (v : Far) : (s.setFar c v).barMsgs = s.barMsgs := rfl
@[simp] theorem State.setFar_stealMsgs (c : Nat) (v : Far) : (s.setFar c v).stealMsgs = s.stealMsgs := rfl
@[simp] theorem State.setFar_grants (c : Nat) (v : Far) : (s.setFar c v).grants = s.grants := rfl
@[simp] theorem State.setFar_hostReqs (c : Nat) (v : Far) : (s.setFar c v).hostReqs = s.hostReqs := rfl
@[simp] theorem State.setFar_toHost (c : Nat) (v : Far) : (s.setFar c v).toHost = s.toHost := rfl
@[simp] theorem State.setFar_bad (c : Nat) (v : Far) : (s.setFar c v).bad = s.bad := rfl

@[simp] theorem State.setNear_turns (h c : Nat) (v : NearCtx) : (s.setNear h c v).turns = s.turns := rfl
@[simp] theorem State.setNear_focus (h c : Nat) (v : NearCtx) : (s.setNear h c v).focus = s.focus := rfl
@[simp] theorem State.setNear_overlap (h c : Nat) (v : NearCtx) : (s.setNear h c v).overlap = s.overlap := rfl
@[simp] theorem State.setNear_ticks (h c : Nat) (v : NearCtx) : (s.setNear h c v).ticks = s.ticks := rfl
@[simp] theorem State.setNear_nextId (h c : Nat) (v : NearCtx) : (s.setNear h c v).nextId = s.nextId := rfl
@[simp] theorem State.setNear_time (h c : Nat) (v : NearCtx) : (s.setNear h c v).time = s.time := rfl
@[simp] theorem State.setNear_mem (h c : Nat) (v : NearCtx) : (s.setNear h c v).mem = s.mem := rfl
@[simp] theorem State.setNear_harts (h c : Nat) (v : NearCtx) : (s.setNear h c v).harts = s.harts := rfl
@[simp] theorem State.setNear_fars (h c : Nat) (v : NearCtx) : (s.setNear h c v).fars = s.fars := rfl
@[simp] theorem State.setNear_units (h c : Nat) (v : NearCtx) : (s.setNear h c v).units = s.units := rfl
@[simp] theorem State.setNear_homes (h c : Nat) (v : NearCtx) : (s.setNear h c v).homes = s.homes := rfl
@[simp] theorem State.setNear_clusters (h c : Nat) (v : NearCtx) : (s.setNear h c v).clusters = s.clusters := rfl
@[simp] theorem State.setNear_islands (h c : Nat) (v : NearCtx) : (s.setNear h c v).islands = s.islands := rfl
@[simp] theorem State.setNear_baseDies (h c : Nat) (v : NearCtx) : (s.setNear h c v).baseDies = s.baseDies := rfl
@[simp] theorem State.setNear_hub (h c : Nat) (v : NearCtx) : (s.setNear h c v).hub = s.hub := rfl
@[simp] theorem State.setNear_ctxs (h c : Nat) (v : NearCtx) : (s.setNear h c v).ctxs = s.ctxs := rfl
@[simp] theorem State.setNear_fabric (h c : Nat) (v : NearCtx) : (s.setNear h c v).fabric = s.fabric := rfl
@[simp] theorem State.setNear_cmds (h c : Nat) (v : NearCtx) : (s.setNear h c v).cmds = s.cmds := rfl
@[simp] theorem State.setNear_remotes (h c : Nat) (v : NearCtx) : (s.setNear h c v).remotes = s.remotes := rfl
@[simp] theorem State.setNear_deliveries (h c : Nat) (v : NearCtx) : (s.setNear h c v).deliveries = s.deliveries := rfl
@[simp] theorem State.setNear_barMsgs (h c : Nat) (v : NearCtx) : (s.setNear h c v).barMsgs = s.barMsgs := rfl
@[simp] theorem State.setNear_stealMsgs (h c : Nat) (v : NearCtx) : (s.setNear h c v).stealMsgs = s.stealMsgs := rfl
@[simp] theorem State.setNear_grants (h c : Nat) (v : NearCtx) : (s.setNear h c v).grants = s.grants := rfl
@[simp] theorem State.setNear_hostReqs (h c : Nat) (v : NearCtx) : (s.setNear h c v).hostReqs = s.hostReqs := rfl
@[simp] theorem State.setNear_toHost (h c : Nat) (v : NearCtx) : (s.setNear h c v).toHost = s.toHost := rfl
@[simp] theorem State.setNear_bad (h c : Nat) (v : NearCtx) : (s.setNear h c v).bad = s.bad := rfl

@[simp] theorem State.setUnit_turns (h : Nat) (v : NearUnit) : (s.setUnit h v).turns = s.turns := rfl
@[simp] theorem State.setUnit_focus (h : Nat) (v : NearUnit) : (s.setUnit h v).focus = s.focus := rfl
@[simp] theorem State.setUnit_overlap (h : Nat) (v : NearUnit) : (s.setUnit h v).overlap = s.overlap := rfl
@[simp] theorem State.setUnit_ticks (h : Nat) (v : NearUnit) : (s.setUnit h v).ticks = s.ticks := rfl
@[simp] theorem State.setUnit_nextId (h : Nat) (v : NearUnit) : (s.setUnit h v).nextId = s.nextId := rfl
@[simp] theorem State.setUnit_time (h : Nat) (v : NearUnit) : (s.setUnit h v).time = s.time := rfl
@[simp] theorem State.setUnit_mem (h : Nat) (v : NearUnit) : (s.setUnit h v).mem = s.mem := rfl
@[simp] theorem State.setUnit_harts (h : Nat) (v : NearUnit) : (s.setUnit h v).harts = s.harts := rfl
@[simp] theorem State.setUnit_fars (h : Nat) (v : NearUnit) : (s.setUnit h v).fars = s.fars := rfl
@[simp] theorem State.setUnit_nears (h : Nat) (v : NearUnit) : (s.setUnit h v).nears = s.nears := rfl
@[simp] theorem State.setUnit_homes (h : Nat) (v : NearUnit) : (s.setUnit h v).homes = s.homes := rfl
@[simp] theorem State.setUnit_clusters (h : Nat) (v : NearUnit) : (s.setUnit h v).clusters = s.clusters := rfl
@[simp] theorem State.setUnit_islands (h : Nat) (v : NearUnit) : (s.setUnit h v).islands = s.islands := rfl
@[simp] theorem State.setUnit_baseDies (h : Nat) (v : NearUnit) : (s.setUnit h v).baseDies = s.baseDies := rfl
@[simp] theorem State.setUnit_hub (h : Nat) (v : NearUnit) : (s.setUnit h v).hub = s.hub := rfl
@[simp] theorem State.setUnit_ctxs (h : Nat) (v : NearUnit) : (s.setUnit h v).ctxs = s.ctxs := rfl
@[simp] theorem State.setUnit_fabric (h : Nat) (v : NearUnit) : (s.setUnit h v).fabric = s.fabric := rfl
@[simp] theorem State.setUnit_cmds (h : Nat) (v : NearUnit) : (s.setUnit h v).cmds = s.cmds := rfl
@[simp] theorem State.setUnit_remotes (h : Nat) (v : NearUnit) : (s.setUnit h v).remotes = s.remotes := rfl
@[simp] theorem State.setUnit_deliveries (h : Nat) (v : NearUnit) : (s.setUnit h v).deliveries = s.deliveries := rfl
@[simp] theorem State.setUnit_barMsgs (h : Nat) (v : NearUnit) : (s.setUnit h v).barMsgs = s.barMsgs := rfl
@[simp] theorem State.setUnit_stealMsgs (h : Nat) (v : NearUnit) : (s.setUnit h v).stealMsgs = s.stealMsgs := rfl
@[simp] theorem State.setUnit_grants (h : Nat) (v : NearUnit) : (s.setUnit h v).grants = s.grants := rfl
@[simp] theorem State.setUnit_hostReqs (h : Nat) (v : NearUnit) : (s.setUnit h v).hostReqs = s.hostReqs := rfl
@[simp] theorem State.setUnit_toHost (h : Nat) (v : NearUnit) : (s.setUnit h v).toHost = s.toHost := rfl
@[simp] theorem State.setUnit_bad (h : Nat) (v : NearUnit) : (s.setUnit h v).bad = s.bad := rfl

@[simp] theorem State.setHome_turns (h : Nat) (v : Home) : (s.setHome h v).turns = s.turns := rfl
@[simp] theorem State.setHome_focus (h : Nat) (v : Home) : (s.setHome h v).focus = s.focus := rfl
@[simp] theorem State.setHome_overlap (h : Nat) (v : Home) : (s.setHome h v).overlap = s.overlap := rfl
@[simp] theorem State.setHome_ticks (h : Nat) (v : Home) : (s.setHome h v).ticks = s.ticks := rfl
@[simp] theorem State.setHome_nextId (h : Nat) (v : Home) : (s.setHome h v).nextId = s.nextId := rfl
@[simp] theorem State.setHome_time (h : Nat) (v : Home) : (s.setHome h v).time = s.time := rfl
@[simp] theorem State.setHome_mem (h : Nat) (v : Home) : (s.setHome h v).mem = s.mem := rfl
@[simp] theorem State.setHome_harts (h : Nat) (v : Home) : (s.setHome h v).harts = s.harts := rfl
@[simp] theorem State.setHome_fars (h : Nat) (v : Home) : (s.setHome h v).fars = s.fars := rfl
@[simp] theorem State.setHome_nears (h : Nat) (v : Home) : (s.setHome h v).nears = s.nears := rfl
@[simp] theorem State.setHome_units (h : Nat) (v : Home) : (s.setHome h v).units = s.units := rfl
@[simp] theorem State.setHome_clusters (h : Nat) (v : Home) : (s.setHome h v).clusters = s.clusters := rfl
@[simp] theorem State.setHome_islands (h : Nat) (v : Home) : (s.setHome h v).islands = s.islands := rfl
@[simp] theorem State.setHome_baseDies (h : Nat) (v : Home) : (s.setHome h v).baseDies = s.baseDies := rfl
@[simp] theorem State.setHome_hub (h : Nat) (v : Home) : (s.setHome h v).hub = s.hub := rfl
@[simp] theorem State.setHome_ctxs (h : Nat) (v : Home) : (s.setHome h v).ctxs = s.ctxs := rfl
@[simp] theorem State.setHome_fabric (h : Nat) (v : Home) : (s.setHome h v).fabric = s.fabric := rfl
@[simp] theorem State.setHome_cmds (h : Nat) (v : Home) : (s.setHome h v).cmds = s.cmds := rfl
@[simp] theorem State.setHome_remotes (h : Nat) (v : Home) : (s.setHome h v).remotes = s.remotes := rfl
@[simp] theorem State.setHome_deliveries (h : Nat) (v : Home) : (s.setHome h v).deliveries = s.deliveries := rfl
@[simp] theorem State.setHome_barMsgs (h : Nat) (v : Home) : (s.setHome h v).barMsgs = s.barMsgs := rfl
@[simp] theorem State.setHome_stealMsgs (h : Nat) (v : Home) : (s.setHome h v).stealMsgs = s.stealMsgs := rfl
@[simp] theorem State.setHome_grants (h : Nat) (v : Home) : (s.setHome h v).grants = s.grants := rfl
@[simp] theorem State.setHome_hostReqs (h : Nat) (v : Home) : (s.setHome h v).hostReqs = s.hostReqs := rfl
@[simp] theorem State.setHome_toHost (h : Nat) (v : Home) : (s.setHome h v).toHost = s.toHost := rfl
@[simp] theorem State.setHome_bad (h : Nat) (v : Home) : (s.setHome h v).bad = s.bad := rfl

@[simp] theorem State.setCluster_turns (c : Nat) (v : Cluster) : (s.setCluster c v).turns = s.turns := rfl
@[simp] theorem State.setCluster_focus (c : Nat) (v : Cluster) : (s.setCluster c v).focus = s.focus := rfl
@[simp] theorem State.setCluster_overlap (c : Nat) (v : Cluster) : (s.setCluster c v).overlap = s.overlap := rfl
@[simp] theorem State.setCluster_ticks (c : Nat) (v : Cluster) : (s.setCluster c v).ticks = s.ticks := rfl
@[simp] theorem State.setCluster_nextId (c : Nat) (v : Cluster) : (s.setCluster c v).nextId = s.nextId := rfl
@[simp] theorem State.setCluster_time (c : Nat) (v : Cluster) : (s.setCluster c v).time = s.time := rfl
@[simp] theorem State.setCluster_mem (c : Nat) (v : Cluster) : (s.setCluster c v).mem = s.mem := rfl
@[simp] theorem State.setCluster_harts (c : Nat) (v : Cluster) : (s.setCluster c v).harts = s.harts := rfl
@[simp] theorem State.setCluster_fars (c : Nat) (v : Cluster) : (s.setCluster c v).fars = s.fars := rfl
@[simp] theorem State.setCluster_nears (c : Nat) (v : Cluster) : (s.setCluster c v).nears = s.nears := rfl
@[simp] theorem State.setCluster_units (c : Nat) (v : Cluster) : (s.setCluster c v).units = s.units := rfl
@[simp] theorem State.setCluster_homes (c : Nat) (v : Cluster) : (s.setCluster c v).homes = s.homes := rfl
@[simp] theorem State.setCluster_islands (c : Nat) (v : Cluster) : (s.setCluster c v).islands = s.islands := rfl
@[simp] theorem State.setCluster_baseDies (c : Nat) (v : Cluster) : (s.setCluster c v).baseDies = s.baseDies := rfl
@[simp] theorem State.setCluster_hub (c : Nat) (v : Cluster) : (s.setCluster c v).hub = s.hub := rfl
@[simp] theorem State.setCluster_ctxs (c : Nat) (v : Cluster) : (s.setCluster c v).ctxs = s.ctxs := rfl
@[simp] theorem State.setCluster_fabric (c : Nat) (v : Cluster) : (s.setCluster c v).fabric = s.fabric := rfl
@[simp] theorem State.setCluster_cmds (c : Nat) (v : Cluster) : (s.setCluster c v).cmds = s.cmds := rfl
@[simp] theorem State.setCluster_remotes (c : Nat) (v : Cluster) : (s.setCluster c v).remotes = s.remotes := rfl
@[simp] theorem State.setCluster_deliveries (c : Nat) (v : Cluster) : (s.setCluster c v).deliveries = s.deliveries := rfl
@[simp] theorem State.setCluster_barMsgs (c : Nat) (v : Cluster) : (s.setCluster c v).barMsgs = s.barMsgs := rfl
@[simp] theorem State.setCluster_stealMsgs (c : Nat) (v : Cluster) : (s.setCluster c v).stealMsgs = s.stealMsgs := rfl
@[simp] theorem State.setCluster_grants (c : Nat) (v : Cluster) : (s.setCluster c v).grants = s.grants := rfl
@[simp] theorem State.setCluster_hostReqs (c : Nat) (v : Cluster) : (s.setCluster c v).hostReqs = s.hostReqs := rfl
@[simp] theorem State.setCluster_toHost (c : Nat) (v : Cluster) : (s.setCluster c v).toHost = s.toHost := rfl
@[simp] theorem State.setCluster_bad (c : Nat) (v : Cluster) : (s.setCluster c v).bad = s.bad := rfl

@[simp] theorem State.setIsland_turns (d : Nat) (v : Island) : (s.setIsland d v).turns = s.turns := rfl
@[simp] theorem State.setIsland_focus (d : Nat) (v : Island) : (s.setIsland d v).focus = s.focus := rfl
@[simp] theorem State.setIsland_overlap (d : Nat) (v : Island) : (s.setIsland d v).overlap = s.overlap := rfl
@[simp] theorem State.setIsland_ticks (d : Nat) (v : Island) : (s.setIsland d v).ticks = s.ticks := rfl
@[simp] theorem State.setIsland_nextId (d : Nat) (v : Island) : (s.setIsland d v).nextId = s.nextId := rfl
@[simp] theorem State.setIsland_time (d : Nat) (v : Island) : (s.setIsland d v).time = s.time := rfl
@[simp] theorem State.setIsland_mem (d : Nat) (v : Island) : (s.setIsland d v).mem = s.mem := rfl
@[simp] theorem State.setIsland_harts (d : Nat) (v : Island) : (s.setIsland d v).harts = s.harts := rfl
@[simp] theorem State.setIsland_fars (d : Nat) (v : Island) : (s.setIsland d v).fars = s.fars := rfl
@[simp] theorem State.setIsland_nears (d : Nat) (v : Island) : (s.setIsland d v).nears = s.nears := rfl
@[simp] theorem State.setIsland_units (d : Nat) (v : Island) : (s.setIsland d v).units = s.units := rfl
@[simp] theorem State.setIsland_homes (d : Nat) (v : Island) : (s.setIsland d v).homes = s.homes := rfl
@[simp] theorem State.setIsland_clusters (d : Nat) (v : Island) : (s.setIsland d v).clusters = s.clusters := rfl
@[simp] theorem State.setIsland_baseDies (d : Nat) (v : Island) : (s.setIsland d v).baseDies = s.baseDies := rfl
@[simp] theorem State.setIsland_hub (d : Nat) (v : Island) : (s.setIsland d v).hub = s.hub := rfl
@[simp] theorem State.setIsland_ctxs (d : Nat) (v : Island) : (s.setIsland d v).ctxs = s.ctxs := rfl
@[simp] theorem State.setIsland_fabric (d : Nat) (v : Island) : (s.setIsland d v).fabric = s.fabric := rfl
@[simp] theorem State.setIsland_cmds (d : Nat) (v : Island) : (s.setIsland d v).cmds = s.cmds := rfl
@[simp] theorem State.setIsland_remotes (d : Nat) (v : Island) : (s.setIsland d v).remotes = s.remotes := rfl
@[simp] theorem State.setIsland_deliveries (d : Nat) (v : Island) : (s.setIsland d v).deliveries = s.deliveries := rfl
@[simp] theorem State.setIsland_barMsgs (d : Nat) (v : Island) : (s.setIsland d v).barMsgs = s.barMsgs := rfl
@[simp] theorem State.setIsland_stealMsgs (d : Nat) (v : Island) : (s.setIsland d v).stealMsgs = s.stealMsgs := rfl
@[simp] theorem State.setIsland_grants (d : Nat) (v : Island) : (s.setIsland d v).grants = s.grants := rfl
@[simp] theorem State.setIsland_hostReqs (d : Nat) (v : Island) : (s.setIsland d v).hostReqs = s.hostReqs := rfl
@[simp] theorem State.setIsland_toHost (d : Nat) (v : Island) : (s.setIsland d v).toHost = s.toHost := rfl
@[simp] theorem State.setIsland_bad (d : Nat) (v : Island) : (s.setIsland d v).bad = s.bad := rfl

@[simp] theorem State.setStack_turns (k : Nat) (v : Stack) : (s.setStack k v).turns = s.turns := rfl
@[simp] theorem State.setStack_focus (k : Nat) (v : Stack) : (s.setStack k v).focus = s.focus := rfl
@[simp] theorem State.setStack_overlap (k : Nat) (v : Stack) : (s.setStack k v).overlap = s.overlap := rfl
@[simp] theorem State.setStack_ticks (k : Nat) (v : Stack) : (s.setStack k v).ticks = s.ticks := rfl
@[simp] theorem State.setStack_nextId (k : Nat) (v : Stack) : (s.setStack k v).nextId = s.nextId := rfl
@[simp] theorem State.setStack_time (k : Nat) (v : Stack) : (s.setStack k v).time = s.time := rfl
@[simp] theorem State.setStack_mem (k : Nat) (v : Stack) : (s.setStack k v).mem = s.mem := rfl
@[simp] theorem State.setStack_harts (k : Nat) (v : Stack) : (s.setStack k v).harts = s.harts := rfl
@[simp] theorem State.setStack_fars (k : Nat) (v : Stack) : (s.setStack k v).fars = s.fars := rfl
@[simp] theorem State.setStack_nears (k : Nat) (v : Stack) : (s.setStack k v).nears = s.nears := rfl
@[simp] theorem State.setStack_units (k : Nat) (v : Stack) : (s.setStack k v).units = s.units := rfl
@[simp] theorem State.setStack_homes (k : Nat) (v : Stack) : (s.setStack k v).homes = s.homes := rfl
@[simp] theorem State.setStack_clusters (k : Nat) (v : Stack) : (s.setStack k v).clusters = s.clusters := rfl
@[simp] theorem State.setStack_islands (k : Nat) (v : Stack) : (s.setStack k v).islands = s.islands := rfl
@[simp] theorem State.setStack_hub (k : Nat) (v : Stack) : (s.setStack k v).hub = s.hub := rfl
@[simp] theorem State.setStack_ctxs (k : Nat) (v : Stack) : (s.setStack k v).ctxs = s.ctxs := rfl
@[simp] theorem State.setStack_fabric (k : Nat) (v : Stack) : (s.setStack k v).fabric = s.fabric := rfl
@[simp] theorem State.setStack_cmds (k : Nat) (v : Stack) : (s.setStack k v).cmds = s.cmds := rfl
@[simp] theorem State.setStack_remotes (k : Nat) (v : Stack) : (s.setStack k v).remotes = s.remotes := rfl
@[simp] theorem State.setStack_deliveries (k : Nat) (v : Stack) : (s.setStack k v).deliveries = s.deliveries := rfl
@[simp] theorem State.setStack_barMsgs (k : Nat) (v : Stack) : (s.setStack k v).barMsgs = s.barMsgs := rfl
@[simp] theorem State.setStack_stealMsgs (k : Nat) (v : Stack) : (s.setStack k v).stealMsgs = s.stealMsgs := rfl
@[simp] theorem State.setStack_grants (k : Nat) (v : Stack) : (s.setStack k v).grants = s.grants := rfl
@[simp] theorem State.setStack_hostReqs (k : Nat) (v : Stack) : (s.setStack k v).hostReqs = s.hostReqs := rfl
@[simp] theorem State.setStack_toHost (k : Nat) (v : Stack) : (s.setStack k v).toHost = s.toHost := rfl
@[simp] theorem State.setStack_bad (k : Nat) (v : Stack) : (s.setStack k v).bad = s.bad := rfl

@[simp] theorem State.setCtx_turns (c : Nat) (v : Context) : (s.setCtx c v).turns = s.turns := rfl
@[simp] theorem State.setCtx_focus (c : Nat) (v : Context) : (s.setCtx c v).focus = s.focus := rfl
@[simp] theorem State.setCtx_overlap (c : Nat) (v : Context) : (s.setCtx c v).overlap = s.overlap := rfl
@[simp] theorem State.setCtx_ticks (c : Nat) (v : Context) : (s.setCtx c v).ticks = s.ticks := rfl
@[simp] theorem State.setCtx_nextId (c : Nat) (v : Context) : (s.setCtx c v).nextId = s.nextId := rfl
@[simp] theorem State.setCtx_time (c : Nat) (v : Context) : (s.setCtx c v).time = s.time := rfl
@[simp] theorem State.setCtx_mem (c : Nat) (v : Context) : (s.setCtx c v).mem = s.mem := rfl
@[simp] theorem State.setCtx_harts (c : Nat) (v : Context) : (s.setCtx c v).harts = s.harts := rfl
@[simp] theorem State.setCtx_fars (c : Nat) (v : Context) : (s.setCtx c v).fars = s.fars := rfl
@[simp] theorem State.setCtx_nears (c : Nat) (v : Context) : (s.setCtx c v).nears = s.nears := rfl
@[simp] theorem State.setCtx_units (c : Nat) (v : Context) : (s.setCtx c v).units = s.units := rfl
@[simp] theorem State.setCtx_homes (c : Nat) (v : Context) : (s.setCtx c v).homes = s.homes := rfl
@[simp] theorem State.setCtx_clusters (c : Nat) (v : Context) : (s.setCtx c v).clusters = s.clusters := rfl
@[simp] theorem State.setCtx_islands (c : Nat) (v : Context) : (s.setCtx c v).islands = s.islands := rfl
@[simp] theorem State.setCtx_baseDies (c : Nat) (v : Context) : (s.setCtx c v).baseDies = s.baseDies := rfl
@[simp] theorem State.setCtx_hub (c : Nat) (v : Context) : (s.setCtx c v).hub = s.hub := rfl
@[simp] theorem State.setCtx_fabric (c : Nat) (v : Context) : (s.setCtx c v).fabric = s.fabric := rfl
@[simp] theorem State.setCtx_cmds (c : Nat) (v : Context) : (s.setCtx c v).cmds = s.cmds := rfl
@[simp] theorem State.setCtx_remotes (c : Nat) (v : Context) : (s.setCtx c v).remotes = s.remotes := rfl
@[simp] theorem State.setCtx_deliveries (c : Nat) (v : Context) : (s.setCtx c v).deliveries = s.deliveries := rfl
@[simp] theorem State.setCtx_barMsgs (c : Nat) (v : Context) : (s.setCtx c v).barMsgs = s.barMsgs := rfl
@[simp] theorem State.setCtx_stealMsgs (c : Nat) (v : Context) : (s.setCtx c v).stealMsgs = s.stealMsgs := rfl
@[simp] theorem State.setCtx_grants (c : Nat) (v : Context) : (s.setCtx c v).grants = s.grants := rfl
@[simp] theorem State.setCtx_hostReqs (c : Nat) (v : Context) : (s.setCtx c v).hostReqs = s.hostReqs := rfl
@[simp] theorem State.setCtx_toHost (c : Nat) (v : Context) : (s.setCtx c v).toHost = s.toHost := rfl
@[simp] theorem State.setCtx_bad (c : Nat) (v : Context) : (s.setCtx c v).bad = s.bad := rfl

@[simp] theorem State.updHub_turns (f : Hub → Hub) : (s.updHub f).turns = s.turns := rfl
@[simp] theorem State.updHub_focus (f : Hub → Hub) : (s.updHub f).focus = s.focus := rfl
@[simp] theorem State.updHub_overlap (f : Hub → Hub) : (s.updHub f).overlap = s.overlap := rfl
@[simp] theorem State.updHub_ticks (f : Hub → Hub) : (s.updHub f).ticks = s.ticks := rfl
@[simp] theorem State.updHub_nextId (f : Hub → Hub) : (s.updHub f).nextId = s.nextId := rfl
@[simp] theorem State.updHub_time (f : Hub → Hub) : (s.updHub f).time = s.time := rfl
@[simp] theorem State.updHub_mem (f : Hub → Hub) : (s.updHub f).mem = s.mem := rfl
@[simp] theorem State.updHub_harts (f : Hub → Hub) : (s.updHub f).harts = s.harts := rfl
@[simp] theorem State.updHub_fars (f : Hub → Hub) : (s.updHub f).fars = s.fars := rfl
@[simp] theorem State.updHub_nears (f : Hub → Hub) : (s.updHub f).nears = s.nears := rfl
@[simp] theorem State.updHub_units (f : Hub → Hub) : (s.updHub f).units = s.units := rfl
@[simp] theorem State.updHub_homes (f : Hub → Hub) : (s.updHub f).homes = s.homes := rfl
@[simp] theorem State.updHub_clusters (f : Hub → Hub) : (s.updHub f).clusters = s.clusters := rfl
@[simp] theorem State.updHub_islands (f : Hub → Hub) : (s.updHub f).islands = s.islands := rfl
@[simp] theorem State.updHub_baseDies (f : Hub → Hub) : (s.updHub f).baseDies = s.baseDies := rfl
@[simp] theorem State.updHub_ctxs (f : Hub → Hub) : (s.updHub f).ctxs = s.ctxs := rfl
@[simp] theorem State.updHub_fabric (f : Hub → Hub) : (s.updHub f).fabric = s.fabric := rfl
@[simp] theorem State.updHub_cmds (f : Hub → Hub) : (s.updHub f).cmds = s.cmds := rfl
@[simp] theorem State.updHub_remotes (f : Hub → Hub) : (s.updHub f).remotes = s.remotes := rfl
@[simp] theorem State.updHub_deliveries (f : Hub → Hub) : (s.updHub f).deliveries = s.deliveries := rfl
@[simp] theorem State.updHub_barMsgs (f : Hub → Hub) : (s.updHub f).barMsgs = s.barMsgs := rfl
@[simp] theorem State.updHub_stealMsgs (f : Hub → Hub) : (s.updHub f).stealMsgs = s.stealMsgs := rfl
@[simp] theorem State.updHub_grants (f : Hub → Hub) : (s.updHub f).grants = s.grants := rfl
@[simp] theorem State.updHub_hostReqs (f : Hub → Hub) : (s.updHub f).hostReqs = s.hostReqs := rfl
@[simp] theorem State.updHub_toHost (f : Hub → Hub) : (s.updHub f).toHost = s.toHost := rfl
@[simp] theorem State.updHub_bad (f : Hub → Hub) : (s.updHub f).bad = s.bad := rfl

/-! ### Accessors after updates of other parts -/

@[simp] theorem State.setHart_far_at (a : Agent) (v : Hart) (x : Nat) : (s.setHart a v).far x = s.far x := rfl
@[simp] theorem State.setHart_near_at (a : Agent) (v : Hart) (x y : Nat) : (s.setHart a v).near x y = s.near x y := rfl
@[simp] theorem State.setHart_unit_at (a : Agent) (v : Hart) (x : Nat) : (s.setHart a v).unit x = s.unit x := rfl
@[simp] theorem State.setHart_home_at (a : Agent) (v : Hart) (x : Nat) : (s.setHart a v).home x = s.home x := rfl
@[simp] theorem State.setHart_cluster_at (a : Agent) (v : Hart) (x : Nat) : (s.setHart a v).cluster x = s.cluster x := rfl
@[simp] theorem State.setHart_island_at (a : Agent) (v : Hart) (x : Nat) : (s.setHart a v).island x = s.island x := rfl
@[simp] theorem State.setHart_stack_at (a : Agent) (v : Hart) (x : Nat) : (s.setHart a v).stack x = s.stack x := rfl
@[simp] theorem State.setHart_ctx_at (a : Agent) (v : Hart) (x : Nat) : (s.setHart a v).ctx x = s.ctx x := rfl
@[simp] theorem State.setHart_mapWord_at (a : Agent) (v : Hart) (x : Nat) : (s.setHart a v).mapWord x = s.mapWord x := rfl
@[simp] theorem State.setHart_hubCore_at (a : Agent) (v : Hart) (x : Nat) : (s.setHart a v).hubCore x = s.hubCore x := rfl

@[simp] theorem State.setFar_hart_at (c : Nat) (v : Far) (x : Agent) : (s.setFar c v).hart x = s.hart x := rfl
@[simp] theorem State.setFar_near_at (c : Nat) (v : Far) (x y : Nat) : (s.setFar c v).near x y = s.near x y := rfl
@[simp] theorem State.setFar_unit_at (c : Nat) (v : Far) (x : Nat) : (s.setFar c v).unit x = s.unit x := rfl
@[simp] theorem State.setFar_home_at (c : Nat) (v : Far) (x : Nat) : (s.setFar c v).home x = s.home x := rfl
@[simp] theorem State.setFar_cluster_at (c : Nat) (v : Far) (x : Nat) : (s.setFar c v).cluster x = s.cluster x := rfl
@[simp] theorem State.setFar_island_at (c : Nat) (v : Far) (x : Nat) : (s.setFar c v).island x = s.island x := rfl
@[simp] theorem State.setFar_stack_at (c : Nat) (v : Far) (x : Nat) : (s.setFar c v).stack x = s.stack x := rfl
@[simp] theorem State.setFar_ctx_at (c : Nat) (v : Far) (x : Nat) : (s.setFar c v).ctx x = s.ctx x := rfl
@[simp] theorem State.setFar_mapWord_at (c : Nat) (v : Far) (x : Nat) : (s.setFar c v).mapWord x = s.mapWord x := rfl
@[simp] theorem State.setFar_hubCore_at (c : Nat) (v : Far) (x : Nat) : (s.setFar c v).hubCore x = s.hubCore x := rfl

@[simp] theorem State.setNear_hart_at (h c : Nat) (v : NearCtx) (x : Agent) : (s.setNear h c v).hart x = s.hart x := rfl
@[simp] theorem State.setNear_far_at (h c : Nat) (v : NearCtx) (x : Nat) : (s.setNear h c v).far x = s.far x := rfl
@[simp] theorem State.setNear_unit_at (h c : Nat) (v : NearCtx) (x : Nat) : (s.setNear h c v).unit x = s.unit x := rfl
@[simp] theorem State.setNear_home_at (h c : Nat) (v : NearCtx) (x : Nat) : (s.setNear h c v).home x = s.home x := rfl
@[simp] theorem State.setNear_cluster_at (h c : Nat) (v : NearCtx) (x : Nat) : (s.setNear h c v).cluster x = s.cluster x := rfl
@[simp] theorem State.setNear_island_at (h c : Nat) (v : NearCtx) (x : Nat) : (s.setNear h c v).island x = s.island x := rfl
@[simp] theorem State.setNear_stack_at (h c : Nat) (v : NearCtx) (x : Nat) : (s.setNear h c v).stack x = s.stack x := rfl
@[simp] theorem State.setNear_ctx_at (h c : Nat) (v : NearCtx) (x : Nat) : (s.setNear h c v).ctx x = s.ctx x := rfl
@[simp] theorem State.setNear_mapWord_at (h c : Nat) (v : NearCtx) (x : Nat) : (s.setNear h c v).mapWord x = s.mapWord x := rfl
@[simp] theorem State.setNear_hubCore_at (h c : Nat) (v : NearCtx) (x : Nat) : (s.setNear h c v).hubCore x = s.hubCore x := rfl

@[simp] theorem State.setUnit_hart_at (h : Nat) (v : NearUnit) (x : Agent) : (s.setUnit h v).hart x = s.hart x := rfl
@[simp] theorem State.setUnit_far_at (h : Nat) (v : NearUnit) (x : Nat) : (s.setUnit h v).far x = s.far x := rfl
@[simp] theorem State.setUnit_near_at (h : Nat) (v : NearUnit) (x y : Nat) : (s.setUnit h v).near x y = s.near x y := rfl
@[simp] theorem State.setUnit_home_at (h : Nat) (v : NearUnit) (x : Nat) : (s.setUnit h v).home x = s.home x := rfl
@[simp] theorem State.setUnit_cluster_at (h : Nat) (v : NearUnit) (x : Nat) : (s.setUnit h v).cluster x = s.cluster x := rfl
@[simp] theorem State.setUnit_island_at (h : Nat) (v : NearUnit) (x : Nat) : (s.setUnit h v).island x = s.island x := rfl
@[simp] theorem State.setUnit_stack_at (h : Nat) (v : NearUnit) (x : Nat) : (s.setUnit h v).stack x = s.stack x := rfl
@[simp] theorem State.setUnit_ctx_at (h : Nat) (v : NearUnit) (x : Nat) : (s.setUnit h v).ctx x = s.ctx x := rfl
@[simp] theorem State.setUnit_mapWord_at (h : Nat) (v : NearUnit) (x : Nat) : (s.setUnit h v).mapWord x = s.mapWord x := rfl
@[simp] theorem State.setUnit_hubCore_at (h : Nat) (v : NearUnit) (x : Nat) : (s.setUnit h v).hubCore x = s.hubCore x := rfl

@[simp] theorem State.setHome_hart_at (h : Nat) (v : Home) (x : Agent) : (s.setHome h v).hart x = s.hart x := rfl
@[simp] theorem State.setHome_far_at (h : Nat) (v : Home) (x : Nat) : (s.setHome h v).far x = s.far x := rfl
@[simp] theorem State.setHome_near_at (h : Nat) (v : Home) (x y : Nat) : (s.setHome h v).near x y = s.near x y := rfl
@[simp] theorem State.setHome_unit_at (h : Nat) (v : Home) (x : Nat) : (s.setHome h v).unit x = s.unit x := rfl
@[simp] theorem State.setHome_cluster_at (h : Nat) (v : Home) (x : Nat) : (s.setHome h v).cluster x = s.cluster x := rfl
@[simp] theorem State.setHome_island_at (h : Nat) (v : Home) (x : Nat) : (s.setHome h v).island x = s.island x := rfl
@[simp] theorem State.setHome_stack_at (h : Nat) (v : Home) (x : Nat) : (s.setHome h v).stack x = s.stack x := rfl
@[simp] theorem State.setHome_ctx_at (h : Nat) (v : Home) (x : Nat) : (s.setHome h v).ctx x = s.ctx x := rfl
@[simp] theorem State.setHome_mapWord_at (h : Nat) (v : Home) (x : Nat) : (s.setHome h v).mapWord x = s.mapWord x := rfl
@[simp] theorem State.setHome_hubCore_at (h : Nat) (v : Home) (x : Nat) : (s.setHome h v).hubCore x = s.hubCore x := rfl

@[simp] theorem State.setCluster_hart_at (c : Nat) (v : Cluster) (x : Agent) : (s.setCluster c v).hart x = s.hart x := rfl
@[simp] theorem State.setCluster_far_at (c : Nat) (v : Cluster) (x : Nat) : (s.setCluster c v).far x = s.far x := rfl
@[simp] theorem State.setCluster_near_at (c : Nat) (v : Cluster) (x y : Nat) : (s.setCluster c v).near x y = s.near x y := rfl
@[simp] theorem State.setCluster_unit_at (c : Nat) (v : Cluster) (x : Nat) : (s.setCluster c v).unit x = s.unit x := rfl
@[simp] theorem State.setCluster_home_at (c : Nat) (v : Cluster) (x : Nat) : (s.setCluster c v).home x = s.home x := rfl
@[simp] theorem State.setCluster_island_at (c : Nat) (v : Cluster) (x : Nat) : (s.setCluster c v).island x = s.island x := rfl
@[simp] theorem State.setCluster_stack_at (c : Nat) (v : Cluster) (x : Nat) : (s.setCluster c v).stack x = s.stack x := rfl
@[simp] theorem State.setCluster_ctx_at (c : Nat) (v : Cluster) (x : Nat) : (s.setCluster c v).ctx x = s.ctx x := rfl
@[simp] theorem State.setCluster_mapWord_at (c : Nat) (v : Cluster) (x : Nat) : (s.setCluster c v).mapWord x = s.mapWord x := rfl
@[simp] theorem State.setCluster_hubCore_at (c : Nat) (v : Cluster) (x : Nat) : (s.setCluster c v).hubCore x = s.hubCore x := rfl

@[simp] theorem State.setIsland_hart_at (d : Nat) (v : Island) (x : Agent) : (s.setIsland d v).hart x = s.hart x := rfl
@[simp] theorem State.setIsland_far_at (d : Nat) (v : Island) (x : Nat) : (s.setIsland d v).far x = s.far x := rfl
@[simp] theorem State.setIsland_near_at (d : Nat) (v : Island) (x y : Nat) : (s.setIsland d v).near x y = s.near x y := rfl
@[simp] theorem State.setIsland_unit_at (d : Nat) (v : Island) (x : Nat) : (s.setIsland d v).unit x = s.unit x := rfl
@[simp] theorem State.setIsland_home_at (d : Nat) (v : Island) (x : Nat) : (s.setIsland d v).home x = s.home x := rfl
@[simp] theorem State.setIsland_cluster_at (d : Nat) (v : Island) (x : Nat) : (s.setIsland d v).cluster x = s.cluster x := rfl
@[simp] theorem State.setIsland_stack_at (d : Nat) (v : Island) (x : Nat) : (s.setIsland d v).stack x = s.stack x := rfl
@[simp] theorem State.setIsland_ctx_at (d : Nat) (v : Island) (x : Nat) : (s.setIsland d v).ctx x = s.ctx x := rfl
@[simp] theorem State.setIsland_mapWord_at (d : Nat) (v : Island) (x : Nat) : (s.setIsland d v).mapWord x = s.mapWord x := rfl
@[simp] theorem State.setIsland_hubCore_at (d : Nat) (v : Island) (x : Nat) : (s.setIsland d v).hubCore x = s.hubCore x := rfl

@[simp] theorem State.setStack_hart_at (k : Nat) (v : Stack) (x : Agent) : (s.setStack k v).hart x = s.hart x := rfl
@[simp] theorem State.setStack_far_at (k : Nat) (v : Stack) (x : Nat) : (s.setStack k v).far x = s.far x := rfl
@[simp] theorem State.setStack_near_at (k : Nat) (v : Stack) (x y : Nat) : (s.setStack k v).near x y = s.near x y := rfl
@[simp] theorem State.setStack_unit_at (k : Nat) (v : Stack) (x : Nat) : (s.setStack k v).unit x = s.unit x := rfl
@[simp] theorem State.setStack_home_at (k : Nat) (v : Stack) (x : Nat) : (s.setStack k v).home x = s.home x := rfl
@[simp] theorem State.setStack_cluster_at (k : Nat) (v : Stack) (x : Nat) : (s.setStack k v).cluster x = s.cluster x := rfl
@[simp] theorem State.setStack_island_at (k : Nat) (v : Stack) (x : Nat) : (s.setStack k v).island x = s.island x := rfl
@[simp] theorem State.setStack_ctx_at (k : Nat) (v : Stack) (x : Nat) : (s.setStack k v).ctx x = s.ctx x := rfl
@[simp] theorem State.setStack_mapWord_at (k : Nat) (v : Stack) (x : Nat) : (s.setStack k v).mapWord x = s.mapWord x := rfl
@[simp] theorem State.setStack_hubCore_at (k : Nat) (v : Stack) (x : Nat) : (s.setStack k v).hubCore x = s.hubCore x := rfl

@[simp] theorem State.setCtx_hart_at (c : Nat) (v : Context) (x : Agent) : (s.setCtx c v).hart x = s.hart x := rfl
@[simp] theorem State.setCtx_far_at (c : Nat) (v : Context) (x : Nat) : (s.setCtx c v).far x = s.far x := rfl
@[simp] theorem State.setCtx_near_at (c : Nat) (v : Context) (x y : Nat) : (s.setCtx c v).near x y = s.near x y := rfl
@[simp] theorem State.setCtx_unit_at (c : Nat) (v : Context) (x : Nat) : (s.setCtx c v).unit x = s.unit x := rfl
@[simp] theorem State.setCtx_home_at (c : Nat) (v : Context) (x : Nat) : (s.setCtx c v).home x = s.home x := rfl
@[simp] theorem State.setCtx_cluster_at (c : Nat) (v : Context) (x : Nat) : (s.setCtx c v).cluster x = s.cluster x := rfl
@[simp] theorem State.setCtx_island_at (c : Nat) (v : Context) (x : Nat) : (s.setCtx c v).island x = s.island x := rfl
@[simp] theorem State.setCtx_stack_at (c : Nat) (v : Context) (x : Nat) : (s.setCtx c v).stack x = s.stack x := rfl
@[simp] theorem State.setCtx_mapWord_at (c : Nat) (v : Context) (x : Nat) : (s.setCtx c v).mapWord x = s.mapWord x := rfl
@[simp] theorem State.setCtx_hubCore_at (c : Nat) (v : Context) (x : Nat) : (s.setCtx c v).hubCore x = s.hubCore x := rfl

@[simp] theorem State.updHub_hart_at (f : Hub → Hub) (x : Agent) : (s.updHub f).hart x = s.hart x := rfl
@[simp] theorem State.updHub_far_at (f : Hub → Hub) (x : Nat) : (s.updHub f).far x = s.far x := rfl
@[simp] theorem State.updHub_near_at (f : Hub → Hub) (x y : Nat) : (s.updHub f).near x y = s.near x y := rfl
@[simp] theorem State.updHub_unit_at (f : Hub → Hub) (x : Nat) : (s.updHub f).unit x = s.unit x := rfl
@[simp] theorem State.updHub_home_at (f : Hub → Hub) (x : Nat) : (s.updHub f).home x = s.home x := rfl
@[simp] theorem State.updHub_cluster_at (f : Hub → Hub) (x : Nat) : (s.updHub f).cluster x = s.cluster x := rfl
@[simp] theorem State.updHub_island_at (f : Hub → Hub) (x : Nat) : (s.updHub f).island x = s.island x := rfl
@[simp] theorem State.updHub_stack_at (f : Hub → Hub) (x : Nat) : (s.updHub f).stack x = s.stack x := rfl
@[simp] theorem State.updHub_ctx_at (f : Hub → Hub) (x : Nat) : (s.updHub f).ctx x = s.ctx x := rfl

/-! ### Updates by a function -/

@[simp] theorem State.updHart_eq (a : Agent) (f : Hart → Hart) : s.updHart a f = s.setHart a (f (s.hart a)) := rfl
@[simp] theorem State.updFar_eq (c : Nat) (f : Far → Far) : s.updFar c f = s.setFar c (f (s.far c)) := rfl
@[simp] theorem State.updNear_eq (h c : Nat) (f : NearCtx → NearCtx) : s.updNear h c f = s.setNear h c (f (s.near h c)) := rfl
@[simp] theorem State.updUnit_eq (h : Nat) (f : NearUnit → NearUnit) : s.updUnit h f = s.setUnit h (f (s.unit h)) := rfl
@[simp] theorem State.updHome_eq (h : Nat) (f : Home → Home) : s.updHome h f = s.setHome h (f (s.home h)) := rfl
@[simp] theorem State.updCluster_eq (c : Nat) (f : Cluster → Cluster) : s.updCluster c f = s.setCluster c (f (s.cluster c)) := rfl
@[simp] theorem State.updIsland_eq (d : Nat) (f : Island → Island) : s.updIsland d f = s.setIsland d (f (s.island d)) := rfl
@[simp] theorem State.updStack_eq (k : Nat) (f : Stack → Stack) : s.updStack k f = s.setStack k (f (s.stack k)) := rfl

/-! ### Reads after writes -/

@[simp] theorem State.setHart_hart (a : Agent) (v : Hart) : (s.setHart a v).hart a = v := mget_mput_same _ _ _ _
@[simp] theorem State.setHart_hart_other (a b : Agent) (v : Hart) (h : agentKey b ≠ agentKey a) : (s.setHart a v).hart b = s.hart b :=
  mget_mput_other _ _ _ _ _ h
@[simp] theorem State.setFar_far (c : Nat) (v : Far) : (s.setFar c v).far c = v := mget_mput_same _ _ _ _
@[simp] theorem State.setFar_far_other (c e : Nat) (v : Far) (h : e ≠ c) : (s.setFar c v).far e = s.far e := mget_mput_other _ _ _ _ _ h
@[simp] theorem State.setNear_near (h c : Nat) (v : NearCtx) : (s.setNear h c v).near h c = v := mget_mput_same _ _ _ _
@[simp] theorem State.setUnit_unit (c : Nat) (v : NearUnit) : (s.setUnit c v).unit c = v := mget_mput_same _ _ _ _
@[simp] theorem State.setUnit_unit_other (c e : Nat) (v : NearUnit) (h : e ≠ c) : (s.setUnit c v).unit e = s.unit e :=
  mget_mput_other _ _ _ _ _ h
@[simp] theorem State.setHome_home (c : Nat) (v : Home) : (s.setHome c v).home c = v := mget_mput_same _ _ _ _
@[simp] theorem State.setHome_home_other (c e : Nat) (v : Home) (h : e ≠ c) : (s.setHome c v).home e = s.home e :=
  mget_mput_other _ _ _ _ _ h
@[simp] theorem State.setCluster_cluster (c : Nat) (v : Cluster) : (s.setCluster c v).cluster c = v := mget_mput_same _ _ _ _
@[simp] theorem State.setCluster_cluster_other (c e : Nat) (v : Cluster) (h : e ≠ c) : (s.setCluster c v).cluster e = s.cluster e :=
  mget_mput_other _ _ _ _ _ h
@[simp] theorem State.setIsland_island (c : Nat) (v : Island) : (s.setIsland c v).island c = v := mget_mput_same _ _ _ _
@[simp] theorem State.setIsland_island_other (c e : Nat) (v : Island) (h : e ≠ c) : (s.setIsland c v).island e = s.island e :=
  mget_mput_other _ _ _ _ _ h
@[simp] theorem State.setStack_stack (c : Nat) (v : Stack) : (s.setStack c v).stack c = v := mget_mput_same _ _ _ _
@[simp] theorem State.setStack_stack_other (c e : Nat) (v : Stack) (h : e ≠ c) : (s.setStack c v).stack e = s.stack e :=
  mget_mput_other _ _ _ _ _ h
@[simp] theorem State.setCtx_ctx (c : Nat) (v : Context) : (s.setCtx c v).ctx c = some v := mget_mput_same _ _ _ _
@[simp] theorem State.setCtx_ctx_other (c e : Nat) (v : Context) (h : e ≠ c) : (s.setCtx c v).ctx e = s.ctx e :=
  mget_mput_other _ _ _ _ _ h
@[simp] theorem State.updHub_hub (f : Hub → Hub) : (s.updHub f).hub = f s.hub := rfl
@[simp] theorem State.setHart_setHart (a : Agent) (v w : Hart) : (s.setHart a v).setHart a w = s.setHart a w := by
  simp [State.setHart]
@[simp] theorem State.setFar_setFar (c : Nat) (v w : Far) : (s.setFar c v).setFar c w = s.setFar c w := by
  simp [State.setFar]

/-! ### Scalar registers (R183) -/

@[simp] theorem Hart.reg_zero (h : Hart) : h.reg 0 = 0 := rfl
@[simp] theorem Hart.setReg_zero (h : Hart) (v : Word) : h.setReg 0 v = h := rfl
theorem Hart.setReg_reg (h : Hart) (d r : Reg) (v : Word) : (h.setReg d v).reg r = if r = d ∧ d ≠ 0 then v else h.reg r := by
  unfold Hart.reg Hart.setReg
  by_cases hd : d = 0
  · simp only [if_pos hd, if_neg (fun e : r = d ∧ d ≠ 0 => e.2 hd)]
  · simp only [if_neg hd]
    by_cases hr : r = 0
    · simp only [if_pos hr, if_neg (fun e : r = d ∧ d ≠ 0 => hd (e.1 ▸ hr))]
    · simp only [if_neg hr]
      by_cases e : r = d
      · subst e; simp only [if_pos (show True ∧ r ≠ 0 from ⟨trivial, hd⟩), mget_mput_same]
      · simp only [if_neg (fun q : r = d ∧ d ≠ 0 => e q.1)]
        exact mget_mput_other _ _ _ _ _ fun q => e (BitVec.eq_of_toNat_eq q)

@[simp] theorem Hart.setReg_pc (x : Hart) (d : Reg) (v : Word) : (x.setReg d v).pc = x.pc := by unfold Hart.setReg; split <;> rfl
@[simp] theorem Hart.setReg_fromPc (x : Hart) (d : Reg) (v : Word) : (x.setReg d v).fromPc = x.fromPc := by unfold Hart.setReg; split <;> rfl
@[simp] theorem Hart.setReg_line (x : Hart) (d : Reg) (v : Word) : (x.setReg d v).line = x.line := by unfold Hart.setReg; split <;> rfl
@[simp] theorem Hart.setReg_ie (x : Hart) (d : Reg) (v : Word) : (x.setReg d v).ie = x.ie := by unfold Hart.setReg; split <;> rfl
@[simp] theorem Hart.setReg_pie (x : Hart) (d : Reg) (v : Word) : (x.setReg d v).pie = x.pie := by unfold Hart.setReg; split <;> rfl
@[simp] theorem Hart.setReg_ppriv (x : Hart) (d : Reg) (v : Word) : (x.setReg d v).ppriv = x.ppriv := by unfold Hart.setReg; split <;> rfl
@[simp] theorem Hart.setReg_priv (x : Hart) (d : Reg) (v : Word) : (x.setReg d v).priv = x.priv := by unfold Hart.setReg; split <;> rfl
@[simp] theorem Hart.setReg_sreq (x : Hart) (d : Reg) (v : Word) : (x.setReg d v).sreq = x.sreq := by unfold Hart.setReg; split <;> rfl
@[simp] theorem Hart.setReg_h (x : Hart) (d : Reg) (v : Word) : (x.setReg d v).h = x.h := by unfold Hart.setReg; split <;> rfl
@[simp] theorem Hart.setReg_cause (x : Hart) (d : Reg) (v : Word) : (x.setReg d v).cause = x.cause := by unfold Hart.setReg; split <;> rfl
@[simp] theorem Hart.setReg_trapPc (x : Hart) (d : Reg) (v : Word) : (x.setReg d v).trapPc = x.trapPc := by unfold Hart.setReg; split <;> rfl
@[simp] theorem Hart.setReg_info (x : Hart) (d : Reg) (v : Word) : (x.setReg d v).info = x.info := by unfold Hart.setReg; split <;> rfl
@[simp] theorem Hart.setReg_vecU (x : Hart) (d : Reg) (v : Word) : (x.setReg d v).vecU = x.vecU := by unfold Hart.setReg; split <;> rfl
@[simp] theorem Hart.setReg_vecS (x : Hart) (d : Reg) (v : Word) : (x.setReg d v).vecS = x.vecS := by unfold Hart.setReg; split <;> rfl
@[simp] theorem Hart.setReg_deleg (x : Hart) (d : Reg) (v : Word) : (x.setReg d v).deleg = x.deleg := by unfold Hart.setReg; split <;> rfl
@[simp] theorem Hart.setReg_scratch (x : Hart) (d : Reg) (v : Word) : (x.setReg d v).scratch = x.scratch := by unfold Hart.setReg; split <;> rfl
@[simp] theorem Hart.setReg_ctxid (x : Hart) (d : Reg) (v : Word) : (x.setReg d v).ctxid = x.ctxid := by unfold Hart.setReg; split <;> rfl
@[simp] theorem Hart.setReg_root (x : Hart) (d : Reg) (v : Word) : (x.setReg d v).root = x.root := by unfold Hart.setReg; split <;> rfl
@[simp] theorem Hart.setReg_evMap (x : Hart) (d : Reg) (v : Word) : (x.setReg d v).evMap = x.evMap := by unfold Hart.setReg; split <;> rfl
@[simp] theorem Hart.setReg_evMem (x : Hart) (d : Reg) (v : Word) : (x.setReg d v).evMem = x.evMem := by unfold Hart.setReg; split <;> rfl
@[simp] theorem Hart.setReg_evSusp (x : Hart) (d : Reg) (v : Word) : (x.setReg d v).evSusp = x.evSusp := by unfold Hart.setReg; split <;> rfl
@[simp] theorem Hart.setReg_wait (x : Hart) (d : Reg) (v : Word) : (x.setReg d v).wait = x.wait := by unfold Hart.setReg; split <;> rfl
@[simp] theorem Hart.setReg_monitor (x : Hart) (d : Reg) (v : Word) : (x.setReg d v).monitor = x.monitor := by unfold Hart.setReg; split <;> rfl
@[simp] theorem Hart.setReg_tlb (x : Hart) (d : Reg) (v : Word) : (x.setReg d v).tlb = x.tlb := by unfold Hart.setReg; split <;> rfl
@[simp] theorem Hart.setReg_active (x : Hart) (d : Reg) (v : Word) : (x.setReg d v).active = x.active := by unfold Hart.setReg; split <;> rfl
@[simp] theorem Hart.setReg_stopped (x : Hart) (d : Reg) (v : Word) : (x.setReg d v).stopped = x.stopped := by unfold Hart.setReg; split <;> rfl
@[simp] theorem Hart.setReg_addSeq (x : Hart) (d : Reg) (v : Word) : (x.setReg d v).addSeq = x.addSeq := by unfold Hart.setReg; split <;> rfl
@[simp] theorem Hart.setReg_slots (x : Hart) (d : Reg) (v : Word) : (x.setReg d v).slots = x.slots := by unfold Hart.setReg; split <;> rfl
@[simp] theorem Hart.setReg_macroP (x : Hart) (d : Reg) (v : Word) : (x.setReg d v).macroP = x.macroP := by unfold Hart.setReg; split <;> rfl
@[simp] theorem Hart.setReg_passP (x : Hart) (d : Reg) (v : Word) : (x.setReg d v).passP = x.passP := by unfold Hart.setReg; split <;> rfl
@[simp] theorem Hart.setReg_tableP (x : Hart) (d : Reg) (v : Word) : (x.setReg d v).tableP = x.tableP := by unfold Hart.setReg; split <;> rfl
@[simp] theorem Hart.setReg_memP (x : Hart) (d : Reg) (v : Word) : (x.setReg d v).memP = x.memP := by unfold Hart.setReg; split <;> rfl
@[simp] theorem Hart.setReg_walkFault (x : Hart) (d : Reg) (v : Word) : (x.setReg d v).walkFault = x.walkFault := by unfold Hart.setReg; split <;> rfl
@[simp] theorem Hart.setReg_hostLds (x : Hart) (d : Reg) (v : Word) : (x.setReg d v).hostLds = x.hostLds := by unfold Hart.setReg; split <;> rfl
@[simp] theorem Hart.setReg_pend (x : Hart) (d : Reg) (v : Word) : (x.setReg d v).pend = x.pend := by unfold Hart.setReg; split <;> rfl

end Sys2Proof.Machine
end

