-- ==== Sys2Proof/Laws/Ops.lean ====
section
/-! SUPPORT. What the frame of an encoded instruction does, said once for each way it can go. -/
namespace Sys2Proof.Machine
variable {s t u : State} {i : Instr} {d : Reg}

theorem Issues.gate (h : Issues s i) : s.gate s.focus i = .ok () s := by
  have h2 := h.privileged
  unfold State.gate
  rw [h.profile, h.ready, h.whole]
  simp only [Bool.not_true, Bool.false_eq_true, if_false]
  by_cases c : needsS i.major = true
  · rw [h2 c]; simp
  · simp [c]
theorem Issues.permitReady (h : Issues s i) : s.permitReady s.focus i.major = some s := by
  have hp := h.permit
  unfold State.permitHere at hp
  unfold State.permitReady
  split <;> simp_all
theorem permitUse_remotes (s : State) (a : Agent) (n : Nat) : (s.permitUse a n).remotes = s.remotes := by
  unfold State.permitUse
  split
  · rfl
  · split
    · unfold State.permitTake; split <;> rfl
    · rfl
/-- Where no lost operation waits on the register that is written, nothing is noted. -/
theorem overwrites_none {a : Agent} (h : s.lostDest a i = false) (hr : u.remotes = s.remotes) : u.overwrites a i = u := by
  unfold State.overwrites
  rw [if_neg]
  unfold State.lostDest at h ⊢
  rw [hr, h]
  decide
/-- An instruction that issues and whose own effect answers a target; its own remote operations are not yet lost. -/
theorem Issues.perform (h : Issues s i) {body : Agent → State → Res (Option Word)} {x : Option Word} (hb : body s.focus s = .ok x u)
    (hr : u.remotes = s.remotes) : s.perform i body = (u.permitUse s.focus i.major).advance s.focus x := by
  unfold State.perform
  simp [h.gate, h.fresh, h.permitReady, hb, overwrites_none h.free ((permitUse_remotes u s.focus i.major).trans hr)]
/-- An instruction that issues and whose own effect is a trap. -/
theorem Issues.perform_trap (h : Issues s i) {body : Agent → State → Res (Option Word)} {x : Trap} (hb : body s.focus s = .trap x u) :
    s.perform i body = (u.permitUse s.focus i.major).takeTrap s.focus x := by
  unfold State.perform
  simp [h.gate, h.fresh, h.permitReady, hb]
/-- An instruction that issues and must be tried again; its permit is used where its wait has begun. -/
theorem Issues.perform_wait (h : Issues s i) {body : Agent → State → Res (Option Word)} (hb : body s.focus s = .wait u) :
    s.perform i body = if (u.hart s.focus).begun then u.permitUse s.focus i.major else u := by
  unfold State.perform
  simp [h.gate, h.fresh, h.permitReady, hb]
theorem Issues.performSelf (h : Issues s i) {body : Agent → State → Res Unit} (hb : body s.focus s = .ok () u) : s.performSelf i body = u := by
  unfold State.performSelf
  simp [h.gate, hb]

/-- The advance of the PC after a register write. -/
theorem advance_regDone (s : State) (d : Reg) (v : Word) (x : Option Word) :
    RegDone s ((s.write s.focus d v).advance s.focus x) d v (x.getD (s.hart s.focus).nextPc) := by
  have hn : ((s.hart s.focus).setReg d v).nextPc = (s.hart s.focus).nextPc := by
    unfold Hart.setReg
    split <;> rfl
  have e : ((s.write s.focus d v).advance s.focus x).hart s.focus =
      { (s.hart s.focus).setReg d v with pc := x.getD (s.hart s.focus).nextPc, fromPc := (s.hart s.focus).pc
                                         wait := none, monitor := none, walkFault := none, hostLds := [] } := by
    simp only [State.advance, State.write, State.updHart_eq, State.setHart_hart, Hart.moveOn, hn, Hart.setReg_pc]
  unfold RegDone
  dsimp only
  rw [e]
  refine ⟨⟨?_, ?_⟩, rfl, rfl, ?_, rfl, ?_, fun _ => rfl⟩
  · refine (Hart.setReg_reg _ d d v).trans ?_
    by_cases hd : d = 0
    · subst hd; rfl
    · rw [if_pos ⟨rfl, hd⟩, if_neg hd]
  · intro r hr
    exact (Hart.setReg_reg _ d r v).trans (if_neg fun e => hr e.1)
  · unfold HartRest Hart.setReg
    split <;> rfl
  · intro k hk
    exact (mget_mput_other _ _ _ _ _ hk).trans (mget_mput_other _ _ _ _ _ hk)
/-- Everything that a register instruction does where it issues. -/
theorem regOp_next (h : Issues s i) (hp : permitClass i.major = none) (f : Hart → Word) :
    ∃ t, regOp i d s f = .next t ∧ RegDone s t d (f (s.hart s.focus)) (s.hart s.focus).nextPc := by
  refine ⟨_, rfl, ?_⟩
  have e := h.perform (body := fun a s => .ok none (s.write a d (f (s.hart a)))) rfl rfl
  rw [e, show (s.write s.focus d (f (s.hart s.focus))).permitUse s.focus i.major = s.write s.focus d (f (s.hart s.focus)) by
    unfold State.permitUse; rw [hp]]
  exact advance_regDone s d _ none
/-- Everything that a control transfer does where it issues. -/
theorem transfer_next (h : Issues s i) (hp : permitClass i.major = none) (f : Hart → Option Word) :
    ∃ t, transfer i s d f = .next t ∧
      RegDone s t d (s.hart s.focus).nextPc ((f (s.hart s.focus)).getD (s.hart s.focus).nextPc) := by
  refine ⟨_, rfl, ?_⟩
  have e := h.perform (body := fun a s => .ok (f (s.hart a)) (s.write a d (s.hart a).nextPc)) rfl rfl
  rw [e, show (s.write s.focus d (s.hart s.focus).nextPc).permitUse s.focus i.major = s.write s.focus d (s.hart s.focus).nextPc by
    unfold State.permitUse; rw [hp]]
  exact advance_regDone s d _ _

/-- The same of a meaning that is a register instruction, or a control transfer. -/
theorem regOp_exec {f : Hart → Word} (he : exec i s = regOp i d s f) (h : Issues s i) (hp : permitClass i.major = none) :
    ∃ t, exec i s = .next t ∧ RegDone s t d (f (s.hart s.focus)) (s.hart s.focus).nextPc := he ▸ regOp_next h hp f
theorem transfer_exec {f : Hart → Option Word} (he : exec i s = transfer i s d f) (h : Issues s i) (hp : permitClass i.major = none) :
    ∃ t, exec i s = .next t ∧ RegDone s t d (s.hart s.focus).nextPc ((f (s.hart s.focus)).getD (s.hart s.focus).nextPc) :=
  he ▸ transfer_next h hp f

/-! ### Trap entry and settling -/

theorem onlyHart_setHart (s : State) (a : Agent) (v : Hart) : OnlyHart s (s.setHart a v) a :=
  ⟨rfl, fun _ hk => mget_mput_other _ _ _ _ _ hk, fun _ => rfl⟩
theorem endWait_none {a : Agent} (hw : (s.hart a).wait = none) (hm : (s.hart a).monitor = none) : s.endWait a = s := by
  unfold State.endWait
  simp [hw, hm]
theorem arrayDrain_idle {c : Nat} (h : s.arrayIdle c = true) (n : Nat) : s.arrayDrain c n = s := by
  unfold State.arrayIdle at h
  simp only [Bool.and_eq_true, List.isEmpty_iff, Option.isNone_iff_eq_none] at h
  cases n with
  | zero => rfl
  | succ n =>
    unfold State.arrayDrain
    simp [h.1, h.2]
theorem indexOf?_none {α : Type} {f : α → Bool} {l : List α} (h : l.any f = false) : indexOf? f l = none := by
  induction l with
  | nil => rfl
  | cons x l ih =>
    simp only [List.any_cons, Bool.or_eq_false_iff] at h
    rw [indexOf?, if_neg (by simp [h.1]), ih h.2, Option.map_none]
theorem remoteDrain_none {c : Nat} (h : s.remoteBusy c = false) (n : Nat) : s.remoteDrain c n = s := by
  cases n with
  | zero => rfl
  | succ n =>
    unfold State.remoteDrain
    rw [indexOf?_none h]
theorem walkForget_none {a : Agent} (h : s.walksFor a = false) : s.walkForget a = s := by
  unfold State.walksFor at h
  unfold State.walkForget
  simp only [Bool.or_eq_false_iff] at h
  simp [h.1, h.2]
theorem settle_caughtUp {a : Agent} (h : s.caughtUp a = true) : s.settle a = s := by
  unfold State.caughtUp at h
  unfold State.settle
  cases a with
  | far c =>
    simp only [Bool.and_eq_true, Bool.not_eq_true'] at h
    dsimp only
    rw [arrayDrain_idle h.2.1, remoteDrain_none h.2.2]
  | near n k => rfl
  | hub n => rfl
theorem arrayEnd_idle {c : Nat} (h : s.arrayIdle c = true) : s.arrayEnd c = s := arrayDrain_idle h _
theorem trapReady_caughtUp {a : Agent} (h : s.caughtUp a = true) : s.trapReady a = true := by
  unfold State.caughtUp at h
  unfold State.trapReady
  cases a with
  | far c =>
    simp only [Bool.and_eq_true, Bool.not_eq_true'] at h ⊢
    refine ⟨h.2.1, ?_⟩
    have hb := h.2.2
    unfold State.remoteBusy at hb
    unfold State.remoteRegs
    rw [List.isEmpty_iff, List.map_eq_nil_iff, List.filter_eq_nil_iff]
    intro r hr
    have := List.any_eq_false.1 hb r hr
    cases hl : r.lost <;> simp_all
  | near n k => rfl
  | hub n => rfl
/-- The entry of an agent with nothing in progress. -/
theorem takeTrap_caughtUp {a : Agent} {x : Trap} (h : s.caughtUp a = true) (hw : (s.hart a).wait = none)
    (hm : (s.hart a).monitor = none) : s.takeTrap a x = s.enterTrap a x := by
  have hs : s.walksFor a = false := by
    unfold State.caughtUp at h
    simp only [Bool.and_eq_true, Bool.not_eq_true'] at h
    exact h.1
  unfold State.takeTrap
  rw [endWait_none hw hm, walkForget_none hs]
  dsimp only
  rw [settle_caughtUp h, ite_self, if_pos (trapReady_caughtUp h)]
theorem takeTrap_far {c : Nat} {x : Trap} (h : s.caughtUp (.far c) = true) (hw : (s.hart (.far c)).wait = none)
    (hm : (s.hart (.far c)).monitor = none) :
    s.takeTrap (.far c) x =
      if (s.hart (.far c)).toU x.cause then s.setHart (.far c) ((s.hart (.far c)).enterU x)
      else if (s.hart (.far c)).priv && !(s.hart (.far c)).ie then (s.setHart (.far c) { (s.hart (.far c)).trapped x with pc := x.pc.getD (s.hart (.far c)).pc }).stopCore c x.cause
      else s.setHart (.far c) ((s.hart (.far c)).enterS x) := takeTrap_caughtUp h hw hm
theorem takeTrap_hub {n : Nat} {x : Trap} (h : s.caughtUp (.hub n) = true) (hw : (s.hart (.hub n)).wait = none) (hm : (s.hart (.hub n)).monitor = none) :
    s.takeTrap (.hub n) x =
      if (s.hart (.hub n)).priv && !(s.hart (.hub n)).ie then s.setHart (.hub n) { (s.hart (.hub n)).trapped x with
          stopped := true, pc := x.pc.getD (s.hart (.hub n)).pc }
      else s.setHart (.hub n) ((s.hart (.hub n)).enterS x) := takeTrap_caughtUp h hw hm
theorem takeTrap_near {n c : Nat} {x : Trap} (h : s.caughtUp (.near n c) = true) (hw : (s.hart (.near n c)).wait = none) (hm : (s.hart (.near n c)).monitor = none) :
    s.takeTrap (.near n c) x =
      if (s.hart (.near n c)).toU x.cause then
        (s.updNear n c fun y => { y with rowOpen := false }).setHart (.near n c) ((s.hart (.near n c)).enterU x)
      else s.nearAbort n c x.cause (x.pc.getD (s.hart (.near n c)).pc) := takeTrap_caughtUp h hw hm

end Sys2Proof.Machine
end

