-- ==== Sys2Proof/Laws/Scalar.lean ====
section
/-! SUPPORT. Each scalar instruction where it issues: it answers a next state in which one register and the PC have changed. -/
namespace Sys2Proof.Machine
variable {s : State}

theorem add_next (w : Bool) (d a b : Reg) (hi : Issues s (.add w d a b)) :
    ∃ t, exec (.add w d a b) s = .next t ∧ RegDone s t d (alu w (fun _ x y => x + y) ((s.hart s.focus).reg a) ((s.hart s.focus).reg b)) (s.hart s.focus).nextPc := by
  rw [exec_add]
  exact regOp_next hi rfl _
theorem sub_next (w : Bool) (d a b : Reg) (hi : Issues s (.sub w d a b)) :
    ∃ t, exec (.sub w d a b) s = .next t ∧ RegDone s t d (alu w (fun _ x y => x - y) ((s.hart s.focus).reg a) ((s.hart s.focus).reg b)) (s.hart s.focus).nextPc := by
  rw [exec_sub]
  exact regOp_next hi rfl _
theorem and_next (w : Bool) (d a b : Reg) (hi : Issues s (.and w d a b)) :
    ∃ t, exec (.and w d a b) s = .next t ∧ RegDone s t d (alu w (fun _ x y => x &&& y) ((s.hart s.focus).reg a) ((s.hart s.focus).reg b)) (s.hart s.focus).nextPc := by
  rw [exec_and]
  exact regOp_next hi rfl _
theorem or_next (w : Bool) (d a b : Reg) (hi : Issues s (.or w d a b)) :
    ∃ t, exec (.or w d a b) s = .next t ∧ RegDone s t d (alu w (fun _ x y => x ||| y) ((s.hart s.focus).reg a) ((s.hart s.focus).reg b)) (s.hart s.focus).nextPc := by
  rw [exec_or]
  exact regOp_next hi rfl _
theorem xor_next (w : Bool) (d a b : Reg) (hi : Issues s (.xor w d a b)) :
    ∃ t, exec (.xor w d a b) s = .next t ∧ RegDone s t d (alu w (fun _ x y => x ^^^ y) ((s.hart s.focus).reg a) ((s.hart s.focus).reg b)) (s.hart s.focus).nextPc := by
  rw [exec_xor]
  exact regOp_next hi rfl _
theorem andn_next (w : Bool) (d a b : Reg) (hi : Issues s (.andn w d a b)) :
    ∃ t, exec (.andn w d a b) s = .next t ∧ RegDone s t d (alu w (fun _ x y => x &&& ~~~y) ((s.hart s.focus).reg a) ((s.hart s.focus).reg b)) (s.hart s.focus).nextPc := by
  rw [exec_andn]
  exact regOp_next hi rfl _
theorem shl_next (w : Bool) (d a b : Reg) (hi : Issues s (.shl w d a b)) :
    ∃ t, exec (.shl w d a b) s = .next t ∧ RegDone s t d (alu w (shiftBy .shl) ((s.hart s.focus).reg a) ((s.hart s.focus).reg b)) (s.hart s.focus).nextPc := by
  rw [exec_shl]
  exact regOp_next hi rfl _
theorem shr_next (w : Bool) (d a b : Reg) (hi : Issues s (.shr w d a b)) :
    ∃ t, exec (.shr w d a b) s = .next t ∧ RegDone s t d (alu w (shiftBy .shr) ((s.hart s.focus).reg a) ((s.hart s.focus).reg b)) (s.hart s.focus).nextPc := by
  rw [exec_shr]
  exact regOp_next hi rfl _
theorem sha_next (w : Bool) (d a b : Reg) (hi : Issues s (.sha w d a b)) :
    ∃ t, exec (.sha w d a b) s = .next t ∧ RegDone s t d (alu w (shiftBy .sha) ((s.hart s.focus).reg a) ((s.hart s.focus).reg b)) (s.hart s.focus).nextPc := by
  rw [exec_sha]
  exact regOp_next hi rfl _
theorem rot_next (w : Bool) (d a b : Reg) (hi : Issues s (.rot w d a b)) :
    ∃ t, exec (.rot w d a b) s = .next t ∧ RegDone s t d (alu w (shiftBy .rot) ((s.hart s.focus).reg a) ((s.hart s.focus).reg b)) (s.hart s.focus).nextPc := by
  rw [exec_rot]
  exact regOp_next hi rfl _
theorem mul_next (w : Bool) (d a b : Reg) (hi : Issues s (.mul w d a b)) :
    ∃ t, exec (.mul w d a b) s = .next t ∧ RegDone s t d (alu w (fun _ x y => x * y) ((s.hart s.focus).reg a) ((s.hart s.focus).reg b)) (s.hart s.focus).nextPc := by
  rw [exec_mul]
  exact regOp_next hi rfl _
theorem mulh_next (m : MulhMode) (d a b : Reg) (hi : Issues s (.mulh m d a b)) :
    ∃ t, exec (.mulh m d a b) s = .next t ∧ RegDone s t d (mulHigh m ((s.hart s.focus).reg a) ((s.hart s.focus).reg b)) (s.hart s.focus).nextPc := by
  rw [exec_mulh]
  exact regOp_next hi rfl _
theorem div_next (w u rem : Bool) (d a b : Reg) (hi : Issues s (.div w u rem d a b)) :
    ∃ t, exec (.div w u rem d a b) s = .next t ∧ RegDone s t d (alu w (divide u rem) ((s.hart s.focus).reg a) ((s.hart s.focus).reg b)) (s.hart s.focus).nextPc := by
  rw [exec_div]
  exact regOp_next hi rfl _
theorem minmax_next (w u max : Bool) (d a b : Reg) (hi : Issues s (.minmax w u max d a b)) :
    ∃ t, exec (.minmax w u max d a b) s = .next t ∧ RegDone s t d (alu w (pick u max) ((s.hart s.focus).reg a) ((s.hart s.focus).reg b)) (s.hart s.focus).nextPc := by
  rw [exec_minmax]
  exact regOp_next hi rfl _
theorem cmp_next (c : Cond) (d a b : Reg) (hi : Issues s (.cmp c d a b)) :
    ∃ t, exec (.cmp c d a b) s = .next t ∧ RegDone s t d (boolWord (condHolds c ((s.hart s.focus).reg a) ((s.hart s.focus).reg b))) (s.hart s.focus).nextPc := by
  rw [exec_cmp]
  exact regOp_next hi rfl _
theorem sel_next (d a b c : Reg) (hi : Issues s (.sel d a b c)) :
    ∃ t, exec (.sel d a b c) s = .next t ∧ RegDone s t d (if (s.hart s.focus).reg a ≠ 0 then (s.hart s.focus).reg b else (s.hart s.focus).reg c) (s.hart s.focus).nextPc := by
  rw [exec_sel]
  exact regOp_next hi rfl _
theorem addi_next (w : Bool) (d a : Reg) (k : BitVec 20) (hi : Issues s (.addi w d a k)) :
    ∃ t, exec (.addi w d a k) s = .next t ∧ RegDone s t d (alu w (fun _ x y => x + y) ((s.hart s.focus).reg a) (k.signExtend 64)) (s.hart s.focus).nextPc := by
  rw [exec_addi]
  exact regOp_next hi rfl _
theorem li_next (f : LiForm) (d : Reg) (k : BitVec 24) (hi : Issues s (.li f d k)) :
    ∃ t, exec (.li f d k) s = .next t ∧ RegDone s t d (loadImm f ((s.hart s.focus).reg d) k) (s.hart s.focus).nextPc := by
  rw [exec_li]
  exact regOp_next hi rfl _
theorem logi_next (op : LogOp) (d a : Reg) (k : BitVec 20) (hi : Issues s (.logi op d a k)) :
    ∃ t, exec (.logi op d a k) s = .next t ∧ RegDone s t d (logic op ((s.hart s.focus).reg a) (k.signExtend 64)) (s.hart s.focus).nextPc := by
  rw [exec_logi]
  exact regOp_next hi rfl _
theorem shi_next (op : ShOp) (w : Bool) (d a : Reg) (n : BitVec 6) (hi : Issues s (.shi op w d a n)) :
    ∃ t, exec (.shi op w d a n) s = .next t ∧ RegDone s t d (alu w (shiftBy op) ((s.hart s.focus).reg a) (n.zeroExtend 64)) (s.hart s.focus).nextPc := by
  rw [exec_shi]
  exact regOp_next hi rfl _
theorem bext_next (sx : Bool) (d a : Reg) (lo : BitVec 6) (len : BitVec 7) (hi : Issues s (.bext sx d a lo len)) :
    ∃ t, exec (.bext sx d a lo len) s = .next t ∧ RegDone s t d (extractField sx lo.toNat len.toNat ((s.hart s.focus).reg a)) (s.hart s.focus).nextPc := by
  rw [exec_bext]
  exact regOp_next hi rfl _
theorem bins_next (d a : Reg) (lo : BitVec 6) (len : BitVec 7) (hi : Issues s (.bins d a lo len)) :
    ∃ t, exec (.bins d a lo len) s = .next t ∧ RegDone s t d (insertField lo.toNat len.toNat ((s.hart s.focus).reg d) ((s.hart s.focus).reg a)) (s.hart s.focus).nextPc := by
  rw [exec_bins]
  exact regOp_next hi rfl _
theorem bitc_next (op : BitcOp) (d a : Reg) (hi : Issues s (.bitc op d a)) :
    ∃ t, exec (.bitc op d a) s = .next t ∧ RegDone s t d (BitVec.ofNat 64 (bitCount op ((s.hart s.focus).reg a))) (s.hart s.focus).nextPc := by
  rw [exec_bitc]
  exact regOp_next hi rfl _
theorem hdrx_next (d a : Reg) (layout : BitVec 6) (field : BitVec 8) (hi : Issues s (.hdrx d a layout field)) :
    ∃ t, exec (.hdrx d a layout field) s = .next t ∧ RegDone s t d (fieldValue layout.toNat field.toNat ((s.hart s.focus).reg a)) (s.hart s.focus).nextPc := by
  rw [exec_hdrx]
  exact regOp_next hi rfl _
theorem hdrp_next (d a : Reg) (layout : BitVec 6) (field : BitVec 8) (hi : Issues s (.hdrp d a layout field)) :
    ∃ t, exec (.hdrp d a layout field) s = .next t ∧ RegDone s t d (
      let b := layoutBits layout.toNat field.toNat
      insertField b.1 b.2 ((s.hart s.focus).reg d) ((s.hart s.focus).reg a)) (s.hart s.focus).nextPc := by
  rw [exec_hdrp]
  exact regOp_next hi rfl _
theorem addpc_next (d : Reg) (k : BitVec 26) (hi : Issues s (.addpc d k)) :
    ∃ t, exec (.addpc d k) s = .next t ∧ RegDone s t d ((s.hart s.focus).pc + k.signExtend 64) (s.hart s.focus).nextPc := by
  rw [exec_addpc]
  exact regOp_next hi rfl _
theorem br_next (c : Cond) (a b : Reg) (delta : BitVec 11) (slot : BitVec 5) (hi : Issues s (.br c a b delta slot)) :
    ∃ t, exec (.br c a b delta slot) s = .next t ∧ RegDone s t 0 (s.hart s.focus).nextPc ((if condHolds c ((s.hart s.focus).reg a) ((s.hart s.focus).reg b) then some ((s.hart s.focus).target delta slot) else none : Option Word).getD (s.hart s.focus).nextPc) := by
  rw [exec_br]
  exact transfer_next hi rfl _
theorem brz_next (nz : Bool) (a : Reg) (delta : BitVec 20) (slot : BitVec 5) (hi : Issues s (.brz nz a delta slot)) :
    ∃ t, exec (.brz nz a delta slot) s = .next t ∧ RegDone s t 0 (s.hart s.focus).nextPc ((if ((s.hart s.focus).reg a == 0) == !nz then some ((s.hart s.focus).target delta slot) else none : Option Word).getD (s.hart s.focus).nextPc) := by
  rw [exec_brz]
  exact transfer_next hi rfl _
theorem jmp_next (delta : BitVec 27) (slot : BitVec 5) (hi : Issues s (.jmp delta slot)) :
    ∃ t, exec (.jmp delta slot) s = .next t ∧ RegDone s t 0 (s.hart s.focus).nextPc ((some ((s.hart s.focus).target delta slot) : Option Word).getD (s.hart s.focus).nextPc) := by
  rw [exec_jmp]
  exact transfer_next hi rfl _
theorem jal_next (d : Reg) (delta : BitVec 27) (slot : BitVec 5) (hi : Issues s (.jal d delta slot)) :
    ∃ t, exec (.jal d delta slot) s = .next t ∧ RegDone s t d (s.hart s.focus).nextPc ((some ((s.hart s.focus).target delta slot) : Option Word).getD (s.hart s.focus).nextPc) := by
  rw [exec_jal]
  exact transfer_next hi rfl _
theorem jr_next (d a : Reg) (hi : Issues s (.jr d a)) :
    ∃ t, exec (.jr d a) s = .next t ∧ RegDone s t d (s.hart s.focus).nextPc ((some ((s.hart s.focus).reg a) : Option Word).getD (s.hart s.focus).nextPc) := by
  rw [exec_jr]
  exact transfer_next hi rfl _

end Sys2Proof.Machine
end

