-- ==== Sys2Proof/Tests/Slice0.lean ====
section
/-! SUPPORT. Tests and witnesses. The words of instructions, written out from the encodings of 09 to 13 and 24, decode to the
instructions they stand for; one step runs an instruction; a term that is ill formed is refused, one for each check; worked
results of the manual; and, for every obligation with hypotheses, states and operands that meet them, at the ends of their
ranges. The hypotheses are checked as Booleans where the statements have them as propositions (`okIssue`, `okResume`, `okArray`
imply `Issues`, `Resumes`, `ArrayTurn`). -/

namespace Sys2Proof.Tests
open Sys2Proof Sys2Proof.Machine

set_option Elab.async false

/-- A head and its tail decode to an instruction. -/
def reads (h : BitVec 16) (t : BitVec 64) (i : Instr) : Bool := decode h t == .ok i
/-- R184: the reserved major codes are ILL. -/
theorem test_decode_ill : reads 0 0 (.ill 0 0) = true ∧ reads 0xFFFF 7 (.ill 0xFFFF 7) = true := by decide +kernel
/-- Words from the encodings of R198 to R203. -/
theorem test_decode_scalar1 :
    reads 0x0245 0x1470 (.add false 5 5 7) = true ∧
    reads 0x0245 0x1871 (.add true 5 6 7) = true ∧
    reads 0x0441 0x5280 (.sub false 1 20 40) = true ∧
    reads 0x0642 0x5691 (.and true 2 21 41) = true ∧
    reads 0x0843 0x5AA0 (.or false 3 22 42) = true ∧
    reads 0x0A44 0x5EB1 (.xor true 4 23 43) = true ∧
    reads 0x0C45 0x62C0 (.andn false 5 24 44) = true ∧
    reads 0x0E46 0x66D1 (.shl true 6 25 45) = true ∧
    reads 0x1047 0x6AE0 (.shr false 7 26 46) = true ∧
    reads 0x1248 0x6EF1 (.sha true 8 27 47) = true ∧
    reads 0x1449 0x7300 (.rot false 9 28 48) = true ∧
    reads 0x164A 0x7711 (.mul true 10 29 49) = true ∧
    reads 0x1849 0x28B2 (.mulh .su 9 10 11) = true ∧
    reads 0x1A43 0x1054 (.div false false true 3 4 5) = true := by decide +kernel

/-- Words from the encodings of R198 to R203. -/
theorem test_decode_scalar2 :
    reads 0x1C41 0x835 (.minmax true false true 1 2 3) = true ∧
    reads 0x1E49 0x1054 (.cmp .ltu 9 4 5) = true ∧
    reads 0x32C6 0x244140000000 (.sel 6 9 4 5) = true := by decide +kernel

/-- Words from the encodings of R204 to R212. -/
theorem test_decode_imm1 :
    reads 0x2083 0x101FFFFF (.addi true 3 4 0xFFFFF) = true ∧
    reads 0x22C7 0x20089AB (.li .h 7 0x89AB) = true ∧
    reads 0x2482 0xC280001 (.logi .xor 2 3 0x80001) = true ∧
    reads 0x2684 0x10600003 (.shi .sha true 4 4 3) = true ∧
    reads 0x2883 0x10100E08 (.bext true 3 4 8 56) = true ∧
    reads 0x2A83 0x10001000 (.bins 3 4 0 64) = true ∧
    reads 0x2C7F 0x402 (.bitc .ctz 63 1) = true ∧
    reads 0x2E85 0x18300008 (.hdrp 5 6 3 8) = true ∧
    reads 0x3088 0x1C500002 (.hdrx 8 7 5 2) = true ∧
    reads 0x3481 0x3FFFFFF (.addpc 1 0x3FFFFFF) = true := by decide +kernel

/-- Words from the encodings of R181 and R185. -/
theorem test_decode_control1 :
    reads 0x3680 0x425FFFF (.br .geu 1 2 0x7FF 31) = true ∧
    reads 0x3880 0xF000001 (.brz true 3 0x80000 1) = true ∧
    reads 0x3A80 0x80000002 (.jmp 0x4000000 2) = true ∧
    reads 0x3CBE 0x161 (.jal 0x3E 0xB 1) = true ∧
    reads 0x3E7E 0x400 (.jr 62 1) = true := by decide +kernel

/-- Words from the encodings of R185, R186, R67 and R271. -/
theorem test_decode_memory1 :
    reads 0x4088 0x10200000 (.ld .w false .c 8 4 0) = true ∧
    reads 0x4081 0x9500003 (.ld .h true .g 1 2 3) = true ∧
    reads 0x4283 0x4FFFFF8 (.st .d .u 3 1 0xFFFF8) = true ∧
    reads 0x44C5 0x1800CB000010 (.lda .d false .m .package 5 6 0x10) = true ∧
    reads 0x46C5 0x180100FFFFFF (.stl .b .c .system 5 6 0xFFFFFF) = true ∧
    reads 0x48C3 0x284081000001 (.amo .add true .c .island .plain 3 10 4) = true ∧
    reads 0x4AC3 0x284284000000 (.cas false .m .island .acq 3 10 4 0) = true ∧
    reads 0x4CC1 0x83602000003 (.amof .addBf16x2 .g .core .ar 1 2 3) = true ∧
    reads 0x4E40 0x3 (.fence .package) = true ∧
    reads 0x50C3 0x28414B000000 (.waitm .d .m 3 10 4 5 0) = true ∧
    reads 0x52C0 0x4204D000000 (.waitc 13 .cluster 1 2) = true ∧
    reads 0x5480 0x26500040 (.cmaint .ci .mem .gran 9 0x40) = true ∧
    reads 0x56C1 0x80006000008 (.get .w true 1 2 8) = true ∧
    reads 0x58C1 0x80003000008 (.put .d false 1 2 8) = true := by decide +kernel

/-- Words from the encodings of R185, R186, R67 and R271. -/
theorem test_decode_memory2 :
    reads 0x5AC1 0x83002000008 (.ramo .umax false true 1 2 3) = true ∧
    reads 0x5CC5 0x28B012000008 (.ldx .w true .c 5 10 11 8) = true ∧
    reads 0x5EC1 0x83009000004 (.stx .h .m 1 2 3 4) = true := by decide +kernel

/-- Words from the encodings of R185, R33, R137 and R138. -/
theorem test_decode_system1 :
    reads 0x6081 0x41 (.csrr 1 0x41) = true ∧
    reads 0x6280 0x8000017 (.csrw 0x17 2) = true ∧
    reads 0x6481 0x820000A (.csrx .clr 1 0xA 2) = true ∧
    reads 0x6680 0xFFFFF (.trap 0xFFFFF) = true ∧
    reads 0x6800 0x0 (.eret) = true ∧
    reads 0x6A40 0x1400 (.idle 5) = true ∧
    reads 0x6C80 0x7 (.ckpt 7) = true ∧
    reads 0x6E46 0x1C00 (.rmread 6 7) = true ∧
    reads 0x7003 0x0 (.rmack 3) = true ∧
    reads 0x7204 0x0 (.time 4) = true ∧
    reads 0x7400 0x0 (.snap) = true ∧
    reads 0x7640 0x1C80 (.tlbi (.va 7 8)) = true ∧
    reads 0x7640 0x82 (.tlbi (.ctx 8)) = true ∧
    reads 0x7846 0x1 (.ien true 6) = true := by decide +kernel

/-- Words from the encodings of R185, R33, R137 and R138. -/
theorem test_decode_system2 :
    reads 0x7A80 0x1 (.sysc 1) = true ∧
    reads 0x7C80 0x28000000 (.nrowOpen 10 0) = true ∧
    reads 0x7C80 0x100000 (.nrowClose) = true ∧
    reads 0x7E4C 0x2CD0 (.nlut false 12 11 13) = true := by decide +kernel

/-- Words from the encodings of R225 to R240. -/
theorem test_decode_array1 :
    reads 0x8101 0x50001E246800000 (.pcmp 1 ⟨1, none⟩ .mov (.imm 0 15 0x1234)) = true ∧
    reads 0x8300 0xA9811E000000000 (.pset ⟨2, some 3⟩ (.ky 8 15)) = true ∧
    reads 0x8504 0x485450000F400 (.pcs 4 ⟨0, none⟩ .or [(10, true), (20, false)] [(30, true)]) = true ∧
    reads 0x8641 0x833 (.top (.andn 1 2 3)) = true ∧
    reads 0x8881 0x8507FFF (.tshf (.dn true 0x7FFF) 1 2) = true ∧
    reads 0x8881 0x8200003 (.tshf (.lane 3) 1 2) = true ∧
    reads 0x8A45 0x1842 (.tcnt 5 6 2 (some 3)) = true ∧
    reads 0x8C45 0x1801 (.tany 5 6 1 none) = true ∧
    reads 0x8E45 0x405 (.tfirst true 5 1 1 none) = true ∧
    reads 0x9040 0x423 (.span 3 1 2) = true ∧
    reads 0x9047 0x6 (.spanRd 7 2) = true ∧
    reads 0x9240 0x2 (.seg .four) = true ∧
    reads 0x9249 0x4 (.segRd 9) = true ∧
    reads 0x9440 0x2803 (.key 3 10) = true := by decide +kernel

/-- Words from the encodings of R225 to R240. -/
theorem test_decode_array2 :
    reads 0x9700 0xF9910A00000001 (.cfill ⟨0, some 15⟩ 200 33 (.imm 0x200000001)) = true ∧
    reads 0x970C 0x10011FC00000000 (.cfill ⟨1, none⟩ 8 63 (.reg 12)) = true ∧
    reads 0x98C1 0x80001647F00 (.cread true 1 2 100 31 3) = true ∧
    reads 0x9AC0 0x83000647D00 (.cwrite 2 3 100 31 1) = true ∧
    reads 0x9D00 0x3001429FE000000 (.fmov ⟨3, none⟩ 10 20 255) = true ∧
    reads 0x9F00 0x1C14280E00000 (.frot ⟨0, none⟩ 14 10 20 7) = true ∧
    reads 0xA0C0 0x420C30000FA (.ttld 250 (.three 1 2 3)) = true ∧
    reads 0xA300 0x48E47FF01020304 (.ttrun true ⟨0, some 1⟩ 200 31 63 1 2 3 4) = true ∧
    reads 0xA4C3 0x2000063 (.tload 3 2 99) = true ∧
    reads 0xA6C3 0x1000063 (.tstore 3 1 99) = true ∧
    reads 0xA900 0x40014280E000000 (.xrow true ⟨0, none⟩ 10 20 7) = true := by decide +kernel

/-- Words from the encodings of R243 and R244. -/
theorem test_decode_macro1 :
    reads 0xC100 0x2A80810001D0280 (.aadd ⟨2, some 5⟩ 1 2 3 .fp32 .rup true) = true ∧
    reads 0xC300 0x2A80810001A0000 (.asub ⟨2, some 5⟩ 1 2 3 .i64 .rne false) = true ∧
    reads 0xC500 0x2A80800101B8000 (.aaddk ⟨2, some 5⟩ 1 2 3 ⟨.u16, .rne, false⟩) = true ∧
    reads 0xC700 0x2A8081018260100 (.amul ⟨2, some 5⟩ 1 2 3 4 .bf16 .rtz false) = true ∧
    reads 0xC900 0x2A8081018230000 (.amulk ⟨2, some 5⟩ 1 2 3 4 .u8 .rne false) = true ∧
    reads 0xCB00 0x2A8081018276B00 (.amac ⟨2, some 5⟩ 1 2 3 4 .e4m3 .e5m2 .rdn false) = true ∧
    reads 0xCD00 0x4001C0008801 (.amack ⟨0, none⟩ 8 0 56 0 .i8 .i8 .rne false 1) = true ∧
    reads 0xCF00 0x2A8081018258080 (.afma ⟨2, some 5⟩ 1 2 3 4 .fp16 .rne true) = true ∧
    reads 0xD100 0x2A8081018256400 (.acvt ⟨2, some 5⟩ 1 2 3 4 .fp32 .bf16 .ef false) = true ∧
    reads 0xD309 0x12A8001018218001 (.acmp .gt 9 ⟨2, some 5⟩ 2 3 4 ⟨.i32, .rne, false⟩ .and) = true ∧
    reads 0xD500 0x6A80810001A8000 (.aminmax true ⟨2, some 5⟩ 1 2 3 ⟨.u4, .rne, false⟩) = true ∧
    reads 0xD700 0x2A8080000140000 (.ared ⟨2, some 5⟩ 1 2 .u32 .rne false) = true ∧
    reads 0xD900 0x2A808143807887E (.aspmac ⟨2, some 5⟩ 1 2 7 2 63 0 .ql4 .i8 ⟨.rne, false⟩) = true ∧
    reads 0xD900 0x400000000000003 (.aspmacLdx 3) = true := by decide +kernel

/-- Words from the encodings of R243 and R244. -/
theorem test_decode_macro2 :
    reads 0xD900 0x800000000000000 (.aspmacLdm) = true ∧
    reads 0xD500 0x6A80810001D0400 (.aminmax true ⟨2, some 5⟩ 1 2 3 ⟨.fp32, .ef, false⟩) = true ∧
    reads 0xD500 0x6A80810001D0180 (.aminmax true ⟨2, some 5⟩ 1 2 3 ⟨.fp32, .rtz, true⟩) = true ∧
    reads 0xDB00 0x2A8081000001003 (.alut ⟨2, some 5⟩ 1 2 ⟨.i16, .rne, false⟩ 3) = true ∧
    reads 0xDD00 0x2A8080000100001 (.aresolve ⟨2, some 5⟩ 1 2 1) = true ∧
    reads 0xDF00 0x2A808101827D000 (.aqdec ⟨2, some 5⟩ 1 2 3 4 .ql4 .fp32 ⟨.rne, false⟩) = true := by decide +kernel

/-- Words from the encodings of R185, R282, R284 and R305. -/
theorem test_decode_task1 :
    reads 0xE040 0x2402 (.cpy .island 9) = true ∧
    reads 0xE2C0 0x420D0000005 (.afill .sc16 .m .core 1 2 3) = true ∧
    reads 0xE4C0 0x420DC000006 (.aspill .bf16 .u .system 1 2 3) = true ∧
    reads 0xE641 0x800 (.mbwait 1 2) = true ∧
    reads 0xE841 0x800 (.mbpop 1 2) = true ∧
    reads 0xEAC0 0x105183000010 (.msend 3 16 4 5 6) = true ∧
    reads 0xEC40 0x1C06 (.bar 2 true 7) = true ∧
    reads 0xEE40 0x2000 (.larm 8) = true ∧
    reads 0xF080 0x242000E4 (.qbind 9 2 0xE4) = true ∧
    reads 0xF2C0 0x28B300000000 (.tenq 10 11 12) = true ∧
    reads 0xF440 0xC00 (.tnext 3) = true ∧
    reads 0xF640 0xC40 (.tsteal 3 4) = true ∧
    reads 0xF800 0x0 (.tend) = true ∧
    reads 0xFA81 0x8F00000 (.qstat 1 2 15) = true := by decide +kernel

/-! ### Reset and steps -/

/-- A step at a line placed with `withFetchWord`: ADD g5, g5, g7 of R198, with 3 and 4 in the registers, writes 7 and goes to the
next head (R180: the line has one head, so head 1 of the next line). -/
theorem test_step_runs_add :
    (match step ((State.reset.withFetchWord 32 0x14700245).updHart (.far 0) fun h => (h.setReg 5 3).setReg 7 4) with
     | .next t => (t.hart (.far 0)).reg 5 == 7 && (t.hart (.far 0)).pc == 0x10042
     | _ => false) = true := by decide +kernel
/-- R184: the all-zero head traps ILLEGAL_INSN with reason 1; in U with nothing delegated it enters the S handler. -/
theorem test_step_traps_zero_head :
    (match step (State.reset.withFetchWord 16 0) with
     | .next t => (t.hart (.far 0)).cause == 1 && (t.hart (.far 0)).info.i2 == 1 && (t.hart (.far 0)).priv && (t.hart (.far 0)).trapPc == 0x10002
     | _ => false) = true := by decide +kernel
/-- The state after reset has memory in canonical form, hub cores in S and far cores in U (R312). -/
theorem test_reset : Memory.wf State.reset.mem = true ∧ (State.reset.hart (.hub 0)).priv = true ∧ (State.reset.hart (.far 0)).priv = false := by
  decide +kernel

/-! ### Ill-formed instructions: one for each check -/

/-- The terms that `Instr.flaw` refuses, by R178, R184, R185, R208, R211, R221, R237, R239, R240, R244, R245 and R305. -/
theorem test_ill_formed :
    ([.ill 0x0200 0, .li .h 1 0x10000, .cmaint .ci .l1i .line 1 0, .shi .shl true 1 2 32, .bext false 1 2 60 5, .bins 1 2 0 0, .hdrx 1 2 7 0,
      .hdrx 1 2 6 2, .hdrp 1 2 5 1, .ld .d true .c 1 2 0, .lda .d true .c .core 1 2 0, .ldx .d true .c 1 2 3 0,
      .pcmp 1 ⟨0, none⟩ .mov (.pairs []), .pcmp 1 ⟨0, none⟩ .mov (.imm 0 0 2), .pset ⟨0, none⟩ (.pairs [(1, true), (2, true), (3, true)]),
      .pset ⟨0, none⟩ (.imm 0 3 16), .pcs 1 ⟨0, none⟩ .mov [] [(1, true)], .frot ⟨0, none⟩ 15 0 8 7, .ttld 251 (.three 1 2 3),
      .ttrun false ⟨0, none⟩ 250 6 0 1 2 3 4, .aadd ⟨0, none⟩ 0 8 16 .i8 .rtz false, .amac ⟨0, none⟩ 0 32 40 48 .i8 .i8 .rne true,
      .amack ⟨0, none⟩ 0 32 40 0 .i8 .i8 .rne false 3, .amack ⟨0, none⟩ 0 32 40 48 .e4m3 .e4m3 .rne false 1,
      .amack ⟨0, none⟩ 0 32 40 48 .i8 .i8 .rne false 0, .acvt ⟨0, none⟩ 0 32 64 96 .fp32 .bf16 .rne false,
      .acvt ⟨0, none⟩ 0 32 0 96 .i32 .i8 .rup false, .aresolve ⟨0, none⟩ 0 48 3, .aspmac ⟨0, none⟩ 0 32 0 3 0 0 .i8 .i8 ⟨.rne, false⟩,
      .aqdec ⟨0, none⟩ 0 8 16 32 .i8 .i8 ⟨.rtz, false⟩, .msend 14 8 1 2 3, .msend 0 65 1 2 3, .bar 0 false 1] : List Instr).all (fun i => !i.wf) = true := by
  decide +kernel

/-! ### Small states, and hypotheses as Booleans -/

/-- A page of 64 KiB at 0x10000, readable and writable in U. -/
def tPage : TlbEntry :=
  { shift := 16, vpn := 1, ppn := 1, mt1 := false, gl := true, us := true, ex := true, wr := true, rd := true, tag := 0 }
def tHart : Hart := { pc := 0x1002, active := true, priv := true, tlb := [tPage], regs := [(1, 0x10040), (2, 5), (3, 9)] }
/-- Far core 5 in S, near context 0 of home 16 in U, and hub core 4. -/
def tFar : State := { focus := .far 5, harts := [(5, tHart)] }
def tNear : State := { focus := .near 16 0, harts := [(4128, { tHart with priv := false, tlb := [] })], units := [(16, { tlb := [tPage] })] }
def tHub : State := { focus := .hub 4, harts := [(8196, { tHart with tlb := [] })], hub := { tlb := [tPage] } }
def onHart (s : State) (f : Hart → Hart) : State := s.updHart s.focus f
def inU (s : State) : State := onHart s fun h => { h with priv := false }
def regsAt (s : State) (l : List (Nat × Word)) : State := onHart s fun h => { h with regs := l }
def ovl (s : State) : State := { s with overlap := true }
def withMem (s : State) (a n v : Nat) : State := { s with mem := memWrite s.mem a n v }
/-- Context 3 with vcore 2 on core 5 and vcore 4 on core 9. -/
def tCtx : Context := { st := .running, nv := 8, placed := [(2, 5), (4, 9)] }
def tRun (s : State) : State :=
  { s with harts := [(5, { s.hart (.far 5) with ctxid := 3 }), (9, { ctxid := 3 })], ctxs := [(3, some tCtx)]
           fars := [(5, { s.far 5 with placed := true, vcore := 2 }), (9, { placed := true, vcore := 4 })] }
/-- An array with a few rows and spans. -/
def tArr (m : LaneMode) : State :=
  { tFar with fars := [(5, { arr := { rows := [(0, 0x1234), (2, 0xFFFF), (32767, 7)], tags := [(1, 0x5A5A)], spans := [(0, (0, 6)), (2, (32767, 1))]
                                      ky := 0x99, lanes := m, smask := 0xF } })] }

/-- `Issues`, checked. -/
def okIssue (s : State) (i : Instr) : Bool :=
  inProfile s.focus i.major && (!needsS i.major || (s.hart s.focus).priv) && !s.hazard s.focus i && (s.lostRead s.focus i).isNone &&
    !s.lostDest s.focus i && !(s.hart s.focus).begun && s.permitHere i
theorem okIssue_issues {s : State} {i : Instr} (h : okIssue s i = true) : Issues s i := by
  simp only [okIssue, Bool.and_eq_true, Bool.or_eq_true, Bool.not_eq_true', Option.isNone_iff_eq_none] at h
  obtain ⟨⟨⟨⟨⟨⟨h1, h2⟩, h3⟩, h4⟩, h5⟩, h6⟩, h7⟩ := h
  exact ⟨h1, fun hn => h2.resolve_left (by simp [hn]), h3, h4, h5, h6, h7⟩
/-- `Resumes`, checked. -/
def okResume (s : State) (i : Instr) : Bool :=
  inProfile s.focus i.major && (!needsS i.major || (s.hart s.focus).priv) && !s.hazard s.focus i && (s.lostRead s.focus i).isNone &&
    !s.lostDest s.focus i && (s.hart s.focus).wait.isSome
theorem okResume_resumes {s : State} {i : Instr} (h : okResume s i = true) : Resumes s i := by
  simp only [okResume, Bool.and_eq_true, Bool.or_eq_true, Bool.not_eq_true', Option.isNone_iff_eq_none] at h
  obtain ⟨⟨⟨⟨⟨h1, h2⟩, h3⟩, h4⟩, h5⟩, h6⟩ := h
  exact ⟨h1, fun hn => h2.resolve_left (by simp [hn]), h3, h4, h5, h6⟩
/-- An array instruction issues to an engine with nothing in it: `ArrayTurn`, checked. -/
def okArray (s : State) (i : Instr) : Bool :=
  let f := s.far 5
  let v := i.reads.map (s.reg (.far 5))
  s.focus == .far 5 && okIssue s i && !s.overlap && f.aq == [] && f.arun == none && f.aheld == 0 &&
    fitsCurrent (arrayUnits f.arr.lanes i) (s.cluster (clusterOf 5)).heldUnits (s.cluster (clusterOf 5)).budget.toNat &&
    f.arr.fieldSpec i (v.getD 0 0) (v.getD 1 0) v == none && s.ringFlaw 5 i == none &&
    !s.sbHas (.far 5) (fun e => isFormat e.pa && (windowCore e.pa == 5 || windowCore e.pa == ringOf 5 i)) &&
    ((List.range 32).all fun j => j == 10 || (s.clusterWants (clusterOf 5) j).isNone) && decide (s.requestPri (clusterOf 5) 10 ≤ 3)
theorem okArray_turn {s : State} {i : Instr} (h : okArray s i = true) : ArrayTurn s 5 i := by
  simp only [okArray, Bool.and_eq_true, Bool.or_eq_true, Bool.not_eq_true', beq_iff_eq, List.all_eq_true, List.mem_range, Option.isNone_iff_eq_none,
    decide_eq_true_eq] at h
  obtain ⟨⟨⟨⟨⟨⟨⟨⟨⟨⟨⟨h1, h2⟩, h3⟩, h4⟩, h5⟩, h6⟩, h7⟩, h8⟩, h9⟩, h10⟩, h11⟩, h12⟩ := h
  exact ⟨h1, okIssue_issues h2, h3, h4, h5, h6, h7, h8, h9, h10, fun j hj hn => (h11 j hj).resolve_left hn, h12⟩
/-- A result that is an answer with a property. -/
def gives {α : Type} (x : Res α) (p : α → State → Bool) : Bool := match x with | .ok a s => p a s | _ => false
theorem gives_ok {α : Type} {x : Res α} {p : α → State → Bool} (h : gives x p = true) : ∃ a s, x = .ok a s ∧ p a s = true := by
  cases x with
  | ok a s => exact ⟨a, s, rfl, h⟩
  | trap t s => exact absurd h (by simp [gives])
  | wait s => exact absurd h (by simp [gives])
def givesEng {α : Type} (x : EngRes α) (p : α → State → Bool) : Bool := match x with | .ok a s => p a s | _ => false
/-- `homeServes`, checked. -/
def serves (s : State) (pa : Nat) : Bool :=
  !s.homeLost (homeOf pa) && !(s.mscAt (pa / 64)).host && !s.heldOn (64 * (pa / 64)) 64 && (s.mscVictim (pa / 64)).isNone && s.bad == []

/-! ### Worked examples of the manual, one step each -/

/-- The results that R200 prints for DIV. -/
theorem test_div_results :
    ([(.div false false false 7 1 2, 0xFFFFFFFFFFFFFFF9, 2, 0xFFFFFFFFFFFFFFFD), (.div false false true 7 1 2, 0xFFFFFFFFFFFFFFF9, 2, 0xFFFFFFFFFFFFFFFF),
      (.div false true false 7 1 2, 0xFFFFFFFFFFFFFFF9, 2, 0x7FFFFFFFFFFFFFFC), (.div false false false 7 1 2, 25, 0, 0xFFFFFFFFFFFFFFFF),
      (.div false false true 7 1 2, 25, 0, 25), (.div false false false 7 1 2, 0x8000000000000000, 0xFFFFFFFFFFFFFFFF, 0x8000000000000000),
      (.div false false true 7 1 2, 0x8000000000000000, 0xFFFFFFFFFFFFFFFF, 0), (.div true true false 7 1 2, 0xFFFFFFFF, 0, 0xFFFFFFFFFFFFFFFF),
      (.div true false false 7 1 2, 0x80000000, 0xFFFFFFFF, 0xFFFFFFFF80000000)] : List (Instr × Word × Word × Word)).all (fun (i, a, b, v) =>
      match exec i (regsAt tFar [(1, a), (2, b)]) with | .next t => (t.hart (.far 5)).reg 7 == v | _ => false) = true := by decide +kernel
/-- The worked AMACK of 12: weight -7, key 5, wa 24, four lanes: S + C of lane 0 is 0xFFFFDD. -/
theorem test_amack_worked :
    (match exec (.amack ⟨0, none⟩ 8 0 56 0 .i8 .i8 .rne false 1)
        { tFar with fars := [(5, { arr := { rows := [(0, 0xF9)], spans := [(0, (0, 1))], ky := 0x0500000000000000, lanes := .four } })] } with
     | .next t => let a := (t.far 5).arr; (a.field 0 0 8 24 + a.field 0 0 32 24) % 2 ^ 24 == 0xFFFFDD
     | _ => false) = true := by decide +kernel

/-- R95: rnd:ef in a floating macro that is no conversion traps FIELD_SPEC with reason 7. -/
theorem test_ef_elsewhere :
    (match exec (.aminmax true ⟨0, none⟩ 0 32 64 ⟨.fp32, .ef, false⟩) (tArr .one) with
     | .next t => (t.hart (.far 5)).cause == 0x0B && (t.hart (.far 5)).info.i2 == 7
     | _ => false) = true := by decide +kernel
/-- R78: a NaN of any bits leaves a window of BF16 as the quiet NaN of R78. -/
theorem test_window_nan : winReadConv 6 0xFFC1 = 0x7FC00000 ∧ winReadConv 6 0x3F80 = 0x3F800000 := by decide

/-! ### Witnesses: states and operands that meet the hypotheses of each statement -/

/-- StepKeepsMemoryCanonical: a state with memory in its canonical form, from which a step goes on. -/
theorem test_witness_canonical :
    (let s := State.reset.withFetchWord 32 0x14700245
     Memory.wf s.mem && (match step s with | .next _ => true | _ => false)) = true := by decide +kernel
/-- DecodeEncode: a well-formed encoded instruction. -/
theorem test_witness_roundtrip : (Instr.add false 5 5 7).wf = true ∧ (Instr.add false 5 5 7).isEvent = false := by decide +kernel
/-- StepRunsDecoded: the agent's line held, the line to be fetched, no turn listed, an event, and a near unit with both contexts ready and with none. -/
theorem test_witness_step :
    (let l := oneLine 0x0245 0x1470
     let s := onHart tFar fun h => { h with line := some (0x1000, l) }
     let f := onHart tFar fun h => { h with pc := 0x10002, priv := false }
     let h := s.hart s.focus
     (h.active && !h.stopped && h.pend.isNone && (s.boundary s.focus).isNone && h.line == some (h.pc &&& ~~~63, l) && (lineFlaw l).isNone && lineN l == 1 &&
       decode (lineHead l 1) (lineTail l 1) == .ok (.add false 5 5 7)) &&
     (let g := withMem f 0x10000 64 l.toNat
      (g.hart g.focus).line.isNone && gives (g.fetchNew g.focus 0x10000) fun m u =>
        decode (lineHead m ((u.hart g.focus).pc.toNat % 64 / 2)) (lineTail m ((u.hart g.focus).pc.toNat % 64 / 2)) == .ok (.add false 5 5 7)) &&
     (let n : State := { tNear with harts := [(4128, { tHart with priv := false }), (4129, { tHart with priv := false })] }
      n.nearReady 16 0 && n.nearReady 16 1 && (n.nearSlot 16).isSome && (n.nearSlot 17).isNone) &&
     Instr.isEvent .forecastUpdate) = true := by decide +kernel
/-- IssueRules: outside the profile, without the privilege, a rejected head (tail class and reserved form), and a pending result. -/
theorem test_witness_issue :
    (!inProfile (.near 16 0) Instr.eret.major && !inProfile (.hub 4) Instr.tend.major && !inProfile (.far 5) Instr.nrowClose.major &&
     (inProfile (.far 5) Instr.snap.major && Instr.snap.major == 0x3A && !((inU tFar).hart (.far 5)).priv) &&
     Instr.isEvent (.ill 0 0) == false &&
     decode 0x0205 0x1470 == .bad 2 && decode 0x2C40 0x0403 == .bad 4 && inProfile (.far 5) (0x2C40 / 512) &&
     (let s := ovl { tFar with fars := [(5, { aq := [{ instr := .tcnt 7 0 0 none }] })] }
      inProfile s.focus 1 && s.hazard s.focus (.add false 3 7 1))) = true := by decide +kernel
/-- Arithmetic, Shifts, MulhHighHalf, DivTruncates, ChoiceAndImmediates, Fields, BitCounts and ControlTransfers: the instructions
issue, on a far core, on a near context and on a hub core, where the profile has them. -/
theorem test_witness_scalar :
    ([tFar, tHub, tNear].all fun s => ([.add false 7 1 2, .add true 7 1 2, .sub false 7 1 2, .sub true 7 1 2, .mul false 7 1 2, .mul true 0 1 2,
      .and false 7 1 2, .or true 7 1 2, .xor false 7 1 2, .andn true 7 1 2, .logi .and 7 1 0xFFFFF, .logi .or 7 1 1, .logi .xor 7 1 1,
      .shl false 7 1 2, .shl true 7 1 2, .shr false 7 1 2, .sha true 7 1 2, .rot false 7 1 2, .shi .shl false 7 1 63, .shi .rot true 7 1 31,
      .mulh .ss 7 1 2, .mulh .uu 7 1 2, .mulh .su 7 1 2, .div false false false 7 1 2, .div true true true 7 1 2, .minmax false true false 7 1 2,
      .cmp .geu 7 1 2, .sel 7 1 2 3, .addi true 7 1 0x80000, .li .s 7 0x800000, .li .m 7 1, .li .h 7 0xFFFF, .addpc 7 0x2000000,
      .bext true 7 1 0 64, .bins 7 1 63 1, .bitc .pop 7 1, .bitc .clz 7 1, .bitc .ctz 7 1, .hdrx 7 1 6 1, .hdrp 7 1 0 0, .br .eq 1 2 0x400 31,
      .brz true 1 0x80000 1, .jmp 0x4000000 31, .jal 62 3 1, .jr 7 1] : List Instr).all (okIssue s)) = true := by decide +kernel
/-- The 32-bit clauses of MulhHighHalf: operands that are extended 32-bit numbers. -/
theorem test_witness_mulh : (0xFFFFFFFF80000000#64 = (0x80000000#32).signExtend 64) ∧ (0xFFFFFFFF#64 = (0xFFFFFFFF#32).zeroExtend 64) := by decide
/-- TrapEntry: nothing in progress; a trap may enter a handler; S with IE clear; a hub core; a near context that delegates, and one
that does not, with a task; and a core with an array instruction or a GET still to write its result. -/
theorem test_witness_traps :
    (let h := tFar.hart (.far 5)
     let n := (onHart tNear fun h => { h with deleg := 0x40 }).hart (.near 16 0)
     tFar.caughtUp (.far 5) && !(ovl { tFar with fars := [(5, { aq := [{ instr := .tcnt 7 0 0 none }] })] }).trapReady (.far 5) && h.wait.isNone && h.monitor.isNone && (!h.priv || h.ie) && ((tHub.hart (.hub 4)).priv && (tHub.hart (.hub 4)).ie) &&
     (!n.priv && n.deleg.getLsbD 6 && !n.h && n.wait.isNone && n.monitor.isNone) &&
     (let s : State := { tNear with nears := [(32, { task := some {} })] }
      !(s.hart (.near 16 0)).deleg.getLsbD 6 && (s.near 16 0).task.isSome)) = true := by decide +kernel
/-- SoftwareTraps and EretReturns. -/
theorem test_witness_software :
    ([tFar, inU tFar, tHub].all (fun s => s.caughtUp s.focus && okIssue s (.trap 0xFFFFF) && okIssue s (.sysc 0) && okIssue s .eret) &&
     (let n := onHart tNear fun h => { h with deleg := 0x2000 }
      n.caughtUp n.focus && okIssue n (.trap 1) && (n.hart n.focus).deleg.getLsbD 0x0D)) = true := by decide +kernel
/-- CsrReads and CsrWrites: every register is read where it is held, and written in S; absent numbers; U. -/
theorem test_witness_csrs :
    (let s : State := { tRun tFar with overlap := true }
     (([0, 1, 2, 3, 4, 5, 6, 7, 8, 9, 0xA, 0x10, 0x11, 0x12, 0x13, 0x14, 0x15, 0x16, 0x17, 0x18, 0x19, 0x1A, 0x1B, 0x20, 0x21, 0x22, 0x23] : List (BitVec 12)).all
       fun n => okIssue s (.csrr 7 n) && okIssue s (.csrw n 1) && okIssue s (.csrx .set 7 n 1)) && s.arrayIdle 5 && (s.ctx (s.hart (.far 5)).ctxid.toNat).isSome &&
     (([0, 1, 2, 7, 9, 0x11, 0x17] : List (BitVec 12)).all fun n => okIssue tNear (.csrr 7 n)) &&
     (([2, 3, 4, 5, 6] : List (BitVec 12)).all fun n => !csrWriteS n.toNat && okIssue tNear (.csrw n 1) && okIssue (inU tFar) (.csrx .clr 7 n 1)) &&
     (([0, 1, 8, 0xA, 0x17, 0x40, 0x41] : List (BitVec 12)).all fun n => okIssue tHub (.csrr 7 n)) &&
     (([0, 1, 2, 7, 9, 0x14, 0x16, 0x17] : List (BitVec 12)).all fun n => okIssue tFar (.csrw n 1)) && okIssue tHub (.csrx .clr 7 0xA 1) &&
     !csrPresent (.far 5) 0x40 && !csrPresent (.near 16 0) 0x10 && !csrPresent (.hub 4) 7 &&
     (([0, 7, 9, 0x17] : List (BitVec 12)).all fun n => csrPresent (.far 5) n.toNat && okIssue (inU tFar) (.csrw n 1))) = true := by decide +kernel
/-- StatusAndMapReads: RMACK of the current, an older and a newer version. -/
theorem test_witness_status :
    (okIssue tFar (.ien true 7) && okIssue tNear (.time 7) && okIssue tHub (.rmread 7 1) &&
     (let s : State := { regsAt tFar [(1, 7)] with ctxs := [(0, some { pend := true })], hub := { rmap := [(0, 7)] } }
      okIssue s (.rmack 1) && (s.ctx (s.agentCtx s.focus)).isSome && s.mapVersion == 7 && seqLe 7 s.mapVersion && seqLe 5 s.mapVersion &&
        !seqLe 8 s.mapVersion)) = true := by decide +kernel
/-- SnapAndTlbi. -/
theorem test_witness_snap_tlbi :
    (([tFar, tHub] : List State).all (fun s => okIssue s .snap && !s.overlap && !s.hub.snapBusy &&
       ([.va 1 2, .vag 1, .ctx 2, .all] : List TlbiOp).all fun op => okIssue s (.tlbi op) && gives (s.fence s.focus .package) fun _ u =>
         (u.hart s.focus).wait.isNone && (u.fars.all fun p => p.2.sb.isEmpty) && u.islands.all (fun p => p.2.walks.isEmpty) && u.hub.walks == [])) =
      true := by decide +kernel
/-- IdleAndCkptGoOn. -/
theorem test_witness_idle :
    (okIssue { tHub with hub := { cores := [(4, { latch := true })] } } (.idle 1) && okIssue tFar (.idle 0) && !tFar.dispatches 0 &&
     (let s : State := { tRun tFar with fars := [(5, { coreQ := [{}], placed := true })] }
      s.dispatches (s.coreCtx 5) && ((s.farSearch 5).far 5).coreQ != [] && okIssue s (.idle 1)) && okIssue tFar (.ckpt 3)) = true := by
  decide +kernel
/-- MisalignedFirst: odd addresses, on each kind of agent. -/
theorem test_witness_misaligned :
    (([tFar, tNear, tHub].all fun s => let s := regsAt s [(1, 0x10041), (2, 3)]
       ([.ld .h false .c 7 1 2, .st .d .u 7 1 0, .ldx .w true .g 7 1 2 0, .stx .w .m 7 1 2 0, .amo .add true .c .core .plain 7 1 2,
         .cas false .c .core .plain 7 1 2 0, .amof .addF32 .c .core .plain 7 1 2, .waitm .w .c 7 1 2 3 0] : List Instr).all (okIssue s)) &&
     (let s := regsAt tFar [(1, 0x10041), (2, 3)]
      ([.get .d false 7 1 0, .put .d false 7 1 0, .ramo .add true false 7 1 2] : List Instr).all (okIssue s))) = true := by decide +kernel
/-- MisalignedFirst, the traps that follow: an entry that denies, an answer of a walk, a walk that faults at its root, a reserved alias op, an
alias op that takes no atomic and one no load, an alias store that is too narrow, CNT read as a word, windows 0, 1, 2, 5, 6 and 7 of a live core, a
core that is not live, the control region, the host region, and another island. -/
theorem test_witness_access_traps :
    (let on := fun (ppn : Nat) (s : State) => onHart s fun h => { h with tlb := [{ tPage with ppn := ppn }] }
     let win := fun (c w : Nat) => (2 ^ 49 + c * 2 ^ 23 + w * 2 ^ 20) / 65536
     let meets := fun (s : State) (i : Instr) (kind pa : Nat) => okIssue s i && (s.hart s.focus).hostLds == [] && (s.hart s.focus).monitor.isNone &&
       gives (s.translate s.focus 0x10040 kind) fun e z => e.pa 0x10040 == pa && z.coreLive 5
     let ld := Instr.ld .d false .c 7 1 0
     let st := fun (w : Width) => Instr.st w .c 2 1 0
     let amo := Instr.amo .add true .c .core .plain 7 1 2
     let wait := Instr.waitm .w .c 7 1 2 3 0
     let a := fun (op : Nat) => 2 ^ 32 + op * 2 ^ 24
     (([(a 11, ld, 0), (a 1, amo, 2), (a 9, wait, 0), (a 8, ld, 0), (a 1, st .h, 1), (a 2, st .w, 1), (a 9, st .d, 1), (a 10, wait, 0), (a 0 + 2 ^ 20, ld, 0),
         (win 5 7, ld, 0), (win 5 0, amo, 2), (win 5 5, ld, 0), (win 5 5, st .d, 1), (win 5 6, st .h, 1), (win 5 1 + 8, ld, 0), (win 5 2 + 8, st .d, 1), (win 300 0, ld, 0),
         (0x300000000, amo, 2), (2 ^ 35, wait, 0), (2 ^ 20, st .d, 1)] : List (Nat × Instr × Nat)).all fun (ppn, i, kind) => meets (on ppn tFar) i kind (65536 * ppn + 0x40)) &&
     meets { tNear with units := [(16, { tlb := [{ tPage with ppn := win 5 0 }] })] } ld 0 (65536 * win 5 0 + 0x40) &&
     meets { tHub with hub := { tlb := [{ tPage with ppn := 2 ^ 35 }] } } amo 2 (2 ^ 51 + 0x40) &&
     !({ tFar with hub := { rmap := [(18, 0)] } } : State).coreLive 5 && (Agent.far 5).island == some 0 &&
     (let deny := fun (f : TlbEntry → TlbEntry) => onHart tFar fun h => { h with tlb := [f tPage] }
      (deny fun e => { e with rd := false }).tlbLookup (.far 5) 0x10040 (tFar.xlatTag (.far 5)) == some { tPage with rd := false } &&
      okIssue (deny fun e => { e with wr := false }) (st .d) && okIssue (inU (deny fun e => { e with us := false })) ld) &&
     (let miss := onHart tFar fun h => { h with tlb := [] }
      let told := onHart miss fun h => { h with walkFault := some { page := 1, tag := 0, kind := 0, cause := 6, info := ⟨0, 3, 4, 0⟩ } }
      okIssue miss ld && okIssue told ld && (miss.tlbLookup (.far 5) 0x10040 (miss.xlatTag (.far 5))).isNone && miss.xlatTag (.far 5) == 0 && (0x10040#64 >>> 16) == 1 &&
      !miss.walkCovers (walkUnit (.far 5)) 0 0x10040 && miss.walkFree (.far 5) &&
      match (miss.walkPast (.far 5)).walk (miss.hart (.far 5)).root 0x10040 0 with | .ok (.fault _ _) _ => true | _ => false)) = true := by decide +kernel
/-- LoadsComplete. -/
theorem test_witness_loads :
    ([tFar, tNear, tHub].all fun s => [Policy.c, .g, .m, .u].all fun p =>
      okIssue s (.ld .w false p 7 1 0) && okIssue s (.ldx .b false p 7 1 2 0) && okIssue s (.lda .d false p .island 7 1 0) &&
      (gives (s.access s.focus 0x10040 4 0 .load p true) fun acc u => gives (u.loadIssue s.focus acc 4 p) fun _ v => !v.lostDest s.focus (.ld .w false p 7 1 0)) &&
      (gives (s.access s.focus 0x10045 1 0 .load p true) fun acc u => gives (u.loadIssue s.focus acc 1 p) fun _ _ => true) &&
      (gives (s.acquireOrder s.focus .island) fun _ r => gives (r.access s.focus 0x10040 8 0 .load p true) fun acc u =>
        gives (u.loadIssue s.focus acc 8 p) fun _ _ => true)) = true := by decide +kernel
/-- L1LoadsAndStores. -/
theorem test_witness_l1 :
    (let e : SbEntry := { pa := 0x10044, n := 8, data := 1, pol := .c }
     let s : State := { tFar with fars := [(5, { l1d := [(0x401, { data := 5, valid := 3 })] })] }
     let t : State := { tFar with fars := [(5, { l1d := [(0x401, { data := 5, valid := 3 })], sb := [e] })], islands := [(0, { l2 := [(0x401, { data := 5, valid := 3 })] })] }
     okIssue s (.ld .h true .c 7 1 2) && (gives (s.access (.far 5) 0x10042 2 0 .load .c true) fun acc u => u == s && isDevice acc.pa && !acc.mt1 &&
       acc.pa % 2 == 0 && (s.l1At 5 (acc.pa / 64)).valid.getLsbD 0) &&
     !s.ownOnBytes (.far 5) 0x10042 2 && s.bad == [] && t.l1Holders 0 0x401 == [5] && mhas (t.island 0).l2 0x401 && !t.ownOnBytes (.far 5) 0x10044 8 && (t.l1At 5 0x401).valid == 3 && e.pa % 64 + e.n ≤ 32 &&
     (([0, 1, 2, 3, 4, 6] : List Nat).all fun w =>
       let pa := 2 ^ 49 + 9 * 2 ^ 23 + w * 2 ^ 20 + 0x40
       let s := onHart tFar fun h => { h with tlb := [{ tPage with ppn := pa / 65536 }] }
       okIssue s (.ld .d false .c 7 1 0) && !s.windowWaits 5 pa && s.bad == [] && s.hostReqs == [] && ((s.far 9).mid).isNone &&
         gives (s.access (.far 5) 0x10040 8 0 .load .c true) fun acc u => u == s && acc.pa == pa && acc.pa / 2 ^ 35 == 2 ^ 14) &&
     !tFar.windowWaits 5 (2 ^ 49 + 5 * 2 ^ 23) && tFar.hostReqs == []) = true := by decide +kernel
/-- NearMemory. -/
theorem test_witness_near :
    (let s := tNear
     serves s 0x10040 && isDevice 0x10040 && !s.ownOnBytes s.focus 0x10040 8 && !s.ownOnBytes s.focus 0x10040 8 && !s.islandHolds (stackOf 0x10040) 0x401 && (s.harts.all fun q => q.2.monitor.isNone) && (s.unit 16).wlog == [] &&
     okIssue s (.ld .w true .c 7 1 0) && okIssue s (.st .d .m 2 1 0) && okIssue s (.amo .smin true .g .system .plain 7 1 2) &&
     okIssue s (.cas true .c .core .plain 7 1 2 0) &&
     ([(4, 0, AccKind.load), (8, 1, .store), (8, 2, .atomic)] : List (Nat × Nat × AccKind)).all fun (n, k, a) =>
       gives (s.access s.focus 0x10040 n k a .c true) fun acc u => u == s && !acc.mt1 && acc.pa == 0x10040) = true := by decide +kernel
/-- StoresEnterBuffer: an empty buffer, and one whose newest entry takes the bytes. -/
theorem test_witness_stores :
    (let s := ovl tFar
     let x : SbEntry := { pa := 0x10040, n := 8, data := 1, pol := .c }
     let m : State := { s with fars := [(5, { sb := [x] })] }
     ([s, m].all fun s => okIssue s (.st .w .c 2 1 0) && okIssue s (.stx .b .u 2 1 2 0) && okIssue s (.stl .d .c .system 2 1 0) &&
       (gives (s.access (.far 5) 0x10040 4 1 .store .c true) fun acc u => u.overlap && (u.far 5).sb.length < 16 && !aliasRel acc.pa && !isFormat acc.pa && !u.xrowBusy 5 && u.arrayIdle 5 && isDevice acc.pa && !acc.mt1 &&
         x.pa ≤ acc.pa && acc.pa + 4 ≤ x.pa + x.n) &&
       (gives (s.access (.far 5) 0x10045 1 1 .store .u true) fun _ u => u.overlap) &&
       (gives (s.xrowOrder (.far 5) .system) fun _ r => gives (r.access (.far 5) 0x10040 8 1 .store .c true) fun _ u => u.overlap))) = true := by
  decide +kernel
/-- AtomicsComplete. -/
theorem test_witness_atomics :
    ([tFar, tNear, tHub].all fun s => okIssue s (.amo .add false .c .island .ar 7 1 2) && okIssue s (.cas true .c .package .acq 7 1 2 0) &&
      okIssue s (.amof .maxF32 .m .core .plain 7 1 2) &&
      (gives (s.access s.focus 0x10040 4 2 .atomic .c true) fun acc u => gives (u.atomicOrder s.focus acc 4 .c .island .ar) fun _ v =>
        gives (v.atomicAt s.focus acc 4 .c .island fun x => some (x + 5)) fun _ r => !r.lostDest s.focus (.amo .add false .c .island .ar 7 1 2)) &&
      (gives (s.access s.focus 0x10040 8 2 .atomic .c true) fun acc u => gives (u.atomicOrder s.focus acc 8 .c .package .acq) fun _ v =>
        gives (v.atomicAt s.focus acc 8 .c .package fun x => if x = 0 then some 5 else none) fun _ _ => true)) = true := by decide +kernel
/-- FenceCompletes: every scope, and an operation lost in flight. -/
theorem test_witness_fence :
    (let r : Remote := { core := 5, kind := .get, va := 8, pa := 2 ^ 36, n := 8, d := 7, data := 0, ord := false, inc := 1, tinc := 1, lost := true }
     ([tFar, tNear, tHub].all fun s => [Scope.core, .cluster, .island, .package, .system].all fun sc => okIssue s (.fence sc) &&
       gives (s.xrowOrder s.focus sc) fun _ r => (r.lostAny s.focus).isNone && gives ((r.settle s.focus).fence s.focus sc) fun _ _ => true) &&
     (let s : State := { tFar with remotes := [r] }
      gives (s.xrowOrder s.focus .package) fun _ q => ((q.settle s.focus).lostAny s.focus).isSome && (q.lostAny s.focus).isSome)) = true := by
  decide +kernel
/-- Waits: a different value, the same value with a limit of 0 and with another; a wait that goes on, and one that is over; a channel's
counter that has reached its threshold, exactly, past it, and not. -/
theorem test_witness_waits :
    (let i := Instr.waitm .d .c 7 1 2 3 0
     ([(5, 6, 1), (6, 6, 0), (6, 6, 0xFFFFFFFF)] : List (Nat × Nat × Nat)).all (fun (x, m, l) =>
       let s := withMem (regsAt tFar [(1, 0x10040), (2, BitVec.ofNat 64 x), (3, BitVec.ofNat 64 l)]) 0x10040 8 m
       okIssue s i && gives (s.access s.focus 0x10040 8 0 .waitm .c true) fun acc u => gives (u.loadIssue s.focus acc 8 .c) fun v w =>
         v.toNat == m && !w.lostDest s.focus i) &&
     (let s := onHart tFar fun h => { h with wait := some { kind := .waitm }, monitor := some { line := 0x401, msc := false } }
      okResume s i) &&
     (let j := Instr.waitc 13 .island 1 2
      let at_ := fun (c t : Nat) => ({ regsAt tFar [(1, BitVec.ofNat 64 t), (2, 3)] with fars := [(5, { mail := [(13, { counter := BitVec.ofNat 32 c })] })] } : State)
      okIssue (at_ 5 5) j && (gives ((at_ 5 5).acquireOrder (.far 5) .island) fun _ _ => true) &&
      (5 + 2 ^ 32 - 5) % 2 ^ 32 < 2 ^ 31 && (0 + 2 ^ 32 - 0xFFFFFFFF) % 2 ^ 32 < 2 ^ 31 && !decide ((4 + 2 ^ 32 - 5) % 2 ^ 32 < 2 ^ 31) &&
      okResume (onHart (at_ 4 5) fun h => { h with wait := some { kind := .waitc, late := true } }) j)) = true := by decide +kernel
/-- CmaintActs: a line and a granule. -/
theorem test_witness_cmaint :
    (([(.ci, .mem, .line, 0x10040, 1), (.inv, .l1i, .line, 0x10040, 1), (.cln, .msc, .gran, 0x10000, 64)] : List (CmOp × CmReach × CmExt × Nat × Nat)).all
      fun (op, r, x, pa, n) => okIssue tFar (.cmaint op r x 1 0) && gives (tFar.translate (.far 5) (BitVec.ofNat 64 pa) (if op = .cln then 0 else 1)) fun e u =>
        e.pa (BitVec.ofNat 64 pa) == pa && (u.cmReason pa).isNone && (remote (.far 5) pa).isNone && gives (u.cmOrder (.far 5)) fun _ v =>
          gives (v.cmRun (.far 5) op r (pa / 64) 0 n) fun _ _ => true) = true := by decide +kernel
/-- An instruction issues that overwrites the register of a lost operation, checked. -/
def okFresh (s : State) (i : Instr) : Bool :=
  inProfile s.focus i.major && (!needsS i.major || (s.hart s.focus).priv) && !s.hazard s.focus i && (s.lostRead s.focus i).isNone &&
    !(s.hart s.focus).begun && s.permitHere i && !i.isEvent
/-- RemoteAccesses: operations that leave, and a seventeenth; operations of one turn; one that is performed, one with a reply, and one of an
older incarnation; and a lost operation whose register is read, or overwritten. -/
theorem test_witness_remote :
    (let p : TlbEntry := { tPage with vpn := 2, ppn := 2 ^ 20 + 1 }
     let s := ovl (onHart tFar fun h => { h with tlb := [p, tPage], regs := [(1, 0x20040), (2, 5)] })
     let r : Remote := { core := 5, kind := .get, va := 0x20040, pa := 2 ^ 36 + 0x10040, n := 8, d := 7, data := 0, ord := false, inc := 1, tinc := 1 }
     okIssue s (.get .d true 7 1 0) && okIssue s (.put .d false 2 1 0) && okIssue s (.ramo .add true false 7 1 2) &&
     (gives (s.remoteCheck (.far 5) 5 0x20040 8 0 false) fun _ u => u.remoteCount 5 false < 16) &&
     (gives (s.remoteCheck (.far 5) 5 0x20040 8 1 true) fun _ u => u.remoteCount 5 true < 16 && u.reg (.far 5) 2 == 5) &&
     (gives (s.remoteCheck (.far 5) 5 0x20040 8 2 false) fun _ u => u.reg (.far 5) 2 == 5) &&
     (let full : State := { s with remotes := List.replicate 16 r }
      gives (full.remoteCheck (.far 5) 5 0x20040 8 0 false) fun _ u => u.remoteCount 5 false == 16 && okIssue full (.get .d false 3 1 0)) &&
     (let n : State := { s with overlap := false }
      n.remotes == [] && okIssue n (.get .d false 7 1 0) && okIssue n (.put .d true 2 1 0) && okIssue n (.ramo .umin true false 7 1 2) &&
      (([0, 1, 2] : List Nat).all fun k => gives (n.translate (.far 5) 0x20040 k) fun e u => u == n && e.pa 0x20040 == r.pa && isDevice (e.pa 0x20040)) &&
      n.dstate 1 == 0 && n.dstate 0 == 0 && serves n r.pa && (mget (fun _ => 1) (n.stack 1).incCopy 0).toNat ≤ (n.incOf 0).toNat &&
      !n.staleInc (some 0) 0 (n.incOf 0) && !n.staleInc (some 0) 1 (n.incOf 1) && !n.islandHolds 1 (r.pa / 64)) &&
     !s.staleInc (some 0) 0 r.inc && !s.staleInc (some 0) 1 r.tinc && !s.remoteCut r && r.result.isNone && !r.lost && !s.islandHolds 1 (r.pa / 64) &&
     (let l : State := { tFar with remotes := [{ r with lost := true }] }
      (l.lostRead (.far 5) (.add false 3 7 1)).isSome && !l.hazard (.far 5) (.add false 3 7 1) && (l.lostRead (.far 5) (.add false 7 1 2)).isNone &&
        !l.hazard (.far 5) (.add false 7 1 2)) &&
     (let l : State := { tArr .two with remotes := [{ r with lost := true }] }
      let o := ovl l
      (([.li .s 7 5, .jal 7 3 1, .ld .w false .c 7 1 0, .amo .add true .c .core .plain 7 1 2, .time 7, .rmread 7 1, .csrr 7 2] : List Instr).all (okFresh l)) &&
      (([.tcnt 7 1 0 none, .cread true 7 2 63 0 0, .aadd ⟨0, none⟩ 0 8 16 .i8 .rne false] : List Instr).all fun i => okFresh o i && o.ringFlaw 5 i == none &&
        (o.far 5).arrView.fieldSpec i ((i.reads.map (o.reg (.far 5))).getD 0 0) ((i.reads.map (o.reg (.far 5))).getD 1 0) (i.reads.map (o.reg (.far 5))) == none) &&
      (l.lostRead (.far 5) (.st .w .c 7 1 0)).isSome && (l.lostRead (.far 5) (.tstore 1 7 0)).isSome == false) &&
     !ordBlocked [r] 0 r && s.dstate (stackOf r.pa) == 0 && serves s r.pa && r.pa % 64 + r.n ≤ 64 &&
     (mget (fun _ => 1) (s.stack 1).incCopy 0).toNat ≤ r.inc.toNat && (0 : BitVec 16).toNat < (mget (fun _ => 1) (s.stack 1).incCopy 0).toNat) = true := by
  decide +kernel
/-- RowsAndLookups. -/
theorem test_witness_rows :
    (okIssue tNear (.nrowOpen 1 0) && okIssue tNear .nrowClose && okIssue tNear (.nlut true 7 1 2) && !(tNear.near 16 0).rowOpen &&
     ((({ tNear with nears := [(32, { rowOpen := true })] } : State).near 16 0).rowOpen) &&
     (gives (tNear.translate (.near 16 0) 0x10000 0) fun e u => e.pa 0x10000 == 0x10000 && homeOf 0x10000 == 16 && isDevice 0x10000 &&
       (remote (.near 16 0) 0x10000).isNone && !u.ownOnBytes (.near 16 0) 0x10000 1024 && gives (u.readRow 0x10000 16) fun _ _ => true)) = true := by decide +kernel

/-- ArrayIssues: a queue with room and a full one, the last lane that is and the first that is not, a row past the array, and a
neighbour of another context. -/
theorem test_witness_array_issues :
    (let s := ovl (tArr .two)
     let f := s.far 5
     let flaw := fun (i : Instr) => f.arrView.fieldSpec i ((i.reads.map (s.reg (.far 5))).getD 0 0) ((i.reads.map (s.reg (.far 5))).getD 1 0) (i.reads.map (s.reg (.far 5)))
     let full : State := { s with fars := [(5, { f with aq := [arrayOp .aspmacLdm [], arrayOp .aspmacLdm []] })] }
     ([.top (.and 1 2 3), .tcnt 7 1 0 (some 1), .aadd ⟨0, none⟩ 0 32 100 .i32 .rne false, .cwrite 2 1 0 5 1] : List Instr).all (fun i =>
       okIssue s i && okIssue full i && flaw i == none && s.ringFlaw 5 i == none && 0x40 ≤ i.major && i.major ≤ 0x6F) && f.aq.length < 2 &&
     !s.sbHas (.far 5) (fun e => isFormat e.pa && windowCore e.pa == 5) &&
     ([.tcnt 7 1 0 (some 2), .cwrite 1 2 127 0 1] : List Instr).all (fun i => okIssue s i && flaw i != none) &&
     (f.arrView.lanesN == 2 && 127 + 0 < f.arrView.laneW && 32767 < (s.reg (.far 5) 1).toNat) &&
     (let i := Instr.xrow false ⟨0, none⟩ 0 8 7
      let n : State := { s with harts := s.harts ++ [(6, { ctxid := 3 })] }
      okIssue n i && flaw i == none && n.coreLive (ringTo 5 false) && n.coreCtx (ringTo 5 false) != n.coreCtx 5)) = true := by decide +kernel
/-- TagsAndControls, ArrayReads, ArrayPasses and ArrayFields, in each lane mode: with a span of one row at the end of the array, one
of none, and a tag with no set bit, a first one and none before it. -/
theorem test_witness_array :
    ([LaneMode.one, .two, .four].all fun m =>
      let s := tArr m
      let x : Rows := ⟨2, none⟩
      let y : Rows := ⟨0, some 1⟩
      ([.top (.and 1 1 2), .top (.or 3 1 2), .top (.xor 2 1 2), .top (.andn 4 1 2), .top (.not 4 1), .top (.mov 4 1), .top (.clr 1), .top (.set 1),
        .tshf (.up true 0x7FFF) 4 1, .tshf (.dn false 0) 1 1, .tshf (.lane 3) 5 1, .span 3 2 3, .seg .one, .seg .four, .key 3 2, .ttld 250 (.three 2 2 2),
        .ttld 0 (.one 2), .aspmacLdx 3, .aspmacLdm, .tcnt 7 1 0 none, .tany 7 1 1 (some 0), .tfirst true 7 1 0 none, .tfirst false 7 9 0 none,
        .spanRd 7 2, .segRd 0, .cread true 7 2 63 0 0, .pcmp 9 x .or (.pairs [(0, true)]), .pcmp 9 y .and (.imm 5 15 0xFFFF), .pcmp 9 x .mov (.ky 0 31),
        .pset y (.pairs [(0, true), (1, false)]), .pset x (.imm 0 1 2), .pset x (.ky 32 7), .pcs 9 y .mov [(0, true)] [(1, false), (2, true)],
        .tload 9 2 3, .acmp .lt 9 x 0 8 20 ⟨.i8, .rne, false⟩ .mov, .acmp .eq 9 y 0 16 40 ⟨.fp16, .rne, false⟩ .and, .cfill y 3 7 (.imm (-1)), .cfill x 3 7 (.reg 2),
        .cwrite 2 3 0 63 0, .tstore 1 0 63, .fmov y 0 9 7, .frot x 0 0 9 7, .frot y 14 0 9 7, .ttrun false x 0 1 3 0 8 16 24,
        .ttrun true y 0 0 0 0 0 0 0] : List Instr).all (okArray s) &&
      ((s.far 5).arr.tagAt 9 0 0 == false && (s.far 5).arr.tag 9 == 0 && (s.far 5).arr.tag 1 &&& 1 == 0 && (s.far 5).arr.spans? 0 0 0 &&
        (s.far 5).arr.tagAt 1 0 1 && (s.far 5).arr.tag 1 &&& 3 == 2) &&
      (let n : State := { tRun s with fars := [4, 5, 6].map fun k => (k, { s.far 5 with placed := true }), harts := [4, 5, 6].map fun k => (k, { tHart with ctxid := 3 }) }
       n.coreLive (ringTo 5 true) && okArray n (.xrow true y 0 8 7) && okArray n (.xrow false x 0 8 7))) = true := by decide +kernel
/-- IntegerMacros, NumberMacros and ReductionSums: integer, fraction, block and floating point formats, each rounding, rnd:ef. -/
theorem test_witness_macros :
    (([(.two, ([.aadd ⟨0, none⟩ 0 16 32 .i16 .rne true, .asub ⟨2, some 1⟩ 0 8 16 .i8 .rne false, .aaddk ⟨0, none⟩ 0 8 64 ⟨.i8, .rne, false⟩,
        .amul ⟨0, none⟩ 0 16 24 64 .i8 .rne false, .amulk ⟨0, none⟩ 0 16 24 64 .i8 .rne true, .amac ⟨0, none⟩ 0 32 40 64 .i8 .i8 .rne false,
        .amac ⟨0, none⟩ 0 32 40 64 .i4 .i4 .rne true, .acvt ⟨0, none⟩ 0 32 0 64 .i32 .i8 .rne true, .aminmax true ⟨0, none⟩ 0 8 64 ⟨.i8, .rne, false⟩,
        .alut ⟨0, none⟩ 0 8 ⟨.i8, .rne, false⟩ 2, .aresolve ⟨0, none⟩ 0 64 1, .ared ⟨0, some 1⟩ 0 64 .i8 .rne false, .ared ⟨2, none⟩ 0 64 .i32 .rne true, .ared ⟨0, none⟩ 0 64 .bf16 .rup false, .ared ⟨0, some 1⟩ 8 64 .fp16 .rtz true,
        .aadd ⟨0, none⟩ 0 16 64 .bf16 .rne false, .aqdec ⟨0, none⟩ 0 16 24 64 .ql4 .bf16 ⟨.rne, false⟩, .amack ⟨0, none⟩ 0 64 80 0 .i8 .i8 .rne false 2] : List Instr)),
       (.one, [.aadd ⟨0, none⟩ 0 32 64 .fp32 .rtz false, .asub ⟨0, none⟩ 0 16 64 .fp16 .rdn true, .amul ⟨0, none⟩ 0 16 32 64 .bf16 .rup false,
        .amulk ⟨0, some 1⟩ 0 16 32 64 .fp16 .rne true, .afma ⟨0, none⟩ 0 16 32 64 .bf16 .rne false, .amac ⟨0, none⟩ 0 32 48 64 .e4m3 .e5m2 .rne false,
        .amack ⟨0, none⟩ 0 32 48 64 .e4m3 .e4m3 .rne false 0, .aspmac ⟨0, none⟩ 0 64 0 0 3 0 .i8 .i8 ⟨.rne, false⟩, .acvt ⟨0, none⟩ 0 32 64 128 .fp32 .e4m3 .ef true,
        .acvt ⟨0, none⟩ 0 32 64 128 .fp32 .bf16 .rtz true, .aminmax false ⟨0, none⟩ 0 32 64 ⟨.fp32, .rne, false⟩]), (.four, [.aadd ⟨0, none⟩ 0 8 16 .i8 .rne false])] :
        List (LaneMode × List Instr)).all fun (m, is) => is.all (okArray (tArr m))) = true := by decide +kernel

/-- Engine: commands that enter, one whose core's array instructions are not done, a block with a reserved field, one of no bytes,
one that starts past its rows, and one unit of AFILL and ASPILL. -/
theorem test_witness_engine :
    (let s := ovl (withMem (tRun (regsAt tFar [(1, 0x10040), (2, 0x100), (3, 0x40)])) 0x10040 64 7)
     let busy : State := { s with fars := [(5, { aq := [{ instr := .aspmacLdm }] })] }
     ([Scope.core, .cluster, .island, .package].all fun sc => okIssue s (.cpy sc 1) && okIssue s (.afill .raw .c sc 1 2 3) && okIssue s (.aspill .e4m3 .m sc 1 2 3) &&
       (gives (s.engRelease (.far 5) sc) fun _ r => r.overlap) && gives (s.access (.far 5) 0x10040 64 0 .load .c true) fun acc u =>
         gives (u.loadIssue (.far 5) acc 64 .c) fun _ w => w.overlap && (w.far 5).eng.length < 8 && gives ((w.pbKeep 5 acc.pa).engRelease (.far 5) sc) fun _ r => r.overlap) &&
     s.arrayIdle 5 && okIssue busy (.afill .i4 .u .core 1 2 3) && !busy.arrayIdle 5) = true := by decide +kernel
/-- `MailOpen`, checked. -/
def mayMail (s : State) (core ch : Nat) : Bool :=
  (match s.ctx (s.coreCtx core) with | some x => x.st != .exited | none => false) && s.placedOn (s.coreCtx core) (s.far core).vcore.toNat == some core &&
    (s.far core).held.all (fun m => m.ch != ch) && s.slotFree core ch && !s.deliveries.any (s.atUnit core) &&
    !s.staleInc (some (dieOf core)) (dieOf core) (s.sentInc core)
theorem test_witness_engine_blocks :
    (let q := tRun tFar
     let hb := fun (rows sr : Nat) => BitVec.ofNat 512 (5 + 2 ^ 32 * rows) <<< 128 ||| BitVec.ofNat 512 (sr * 2 ^ 32) <<< 384
     let at_ := fun (e : EngCmd) => ({ q with fars := [(5, { q.far 5 with eng := [e], eheld := true })] } : State)
     mayMail (at_ { kind := .cpy, seq := 7, sc := .core, priv := false }) 5 14 && blkReserved (BitVec.allOnes 512) && !blkReserved (hb 3 4) && !blkReserved (hb 0 0) &&
       blkLen (hb 3 4) == 5 && blkRows (hb 3 4) < blkStartRow (hb 3 4) && blkRows (hb 0 0) == 0 && !decide (blkRows (hb 3 3) < blkStartRow (hb 3 3)) &&
     (let e : EngCmd := { kind := .afill, seq := 7, sc := .core, priv := true, a := 0x10040, b := 0x20, c := 32, started := true }
      let s := at_ e
      e.ended.isNone && (s.far 5).eheld && e.early.isNone && e.byte == 0 && e.c.toNat == e.unit && ([Policy.c, .m, .u].all fun p =>
        (givesEng (s.engCheck 5 { e with pol := p } e.a 5) fun x u => givesEng (u.engRead 5 e x.1 e.unit p x.2 e.a) fun _ w => mayMail w 5 14 && w.hostReqs == []) &&
        givesEng (s.engCheck 5 e e.a 6) fun x u => u.bad == [] && (u.far 5).mid.isNone && givesEng (u.engWrite 5 e x.1 e.unit p x.2 e.a ((u.far 5).arr.winRead 0 0x20 e.unit)) fun _ w =>
          mayMail w 5 14 && w.hostReqs == [])) &&
     (let blk := fun (src dst len rows : Nat) => BitVec.ofNat 512 (src + 2 ^ 64 * dst + 2 ^ 128 * len + 2 ^ 160 * rows + 2 ^ 192 * 0x100 + 2 ^ 256 * 0x100)
      let cmd := fun (b : BitVec 512) => ({ kind := .cpy, seq := 7, sc := .core, priv := true, block := b, started := true } : EngCmd)
      let b := blk 0x10040 0x10100 32 1
      let e := cmd b
      blkRows b == 1 && blkLen b == 32 && (blkDstAt b 0 0).toNat % 32 + 32 ≤ 32 && (blkSrcAt b 0 0).toNat % 64 + 32 ≤ 64 &&
      (givesEng ((at_ e).engCheck 5 e (blkSrcAt b 0 0) 5) fun x u => givesEng (u.engRead 5 e x.1 32 (blkSpol b) x.2 (blkSrcAt b 0 0)) fun v w =>
        let g := { e with snap := [v] }
        givesEng ((w.setEng 5 g).engCheck 5 g (blkDstAt b 0 0) 6) fun p x => x.cpyNow 5 g v == v &&
          givesEng (({ x with ticks := x.ticks + 32 } : State).engWrite 5 g p.1 32 (blkDpol b) p.2 (blkDstAt b 0 0) v) fun _ y => mayMail y 5 14 && y.hostReqs == []) &&
      (let c := cmd (blk 0x1003D 0x10105 7 2)
       givesEng ((at_ c).cpyRead 5 c 0 0) fun _ _ => true) &&
      (let c := cmd (blk 0x1003D 0x10105 7 2)
       match (at_ c).cpyGather 5 c 0 0 14 with
       | .done g u => (match u.cpyScatter 5 g g.snap with | .done _ w => mayMail w 5 14 && w.hostReqs == [] | _ => false)
       | _ => false) &&
      (([EngKind.afill, .aspill] : List EngKind).all fun k => let c : EngCmd := { cmd 0 with kind := k, a := 0x10040, b := 0x20, c := 96 }
       match (at_ c).arrayCopy 5 c 4 with | .done g w => g.byte == 96 && mayMail w 5 14 && w.hostReqs == [] | _ => false))) = true := by decide +kernel
/-- Messages: a channel with room, a message on its way, a wait that was won, no message, one and a limit of 0. -/
theorem test_witness_messages :
    (let f := Agent.far 5
     let i := Instr.msend 13 7 1 2 3
     let s := tRun (regsAt tFar [(1, 4), (2, 0x10041), (3, 9)])
     let mb := fun (l : List (BitVec 512)) (v : Word) => let s := regsAt s [(1, v)]; ({ s with fars := [(5, { s.far 5 with mail := [(3, { slots := l }), (14, { slots := l })] }), (9, s.far 9)] } : State)
     ([s, ovl s].all fun s => okIssue s i && gives (s.readBytes f (s.reg f 2) 7) fun _ u => gives (u.release f (u.sendScope 5 4)) fun _ w =>
       w.overlap == s.overlap && w.ctx (w.coreCtx 5) == some tCtx && tCtx.st != .exited && 4 < tCtx.nv && w.placedOn (w.coreCtx 5) 4 == some 9 && w.slotFree 9 13) &&
     s.placedOn 3 4 == some 9 && s.slotFree 9 2 && tCtx.spill == [] && !s.staleInc (some 0) 0 (s.sentInc 5) &&
     (let q : Msg := { ctx := 3, vcore := 4, ch := 13, data := 5, src := 5, own := false, inc := s.sentInc 5 }
      let o : Msg := { q with vcore := 2, here := true }
      let d : State := { s with deliveries := [q, o] }
      d.deliveries[0]? == some q && d.placedOn 3 4 == some 9 && d.slotFree 9 13 && !d.staleInc (some 0) 0 q.inc && !d.atUnit 9 o) &&
     okResume (ovl (onHart s fun h => { h with wait := some { kind := .msend, won := true } })) i &&
     (let s := mb [5, 6] 0; okIssue s (.mbwait 7 1) && gives (s.acquireOrder f .system) fun _ u => !u.lostDest f (.mbwait 7 1)) && okIssue (mb [] 0xF00000000) (.mbwait 7 1) && ((mb [5, 6] 3).far 5).held == [] &&
     okIssue (mb [] 3) (.mbpop 7 1) && okIssue (mb [5, 6] 3) (.mbpop 7 1)) = true := by decide +kernel
/-- BarriersAndArming: domains of 0, 1 and 2 vcores, in each level, a last arrival, a wait that was won, and LARM. -/
theorem test_witness_barriers :
    (let f := Agent.far 5
     let s := regsAt (tRun tFar) [(1, 9), (2, 0x10080), (3, 0x10040)]
     let dm := fun (s : State) (v : Word) => ({ s with fars := [(5, { s.far 5 with dom1 := v, dom2 := v, dom3 := v }), (9, s.far 9)] } : State)
     (([1, 2, 3] : List Nat).all fun l => let i := Instr.bar (BitVec.ofNat 2 l) false 1
       let sc := if l = 1 then Scope.cluster else if l = 2 then Scope.island else Scope.package
       okIssue s i && domSize ((s.far 5).dom l) == 0 && (([1, 2] : List Nat).all fun n => [false, true].all fun o =>
         let s : State := { dm s (BitVec.ofNat 64 (n * 2 ^ 32 + 7)) with overlap := o }
         domSize ((s.far 5).dom l) == n && okIssue s i && gives (s.xrowOrder f sc) fun _ q => gives (q.needDrained f) fun _ u => gives (u.releaseAt f sc) fun _ w =>
           w.overlap == o && w.barsAt 5 l == []) &&
       (let b : Bar := { ctx := 3, lvl := l, id := 7, size := 2, cores := [5], comp := [] }
        let s : State := { s with clusters := [(0, { bars := [b] })], islands := [(0, { bars := [b] })], hub := { bars := [b] }, harts := [(5, { s.hart f with wait := some { kind := .bar } })] }
        ((s.barsAt 9 l).find? (fun b => b.is 3 l 7 && !b.full)) == some b && !s.staleInc none 0 (s.sentInc 9) && b.size == b.cores.length + 1)) &&
     (let s := onHart s fun h => { h with wait := some { kind := .bar, won := true } }; okResume s (.bar 2 false 1) && s.barMsgs == [] && (s.barOf 5 2).isNone) &&
     okIssue s (.larm 3) && (s.reg f 3).toNat % 128 != 0 && okIssue s (.larm 2) && (gives (s.access f 0x10080 8 1 .store .m false) fun acc u =>
       gives (u.release f .package) fun _ w => gives (w.storeAt f acc.pa 8 (if acc.mt1 then .u else .m) acc.page acc.size 1 (some .package)) fun _ _ => true)) = true := by
  decide +kernel
/-- QueuesAndAppends: a home that may be named and one that may not; records that bind, and that unbind; no record, 65 and one. -/
theorem test_witness_queues :
    (let f := Agent.far 5
     let qrec := fun (cap : Nat) => (0x1100022 : Nat) + 2 ^ 64 * 0x3300044 + 2 ^ 128 * (200 + 2 ^ 9 + 2 ^ 10 + 2 ^ 16 * cap)
     let base : State := { regsAt (tRun tFar) [(1, 0x10040), (2, 0x10), (3, 0x10080)] with hub := { rmap := [(2, 0x1000000000000000)] } }
     (([0, 256] : List Nat).all fun cap => let s := withMem base 0x10040 64 (qrec cap)
       okIssue s (.qbind 1 15 0x010) && okIssue s (.qbind 1 15 0x3FF) && gives (s.access f 0x10040 64 0 .load .c true) fun acc u =>
         gives (u.loadIssue f acc 64 .c) fun v w => w.homeOpen f 0x10 && !w.homeOpen f 0x3FF && qrecFlaw v == none && ((w.home 0x10).queueAt 15).ctx.isNone &&
           (let own := fun (c : Nat) => ({ w with homes := [(0x10, { queues := [(15, { ctx := some c, cap := 9 })] })] } : State)
            ((own 3).home 0x10).queueAt 15 == { ctx := some (w.agentCtx f), cap := 9 } && (own 3).onWay 0x10 15 == 0 && (own 3).launching 0x10 15 == 0 &&
              (own 3).homeOpen f 0x10 && (own 4).homeOpen f 0x10 && w.agentCtx f != 4)) &&
     okIssue (regsAt base [(2, 0x3FF)]) (.qstat 7 2 4) && base.partOfDie (0x3FF / 64) != base.partOfDie 0 && okIssue base (.qstat 7 2 4) && base.partOfDie 0 == base.partOfDie ((f.island).getD 0) &&
     (let rec1 := 0x10000 + 2 ^ 64 * (4096 + 2 ^ 16 * 4) + 2 ^ 128 * 7 + 2 ^ 192 * 8
      let s := fun (n : Word) => ({ ovl (withMem (regsAt (tRun tFar) [(1, 0x10080), (2, n), (3, 0)]) 0x10080 32 rec1) with
        homes := [(16, { queues := [(4, { ctx := some 3, cap := 4, nearPc := 0x1000, farPc := 0x2000 })] })] } : State)
      okIssue (s 0) (.tenq 1 2 3) && okIssue (s 65) (.tenq 1 2 3) && okIssue (s 1) (.tenq 1 2 3) && gives ((s 1).readRecords f 0x10080 1) fun ys u =>
        ys.length == 1 && gives (u.checkRecords f 0 ys) fun ts w => ts.length == 1 && ts.all (fun t => t.anchored && gives (w.tenqRelease f) fun _ r =>
          r.overlap && r.queueRoom t.home t.queue 0)) &&
     (let s : State := ovl (withMem (regsAt (tRun tFar) [(1, 0x10080), (2, 1), (3, 0)]) 0x10080 32 (0x5000 + 2 ^ 96 * 4 + 2 ^ 128 * 7))
      okIssue s (.tenq 1 2 3) && gives (s.readRecords f 0x10080 1) fun ys u => ys.length == 1 && gives (u.checkRecords f 0 ys) fun ts w => ts.length == 1 &&
        ts.all (fun t => !t.anchored && gives (w.tenqRelease f) fun _ r => match r.taskDeliver (r.senderVcore (agentKey f)) t.vcore t with | .done _ => true | .full => false)) &&
     (let a0 : Task := { ctx := 3, anchored := true, home := 16, queue := 4 }
      let s : State := ovl (onHart { tRun tFar with homes := [(16, { queues := [(4, { ctx := some 3, cap := 4 })] })] } fun h => { h with wait := some { kind := .tenq, tasks := [a0] } })
      okResume s (.tenq 1 2 3) && s.queueRoom a0.home a0.queue 0)) = true := by decide +kernel
/-- StealsAndRetirement: counts of 0, 1, 8 and 9, a steal that was granted, far and near tasks that end, and TNEXT with no task and
with one. -/
theorem test_witness_steals :
    (let f := Agent.far 5
     let s := fun (c : Word) => ovl (regsAt (tRun tFar) [(1, 16), (2, c)])
     let tk : Task := { ctx := 3, entry := 0x4002, arg0 := 11, arg1 := 12, seq := 13 }
     let run := fun (q : List Task) => ({ s 0 with fars := [(5, { (s 0).far 5 with coreQ := q, task := some tk })] } : State)
     (([0, 9, 1 + 2 ^ 32, 8 + 2 ^ 32] : List Word).all fun c => okIssue (s c) (.tsteal 1 2)) && (s 0).homeOpen f 16 &&
     (let n : State := { regsAt (s 8) [(1, 0x3FF), (2, 8)] with hub := { rmap := [(2, 0x1000000000000000)] } }
      okIssue n (.tsteal 1 2) && !n.homeOpen f 0x3FF) &&
     okResume (onHart (s 1) fun h => { h with wait := some { kind := .tsteal, won := true } }) (.tsteal 1 2) &&
     okIssue (run []) .tend && (gives ((run []).tendReady f) fun _ r => r.overlap && (r.far 5).task.isSome) &&
     (let n : State := { tNear with nears := [(32, { task := some { tk with anchored := true, home := 16 } })] }
      okIssue n .tend && n.aliasDone n.focus && gives (n.tendReady n.focus) fun _ r => (r.near 16 0).task.isSome) &&
     okIssue (s 0) (.tnext 3) && (((s 0).farSearch 5).far 5).coreQ == [] && (((s 0).farSearch 5).hart f).wait.isNone && (((s 0).farSearch 5).reg f 3).toNat % 2 ^ 32 == 0 && okIssue (run [tk]) (.tnext 3) &&
     (((run [tk]).farSearch 5).far 5).coreQ != [] && gives (((run [tk]).farSearch 5).tendReady f) fun _ r => (r.far 5).coreQ == [tk] && (r.far 5).placed &&
       r.dispatches (r.hart f).ctxid.toNat && (r.far 5).task.all (fun x => !x.anchored) && r.ctx (r.coreCtx 5) == some tCtx && !(r.hart f).stopped && (r.far 5).grantHold == [] && (r.far 5).held == [] &&
       (r.far 5).autoHome.isNone) = true := by decide +kernel

def tTask : Task := { ctx := 3, entry := 0x4002, arg0 := 11, arg1 := 12, seq := 13 }
/-- AgentEvents: a line that is fetched, one that is not, the three events, a core that stops; each kind of wait; a full counter. -/
theorem test_witness_agent_events :
    (let a := Agent.far 5
     let s := onHart (tRun tFar) fun h => { h with vecU := 0x500, deleg := 0x4000 }
     let at_ := fun (pc : Word) => onHart (withMem s 0x10000 64 (oneLine 0x0245 0x1470).toNat) fun h => { h with pc := pc, priv := false }
     (gives ((at_ 0x10002).fetch a) fun _ _ => true) && (match (at_ 0x1002).fetch a with | .trap _ _ => true | _ => false) &&
     s.caughtUp a && (s.hart a).hostLds == [] && (s.hart a).pend.isNone && s.coreLive 5 && (s.far 5).sb == [] && (s.far 5).eng == [] &&
     (let h := s.hart a; h.wait.isNone && h.monitor.isNone && h.active && !h.stopped && h.ie && h.priv && !h.h && h.evMap.isNone && h.evMem == [] && h.evSusp.isNone) &&
     (([tFar, tNear, tHub] : List State).all fun s => let s := onHart s fun h => { h with pc := 0x10002, line := some (0x10000, oneLine 0x50C3 0x28414B000000), wait := some { kind := .waitm, limit := 3 }, monitor := some { line := 5, msc := false } }
       (s.hart s.focus).current == some (.waitm .d .m 3 10 4 5 0) && s.fars.all (fun p => p.2.sb.isEmpty) && s.hub.walks == [] && s.islands == [] && s.hostReqs == []) &&
     !(tFar.far 5).placed && (s.far 5).placed) = true := by decide +kernel
/-- CacheAndWalkEvents: lines that are held, one that the host holds, one in the log, and walks of a leaf and of a fault. -/
theorem test_witness_cache_events :
    (let l : CLine := { data := 5, valid := 3, dirty := 2 }
     let s : State := { tFar with fars := [(5, { l1d := [(0x401, l)] })], islands := [(0, { l2 := [(0x401, l)] })], units := [(16, { wlog := [0x401] })]
                                  baseDies := [(0, { msc := [(0x401, l), (0x402, { l with host := true })] })] }
     let k : State := { tFar with islands := [(0, { walkQ := [{ tag := 1, va := 0x51234, root := 0, waiters := [(5, 0)] }] })] }
     let tab := fun (m : List Host.Cell) (p : Nat × Nat) => memWrite m p.1 8 p.2
     let m := [(0x100000, 0x101001), (0x101000, 0x102001), (0x102000, 0x103001), (0x103000, 0x104001), (0x104000, 0x105001), (0x105028, 0x20003F)].foldl tab []
     let w := fun (root : Nat) => ({ tag := 1, va := 0x51234, root := BitVec.ofNat 64 root, waiters := [(5, 0)] } : WalkReq)
     let wk := fun (root : Nat) => ({ tFar with mem := m } : State).walk (w root).root (w root).va (w root).tag
     (k.island 0).walkQ.length == 1 && (k.island 0).walks.length < 32 && (tlbFind 0x51234 1 (k.island 0).tlb).isNone &&
     mhas (s.far 5).l1d 0x401 && mhas (s.island 0).l2 0x401 && mhas (s.stack 0).msc 0x401 && lineStack 0x401 == 0 && !(s.mscAt 0x401).host && (s.mscAt 0x402).host &&
     (s.unit 16).wlog.contains 0x401 && (s.cleanBar 0 0x401).isNone && (w 0).kills == [] && (tlbFind 0x51234 1 (s.island 0).tlb).isNone &&
     (match wk 0x100000 with | .ok (.leaf e) u => permitted e 0 (u.hart (.far 5)).priv | _ => false) && (match wk 0x10000 with | .ok (.fault _ _) _ => true | _ => false)) = true := by
  decide +kernel
/-- TaskEvents: an arrival, a steal of tasks above the threshold, a placement, a grant, a core that takes a task, a withdrawal. -/
theorem test_witness_task_events :
    (let q : Queue := { ctx := some 3, cap := 9, nearPc := 0x1002, farPc := 0x2002, t := 1, tasks := [tTask, { tTask with arg0 := 2 }, { tTask with arg0 := 3 }] }
     let r : StealReq := { core := 5, ctx := 3, count := 8 }
     let busy : List (Nat × NearCtx) := [(32, { task := some tTask }), (33, { task := some tTask })]
     let s : State := { tRun tFar with homes := [(16, { queues := [(4, q)], steals := [r], arrivals := [{ src := 5, items := [(4, tTask)] }] })], nears := busy }
     let a0 : Task := { tTask with anchored := true, home := 16 }
     let p : State := { tRun tFar with homes := [(16, { queues := [(4, { q with tasks := [a0] })] })], nears := [(33, { task := some tTask })] }
     (([0, 1] : List Nat).all fun c => (s.near 16 c).task.isSome) && s.dispatches 3 && !s.arrivalStale 16 { src := 5, items := [(4, tTask)] } && 5 != returnSrc &&
     (gives (p.anchorClean { a0 with entry := q.nearPc }) fun _ v => (v.near 16 1).task.isSome) &&
     ((s.home 16).bestQueue (s.home 16).qPtr fun q => ((s.home 16).queueAt q).ctx == some 3 && s.dispatches 3 && decide (((s.home 16).queueAt q).t < 255) &&
       decide (((s.home 16).queueAt q).t < ((s.home 16).queueAt q).tasks.length)) == some 4 &&
     (p.near 16 0).task.isNone && (p.near 16 1).task.isSome && p.nearLive 16 && (q.tasks ++ [a0]).length == 4 &&
     ((p.home 16).bestQueue (p.home 16).nearPtr fun q => match ((p.home 16).queueAt q).ctx with
       | some c => p.dispatches c && ((p.home 16).queueAt q).tasks.any (eligible ((p.home 16).queueAt q).excl (p.home 16).running)
       | none => false) == some 4 && ((p.home 16).queueAt 4).tasks.find? (eligible false (p.home 16).running) == some a0 &&
     s.coreLive 5 && (s.far 5).placed && s.coreCtx 5 == 3 && (s.far 5).grantHold == [] && (s.far 5).coreQ.length < 8 && (s.far 5).task.isNone && (s.far 5).autoHome.isNone &&
     (s.far 5).held == [] && (s.ctx 3) == some tCtx && tCtx.held == [] && tCtx.spill == [] && (s.far 5).stealSet == 0) = true := by decide +kernel
/-- ReservationEvents: an instruction that waits with its current and without it, and one that contends alone. -/
theorem test_witness_reservations :
    (let o : ArrOp := { instr := .tcnt 7 1 0 none }
     let at_ := fun (f : Far) => ({ tRun tFar with fars := [(5, f)], clusters := [(0, { heldUnits := 7 })] } : State)
     let ix : IdxCmd := { id := 0, src := 0, granule := 0, page := 0, size := 0, packet := 0, flaw := 0 }
     let i : State := { tRun tFar with homes := [(16, { idxRun := some ix })], baseDies := [(0, { heldUnits := 5 })] }
     let g := at_ { aq := [o] }
     (let x : Instr := .xrow true ⟨0, none⟩ 0 8 7
      (([0, 6, 7] : List Nat).all fun k => let f := (at_ { arun := some { instr := x }, acol := k }).far 5
        f.arun == some { instr := x } && f.aq == [] && f.acol < arraySteps x) && arraySteps o.instr == 1 &&
      (([(.fmov ⟨0, none⟩ 20 19 7, 16), (.frot ⟨0, some 1⟩ 1 9 120 7, 8), (.ttrun false ⟨0, none⟩ 0 1 3 0 8 16 24, 8), (.cfill ⟨0, none⟩ 3 31 (.imm 1), 2), (x, 16)] :
        List (Instr × Nat)).all fun (i, n) => arraySteps i == n) && (({ arun := some o } : Far).mid).isNone) &&
     ((at_ { aq := [o, o], aheld := 3 }).far 5).aheld != 0 && (((at_ { arun := some o, aheld := 3 }).far 5).arr.effect o).res == some (7, 0) &&
     (g.cluster 0).reqs == [] && arrayUnits (g.far 5).arr.lanes o.instr + (g.cluster 0).heldUnits ≤ (g.cluster 0).budget.toNat &&
     (List.range 32).all (fun j => j == 10 || (g.clusterWants 0 j).isNone) && (i.home 16).idxRun.isSome && 1 + (i.stack 0).heldUnits ≤ (i.stack 0).budget.toNat &&
     (List.range 65).all (fun j => j == 16 || (i.stackWants 0 j).isNone)) = true := by decide +kernel
/-- LaunchEvents: a record of another context, one with a reserved field, one unanchored task, and the last task of a launch. -/
theorem test_witness_launches :
    ((([(3, 4, 6), (67, 3, 5)] : List (Nat × Nat × Nat)).all fun (w7, assigned, cause) =>
      let s : State := { tRun tFar with mem := memWrite (memWrite [] 0x180 8 1) 0x1B8 8 w7, hub := { stage := 3, cpPtr := [(0, 3)] } }
      let pa := s.launchPa 0 3
      !s.hub.partBusy && 0 < s.partCount && s.launchFree 0 && firstFrom 4096 3 (s.launchArmed 0) == some 3 && gives (s.recordWords pa) fun ws u =>
        let l : Launch := { index := 3, pa := pa, ctx := bits (ws.getD 7 0) 5 0, words := ws }
        l.reserved == (cause == 5) && (cause == 5 || l.ctx != assigned) && gives (u.armSwap pa (ws.getD 0 0) l.taken) fun z v => z == (ws.getD 0 0).toNat &&
          gives (((v.updHub fun h => { h with cpPtr := mput h.cpPtr 0 4 }).setLaunch 0 { l with failed := some (cause, 0, some assigned) }).armSwap pa l.taken (BitVec.ofNat 64 (cause * 2 ^ 24 + 4))) fun _ _ => true) &&
     (let s : State := { tRun tFar with mem := memWrite (memWrite (memWrite (memWrite [] 0x180 8 1) 0x188 8 (2 ^ 32)) 0x1B0 8 0x5002) 0x1B8 8 3, hub := { stage := 3, cpPtr := [(0, 3)] }, ctxs := [(3, some { tCtx with rr := 2 })] }
      let pa := s.launchPa 0 3
      !s.hub.partBusy && s.launchFree 0 && firstFrom 4096 3 (s.launchArmed 0) == some 3 && gives (s.recordWords pa) fun ws u =>
        let l : Launch := { index := 3, pa := pa, ctx := bits (ws.getD 7 0) 5 0, words := ws }
        !l.reserved && l.ctx == 3 && l.len == 0 && l.count == 1 && gives (u.armSwap pa (ws.getD 0 0) l.taken) fun z v => z == (ws.getD 0 0).toNat && v.ctx 3 == some { tCtx with rr := 2 } &&
          (let t0 := l.task 0 8 2
           match ((v.updHub fun h => { h with cpPtr := mput h.cpPtr 0 4 }).setLaunch 0 l).taskDeliver none t0.vcore t0 with
           | .done q => gives (q.armSwap pa l.taken 3) fun _ _ => true
           | .full => false)) &&
     (let l : Launch := { index := 3, pa := 0x10080, ctx := 3, words := [2, 64 + 2 ^ 32 * 2, 0x10000, 0x10000, 0, 0, 0, 3], bases := [0x10000, 0x20000], next := 1 }
      let s : State := { withMem (tRun tFar) 0x10080 8 l.taken.toNat with hub := { launches := [(0, some l)] } }
      let t := l.task l.next (max 1 ((s.ctx l.ctx).getD {}).nv) ((s.ctx l.ctx).getD {}).rr
      let s : State := { s with homes := [(t.home, { queues := [(t.queue, { ctx := some 3, cap := 9 })] })] }
      l.len != 0 && l.failed.isNone && l.count == l.next + 1 && l.count ≤ l.bases.length && ((s.home t.home).queueAt t.queue).ctx == some t.ctx && s.queueRoom t.home t.queue 0 && gives (s.armSwap l.pa l.taken 3) fun _ _ => true)) = true := by decide +kernel
/-- BankEvents and StackCommands: commands of each op that reach their bank, the sort buffer, one queued fill, a last wave, IDXSUM
and counter packets. -/
theorem test_witness_banks :
    (let c : BankCmd := { src := 5, op := 3, pa := 0x10048, n := 4, data := 0x40490FDB, page := 0, size := 0, seq := 77 }
     let s : State := { tRun tFar with fabric := [c, { c with op := 8, page := 0x10000, size := 65536 }], baseDies := [(0, { en := true })] }
     let pk := BitVec.ofNat 512 (2 ^ 16 * 3 + 2 ^ 32 * 512 + 2 ^ 48 * 2 + 2 ^ 56)
     let d : IdxCmd := { id := 4, src := 5, granule := 0x10000, page := 0x10000, size := 65536, packet := pk, flaw := 0 }
     let f : FillCmd := { id := 4, src := 5, page := 0x10000, size := 4096, pattern := pk, started := true }
     c.pa % c.n == 0 && c.pa % 8 == 0 && !s.homeLost (homeOf c.pa) && !mhas (s.stack (lineStack (c.pa / 64))).msc (c.pa / 64) && !s.heldOn c.pa c.n && serves s c.pa && s.bad == [] && !s.fabric.any (s.earlyFloat 1) &&
     (s.stack 0).en && !(s.stack 0).busy && (mget (fun _ => []) (s.stack 0).sort (bankKey c.pa)).length < 64 && (s.stack 1).sort == [] &&
     stackOf c.pa == 0 && stackOf 0x10000 == 0 && (s.stack 0).waveQ == [] && (s.stack 0).msc == [] && f.page % 1024 == 0 &&
     f.size / 1024 ≤ (f.after (waveRows f [] 16 f.next (f.size / 1024 - f.next))).next && (mget (fun _ => ({} : CmdInfo)) s.cmds 4).counter.isNone &&
     idxFlaw 0x10000 0x10000 65536 pk == 0 && packetByte pk 7 1 != 0 && 0 < packetByte pk 2 2 && d.granule % 4 == 0 && (d.granule + packetByte pk 4 2) % 4 == 0 && !d.cleaned && d.done == 0 && d.old == [] && d.flaw == 0 &&
     (let b : State := onHart s fun h => { h with slots := [(0, 9)] }
      (mget hartDefault b.harts 5).slots.find? (fun p => p.1 == stackOf c.pa) == some (stackOf c.pa, 9) && !(mget (fun _ => ({} : CmdInfo)) b.cmds 9).done &&
        (mget (fun _ => ({} : CmdInfo)) b.cmds 9).counter.isNone)) = true := by decide +kernel

/-- HostEvents: a line that no island holds and addresses at its ends, a host line that none and that one island holds, an outstanding
back-invalidation and write-back, answers to a cached request, a write and a load, and the first and the last address that is no device
memory. -/
theorem test_witness_host :
    (let r : HostAcc := { src := 5, pa := 2 ^ 51, n := 8, write := none, cached := false }
     let s : State := { tRun tFar with hub := { stage := 3 }, toHost := [.backInvalidate 0x401, .backRead 0x402], hostReqs := [r, { r with cached := true, need := 3, own := true }, { r with write := some 5 }], islands := [(0, { l2 := [(r.pa / 64, {}), (2 ^ 45 + 1, { valid := 3, dirty := 1, owned := true })] })] }
     let ld : HostLoad := { acc := { va := 0, pa := r.pa, page := 0, size := 0, mt1 := false }, n := 8 }
     s.dstate 0 == 0 && !(s.island 0).linkLow && !(s.island 0).linkWaking && (s.island 0).heldReqs == [] && !s.islandHolds 0 0x401 &&
     isDevice 0x10040 && isDevice (2 ^ 40 - 1) && !isDevice (2 ^ 40) && !isDevice (2 ^ 51) && !s.homeLost (homeOf 0x10040) && !s.heldOn 0x10040 64 && (s.mscVictim 0x401).isNone && s.bad == [] && s.hub.dir.length < 16 &&
     (List.range 16).all (fun e => (s.island e).heldReqs == []) && !s.lineWriting (r.pa / 64) && (s.hostReqs.take 1).all (fun q => !q.cached) &&
     0x10040 % 64 + 64 ≤ 64 && 0x1007F % 64 + 1 ≤ 64 && lineHost (2 ^ 45) && (List.range 16).all (fun d => !s.islandHolds d (2 ^ 45 + 2)) && s.l1Holders 0 (2 ^ 45 + 1) == [] && mhas (s.island 0).l2 (2 ^ 45 + 1) &&
     (List.range 16).all (fun d => d == 0 || !s.islandHolds d (2 ^ 45 + 1)) && !s.linkBusy 0 && mhas (s.island 0).l2 (r.pa / 64) && s.toHost.contains (.backRead 0x402) &&
     !s.islandHolds 0 0x402 && !s.homeLost (homeOf 0x10080) && ((onHart s fun h => { h with hostLds := [ld] }).hart (.far 5)).hostLds == [ld] && ld.ans.isNone && ld.acc.pa == r.pa &&
     s.toHost.contains (.backInvalidate 0x401) && s.hostReqs[0]? == some r && r.src < 4096 && 0 < s.partCount && tFar.hub.stage != 3 && tFar.hub.fail == 0) = true := by
  decide +kernel
/-- LinkAndDieEvents: a link that sleeps, one that trains for the second and the third time, a die that is reset, at the last
incarnation too. -/
theorem test_witness_links :
    (let w := fun (x : Island) => ({ tFar with islands := [(0, x)] } : State)
     let dead := fun (k : Nat) => ({ tFar with hub := { rmap := [(16, BitVec.ofNat 64 (k + 2 * 65536))] } } : State)
     ((w { linkLow := true }).island 0).linkLow && (w {}).dstate 0 == 0 && ((w { linkWaking := true, attempts := 2 }).island 0).heldReqs == [] &&
     !decide (((w { linkWaking := true, attempts := 2 }).island 0).attempts < 2) && ((w { linkWaking := true, attempts := 1 }).island 0).attempts < 2 &&
     (dead 5).dstate 0 == 2 && (dead 5).incOf 0 != 0xFFFF && (dead 0xFFFF).dstate 0 == 2 && (dead 0xFFFF).incOf 0 == 0xFFFF && dieOf 255 == 0) = true := by
  decide +kernel
/-- PowerEvents: frequencies at and past the ends of the range, one above its ceiling, one that is allowed; one too fast for its bias, or with an
alert; floors that hold and that do not; the values in force, and voltages. -/
theorem test_witness_power :
    (let s : State := { tFar with hub := { rmap := [(25, 0x514)] }, clusters := [(3, { busy := true })], islands := [(2, { vddBusy := true })] }
     let ranged := fun (v : Word) => 650 ≤ bits v 10 0 && bits v 10 0 ≤ 1500 && bits v 10 0 % 25 == 0 && (v.extractLsb' 16 5 : BitVec 5).toInt ≤ 8 &&
       -12 ≤ (v.extractLsb' 16 5 : BitVec 5).toInt
     let allowed := fun (v : Word) => bits v 10 0 ≤ bits (s.dieWord 0 9) 10 0 && (v.extractLsb' 16 5 : BitVec 5).toInt ≤ (bits (s.dieWord 0 9) 19 16 : Int)
     !ranged 649 && !ranged 1501 && !ranged 660 && ranged 650 && ranged 1500 && ranged 1300 && !allowed 1500 && allowed 1300 && allowed 650 && (s.cluster 3).busy &&
     (let set := fun (d : State) (v : Word) => let x := d.cluster 16
        (d.setCluster 16 { x with freq := BitVec.ofNat 11 (bits v 10 0), bias := v.extractLsb' 16 5, busy := true, status := 0, oldFreq := x.freq, oldBias := x.bias }).floorsHold 1
          (d.island 1).settledVdd
      let hot : State := { tFar with islands := [(1, { sensors := [(3, { alert := true })] })] }
      set tFar 1300 && set tFar 650 && set { tFar with islands := [(1, { vdd := 820 })] } 0x80578 && !set { tFar with islands := [(1, { vdd := 620 })] } 1300 && (tFar.cluster 16).freq.toNat == 1300 && (tFar.cluster 16).bias == 0 &&
      ((0x80578#64).extractLsb' 16 5 : BitVec 5).toInt == 8 && bits 0x80578#64 10 0 == 1400 && ((hot.island 1).sensorAt 3).alert && !(tFar.cluster 16).busy &&
      tFar.floorsHold 1 780 && !tFar.floorsHold 1 620 && !(tFar.island 1).vddBusy && (tFar.island 1).vdd.toNat == 780) &&
     bits 0x1010000000046#64 47 42 == 0 && bits 0x1010000000046#64 39 7 == 0 && bits 0x1010000000046#64 41 40 == 1 && bits 619#64 9 0 < 620 && 620 ≤ bits 620#64 9 0 &&
     bits 900#64 9 0 % 10 == 0 && (s.island 2).vddBusy && (List.replicate 80 (0 : BitVec 16)).length == 80) = true := by decide +kernel
/-- MapEvents: a word that changes, an acknowledgement, a deadline that has passed and one that has not, mode requests, a stopped core with and
without a vcore, whose state can be read, and a vcore of a die that was reset. -/
theorem test_witness_map :
    (let w := fun (x : Context) => ({ tRun tFar with ctxs := [(3, some x)], time := 100 } : State)
     let stop := fun (s : State) => onHart s fun h => { h with stopped := true }
     let p : State := { tFar with hub := { partBusy := true, partReq := 4 } }
     (0xF00000001#64).extractLsb' 0 32 == (w tCtx).mapVersion && (0x2#64).extractLsb' 0 32 != (w tCtx).mapVersion &&
     ({ tCtx with pend := true, deadline := 100 } : Context).deadline ≤ (w tCtx).time && tCtx.susp.isNone && tCtx.st == .running &&
     (w tCtx).time < ({ tCtx with pend := true, deadline := 101 } : Context).deadline && !(w tCtx).hub.partBusy && bits 0x40#64 6 4 != (w tCtx).mapMode &&
     bits 0x40#64 6 4 ≤ 4 && 4 < bits 0x50#64 6 4 && p.allQuiet && p.hub.partReq.toNat ≤ 4 && ((stop tFar).hart (.far 5)).stopped && !((stop tFar).far 5).placed &&
     (let s := stop (tRun tFar)
      (s.hart (.far 5)).stopped && (s.far 5).placed && ([6, 4095] : List Nat).all fun t => s.coreLive t && !(s.far t).placed && !(s.hart (.far t)).stopped &&
        s.partOfDie (dieOf t) == s.partOfDie (dieOf 5) && s.spareFor 3 5 t && !s.coreEnds 5 &&
        (let p := s.readVcore 5 true
         p.2.isSome && (p.1.far 5).placed)) && tFar.mapWord 22 != 0 && tFar.mapWord (16 + 16 * 15 + 6) != 5 &&
     (let w : Fallen := { core := 5, ctx := 63, vcore := 4095, dom1 := 0, dom2 := 0, dom3 := 0 }
      let s : State := { tFar with hub := { fallen := [w] }, ctxs := [(63, some { tCtx with nv := 4096 })] }
      s.spareFor 63 5 6 && !(s.far 5).placed && (s.placedOn 63 4095).isNone && (s.ctx 63).isSome) && !((tRun tFar).hart (.far 5)).stopped) = true := by decide +kernel
/-- ContextEvents: a deadline to come and one that is reached, a suspension that is done, a saved vcore, a service record that is taken, and one that
is done. -/
theorem test_witness_contexts :
    (let u : Susp := { reason := 1, deadline := 100, limit := 50 }
     let s : State := { tFar with ctxs := [(3, some { tCtx with placed := [], susp := some u })], time := 100, nears := [(33, { task := some tTask })] }
     let d : State := { s with nears := [] }
     let x : Context := { st := .suspended, nv := 8, saved := [(2, some { hart := {}, far := {} })] }
     99 < u.deadline && u.deadline ≤ s.time && (s.near 16 1).task == some tTask && d.nearTasks 3 == [] && tCtx.st == .running &&
     (let r : State := { tFar with ctxs := [(3, some x)] }
      r.mayResume x && r.coreFree x.part 77) &&
     (let s : State := { tRun tFar with mem := memWrite (memWrite [] 0x180 8 1) 0x188 8 0x303, hub := { stage := 3, svcPtr := [(0, 63)] } }
      let pa := s.svcPa 0 3
      0 < s.partCount && firstFrom 64 63 (s.svcArmed 0) == some 3 && gives (s.recordWords pa) fun ws p => let w0 := ws.getD 0 0
        !svcReserved ws && bits (ws.getD 1 0) 7 0 == 3 && bits (ws.getD 1 0) 13 8 == 3 && gives (p.armSwap pa w0 ((w0 &&& ~~~15#64) ||| 2#64)) fun z q =>
          z == w0.toNat && q.ctx 3 == some tCtx && tCtx.part == 0) &&
     (let r : SvcRun := { index := 3, pa := 0x180, op := 3, ctx := 3 }
      let s : State := { tFar with hub := { stage := 3, svcRun := [(0, r)] }, ctxs := [(3, some x)] }
      r.ended.isNone && s.ctx r.ctx == some x && gives (s.storeM (stackOf r.pa) r.pa 8 kStore 3) fun _ _ => true) && tFar.hub.stage != 3) = true := by decide +kernel
/-- StartupAndControl: every stage, pools in their partitions and at their alignments, a snapshot at rest and in progress, a function that is
active, one that is not, a boot that failed. (Whether a signature
verifies is a free value: one of the two clauses about it applies to each image of 512 bytes.) -/
theorem test_witness_startup :
    (let st := fun (k : BitVec 4) => ({ tFar with hub := { stage := k } } : State)
     let svc := (List.range 16).map fun k => 2 ^ 36 * k
     let up : State := { tFar with hub := { stage := 2, linkUp := true } }
     let pools := (List.range 16).map fun k => 2 ^ 36 * k + 524288
     (st 0).hub.fail == 0 && (st 1).hub.stage == 1 && (st 3).hub.stage != 0 && svc.length == 16 && pools.length == 16 && svc.all (fun b => b % 8192 == 0 && isDevice b) &&
     pools.all (fun b => b % 128 == 0 && isDevice (b + 524287)) && (List.range 16).all (fun d => (up.island d).heldReqs == []) && !tFar.hub.snapBusy &&
     up.hub.fail == 0 && 0 < up.partCount && !decide (1 < up.partCount) && !(st 2).hub.linkUp && (st 2).hub.stage == 2 &&
     ((List.range 16).all fun p => let b := svc.getD p 0
       if p < up.partCount then up.partOfDie (stackOf b) == p else ([2, 4, 8, 16] : List Nat).any fun m => decide (p < m) && stackOf b * m / 16 == p) &&
     ({ up with turns := [.outside (.barRead 0 2 0 8) 3] } : State).turns == .outside (.barRead 0 2 0 8) 3 :: [] &&
     ({ snapBusy := true, fail := 3 } : Hub).snapBusy && (List.replicate 512 (0 : Byte)).length == 512) = true := by decide +kernel

end Sys2Proof.Tests
end

section
/-! The canonical form of device memory (R14): it holds at reset, and whatever turn a step performs keeps it. -/
namespace Sys2Proof.Machine
variable {s : State}

/-- The turn of an agent keeps the canonical form: both what comes before the instruction and the instruction do. -/
theorem agentTurn_memOk (hs : MemOk s) : OutOk (agentTurn s) := by
  have hready := s.ready_memOk hs
  unfold agentTurn
  cases hr : s.ready with
  | done t =>
    rw [hr] at hready
    exact outOk.next hready
  | run i t =>
    rw [hr] at hready
    exact exec_memOk i t hready

/-- A step keeps the canonical form, by the kind of the turn that it performs. -/
theorem step_memOk (hs : MemOk s) : OutOk (step s) := by
  unfold step
  cases hturns : s.turns with
  | nil => exact agentTurn_memOk (State.giveTurn_memOk _ _ (memOk_of_eq hs rfl))
  | cons turn rest =>
    cases turn with
    | agent a ov dt => exact agentTurn_memOk (State.giveTurn_memOk _ _ (memOk_of_eq hs rfl))
    | event i dt => exact outOk_ite (exec_memOk _ _ (memOk_of_eq hs rfl)) (outOk.next (memOk_of_eq hs rfl))
    | near h ov dt =>
      have hslot := State.nearSlot_memOk { s with turns := rest, overlap := ov, time := s.time + dt } h (memOk_of_eq hs rfl)
      dsimp only
      split
      case h_1 t ht => exact agentTurn_memOk (hslot.of_eq ht)
      case h_2 => exact outOk.next (memOk_of_eq hs rfl)
    | outside o dt => exact outOk.next (State.outside_memOk _ _ (memOk_of_eq hs rfl))

/-- Settles O2: memory lists nothing at reset. -/
theorem resetMemoryCanonical : Obligations.ResetMemoryCanonical := Memory.wf_nil

/-- Settles O3, by the kinds of turn that a step can perform. -/
theorem stepKeepsMemoryCanonical : Obligations.StepKeepsMemoryCanonical := by
  intro s t hs ht
  exact (step_memOk hs).mem t ht

end Sys2Proof.Machine
end

section
/-! What an eviction at the memory-side cache of a lost home does to the banks: its dirty sectors are lost (R384). -/
namespace Sys2Proof.Machine
variable (s : State)

/-! ### Operations that leave memory as it was -/

theorem foldl_mem {α : Type} {f : State → α → State} (hf : ∀ s x, (f s x).mem = s.mem) (l : List α) : (l.foldl f s).mem = s.mem := by
  induction l generalizing s with
  | nil => rfl
  | cons x l ih => exact (ih (f s x)).trans (hf s x)
@[simp] theorem State.hirq_mem (k : Nat) : (s.hirq k).mem = s.mem := by
  unfold State.hirq
  refine foldl_mem s ?_ _
  exact fun s n => s.updHub_mem _
@[simp] theorem State.raise_mem (fn k : Nat) : (s.raise fn k).mem = s.mem := by
  unfold State.raise
  dsimp only
  split <;> rfl
@[simp] theorem State.log_mem (kind unit cls id addr detail die : Nat) : (s.log kind unit cls id addr detail die).mem = s.mem := by
  unfold State.log
  split <;> simp
@[simp] theorem State.logSector_mem (kind unit own pa detail : Nat) : (s.logSector kind unit own pa detail).mem = s.mem :=
  s.log_mem ..
@[simp] theorem State.lostWrite_mem (pa : Nat) : (s.lostWrite pa).mem = s.mem := s.log_mem ..
@[simp] theorem State.freshen_mem (unit own sec : Nat) : (s.freshen unit own sec).mem = s.mem := by
  unfold State.freshen
  split <;> rfl
@[simp] theorem State.coverFresh_mem (unit own ln : Nat) (cov : BitVec 2) : (s.coverFresh unit own ln cov).mem = s.mem := by
  unfold State.coverFresh
  dsimp only
  split_ifs <;> simp
@[simp] theorem State.errorOut_mem (unit own ln : Nat) (b : BitVec 2) (agent : Option Agent) :
    (s.errorOut unit own ln b agent).mem = s.mem := by
  unfold State.errorOut
  split
  · rfl
  · cases s.badIn unit own (sectorRange ln b).1 (sectorRange ln b).2 with
    | none => rfl
    | some x => cases agent <;> simp
@[simp] theorem State.wake_mem (msc : Bool) (ln code : Nat) : (s.wake msc ln code).mem = s.mem := by
  unfold State.wake
  split <;> rfl

/-! ### Lines of a lost home -/

variable {s}

/-- The write-back of a line whose home is lost reaches no bank (R384). -/
theorem State.mscClean_mem_of_homeLost {ln : Nat} (h : s.homeLost (homeOf (64 * ln)) = true) : (s.mscClean ln).mem = s.mem := by
  unfold State.mscClean
  have hnone (i : Nat) : (0 : BitVec 2).getLsbD i = false := BitVec.getLsbD_zero
  simp only [h, ↓reduceIte, hnone, Bool.false_eq_true]
  split_ifs <;> simp [State.setMsc]
/-- Nor does its eviction. -/
theorem State.mscDrop_mem_of_homeLost {ln : Nat} (h : s.homeLost (homeOf (64 * ln)) = true) : (s.mscDrop ln).mem = s.mem := by
  unfold State.mscDrop
  split
  · simpa [State.dropMsc] using State.mscClean_mem_of_homeLost h
  · rfl
theorem exec_cacheEviction_msc {ln : Nat} (h : (s.mscAt ln).host = false) :
    exec (.cacheEviction (.msc (lineStack ln)) ln) s = .next (s.mscDrop ln) := by
  rw [exec_cacheEviction]
  simp [execCacheEviction, runEvent, State.evict, h]

/-- Home 0 is lost, and line 0 stands in its memory-side cache with a dirty first sector whose byte 0 is 1. -/
def lostHomeState : State :=
  { State.reset with hub := { rmap := [(23, 1)] }, baseDies := [(0, { msc := [(0, { data := 1, valid := 1, dirty := 1 })] })] }

/-- Refutes O49: where the home of an evicted memory-side line is lost, its dirty sectors do not reach memory (R384), and the clause of
CACHE_EVICTION for memory-side lines has no premise about the home. In `lostHomeState` it gives byte 0 the line's 1; it stays 0. -/
theorem not_cacheAndWalkEvents : ¬ Obligations.CacheAndWalkEvents := by
  unfold Obligations.CacheAndWalkEvents
  intro h
  obtain ⟨-, -, -, -, hmsc, -⟩ := h lostHomeState lostHomeState 0 0 0 0 0 ⟨0, 0, 0, [], []⟩ [] fetchEntry
  obtain ⟨t, ht, -, hbytes⟩ := (hmsc (by decide)).1 (by decide) (by decide)
  have hlost : lostHomeState.homeLost (homeOf (64 * 0)) = true := by decide
  have hexec : exec (.cacheEviction (.msc 0) 0) lostHomeState = .next (lostHomeState.mscDrop 0) := exec_cacheEviction_msc (by decide)
  obtain rfl : t = lostHomeState.mscDrop 0 := by
    rw [hexec] at ht
    cases ht
    rfl
  have hline : lostHomeState.mscAt 0 = { data := 1, valid := 1, dirty := 1 } := rfl
  have hbyte := hbytes 0
  rw [State.mscDrop_mem_of_homeLost hlost, hline, if_pos (by decide)] at hbyte
  have hold : memByte lostHomeState.mem 0 = 0#8 := rfl
  have hnew : byteOf (1#512) (0 % 64) = 1#8 := by simp [byteOf]
  exact absurd (hold.symm.trans (hbyte.trans hnew)) (by decide)

end Sys2Proof.Machine
end

section
/-! What the operations that logs, codes and monitors share leave as it was, by the parts of the state that they can change. -/
namespace Sys2Proof.Machine
variable (s : State)

/-! ### Monitors: only harts change -/

theorem State.wake_eq (msc : Bool) (ln code : Nat) : s.wake msc ln code = { s with harts := (s.wake msc ln code).harts } := by
  unfold State.wake
  split <;> rfl
@[simp] theorem State.wake_fabric (msc : Bool) (ln code : Nat) : (s.wake msc ln code).fabric = s.fabric :=
  (congrArg State.fabric (s.wake_eq msc ln code) :)
@[simp] theorem State.wake_cmds (msc : Bool) (ln code : Nat) : (s.wake msc ln code).cmds = s.cmds :=
  (congrArg State.cmds (s.wake_eq msc ln code) :)
@[simp] theorem State.wake_bad (msc : Bool) (ln code : Nat) : (s.wake msc ln code).bad = s.bad :=
  (congrArg State.bad (s.wake_eq msc ln code) :)
@[simp] theorem State.wake_hub (msc : Bool) (ln code : Nat) : (s.wake msc ln code).hub = s.hub :=
  (congrArg State.hub (s.wake_eq msc ln code) :)
@[simp] theorem State.wake_baseDies (msc : Bool) (ln code : Nat) : (s.wake msc ln code).baseDies = s.baseDies :=
  (congrArg State.baseDies (s.wake_eq msc ln code) :)
@[simp] theorem State.wake_stack (msc : Bool) (ln code k : Nat) : (s.wake msc ln code).stack k = s.stack k :=
  (congrArg (State.stack · k) (s.wake_eq msc ln code) :)
@[simp] theorem State.wake_home (msc : Bool) (ln code h : Nat) : (s.wake msc ln code).home h = s.home h :=
  (congrArg (State.home · h) (s.wake_eq msc ln code) :)
@[simp] theorem State.wake_homeLost (msc : Bool) (ln code h : Nat) : (s.wake msc ln code).homeLost h = s.homeLost h :=
  (congrArg (State.homeLost · h) (s.wake_eq msc ln code) :)
@[simp] theorem State.wake_homeByte (msc : Bool) (ln code x : Nat) : (s.wake msc ln code).homeByte x = s.homeByte x :=
  (congrArg (State.homeByte · x) (s.wake_eq msc ln code) :)

/-! ### Codes: only the list of bad sectors changes -/

theorem State.freshen_eq (unit own sec : Nat) : s.freshen unit own sec = { s with bad := (s.freshen unit own sec).bad } := by
  unfold State.freshen
  split <;> rfl
theorem State.coverFresh_eq (unit own ln : Nat) (cov : BitVec 2) :
    s.coverFresh unit own ln cov = { s with bad := (s.coverFresh unit own ln cov).bad } := by
  unfold State.coverFresh
  dsimp only
  split_ifs
  · rfl
  · rw [State.freshen_eq, State.freshen_eq s]
  · rw [State.freshen_eq]
  · rw [State.freshen_eq]
  · rfl
/-- With no bad sector there is none to take out. -/
theorem State.coverFresh_of_bad_nil {s : State} (h : s.bad = []) (unit own ln : Nat) (cov : BitVec 2) :
    s.coverFresh unit own ln cov = s := by
  unfold State.coverFresh
  rw [h]
  rfl

/-! ### The log: only the hub and what it sends the host change -/

theorem State.hirq_eq (k : Nat) : s.hirq k = { s with hub := (s.hirq k).hub } := by
  unfold State.hirq
  generalize List.range 7 = l
  induction l generalizing s with
  | nil => rfl
  | cons n l ih =>
    rw [List.foldl_cons, ih]
    rfl
theorem State.raise_eq (fn k : Nat) : s.raise fn k = { s with hub := (s.raise fn k).hub, toHost := (s.raise fn k).toHost } := by
  unfold State.raise
  dsimp only
  split <;> rfl
theorem State.log_eq (kind unit cls id addr detail die : Nat) :
    s.log kind unit cls id addr detail die =
      { s with hub := (s.log kind unit cls id addr detail die).hub, toHost := (s.log kind unit cls id addr detail die).toHost } := by
  unfold State.log
  dsimp only
  split
  · rw [State.raise_eq, State.hirq_eq]
    rfl
  · rw [State.hirq_eq]
    rfl
/-- A write-back that no core has caused meets an error in no hart: only the log and the code change. -/
@[simp] theorem State.errorOut_fabric (unit own ln : Nat) (b : BitVec 2) : (s.errorOut unit own ln b none).fabric = s.fabric := by
  unfold State.errorOut
  split
  · rfl
  · cases s.badIn unit own (sectorRange ln b).1 (sectorRange ln b).2 with
    | none => rfl
    | some x =>
      dsimp only
      rw [State.logSector, State.log_eq, State.freshen_eq]

variable {s}

/-! ### Where nothing is cached and nothing is held -/

/-- A key that is not listed reads as its default. -/
theorem mget_of_not_mhas {α : Type} (dflt : Nat → α) {m : FMap α} {k : Nat} (h : mhas m k = false) : mget dflt m k = dflt k := by
  refine mget_absent dflt m k ?_
  simpa [mhas] using h
theorem State.mscAt_of_not_mhas {ln : Nat} (h : mhas (s.stack (lineStack ln)).msc ln = false) : s.mscAt ln = {} :=
  mget_of_not_mhas noLine h
theorem State.mscDrop_of_not_mhas {ln : Nat} (h : mhas (s.stack (lineStack ln)).msc ln = false) : s.mscDrop ln = s :=
  if_neg (Bool.eq_false_iff.mp h)
theorem State.flushFor_of_not_held {pa n : Nat} (h : s.heldOn pa n = false) : s.flushFor pa n = s :=
  if_neg (Bool.eq_false_iff.mp h)
theorem State.flushStack_of_sort_nil {k : Nat} (h : (s.stack k).sort = []) : s.flushStack k = s := by
  unfold State.flushStack
  rw [h]
  rfl

end Sys2Proof.Machine
end

section
/-! Bank operations (R39, R142 to R144): a command of one element at its bank, in place or in the sort buffer, and changes of EN. -/
namespace Sys2Proof.Machine
variable {s : State} {k : Nat} {c : BankCmd}

/-- The bytes of a write that puts a number's `n` low bytes at an address. -/
theorem memByte_memWrite_ite (m : List Host.Cell) (a n v x : Nat) :
    memByte (memWrite m a n v) x = if a ≤ x ∧ x < a + n then BitVec.ofNat 8 (v / 256 ^ (x - a)) else memByte m x := by
  split_ifs with h
  · exact memByte_memWrite m a n v x h.1 h.2
  · exact memByte_memWrite_other m a n v x (by omega)

/-- Command `k` of the fabric can be performed at its bank: its home is not lost, its line is in no memory-side cache, and no add is
held on its bytes. -/
structure BankReady (s : State) (k : Nat) (c : BankCmd) : Prop where
  here : s.fabric[k]? = some c
  live : s.homeLost (homeOf c.pa) = false
  uncached : mhas (s.stack (lineStack (lineOf c.pa))).msc (lineOf c.pa) = false
  free : s.heldOn c.pa c.n = false

/-- A command of one element, no floating add that EN or a change of EN would divert, is applied to its bytes in place. -/
theorem State.bankApply_inPlace (live : s.homeLost (homeOf c.pa) = false)
    (uncached : mhas (s.stack (lineStack (lineOf c.pa))).msc (lineOf c.pa) = false) (free : s.heldOn c.pa c.n = false)
    (hn : c.n = bankElemBytes c.op)
    (hfloat : c.op = 3 ∨ c.op = 4 → (s.stack (stackOf c.pa)).busy = false ∧ (s.stack (stackOf c.pa)).en = false) :
    ∃ t, s.bankApply c = some t ∧ t.fabric = s.fabric ∧
      t.mem = memWrite s.mem c.pa c.n (bankElem c.op (memRead s.mem c.pa c.n) (getBytes c.data 0 c.n).toNat) := by
  have hone : c.n / bankElemBytes c.op = 1 := by
    rw [hn]
    unfold bankElemBytes
    split <;> rfl
  have hbusy : ¬((c.op = 3 ∨ c.op = 4) ∧ (s.stack (stackOf c.pa)).busy = true ∧ (s.stack (stackOf c.pa)).mark ≤ c.id) := by
    rintro ⟨hop, hb, -⟩
    simp [hfloat hop] at hb
  have hen : ¬((c.op = 3 ∨ c.op = 4) ∧ (s.stack (stackOf c.pa)).en = true) := by
    rintro ⟨hop, he⟩
    simp [hfloat hop] at he
  unfold State.bankApply
  simp only [State.mscAt_of_not_mhas uncached, State.mscDrop_of_not_mhas uncached, live, if_neg hbusy, if_neg hen, hone,
    State.flushFor_of_not_held free, Bool.false_eq_true, ↓reduceIte]
  refine ⟨_, rfl, ?_, ?_⟩
  · simp
  · simp [applyElem, BankCmd.elem, ← hn]

theorem State.sortEnter_of_room {e : SortEntry} (h : (mget (fun _ => []) (s.stack (stackOf e.pa)).sort (bankKey e.pa)).length < 64) :
    s.sortEnter e = s.updStack (stackOf e.pa) fun x =>
      { x with sort := mput x.sort (bankKey e.pa) (mget (fun _ => []) (s.stack (stackOf e.pa)).sort (bankKey e.pa) ++ [e]) } :=
  if_pos h
/-- A floating add of one element, with EN set and not changing, is entered at the end of its bank's sort buffer. -/
theorem State.bankApply_sorted (live : s.homeLost (homeOf c.pa) = false)
    (uncached : mhas (s.stack (lineStack (lineOf c.pa))).msc (lineOf c.pa) = false) (hop : c.op = 3) (hn : c.n = 4)
    (hbusy : (s.stack (stackOf c.pa)).busy = false) (hen : (s.stack (stackOf c.pa)).en = true)
    (hroom : (mget (fun _ => []) (s.stack (stackOf c.pa)).sort (bankKey c.pa)).length < 64) :
    ∃ t, s.bankApply c = some t ∧ t.fabric = s.fabric ∧ t.mem = s.mem ∧
      mget (fun _ => []) (t.stack (stackOf c.pa)).sort (bankKey c.pa) =
        mget (fun _ => []) (s.stack (stackOf c.pa)).sort (bankKey c.pa) ++
          [{ src := c.src, seq := c.seq, pa := c.pa, op := 3, v := BitVec.ofNat 32 (getBytes c.data 0 c.n).toNat }] := by
  have helem : c.elem 0 = (getBytes c.data 0 c.n).toNat := by simp [BankCmd.elem, bankElemBytes, hop, hn]
  have hone : c.n / bankElemBytes 3 = 1 := by simp [bankElemBytes, hn]
  unfold State.bankApply
  simp only [State.mscAt_of_not_mhas uncached, State.mscDrop_of_not_mhas uncached, live, hbusy, hen, hone, List.range_one,
    List.foldl_cons, List.foldl_nil, Nat.mul_zero, Nat.add_zero, BitVec.ofNat_eq_ofNat, BitVec.add_zero, helem, hop, true_or,
    Bool.false_eq_true, false_and, and_false, and_self, ↓reduceIte]
  rw [State.sortEnter_of_room hroom]
  refine ⟨_, rfl, ?_⟩
  simp

/-- An event of an op performs the command of that op that it names. -/
theorem State.bankEvent_of_apply {t : State} (here : s.fabric[k]? = some c)
    (ht : ({ s with fabric := dropAt s.fabric k } : State).bankApply c = some t) : s.bankEvent c.op k = t := by
  simp [State.bankEvent, here, ht]

/-- The event of an op whose elements have `n` bytes writes the element's new value, and the command has left the fabric. -/
theorem BankReady.event_applies (hr : BankReady s k c) {op n new : Nat} {i : Instr} (hexec : exec i s = runEvent (s.bankEvent op k))
    (hn : bankElemBytes op = n) (hnew : bankElem op (memRead s.mem c.pa c.n) (getBytes c.data 0 c.n).toNat = new) :
    c.op = op → c.n = n →
      ((op = 3 ∨ op = 4) → (s.stack (stackOf c.pa)).busy = false ∧ (s.stack (stackOf c.pa)).en = false) →
    ∃ t, exec i s = .next t ∧ t.fabric = dropAt s.fabric k ∧
      ∀ x, memByte t.mem x = if c.pa ≤ x ∧ x < c.pa + n then BitVec.ofNat 8 (new / 256 ^ (x - c.pa)) else memByte s.mem x := by
  rintro rfl rfl hfloat
  obtain ⟨t, ht, hfabric, hmem⟩ :=
    State.bankApply_inPlace (s := { s with fabric := dropAt s.fabric k }) hr.live hr.uncached hr.free hn.symm hfloat
  refine ⟨t, ?_, hfabric, fun x => ?_⟩
  · rw [hexec, State.bankEvent_of_apply hr.here ht]
    rfl
  · rw [hmem, memByte_memWrite_ite, ← hnew]

/-- BANK_ADD_F32 with EN set enters its element in the sort buffer of its bank, and writes no byte. -/
theorem BankReady.addF32_sorted (hr : BankReady s k c) (hop : c.op = 3) (hn : c.n = 4) (hbusy : (s.stack (stackOf c.pa)).busy = false)
    (hen : (s.stack (stackOf c.pa)).en = true)
    (hroom : (mget (fun _ => []) (s.stack (stackOf c.pa)).sort (bankKey c.pa)).length < 64) :
    ∃ t, exec (.bankAddF32 k) s = .next t ∧ t.fabric = dropAt s.fabric k ∧ (∀ x, memByte t.mem x = memByte s.mem x) ∧
      mget (fun _ => []) (t.stack (stackOf c.pa)).sort (bankKey c.pa) =
        mget (fun _ => []) (s.stack (stackOf c.pa)).sort (bankKey c.pa) ++
          [{ src := c.src, seq := c.seq, pa := c.pa, op := 3, v := BitVec.ofNat 32 (getBytes c.data 0 c.n).toNat }] := by
  obtain ⟨t, ht, hfabric, hmem, hsort⟩ :=
    State.bankApply_sorted (s := { s with fabric := dropAt s.fabric k }) hr.live hr.uncached hop hn hbusy hen hroom
  refine ⟨t, ?_, hfabric, fun x => by rw [hmem], hsort⟩
  rw [exec_bankAddF32, execBankAddF32, ← hop, State.bankEvent_of_apply hr.here ht]
  rfl

/-- STACK_DETRED on a stack that holds no add only notes the value to come. -/
theorem State.detredWrite_of_sort_nil {stk : Nat} (hsort : (s.stack stk).sort = []) (en : Bool) :
    s.detredWrite stk en = s.updStack stk fun x => { x with busy := true, newEn := en, mark := s.nextId } := by
  unfold State.detredWrite
  rw [State.flushStack_of_sort_nil hsort]
/-- With no early floating add in the fabric there is none to apply. -/
theorem State.fabricFloats_of_none {stk : Nat} (h : s.fabric.any (s.earlyFloat stk) = false) : s.fabricFloats stk = s := by
  unfold State.fabricFloats
  have hno : ∀ c ∈ s.fabric, s.earlyFloat stk c = false := by simpa using h
  refine List.foldlRecOn s.fabric _ (motive := fun t => t = s) rfl ?_
  rintro _ rfl c hc
  simp [hno c hc]
theorem State.detredDone_of_quiet {stk : Nat} (hbusy : (s.stack stk).busy = true) (hsort : (s.stack stk).sort = [])
    (hearly : s.fabric.any (s.earlyFloat stk) = false) :
    s.detredDone stk =
      s.updStack stk fun x => { x with busy := false, en := x.newEn, splits := if x.newEn && !x.en then 0 else x.splits } := by
  unfold State.detredDone
  simp only [hbusy, State.fabricFloats_of_none hearly, hearly, State.flushStack_of_sort_nil hsort, Bool.not_true, Bool.false_eq_true,
    ↓reduceIte]

/-- Settles O53: ops 1 to 7 by the one lemma on a command performed in place, and STACK_DETRED where nothing is held. -/
theorem bankEvents : Obligations.BankEvents := by
  unfold Obligations.BankEvents
  intro s k stk c en
  refine ⟨?_, ?_, ?_⟩
  · intro here _ live uncached free
    have hr : BankReady s k c := ⟨here, live, uncached, free⟩
    exact ⟨hr.event_applies (exec_bankAddI32 k) rfl rfl, hr.event_applies (exec_bankAddI64 k) rfl rfl,
      hr.event_applies (exec_bankAddF32 k) rfl rfl, hr.event_applies (exec_bankAddBf16x2 k) rfl rfl,
      hr.event_applies (exec_bankMaxF32 k) rfl rfl, hr.event_applies (exec_bankMinF32 k) rfl rfl,
      hr.event_applies (exec_bankOr64 k) rfl rfl, hr.addF32_sorted⟩
  · intro hsort _ hfail
    refine ⟨s.detredWrite stk en, ?_, ?_⟩
    · rw [exec_stackDetredWrite, execStackDetredWrite, runWrite, if_pos hfail]
      rfl
    · simp [State.detredWrite_of_sort_nil hsort]
  · intro hbusy hsort hearly
    refine ⟨s.detredDone stk, rfl, ?_⟩
    simp [State.detredDone_of_quiet hbusy hsort hearly]

end Sys2Proof.Machine
end

section
/-! Numbers in memory and bytes of lines: what a read of `n` bytes returns, and each byte after an edit of a line (R8, R54). -/
namespace Sys2Proof.Machine

/-! ### Numbers in memory -/

/-- Bytes that are the low bytes of a number read as that number, cut to their width. -/
theorem memRead_eq_mod (m : List Host.Cell) (a n v : Nat) (h : ∀ i < n, memByte m (a + i) = BitVec.ofNat 8 (v / 256 ^ i)) :
    memRead m a n = v % 256 ^ n := by
  induction n generalizing a v with
  | zero => simp [memRead, Nat.mod_one]
  | succ n ih =>
    have hrest : memRead m (a + 1) n = v / 256 % 256 ^ n := by
      refine ih (a + 1) (v / 256) fun i hi => ?_
      rw [Nat.add_right_comm, Nat.add_assoc, h (i + 1) (by omega), Nat.div_div_eq_div_mul, ← Nat.pow_succ']
    have hfirst : memByte m a = BitVec.ofNat 8 v := by simpa using h 0 (by omega)
    rw [memRead, hrest, hfirst, (Nat.pow_succ' : 256 ^ (n + 1) = 256 * 256 ^ n), Nat.mod_mul]
    rfl
/-- What a write put at an address is read there. -/
theorem memRead_memWrite (m : List Host.Cell) (a n v : Nat) : memRead (memWrite m a n v) a n = v % 256 ^ n := by
  refine memRead_eq_mod _ _ _ _ fun i hi => ?_
  rw [memByte_memWrite m a n v (a + i) (by omega) (by omega), Nat.add_sub_cancel_left]
/-- Reads of equal bytes are equal. -/
theorem memRead_congr {m l : List Host.Cell} {a n : Nat} (h : ∀ x, a ≤ x → x < a + n → memByte m x = memByte l x) :
    memRead m a n = memRead l a n := by
  induction n generalizing a with
  | zero => rfl
  | succ n ih =>
    rw [memRead, memRead, h a (by omega) (by omega), ih fun x h1 h2 => h x (by omega) (by omega)]
theorem memRead_lt (m : List Host.Cell) (a n : Nat) : memRead m a n < 256 ^ n := by
  induction n generalizing a with
  | zero => simp [memRead]
  | succ n ih =>
    have hbyte := (memByte m a).isLt
    have hrest := ih (a + 1)
    rw [memRead, Nat.pow_succ]
    omega
/-- Byte `i` of what is read is the byte at the `i`-th address. -/
theorem ofNat_memRead_div (m : List Host.Cell) {a n i : Nat} (hi : i < n) :
    BitVec.ofNat 8 (memRead m a n / 256 ^ i) = memByte m (a + i) := by
  induction n generalizing a i with
  | zero => omega
  | succ n ih =>
    have hbyte := (memByte m a).isLt
    cases i with
    | zero =>
      apply BitVec.eq_of_toNat_eq
      simp only [memRead, BitVec.toNat_ofNat, Nat.pow_zero, Nat.div_one, Nat.add_zero]
      omega
    | succ i =>
      have htail : memRead m a (n + 1) / 256 = memRead m (a + 1) n := by
        rw [memRead]
        omega
      rw [Nat.pow_succ', ← Nat.div_div_eq_div_mul, htail, ih (by omega), Nat.add_assoc, Nat.add_comm 1 i]

/-! ### Bytes of a line -/

theorem getLsbD_byteOf {n : Nat} (v : BitVec n) (i j : Nat) : (byteOf v i).getLsbD j = (decide (j < 8) && v.getLsbD (8 * i + j)) := by
  simp [byteOf]
theorem byteOf_eq_ofNat {n : Nat} (v : BitVec n) (i : Nat) : byteOf v i = BitVec.ofNat 8 (v.toNat / 256 ^ i) := by
  rw [byteOf, BitVec.extractLsb', Nat.shiftRight_eq_div_pow, Nat.pow_mul]
theorem byteOf_ofNat {w i : Nat} (v : Nat) (hi : 8 * i + 8 ≤ w) : byteOf (BitVec.ofNat w v) i = BitVec.ofNat 8 (v / 256 ^ i) := by
  refine BitVec.eq_of_getLsbD_eq fun j hj => ?_
  have hlt : 8 * i + j < w := by omega
  rw [getLsbD_byteOf, BitVec.getLsbD_ofNat, BitVec.getLsbD_ofNat, show 256 ^ i = 2 ^ (8 * i) from (Nat.pow_mul 2 8 i).symm, Nat.testBit_div_two_pow,
    Nat.add_comm j, decide_eq_true hlt, Bool.true_and]
/-- A line of 64 bytes read from memory has their bytes. -/
theorem byteOf_memRead_line (m : List Host.Cell) {a i : Nat} (hi : i < 64) : byteOf (BitVec.ofNat 512 (memRead m a 64)) i = memByte m (a + i) := by
  rw [byteOf_ofNat _ (by omega), ofNat_memRead_div m hi]
theorem toNat_lt_pow_256 {n : Nat} (v : BitVec (8 * n)) : v.toNat < 256 ^ n := (Nat.pow_mul 2 8 n) ▸ v.isLt
theorem getLsbD_byteMask (n j : Nat) : (BitVec.ofNat 512 (byteMask n)).getLsbD j = (decide (j < 512) && decide (j < 8 * n)) := by
  rw [BitVec.getLsbD_ofNat, byteMask, Nat.testBit_two_pow_sub_one]
theorem byteOf_putBytes (l v : BitVec 512) {off n i : Nat} (hi : i < 64) :
    byteOf (putBytes l off n v) i = if off ≤ i ∧ i < off + n then byteOf v (i - off) else byteOf l i := by
  refine BitVec.eq_of_getLsbD_eq fun j hj => ?_
  have hlt : 8 * i + j < 512 := by omega
  simp only [putBytes, getLsbD_byteOf, BitVec.getLsbD_or, BitVec.getLsbD_and, BitVec.getLsbD_not, BitVec.getLsbD_shiftLeft,
    getLsbD_byteMask, hj, hlt, decide_true, Bool.true_and]
  split_ifs with h
  · have hsub : 8 * i + j - 8 * off = 8 * (i - off) + j := by omega
    have hlow : ¬8 * i + j < 8 * off := by omega
    have hbit : 8 * (i - off) + j < 512 ∧ 8 * (i - off) + j < 8 * n := by omega
    simp only [getLsbD_byteOf, hsub, hlow, hbit, hj, decide_true, decide_false, Bool.not_false, Bool.not_true, Bool.true_and, Bool.and_true,
      Bool.and_false, Bool.false_or]
  · have hout : 8 * i + j < 8 * off ∨ ¬8 * i + j - 8 * off < 8 * n := by omega
    rcases hout with hout | hout <;>
      simp only [getLsbD_byteOf, hout, hj, decide_true, decide_false, Bool.not_false, Bool.not_true, Bool.true_and, Bool.and_true, Bool.and_false,
        Bool.false_and, Bool.or_false]
theorem getLsbD_sectorMask (b : BitVec 2) {j : Nat} (hj : j < 512) : (sectorMask b).getLsbD j = b.getLsbD (j / 256) := by
  have hmask (j : Nat) : (BitVec.ofNat 512 (2 ^ 256 - 1)).getLsbD j = (decide (j < 512) && decide (j < 256)) := getLsbD_byteMask 32 j
  have hlow : (if b.getLsbD 0 then BitVec.ofNat 512 (2 ^ 256 - 1) else 0).getLsbD j = (b.getLsbD 0 && decide (j < 256)) := by
    cases b.getLsbD 0
    · exact BitVec.getLsbD_zero
    · simp only [↓reduceIte, hmask, hj, decide_true, Bool.true_and]
  have hhigh : (if b.getLsbD 1 then BitVec.ofNat 512 (2 ^ 256 - 1) <<< 256 else 0).getLsbD j = (b.getLsbD 1 && !decide (j < 256)) := by
    have hrest : j - 256 < 512 ∧ j - 256 < 256 := by omega
    cases b.getLsbD 1
    · exact BitVec.getLsbD_zero
    · simp only [↓reduceIte, BitVec.getLsbD_shiftLeft, hmask, hj, hrest, decide_true, Bool.true_and, Bool.and_true]
  rw [sectorMask, BitVec.getLsbD_or, hlow, hhigh]
  rcases Nat.lt_or_ge j 256 with h | h
  · have hdiv : j / 256 = 0 := by omega
    simp only [hdiv, h, decide_true, Bool.not_true, Bool.and_true, Bool.and_false, Bool.or_false]
  · have hdiv : j / 256 = 1 := by omega
    simp only [hdiv, Nat.not_lt.mpr h, decide_false, Bool.not_false, Bool.and_true, Bool.and_false, Bool.false_or]
theorem byteOf_mergeSectors (l d : BitVec 512) (b : BitVec 2) {i : Nat} (hi : i < 64) :
    byteOf (mergeSectors l d b) i = if b.getLsbD (i / 32) then byteOf d i else byteOf l i := by
  refine BitVec.eq_of_getLsbD_eq fun j hj => ?_
  have hlt : 8 * i + j < 512 := by omega
  have hdiv : (8 * i + j) / 256 = i / 32 := by omega
  simp only [mergeSectors, getLsbD_byteOf, BitVec.getLsbD_or, BitVec.getLsbD_and, BitVec.getLsbD_not, getLsbD_sectorMask b hlt, hdiv, hj, hlt,
    decide_true, Bool.true_and]
  cases b.getLsbD (i / 32) <;> simp [hj, getLsbD_byteOf, -BitVec.getLsbD_eq_getElem]

/-! ### A pattern repeated over a row (R41) -/

/-- A 64-byte pattern, `n` times over, as one number. -/
def patternCopies (p : BitVec 512) (n : Nat) : Nat := (List.range n).foldl (fun acc i => acc + p.toNat * 2 ^ (512 * i)) 0
theorem patternRow_eq (p : BitVec 512) : patternRow p = patternCopies p 16 := rfl
theorem patternCopies_succ (p : BitVec 512) (n : Nat) : patternCopies p (n + 1) = patternCopies p n + p.toNat * 256 ^ (64 * n) := by
  rw [patternCopies, List.range_succ, List.foldl_append, ← patternCopies, List.foldl_cons, List.foldl_nil, show 256 = 2 ^ 8 from rfl,
    ← Nat.pow_mul, ← Nat.mul_assoc]
theorem patternCopies_lt (p : BitVec 512) (n : Nat) : patternCopies p n < 256 ^ (64 * n) := by
  induction n with
  | zero => simp [patternCopies]
  | succ n ih =>
    have hp : p.toNat + 1 ≤ 256 ^ 64 := toNat_lt_pow_256 (n := 64) p
    have hmul := Nat.mul_le_mul_right (256 ^ (64 * n)) hp
    rw [patternCopies_succ, Nat.mul_succ, Nat.pow_add, Nat.mul_comm (256 ^ (64 * n)) (256 ^ 64)]
    rw [Nat.add_mul, Nat.one_mul] at hmul
    omega
theorem ofNat_add_mul_256 (a b : Nat) : BitVec.ofNat 8 (a + b * 256) = BitVec.ofNat 8 a := by
  apply BitVec.eq_of_toNat_eq
  rw [BitVec.toNat_ofNat, BitVec.toNat_ofNat]
  omega
/-- Byte `j` of the repetition is the pattern's byte at that place within 64 bytes: the last copy lies above the earlier ones. -/
theorem patternCopies_byte (p : BitVec 512) {n j : Nat} (hj : j < 64 * n) :
    BitVec.ofNat 8 (patternCopies p n / 256 ^ j) = byteOf p (j % 64) := by
  induction n with
  | zero => omega
  | succ n ih =>
    rw [patternCopies_succ]
    rcases Nat.lt_or_ge j (64 * n) with h | h
    · obtain ⟨d, hd⟩ : ∃ d, 64 * n = j + (d + 1) := ⟨64 * n - j - 1, by omega⟩
      have hshift : p.toNat * 256 ^ (64 * n) = p.toNat * 256 ^ d * 256 * 256 ^ j := by
        rw [hd]
        ring
      rw [hshift, Nat.add_mul_div_right _ _ (Nat.pow_pos (by decide)), ofNat_add_mul_256, ih h]
    · obtain ⟨d, rfl⟩ : ∃ d, j = 64 * n + d := ⟨j - 64 * n, by omega⟩
      have hmod : (64 * n + d) % 64 = d := by omega
      rw [Nat.pow_add, ← Nat.div_div_eq_div_mul, Nat.add_mul_div_right _ _ (Nat.pow_pos (by decide)),
        Nat.div_eq_of_lt (patternCopies_lt p n), Nat.zero_add, hmod, byteOf_eq_ofNat]

end Sys2Proof.Machine
end

section
/-! A write that a home serves now at its memory-side cache: the line it leaves there, and each byte as the home then sees it (R54, R59). -/
namespace Sys2Proof.Machine
variable {s : State}

/-! ### Lines listed at the memory-side cache -/

theorem mget_cput_same {α : Type} (dflt : Nat → α) (m : FMap α) (k : Nat) (v : α) : mget dflt (cput m k v) k = v := by
  simp [cput, mget]
theorem mget_cput_other {α : Type} (dflt : Nat → α) (m : FMap α) {k j : Nat} (v : α) (h : j ≠ k) :
    mget dflt (cput m k v) j = mget dflt m j := by
  have hj : ¬k = j := fun e => h e.symm
  rw [cput, mget, if_neg hj]
  exact mget_filter dflt m (fun x => x != k) j (by simpa using h)
@[simp] theorem State.setMsc_mscAt (ln : Nat) (l : CLine) : (s.setMsc ln l).mscAt ln = l := by
  simp [State.setMsc, State.mscAt, mget_cput_same]
theorem State.setMsc_mscAt_other {ln j : Nat} (l : CLine) (h : j ≠ ln) : (s.setMsc ln l).mscAt j = s.mscAt j := by
  unfold State.setMsc State.mscAt
  by_cases hstack : lineStack j = lineStack ln
  · rw [hstack, State.updStack_eq, State.setStack_stack, mget_cput_other _ _ _ h]
  · rw [State.updStack_eq, State.setStack_stack_other _ _ _ _ hstack]

/-! ### The line that a write leaves -/

/-- Sectors filled from the banks do not change what a home sees of a line. -/
theorem State.filledMsc_homeByte (need : BitVec 2) (x : Nat) :
    (if (s.filledMsc (x / 64) need).valid.getLsbD (x % 64 / 32) then byteOf (s.filledMsc (x / 64) need).data (x % 64)
      else memByte s.mem x) = s.homeByte x := by
  have hi : x % 64 < 64 := Nat.mod_lt _ (by decide)
  have hx : 64 * (x / 64) + x % 64 = x := by omega
  have hk : x % 64 / 32 < 2 := by omega
  by_cases hmiss : need &&& ~~~(s.mscAt (x / 64)).valid = 0
  · simp only [State.filledMsc, State.homeByte, if_pos hmiss]
  · simp only [State.filledMsc, State.homeByte, if_neg hmiss, byteOf_mergeSectors _ _ _ hi, byteOf_memRead_line _ hi, hx, BitVec.getLsbD_or,
      BitVec.getLsbD_and, BitVec.getLsbD_not]
    cases (s.mscAt (x / 64)).valid.getLsbD (x % 64 / 32) <;> cases need.getLsbD (x % 64 / 32) <;> simp [hk]
/-- A sector that an access needs is valid in the filled line. -/
theorem State.filledMsc_valid {ln k : Nat} {need : BitVec 2} (hk : k < 2) (h : need.getLsbD k = true) :
    (s.filledMsc ln need).valid.getLsbD k = true := by
  unfold State.filledMsc
  dsimp only
  split_ifs with hmiss
  · have hbit := congrArg (BitVec.getLsbD · k) hmiss
    simpa [h, hk] using hbit
  · simp [h, hk]
theorem getLsbD_pair_zero (a b : Bool) : (BitVec.ofBool a ++ BitVec.ofBool b).getLsbD 0 = b := by cases a <;> cases b <;> rfl
theorem getLsbD_pair_one (a b : Bool) : (BitVec.ofBool a ++ BitVec.ofBool b).getLsbD 1 = a := by cases a <;> cases b <;> rfl
/-- A write touches the sector of each of its bytes. -/
theorem sectorsOf_of_mem {off n i : Nat} (h1 : off ≤ i) (h2 : i < off + n) (hi : i < 64) : (sectorsOf off n).getLsbD (i / 32) = true := by
  rw [sectorsOf, if_neg (by omega)]
  rcases Nat.lt_or_ge i 32 with h | h
  · rw [Nat.div_eq_of_lt h, getLsbD_pair_zero, decide_eq_true_eq]
    omega
  · rw [show i / 32 = 1 by omega, getLsbD_pair_one, decide_eq_true_eq]
    omega
/-- A write covers no sector that has a byte outside it. -/
theorem sectorsCovered_of_not_mem {off n i : Nat} (h : ¬(off ≤ i ∧ i < off + n)) (hi : i < 64) :
    (sectorsCovered off n).getLsbD (i / 32) = false := by
  rw [sectorsCovered]
  rcases Nat.lt_or_ge i 32 with hlow | hhigh
  · rw [Nat.div_eq_of_lt hlow, getLsbD_pair_zero, Bool.and_eq_false_iff, beq_eq_false_iff_ne, decide_eq_false_iff_not]
    omega
  · rw [show i / 32 = 1 by omega, getLsbD_pair_one, Bool.and_eq_false_iff, decide_eq_false_iff_not, decide_eq_false_iff_not]
    omega
/-- After a write within a line, the home sees the written bytes and every other byte as before. -/
theorem State.homeByte_setMsc_writtenMsc {pa n : Nat} (hline : pa % 64 + n ≤ 64) (v : BitVec 512) (x : Nat) :
    (s.setMsc (lineOf pa) (s.writtenMsc pa n v)).homeByte x = if pa ≤ x ∧ x < pa + n then byteOf v (x - pa) else s.homeByte x := by
  by_cases hx : x / 64 = pa / 64
  · have hi : x % 64 < 64 := Nat.mod_lt _ (by decide)
    have hk : x % 64 / 32 < 2 := by omega
    have hrange : pa ≤ x ∧ x < pa + n ↔ pa % 64 ≤ x % 64 ∧ x % 64 < pa % 64 + n := by omega
    have hsub : x % 64 - pa % 64 = x - pa := by omega
    have hfill := s.filledMsc_homeByte (sectorsOf (pa % 64) n &&& ~~~sectorsCovered (pa % 64) n) x
    rw [hx] at hfill
    rw [State.homeByte, hx, lineOf, State.setMsc_mscAt]
    simp only [State.writtenMsc, lineOf, byteOf_putBytes _ _ hi, BitVec.getLsbD_or, hrange, hsub]
    by_cases hmem : pa % 64 ≤ x % 64 ∧ x % 64 < pa % 64 + n
    · rw [if_pos hmem, if_pos hmem, sectorsOf_of_mem hmem.1 hmem.2 hi, Bool.or_true, if_pos rfl]
    · rw [if_neg hmem, if_neg hmem, ← hfill]
      cases hsec : (sectorsOf (pa % 64) n).getLsbD (x % 64 / 32) with
      | false => rw [Bool.or_false]; rfl
      | true =>
        have hpart : (sectorsOf (pa % 64) n &&& ~~~sectorsCovered (pa % 64) n).getLsbD (x % 64 / 32) = true := by
          rw [BitVec.getLsbD_and, BitVec.getLsbD_not, hsec, sectorsCovered_of_not_mem hmem hi, decide_eq_true hk]
          rfl
        rw [s.filledMsc_valid hk hpart]
        rfl
  · have hout : ¬(pa ≤ x ∧ x < pa + n) := by omega
    rw [if_neg hout, State.homeByte, lineOf, State.setMsc_mscAt_other _ hx]
    rfl

/-! ### The write itself -/

/-- All bytes of a line fall in one bank. -/
theorem stackOf_line (pa : Nat) : stackOf (64 * (pa / 64)) = stackOf pa := by
  unfold stackOf
  omega
theorem bankKey_line (pa : Nat) : bankKey (64 * (pa / 64)) = bankKey pa := by
  have h10 : 64 * (pa / 64) / 2 ^ 10 = pa / 2 ^ 10 := by omega
  have h12 : 64 * (pa / 64) / 2 ^ 12 = pa / 2 ^ 12 := by omega
  have h18 : 64 * (pa / 64) / 2 ^ 18 = pa / 2 ^ 18 := by omega
  have h24 : 64 * (pa / 64) / 2 ^ 24 = pa / 2 ^ 24 := by omega
  simp only [bankKey, bankOf, homeOf, stackOf_line, h10, h12, h18, h24]
/-- Where no add is held on a line, none is held on bytes of it. -/
theorem State.heldOn_of_line {pa n : Nat} (hline : pa % 64 + n ≤ 64) (h : s.heldOn (64 * (pa / 64)) 64 = false) : s.heldOn pa n = false := by
  rw [State.heldOn, stackOf_line, bankKey_line] at h
  simp only [State.heldOn, List.any_eq_false, Bool.and_eq_true, decide_eq_true_eq] at h ⊢
  intro e he hover
  exact h e he (by omega)
/-- A write within a line that its home serves now is performed at the memory-side cache. -/
theorem State.mscWrite_of_homeServes {pa n : Nat} (h : s.homeServes pa) (hline : pa % 64 + n ≤ 64) (kind : Nat) (v : BitVec 512) :
    s.mscWrite pa n kind v = .ok () ((s.setMsc (lineOf pa) (s.writtenMsc pa n v)).wake true (lineOf pa) 1) := by
  obtain ⟨hlive, hhost, hheld, hvictim, hbad⟩ := h
  have hflush (need : BitVec 2) : s.flushTouch pa n need = s := by
    unfold State.flushTouch
    rw [State.flushFor_of_not_held (State.heldOn_of_line hline hheld), lineOf, State.flushFor_of_not_held hheld, ite_self]
  have hmake : s.mscMake (lineOf pa) = s := by
    unfold State.mscMake
    rw [lineOf, hvictim]
  have hbar : s.mscBar (lineOf pa) true = none := by
    unfold State.mscBar
    simp [lineOf, hhost, hvictim]
  have hcheck (need : BitVec 2) : s.checkMsc (lineOf pa) need kind = .ok () s := by
    unfold State.checkMsc
    rw [hbad]
    rfl
  unfold State.mscWrite
  simp only [hlive, hbar, hcheck, Res.bind, hmake, hflush, State.coverFresh_of_bad_nil hbad, Bool.false_eq_true, ↓reduceIte]

end Sys2Proof.Machine
end

section
/-! Where no memory-side cache holds a line and no add is held: the steps that clean lines and flush banks change nothing. -/
namespace Sys2Proof.Machine
variable {s t : State}

/-- No memory-side cache holds a line, and no sort buffer an add. -/
def State.BanksBare (s : State) : Prop := ∀ j, (s.stack j).msc = [] ∧ (s.stack j).sort = []

theorem State.BanksBare.of_stacks (h : s.BanksBare) (ht : t.baseDies = s.baseDies) : t.BanksBare := by
  intro j
  rw [State.stack, ht]
  exact h j
theorem State.BanksBare.mscAt (h : s.BanksBare) (ln : Nat) : s.mscAt ln = {} := by
  rw [State.mscAt, (h _).1]
  rfl
theorem State.BanksBare.mscDrop (h : s.BanksBare) (ln : Nat) : s.mscDrop ln = s :=
  State.mscDrop_of_not_mhas (by rw [(h _).1]; rfl)
theorem State.BanksBare.flushBank (h : s.BanksBare) (stk bank : Nat) : s.flushBank stk bank = s := by
  unfold State.flushBank
  rw [(h stk).2]
  rfl
theorem State.BanksBare.flushFor (h : s.BanksBare) (pa n : Nat) : s.flushFor pa n = s :=
  State.flushFor_of_not_held (by rw [State.heldOn, (h _).2]; rfl)
theorem State.BanksBare.hostInPage (h : s.BanksBare) (f : FillCmd) : s.hostInPage f = none := by
  rw [State.hostInPage, (h _).1]
  rfl

/-! ### Completion (R45) -/

/-- A command without a counter is noted as done, and nothing else changes. -/
theorem State.cmdDone_of_no_counter {id : Nat} (h : (mget (fun _ => ({} : CmdInfo)) s.cmds id).counter = none) :
    s.cmdDone id = some { s with cmds := mput s.cmds id { mget (fun _ => ({} : CmdInfo)) s.cmds id with done := true } } := by
  unfold State.cmdDone
  simp only [h]

end Sys2Proof.Machine
end

section
/-! ALLBANK.FILL (R41, R148): a command that enters an empty queue, the rows of a wave, and a last wave. -/
namespace Sys2Proof.Machine
variable {s t : State} {f : FillCmd} {stk : Nat}

/-! ### A command that enters -/

/-- A fill at the head of the queue is taken at once where its stack has no line and no add to clean away. -/
theorem State.fillNext_of_bare (hq : (s.stack stk).waveQ = [f]) (hnew : f.started = false) (hstk : stackOf f.page = stk)
    (hmsc : (s.stack stk).msc = []) (hsort : (s.stack stk).sort = []) :
    s.fillNext stk = s.updStack stk fun x => { x with waveQ := [{ f with started := true }], waveP := some x.waveLimit } := by
  have hhost : s.hostInPage f = none := by
    rw [State.hostInPage, hstk, hmsc]
    rfl
  have htake : s.fillTake f = s := by
    unfold State.fillTake
    simp only [hstk, hmsc, hsort, List.filter_nil, List.foldl_nil]
  unfold State.fillNext
  simp only [hq, hnew, hhost, htake, Bool.false_eq_true, ↓reduceIte]
theorem State.fillNext_of_empty (hq : (s.stack stk).waveQ = []) : s.fillNext stk = s := by
  unfold State.fillNext
  rw [hq]
theorem exec_allbankFill_of_bare {k : Nat} {c : BankCmd} (here : s.fabric[k]? = some c) (hop : c.op = 8) (hstk : stackOf c.pa = stk)
    (hpage : stackOf (c.page % 2 ^ 40) = stk) (hq : (s.stack stk).waveQ = []) (hmsc : (s.stack stk).msc = [])
    (hsort : (s.stack stk).sort = []) :
    ∃ t, exec (.allbankFill k) s = .next t ∧ t.fabric = dropAt s.fabric k ∧ (t.stack stk).waveQ =
      [{ id := c.id, src := c.src, page := c.page % 2 ^ 40, size := c.size, pattern := c.data, started := true }] := by
  have hroom : ¬(c.op ≠ 8 ∨ 8 ≤ (s.stack stk).waveQ.length) := by simp [hop, hq]
  refine ⟨s.fillEnter k, rfl, ?_⟩
  unfold State.fillEnter
  simp only [here, hstk, if_neg hroom]
  rw [State.fillNext_of_bare (f := { id := c.id, src := c.src, page := c.page % 2 ^ 40, size := c.size, pattern := c.data })]
  · simp
  · rw [State.updStack_eq, State.setStack_stack]
    exact congrArg (· ++ _) hq
  · rfl
  · exact hpage
  · rw [State.updStack_eq, State.setStack_stack]
    exact hmsc
  · rw [State.updStack_eq, State.setStack_stack]
    exact hsort

/-! ### The rows of a wave -/

/-- The stacks, the hub and the commands of two states agree: what a fill's row leaves. -/
structure SameUnits (s t : State) : Prop where
  dies : t.baseDies = s.baseDies
  hub : t.hub = s.hub
  cmds : t.cmds = s.cmds

theorem SameUnits.refl (s : State) : SameUnits s s := ⟨rfl, rfl, rfl⟩
theorem SameUnits.trans {u : State} (h : SameUnits s t) (g : SameUnits t u) : SameUnits s u :=
  ⟨g.dies.trans h.dies, g.hub.trans h.hub, g.cmds.trans h.cmds⟩
theorem SameUnits.withMem (h : SameUnits s t) (m : List Host.Cell) : SameUnits s { t with mem := m } := ⟨h.dies, h.hub, h.cmds⟩
theorem SameUnits.bare (h : SameUnits s t) (hs : s.BanksBare) : t.BanksBare := hs.of_stacks h.dies
theorem SameUnits.homeLost (h : SameUnits s t) (j : Nat) : t.homeLost j = s.homeLost j := by
  simp only [State.homeLost, State.dieWord, State.mapWord, h.hub]

/-- One row of a wave. -/
def State.fillRow (f : FillCmd) (s : State) (r : Nat) : State :=
  s.fillRows f [r]
theorem State.fillRows_nil : s.fillRows f [] = s := rfl
theorem State.fillRows_cons (r : Nat) (rows : List Nat) : s.fillRows f (r :: rows) = (s.fillRow f r).fillRows f rows := rfl

/-- Fresh codes and woken monitors on lines that no memory-side cache holds change no stack, no hub, no command and no byte. -/
theorem foldl_coverFresh (l : List Nat) (ln : Nat) :
    SameUnits s (l.foldl (fun s i => s.coverFresh 5 0 (ln + i) 3) s) ∧ (l.foldl (fun s i => s.coverFresh 5 0 (ln + i) 3) s).mem = s.mem := by
  induction l generalizing s with
  | nil => exact ⟨SameUnits.refl s, rfl⟩
  | cons i l ih =>
    obtain ⟨hunits, hmem⟩ := ih (s := s.coverFresh 5 0 (ln + i) 3)
    have hone : SameUnits s (s.coverFresh 5 0 (ln + i) 3) := by
      rw [State.coverFresh_eq]
      exact ⟨rfl, rfl, rfl⟩
    exact ⟨hone.trans hunits, hmem.trans (s.coverFresh_mem ..)⟩
theorem foldl_mscDrop_wake (hs : s.BanksBare) (l : List Nat) (ln : Nat) :
    SameUnits s (l.foldl (fun s i => (s.mscDrop (ln + i)).wake true (ln + i) 1) s) ∧
      (l.foldl (fun s i => (s.mscDrop (ln + i)).wake true (ln + i) 1) s).mem = s.mem := by
  induction l generalizing s with
  | nil => exact ⟨SameUnits.refl s, rfl⟩
  | cons i l ih =>
    have hone : SameUnits s ((s.mscDrop (ln + i)).wake true (ln + i) 1) := by
      rw [hs.mscDrop]
      exact ⟨s.wake_baseDies .., s.wake_hub .., s.wake_cmds ..⟩
    obtain ⟨hunits, hmem⟩ := ih (hone.bare hs)
    refine ⟨hone.trans hunits, hmem.trans ?_⟩
    rw [hs.mscDrop, State.wake_mem]
/-- A row of a live home gets the pattern. -/
theorem State.fillRow_of_bare (hs : s.BanksBare) (hlive : ∀ j, s.homeLost j = false) (r : Nat) :
    SameUnits s (s.fillRow f r) ∧ (s.fillRow f r).mem = memWrite s.mem (f.page + 1024 * r) 1024 (patternRow f.pattern) := by
  obtain ⟨hfresh, hfreshMem⟩ := foldl_coverFresh (s := s) (List.range 16) (lineOf (f.page + 1024 * r))
  obtain ⟨hdrop, hdropMem⟩ := foldl_mscDrop_wake (hfresh.bare hs) (List.range 16) (lineOf (f.page + 1024 * r))
  have hunits := hfresh.trans hdrop
  unfold State.fillRow State.fillRows
  simp only [List.foldl_cons, List.foldl_nil, hlive, Bool.false_eq_true, ↓reduceIte, hs.flushFor]
  exact ⟨hunits.withMem _, by rw [hdropMem, hfreshMem]⟩
/-- A byte of a row: the row's own bytes have the pattern's, which starts anew every 64 bytes. -/
theorem memByte_fillRow (m : List Host.Cell) (page r : Nat) (p : BitVec 512) (hpage : page % 1024 = 0) (a : Nat) :
    memByte (memWrite m (page + 1024 * r) 1024 (patternRow p)) a =
      if page ≤ a ∧ (a - page) / 1024 = r then byteOf p (a % 64) else memByte m a := by
  have hiff : page + 1024 * r ≤ a ∧ a < page + 1024 * r + 1024 ↔ page ≤ a ∧ (a - page) / 1024 = r := by omega
  rw [memByte_memWrite_ite, if_congr hiff rfl rfl]
  split_ifs with h
  · have hmod : (a - (page + 1024 * r)) % 64 = a % 64 := by omega
    rw [patternRow_eq, patternCopies_byte p (by omega), hmod]
  · rfl
/-- The rows of a wave get the pattern, and nothing else in memory changes. -/
theorem State.fillRows_of_bare (hs : s.BanksBare) (hlive : ∀ j, s.homeLost j = false) (hpage : f.page % 1024 = 0) (rows : List Nat) :
    SameUnits s (s.fillRows f rows) ∧ ∀ a, memByte (s.fillRows f rows).mem a =
      if f.page ≤ a ∧ (a - f.page) / 1024 ∈ rows then byteOf f.pattern (a % 64) else memByte s.mem a := by
  induction rows generalizing s with
  | nil => exact ⟨SameUnits.refl s, fun a => by simp [State.fillRows_nil]⟩
  | cons r rows ih =>
    obtain ⟨hunits, hmem⟩ := State.fillRow_of_bare (f := f) hs hlive r
    obtain ⟨hrest, hbytes⟩ := ih (hunits.bare hs) fun j => (hunits.homeLost j).trans (hlive j)
    rw [State.fillRows_cons]
    refine ⟨hunits.trans hrest, fun a => ?_⟩
    rw [hbytes, hmem, memByte_fillRow _ _ _ _ hpage]
    by_cases hle : f.page ≤ a <;> by_cases hr : (a - f.page) / 1024 = r <;> simp [hle, hr]

/-! ### The last wave -/

/-- The wave that writes a command's last rows completes it: the queue is empty and the reservation is given back. -/
theorem exec_fillWave_last {p : Nat} (hgrant : (s.stack stk).waveGrant = some p) (hq : (s.stack stk).waveQ = [f])
    (hpage : f.page % 1024 = 0) (hs : s.BanksBare) (hlive : ∀ j, s.homeLost j = false)
    (hlast : f.size / 1024 ≤ (f.after (waveRows f [] p f.next (f.size / 1024 - f.next))).next)
    (hcounter : (mget (fun _ => ({} : CmdInfo)) s.cmds f.id).counter = none) :
    ∃ t, exec (.fillWave stk) s = .next t ∧ (t.stack stk).waveQ = [] ∧ (t.stack stk).waveGrant = none ∧
      (mget (fun _ => ({} : CmdInfo)) t.cmds f.id).done = true ∧
      ∀ a, memByte t.mem a =
        if f.page ≤ a ∧ (a - f.page) / 1024 ∈ waveRows f [] p f.next (f.size / 1024 - f.next) then byteOf f.pattern (a % 64)
        else memByte s.mem a := by
  obtain ⟨hunits, hbytes⟩ := State.fillRows_of_bare hs hlive hpage (waveRows f [] p f.next (f.size / 1024 - f.next))
  refine ⟨s.fillWave stk, rfl, ?_⟩
  unfold State.fillWave
  simp only [hgrant, hq, hs.hostInPage, if_pos hlast]
  rw [State.cmdDone_of_no_counter (by rw [hunits.cmds]; exact hcounter)]
  dsimp only
  rw [State.fillNext_of_empty (by simp)]
  refine ⟨by simp, by simp, by simp, hbytes⟩

end Sys2Proof.Machine
end

section
/-! IDXSUM (R42 to R44, R146): a command that enters its home's queue, and the steps of a running command where no line, no held add
and no error stands in its way. -/
namespace Sys2Proof.Machine
variable {s t u : State} {h : Nat} {c d : IdxCmd}

/-! ### A command that enters -/

/-- The queue entry of a valid command. -/
def BankCmd.idxEntry (c : BankCmd) : IdxCmd :=
  { id := c.id, src := c.src, granule := c.pa / 4096 * 4096, page := c.page, size := c.size, packet := c.data, flaw := 0 }
/-- A valid command leaves the fabric and enters the queue of its home. -/
theorem State.idxEnter_of_valid {k : Nat} {c : BankCmd} (here : s.fabric[k]? = some c) (hop : c.op = 9)
    (hroom : (s.home (homeOf c.pa)).idxQ.length < 16) (hlive : s.homeLost (homeOf c.pa) = false)
    (hvalid : idxFlaw (c.pa / 4096 * 4096) (c.page % 2 ^ 40) c.size c.data = 0) :
    s.idxEnter k = ({ s with fabric := dropAt s.fabric k } : State).updHome (homeOf c.pa) fun x => { x with idxQ := x.idxQ ++ [c.idxEntry] } := by
  have hgo : ¬(c.op ≠ 9 ∨ 16 ≤ (s.home (homeOf c.pa)).idxQ.length) := by omega
  unfold State.idxEnter BankCmd.idxEntry
  simp only [here, if_neg hgo, hlive, hvalid, Bool.false_eq_true, ↓reduceIte]
theorem exec_idxsum_valid {k : Nat} {c : BankCmd} (here : s.fabric[k]? = some c) (hop : c.op = 9) (hhome : homeOf c.pa = h)
    (hroom : (s.home h).idxQ.length < 16) (hlive : s.homeLost h = false)
    (hvalid : idxFlaw (c.pa / 4096 * 4096) (c.page % 2 ^ 40) c.size c.data = 0) :
    ∃ t e, exec (.idxsum k) s = .next t ∧ t.fabric = dropAt s.fabric k ∧ (t.home h).idxQ = (s.home h).idxQ ++ [e] ∧ e.id = c.id ∧
      e.granule = c.pa / 4096 * 4096 ∧ e.packet = c.data ∧ e.flaw = 0 := by
  subst hhome
  refine ⟨_, c.idxEntry, congrArg Host.Outcome.next (State.idxEnter_of_valid here hop hroom hlive hvalid), rfl, ?_, rfl, rfl, rfl, rfl⟩
  rw [State.updHome_eq, State.setHome_home]
  rfl

/-! ### The steps of a running command -/

/-- Nothing stands in the way of a running command: no line, no held add, no bad sector and no lost home. -/
structure IdxQuiet (s : State) : Prop where
  bare : s.BanksBare
  good : s.bad = []
  live : ∀ j, s.homeLost j = false

/-- Home `h` runs command `c`, which holds its unit of current and has met no error. -/
structure IdxRuns (s : State) (h : Nat) (c : IdxCmd) : Prop where
  run : (s.home h).idxRun = some c
  held : (s.home h).idxHeld = true
  unflawed : c.flaw = 0

theorem IdxQuiet.no_host (hs : IdxQuiet s) (l : List Nat) : (l.find? fun ln => (s.mscAt ln).host) = none := by
  simp [List.find?_eq_none, hs.bare.mscAt]
theorem IdxQuiet.no_error (hs : IdxQuiet s) (l : List Nat) : s.idxBad l = none := by
  unfold State.idxBad
  have hfind : (l.find? fun ln => s.homeLost (homeOf (64 * ln))) = none := by simp [List.find?_eq_none, hs.live]
  rw [hfind, hs.good]
  rfl
theorem IdxQuiet.idxClean (hs : IdxQuiet s) (l : List Nat) : s.idxClean l = s :=
  List.foldl_fixed' (fun ln => by rw [hs.bare.flushBank, hs.bare.mscDrop]) l
theorem IdxQuiet.idxTouch (hs : IdxQuiet s) (l : List Nat) : s.idxTouch l = s :=
  List.foldl_fixed' (fun pa => by rw [hs.bare.flushFor, hs.bare.mscDrop]) l
theorem State.idxBegin_of_running (hrun : (s.home h).idxRun = some c) : s.idxBegin h = s := by
  unfold State.idxBegin
  simp only [hrun]
/-- The first step of a command cleans its lines; here none is cached and no add is held. -/
theorem IdxQuiet.idxStep_clean (hs : IdxQuiet s) (hc : IdxRuns s h c) (hcleaned : c.cleaned = false) :
    s.idxStep h = s.setHome h { s.home h with idxRun := some { c with cleaned := true } } := by
  unfold State.idxStep
  simp only [hc.run, hc.held, hc.unflawed, hs.no_host, hs.no_error, hcleaned, hs.idxClean, bne_self_eq_false, Bool.not_true, Bool.not_false,
    Bool.or_self, Bool.false_eq_true, ↓reduceIte, State.updHome_eq]

/-! ### One element -/

/-- What a command reads at an address: what it noted as the old value where it has written already, else what stands in memory. -/
def IdxCmd.reads (c : IdxCmd) (m : List Host.Cell) (pa : Nat) : Nat :=
  match c.old.find? fun p => p.1 == pa with
  | some p => p.2
  | none => memRead m pa 4
/-- The integer sum for the command's next element. -/
def IdxCmd.sum (c : IdxCmd) (m : List Host.Cell) : Nat :=
  (memRead m (c.dst + 4 * c.done) 4 + (c.rows.map fun r => c.reads m (r + 4 * c.done)).sum) % 2 ^ 32
/-- The command after its next element: the element's old value is noted, and the last element marks it executed (flaw 7). -/
def IdxCmd.next (c : IdxCmd) (m : List Host.Cell) : IdxCmd :=
  { c with done := c.done + 1, old := (c.dst + 4 * c.done, memRead m (c.dst + 4 * c.done) 4) :: c.old
           flaw := if c.len ≤ c.done + 1 then 7 else c.flaw }

/-- The state with the sum written to the command's next element of the destination, a write that monitors see. -/
def State.putSum (s : State) (c : IdxCmd) : State :=
  ({ s with mem := memWrite s.mem (c.dst + 4 * c.done) 4 (c.sum s.mem) }).wake true (lineOf (c.dst + 4 * c.done)) 1
@[simp] theorem State.putSum_mem : (s.putSum c).mem = memWrite s.mem (c.dst + 4 * c.done) 4 (c.sum s.mem) := State.wake_mem ..
@[simp] theorem State.putSum_home (j : Nat) : (s.putSum c).home j = s.home j := State.wake_home ..
theorem IdxQuiet.putSum (hs : IdxQuiet s) (c : IdxCmd) : IdxQuiet (s.putSum c) where
  bare := hs.bare.of_stacks (State.wake_baseDies ..)
  good := (State.wake_bad ..).trans hs.good
  live j := (State.wake_homeLost ..).trans (hs.live j)
theorem IdxQuiet.setHome (hs : IdxQuiet s) (h : Nat) (x : Home) : IdxQuiet (s.setHome h x) := ⟨hs.bare, hs.good, hs.live⟩

/-- Additions cut to a width one by one come to their sum, cut to it. -/
theorem foldl_add_mod (M : Nat) (g : Nat → Nat) (l : List Nat) {a : Nat} (ha : a < M) :
    l.foldl (fun acc r => (acc + g r) % M) a = (a + (l.map g).sum) % M := by
  induction l generalizing a with
  | nil => simp [Nat.mod_eq_of_lt ha]
  | cons r l ih =>
    rw [List.foldl_cons, ih (Nat.mod_lt _ (by omega)), Nat.mod_add_mod, List.map_cons, List.sum_cons, Nat.add_assoc]
/-- An integer command's next element takes the sum, and its old value is noted. -/
theorem IdxQuiet.idxElem (hs : IdxQuiet s) (hint : packetByte c.packet 7 1 ≠ 0) :
    s.idxElem c = (s.putSum c,
      { c with done := c.done + 1, old := (c.dst + 4 * c.done, memRead s.mem (c.dst + 4 * c.done) 4) :: c.old }) := by
  have hacc : c.rows.foldl (fun acc r => (acc + c.reads s.mem (r + 4 * c.done)) % 2 ^ 32) (memRead s.mem (c.dst + 4 * c.done) 4) = c.sum s.mem :=
    foldl_add_mod _ _ _ (memRead_lt s.mem _ 4)
  unfold State.idxElem State.putSum
  simp only [hs.idxTouch, if_neg hint, ← hacc]
  rfl
theorem IdxQuiet.idxStep_elem (hs : IdxQuiet s) (hc : IdxRuns s h c) (hcleaned : c.cleaned = true) (hint : packetByte c.packet 7 1 ≠ 0) :
    s.idxStep h = (s.putSum c).setHome h { s.home h with idxRun := some (c.next s.mem) } := by
  unfold State.idxStep IdxCmd.next
  simp only [hc.run, hc.held, hc.unflawed, hs.no_host, hs.no_error, hcleaned, hs.idxElem hint, bne_self_eq_false, Bool.not_true, Bool.or_self,
    Bool.false_eq_true, ↓reduceIte, State.updHome_eq, State.putSum_home]
  by_cases hlast : c.len ≤ c.done + 1
  · simp only [if_pos hlast]
  · simp only [if_neg hlast]

/-! ### All elements in one turn -/

/-- The command once its first `e` elements are summed: their old values, from the memory before, are noted. -/
def IdxCmd.after (d : IdxCmd) (m : List Host.Cell) (e : Nat) : IdxCmd :=
  { d with cleaned := true, done := e, old := (List.range e).reverse.map fun i => (d.dst + 4 * i, memRead m (d.dst + 4 * i) 4)
           flaw := if d.len ≤ e then 7 else 0 }
/-- The sum for element `i` where the table is read from the memory before. -/
def IdxCmd.total (d : IdxCmd) (m : List Host.Cell) (i : Nat) : Nat :=
  (memRead m (d.dst + 4 * i) 4 + (d.rows.map fun r => memRead m (r + 4 * i) 4).sum) % 2 ^ 32

/-- What `s` has become once home `h` has summed the first `e` elements of command `d`: they hold their sums, every byte outside them is
as it was, and still nothing stands in the way. -/
structure IdxAfter (s u : State) (h : Nat) (d : IdxCmd) (e : Nat) : Prop where
  quiet : IdxQuiet u
  run : (u.home h).idxRun = some (d.after s.mem e)
  held : (u.home h).idxHeld = true
  sums : ∀ i < e, memRead u.mem (d.dst + 4 * i) 4 = d.total s.mem i
  frame : ∀ a, a < d.dst ∨ d.dst + 4 * e ≤ a → memByte u.mem a = memByte s.mem a

variable {e : Nat}

/-- At the alignment of the destination's elements the command reads the memory before: an element that it has written is noted, and any
other is unchanged (R43). -/
theorem IdxAfter.reads_eq (hu : IdxAfter s u h d e) {x : Nat} (hx : x % 4 = d.dst % 4) : (d.after s.mem e).reads u.mem x = memRead s.mem x 4 := by
  unfold IdxCmd.reads IdxCmd.after
  dsimp only
  split
  case h_1 p hp =>
    obtain ⟨i, -, rfl⟩ := List.mem_map.mp (List.mem_of_find?_eq_some hp)
    have hat : d.dst + 4 * i = x := by simpa using List.find?_some hp
    rw [← hat]
  case h_2 hnone =>
    have hnot : ∀ i < e, d.dst + 4 * i ≠ x := by simpa using hnone
    have hout : x + 4 ≤ d.dst ∨ d.dst + 4 * e ≤ x := by
      by_contra hin
      exact hnot ((x - d.dst) / 4) (by omega) (by omega)
    exact memRead_congr fun a h1 h2 => hu.frame a (by omega)
theorem IdxAfter.old_eq (hu : IdxAfter s u h d e) : memRead u.mem (d.dst + 4 * e) 4 = memRead s.mem (d.dst + 4 * e) 4 :=
  memRead_congr fun a h1 _ => hu.frame a (.inr h1)
theorem IdxAfter.sum_eq (hu : IdxAfter s u h d e) (hrows : ∀ r ∈ d.rows, r % 4 = d.dst % 4) : (d.after s.mem e).sum u.mem = d.total s.mem e := by
  have hreads : d.rows.map (fun r => (d.after s.mem e).reads u.mem (r + 4 * e)) = d.rows.map fun r => memRead s.mem (r + 4 * e) 4 := by
    refine List.map_congr_left fun r hr => hu.reads_eq ?_
    rw [Nat.add_mul_mod_self_left, hrows r hr]
  calc (d.after s.mem e).sum u.mem
      = (memRead u.mem (d.dst + 4 * e) 4 + (d.rows.map fun r => (d.after s.mem e).reads u.mem (r + 4 * e)).sum) % 2 ^ 32 := rfl
    _ = d.total s.mem e := by rw [hu.old_eq, hreads, IdxCmd.total]
theorem IdxAfter.next_eq (hu : IdxAfter s u h d e) (he : e < d.len) : (d.after s.mem e).next u.mem = d.after s.mem (e + 1) := by
  have hflaw : ¬d.len ≤ e := by omega
  calc (d.after s.mem e).next u.mem
      = { d.after s.mem e with done := e + 1, old := (d.dst + 4 * e, memRead u.mem (d.dst + 4 * e) 4) :: (d.after s.mem e).old
                               flaw := if d.len ≤ e + 1 then 7 else if d.len ≤ e then 7 else 0 } := rfl
    _ = d.after s.mem (e + 1) := by simp [IdxCmd.after, hu.old_eq, hflaw, List.range_succ]
/-- A step sums one more element. -/
theorem IdxAfter.step (hu : IdxAfter s u h d e) (he : e < d.len) (hint : packetByte d.packet 7 1 ≠ 0)
    (hrows : ∀ r ∈ d.rows, r % 4 = d.dst % 4) : IdxAfter s (u.idxStep h) h d (e + 1) := by
  have hrun : IdxRuns u h (d.after s.mem e) := ⟨hu.run, hu.held, if_neg (by omega)⟩
  have hmem : (u.putSum (d.after s.mem e)).mem = memWrite u.mem (d.dst + 4 * e) 4 (d.total s.mem e) := by
    rw [State.putSum_mem, hu.sum_eq hrows]
    rfl
  rw [hu.quiet.idxStep_elem hrun rfl hint, hu.next_eq he]
  refine ⟨(hu.quiet.putSum _).setHome .., by simp, by simp [hu.held], fun i hi => ?_, fun a ha => ?_⟩
  · rw [State.setHome_mem, hmem]
    rcases Nat.lt_succ_iff_lt_or_eq.mp hi with hlt | rfl
    · rw [← hu.sums i hlt]
      exact memRead_congr fun a h1 h2 => memByte_memWrite_other _ _ _ _ _ (by omega)
    · rw [memRead_memWrite]
      exact Nat.mod_mod _ _
  · rw [State.setHome_mem, hmem, memByte_memWrite_other _ _ _ _ _ (by omega)]
    exact hu.frame a (by omega)
theorem IdxAfter.steps (hint : packetByte d.packet 7 1 ≠ 0) (hrows : ∀ r ∈ d.rows, r % 4 = d.dst % 4) {n : Nat} (hu : IdxAfter s u h d e)
    (hn : e + n ≤ d.len) : IdxAfter s (u.idxSteps h n) h d (e + n) := by
  induction n generalizing u e with
  | zero => exact hu
  | succ n ih =>
    rw [show e + (n + 1) = e + 1 + n by omega]
    exact ih (hu.step (by omega) hint hrows) (by omega)
/-- After the cleaning no element is summed. -/
theorem IdxQuiet.after_zero (hs : IdxQuiet s) (hd : IdxRuns s h d) (hcleaned : d.cleaned = false) (hdone : d.done = 0) (hold : d.old = [])
    (hlen : 0 < d.len) : IdxAfter s (s.idxStep h) h d 0 := by
  have hcmd : { d with cleaned := true } = d.after s.mem 0 := by
    have hflaw : ¬d.len ≤ 0 := by omega
    simp [IdxCmd.after, hflaw, hd.unflawed, hdone, hold]
  rw [hs.idxStep_clean hd hcleaned, hcmd]
  exact ⟨hs.setHome .., by simp, by simp [hd.held], fun i hi => by omega, fun a _ => rfl⟩
/-- Rows start at multiples of 4 where the granule does. -/
theorem IdxCmd.rows_mod_four (hgranule : d.granule % 4 = 0) : ∀ r ∈ d.rows, r % 4 = 0 := by
  intro r hr
  obtain ⟨j, -, rfl⟩ := List.mem_map.mp hr
  unfold idxRow
  dsimp only
  generalize (packetByte d.packet (8 + 4 * j) 4 : Int) * (packetByte d.packet 2 2 : Int) = q
  omega

/-! ### IDXSUM_EXECUTE and IDXSUM_COMPLETE -/

theorem State.idxExecute_overlap (hrun : (s.home h).idxRun = some d) (hoverlap : s.overlap = true) : s.idxExecute h = s.idxStep h := by
  unfold State.idxExecute
  simp only [State.idxBegin_of_running hrun, hoverlap, ↓reduceIte]
theorem State.idxExecute_alone (hrun : (s.home h).idxRun = some d) (hoverlap : s.overlap = false) :
    s.idxExecute h = (s.idxStep h).idxSteps h d.len := by
  unfold State.idxExecute
  simp only [State.idxBegin_of_running hrun, hoverlap, hrun, Bool.false_eq_true, ↓reduceIte, State.idxSteps]
theorem exec_idxsumExecute_clean (hs : IdxQuiet s) (hd : IdxRuns s h d) (hoverlap : s.overlap = true) (hcleaned : d.cleaned = false) :
    ∃ t, exec (.idxsumExecute h) s = .next t ∧ (t.home h).idxRun = some { d with cleaned := true } ∧ t.mem = s.mem := by
  refine ⟨s.idxExecute h, rfl, ?_⟩
  rw [State.idxExecute_overlap hd.run hoverlap, hs.idxStep_clean hd hcleaned]
  simp
theorem exec_idxsumExecute_elem (hs : IdxQuiet s) (hd : IdxRuns s h d) (hoverlap : s.overlap = true) (hcleaned : d.cleaned = true)
    (hint : packetByte d.packet 7 1 ≠ 0) :
    ∃ t, exec (.idxsumExecute h) s = .next t ∧ (t.home h).idxRun = some (d.next s.mem) ∧
      memRead t.mem (d.dst + 4 * d.done) 4 = d.sum s.mem ∧
      ∀ a, a < d.dst + 4 * d.done ∨ d.dst + 4 * d.done + 4 ≤ a → memByte t.mem a = memByte s.mem a := by
  refine ⟨s.idxExecute h, rfl, ?_⟩
  rw [State.idxExecute_overlap hd.run hoverlap, hs.idxStep_elem hd hcleaned hint, State.setHome_home, State.setHome_mem, State.putSum_mem]
  refine ⟨rfl, ?_, fun a ha => memByte_memWrite_other _ _ _ _ _ ha⟩
  rw [memRead_memWrite]
  exact Nat.mod_mod _ _
theorem exec_idxsumExecute_all (hs : IdxQuiet s) (hd : IdxRuns s h d) (hoverlap : s.overlap = false) (hcleaned : d.cleaned = false)
    (hdone : d.done = 0) (hold : d.old = []) (hint : packetByte d.packet 7 1 ≠ 0) (hlen : 0 < d.len) (hgranule : d.granule % 4 = 0)
    (hdst : d.dst % 4 = 0) :
    ∃ t z, exec (.idxsumExecute h) s = .next t ∧ (t.home h).idxRun = some z ∧ z.flaw = 7 ∧ z.id = d.id ∧
      (∀ e < d.len, memRead t.mem (d.dst + 4 * e) 4 = d.total s.mem e) ∧
      ∀ a, a < d.dst ∨ d.dst + 4 * d.len ≤ a → memByte t.mem a = memByte s.mem a := by
  have hrows : ∀ r ∈ d.rows, r % 4 = d.dst % 4 := fun r hr => (IdxCmd.rows_mod_four hgranule r hr).trans hdst.symm
  have hall := (hs.after_zero hd hcleaned hdone hold hlen).steps hint hrows (n := d.len) (by omega)
  rw [Nat.zero_add, ← State.idxExecute_alone hd.run hoverlap] at hall
  exact ⟨s.idxExecute h, d.after s.mem d.len, rfl, hall.run, if_pos (Nat.le_refl _), rfl, hall.sums, hall.frame⟩
theorem exec_idxsumComplete_executed (hrun : (s.home h).idxRun = some d) (hflaw : d.flaw = 7)
    (hcounter : (mget (fun _ => ({} : CmdInfo)) s.cmds d.id).counter = none) :
    ∃ t, exec (.idxsumComplete h) s = .next t ∧ (t.home h).idxRun = none ∧ (t.home h).idxHeld = false ∧
      (t.stack (h / 64)).heldUnits = (s.stack (h / 64)).heldUnits - 1 ∧ (mget (fun _ => ({} : CmdInfo)) t.cmds d.id).done = true := by
  refine ⟨s.idxComplete h, rfl, ?_⟩
  unfold State.idxComplete
  simp only [hrun, hflaw, ne_eq, not_true_eq_false, ↓reduceIte, State.cmdDone_of_no_counter hcounter]
  refine ⟨by simp, by simp, ?_, by simp⟩
  rw [State.updStack_eq, State.setStack_stack]
  rfl

end Sys2Proof.Machine
end

section
/-! Completion counters (R45), and the settling of StackCommands. -/
namespace Sys2Proof.Machine
variable {s : State} {k : Nat} {c : BankCmd}

/-- A counter write that its home serves stores its eight bytes at the memory-side cache. -/
theorem exec_counterWrite_served (here : s.fabric[k]? = some c) (hop : c.op = 10) (hn : c.n = 8) (halign : c.pa % 8 = 0)
    (hserves : s.homeServes c.pa) :
    ∃ t, exec (.counterWrite k) s = .next t ∧ t.fabric = dropAt s.fabric k ∧
      ∀ a, t.homeByte a = if c.pa ≤ a ∧ a < c.pa + 8 then byteOf c.data (a - c.pa) else s.homeByte a := by
  have hline : c.pa % 64 + 8 ≤ 64 := by omega
  have hwrite := State.mscWrite_of_homeServes (s := { s with fabric := dropAt s.fabric k }) hserves hline kStore c.data
  refine ⟨_, rfl, ?_⟩
  simp only [State.counterEvent, here, hop, hn, and_self, ↓reduceIte, State.writeCounter, hwrite, Option.getD_some]
  refine ⟨?_, fun a => ?_⟩
  · rw [State.wake_fabric]
    rfl
  · rw [State.wake_homeByte, State.homeByte_setMsc_writtenMsc hline]
    rfl

/-- A counter packet binds its counter to the command in its source's slot. -/
theorem exec_counterPacket_bound {id : Nat} (here : s.fabric[k]? = some c) (hop : c.op = 10) (hn : c.n = 64)
    (hslot : (mget hartDefault s.harts c.src).slots.find? (fun p => p.1 == stackOf c.pa) = some (stackOf c.pa, id))
    (hfree : (mget (fun _ => ({} : CmdInfo)) s.cmds id).counter = none) (hrunning : (mget (fun _ => ({} : CmdInfo)) s.cmds id).done = false) :
    ∃ t, exec (.counterPacket k) s = .next t ∧ t.fabric = dropAt s.fabric k ∧
      (mget (fun _ => ({} : CmdInfo)) t.cmds id).counter = some c.pa ∧ ∀ a, memByte t.mem a = memByte s.mem a := by
  refine ⟨_, rfl, ?_⟩
  simp only [State.counterEvent, here, hop, hn, and_self, ↓reduceIte, State.bindCounter, hslot, hfree, hrunning, Option.isSome_none,
    Bool.false_eq_true, Option.getD_some]
  exact ⟨trivial, by simp, fun _ => trivial⟩

/-- Settles O54, clause by clause: a fill that enters and its last wave, IDXSUM's entry, steps and completion, and the counters. -/
theorem stackCommands : Obligations.StackCommands := by
  unfold Obligations.StackCommands
  intro s k stk h p c f d
  refine ⟨exec_allbankFill_of_bare, ?_, ?_, ?_, exec_idxsumComplete_executed, exec_counterWrite_served, fun id => exec_counterPacket_bound⟩
  · intro hgrant hq _ hpage hbare hlive
    exact exec_fillWave_last hgrant hq hpage hbare hlive
  · intro here hop hhome hroom hlive hvalid
    exact exec_idxsum_valid here hop hhome hroom hlive hvalid
  · intro hrun hheld hflaw hbare hgood hlive
    have hs : IdxQuiet s := ⟨hbare, hgood, hlive⟩
    have hd : IdxRuns s h d := ⟨hrun, hheld, hflaw⟩
    refine ⟨exec_idxsumExecute_clean hs hd, ?_, exec_idxsumExecute_all hs hd⟩
    intro hoverlap hcleaned hint
    obtain ⟨t, ht, hnext, hrest⟩ := exec_idxsumExecute_elem hs hd hoverlap hcleaned hint
    refine ⟨t, ht, ?_, hrest⟩
    rw [hnext, IdxCmd.next, hflaw]
    rfl

end Sys2Proof.Machine
end

section
/-! Fields of a lane, lanes of a row and rows of a tag register, bit by bit (R218 to R220, R244). -/
namespace Sys2Proof.Machine

/-! ### Fields of a number -/

theorem testBit_fieldOf (v c n j : Nat) : (fieldOf v c n).testBit j = (decide (j < n) && v.testBit (c + j)) := by
  rw [fieldOf, Nat.testBit_mod_two_pow, Nat.testBit_div_two_pow, Nat.add_comm]
/-- What stands above, in and below the field of an edited number. -/
theorem withField_eq (v c n x : Nat) :
    withField v c n x = 2 ^ c * (2 ^ n * (v / 2 ^ (c + n)) + x % 2 ^ n) + v % 2 ^ c := by
  have hlow := Nat.div_add_mod v (2 ^ c)
  have hmid := Nat.div_add_mod (v / 2 ^ c) (2 ^ n)
  rw [Nat.div_div_eq_div_mul, ← Nat.pow_add] at hmid
  rw [withField, fieldOf]
  generalize v / 2 ^ c % 2 ^ n = m at *
  generalize v / 2 ^ (c + n) = h at *
  rw [← hmid, Nat.mul_add] at hlow
  rw [Nat.mul_add, Nat.mul_comm (x % 2 ^ n), Nat.mul_comm m]
  omega
theorem testBit_withField (v c n x j : Nat) :
    (withField v c n x).testBit j = if c ≤ j ∧ j < c + n then x.testBit (j - c) else v.testBit j := by
  rw [withField_eq, Nat.testBit_two_pow_mul_add _ (Nat.mod_lt _ (Nat.two_pow_pos c)), Nat.testBit_mod_two_pow]
  by_cases hlow : j < c
  · simp [hlow, show ¬c ≤ j by omega]
  · rw [Nat.testBit_two_pow_mul_add _ (Nat.mod_lt _ (Nat.two_pow_pos n)), Nat.testBit_mod_two_pow, Nat.testBit_div_two_pow]
    by_cases hin : j < c + n
    · simp [hlow, hin, show j - c < n by omega, show c ≤ j by omega]
    · simp [hlow, hin, show ¬j - c < n by omega, show j - c - n + (c + n) = j by omega]
theorem fieldOf_lt (v c n : Nat) : fieldOf v c n < 2 ^ n := Nat.mod_lt _ (Nat.two_pow_pos n)
/-- A field reads as the value that was written there, cut to its width. -/
theorem fieldOf_withField_same (v c n x : Nat) : fieldOf (withField v c n x) c n = x % 2 ^ n := by
  refine Nat.eq_of_testBit_eq fun j => ?_
  rw [testBit_fieldOf, testBit_withField, Nat.testBit_mod_two_pow, Nat.add_sub_cancel_left]
  by_cases hj : j < n
  · simp [hj]
  · simp [hj]
/-- A field apart from the one written reads as before. -/
theorem fieldOf_withField_of_disjoint {v c n x d m : Nat} (h : n = 0 ∨ m = 0 ∨ c + n ≤ d ∨ d + m ≤ c) :
    fieldOf (withField v c n x) d m = fieldOf v d m := by
  refine Nat.eq_of_testBit_eq fun j => ?_
  rw [testBit_fieldOf, testBit_fieldOf, testBit_withField]
  by_cases hj : j < m
  · rw [if_neg (by omega)]
  · simp [hj]

/-! ### Lanes of a row -/

theorem testBit_laneOfRow (row : BitVec 256) (w l j : Nat) :
    (laneOfRow row w l).testBit j = (decide (j < w) && row.getLsbD (l * w + j)) := testBit_fieldOf row.toNat (l * w) w j
theorem laneOfRow_zero (w l : Nat) : laneOfRow 0 w l = 0 := by simp [laneOfRow]
/-- A lane of an edited row: the lane that was written, or as before. -/
theorem laneOfRow_withLane (row : BitVec 256) {w l k : Nat} (v : Nat) (hk : k * w + w ≤ 256) :
    laneOfRow (withLane row w l v) w k = if k = l then v % 2 ^ w else laneOfRow row w k := by
  have hcut (x : Nat) : laneOfRow (BitVec.ofNat 256 x) w k = fieldOf x (k * w) w := by
    refine Nat.eq_of_testBit_eq fun j => ?_
    rw [testBit_laneOfRow, testBit_fieldOf, BitVec.getLsbD_ofNat]
    by_cases hj : j < w
    · simp [show k * w + j < 256 by omega]
    · simp [hj]
  rw [withLane, hcut]
  split_ifs with h
  · rw [h, fieldOf_withField_same]
  · refine fieldOf_withField_of_disjoint ?_
    rcases Nat.lt_or_gt_of_ne h with h | h
    · have := Nat.mul_le_mul_right w (Nat.succ_le_of_lt h)
      rw [Nat.succ_mul] at this
      omega
    · have := Nat.mul_le_mul_right w (Nat.succ_le_of_lt h)
      rw [Nat.succ_mul] at this
      omega
/-- A zero row with 0 written to a lane is a zero row. -/
theorem withLane_zero (w l : Nat) : withLane 0 w l 0 = 0 := by simp [withLane, withField, fieldOf]
theorem Arr.testBit_lane (a : Arr) {r l j : Nat} (hj : j < a.laneW) : (laneOfRow (a.row r) a.laneW l).testBit j = a.col r l j := by
  rw [testBit_laneOfRow, decide_eq_true hj, Bool.true_and, Arr.col]
theorem Arr.lanesN_le (a : Arr) : a.lanesN ≤ 4 := by
  unfold Arr.lanesN
  cases a.lanes <;> decide
/-- The lanes fill the row (R219). -/
theorem Arr.lanesN_mul_laneW (a : Arr) : a.lanesN * a.laneW = 256 := by
  unfold Arr.laneW Arr.lanesN
  cases a.lanes <;> rfl
theorem Arr.lane_fits (a : Arr) {l : Nat} (hl : l < a.lanesN) : l * a.laneW + a.laneW ≤ 256 := by
  rw [← a.lanesN_mul_laneW, ← Nat.succ_mul]
  exact Nat.mul_le_mul_right _ hl

/-! ### Tag bits -/

/-- Digit `1` in each of `n` places of four bits. -/
theorem ones16_succ (n : Nat) : (2 ^ (4 * (n + 1)) - 1) / 15 = 2 ^ (4 * n) + (2 ^ (4 * n) - 1) / 15 := by
  have hpos := Nat.two_pow_pos (4 * n)
  rw [Nat.mul_add, Nat.pow_add]
  omega
theorem ones16_mul_lt (n : Nat) {m : Nat} (hm : m < 16) : (2 ^ (4 * n) - 1) / 15 * m < 2 ^ (4 * n) := by
  have hpos := Nat.two_pow_pos (4 * n)
  have hmul := Nat.mul_le_mul_left ((2 ^ (4 * n) - 1) / 15) (Nat.le_of_lt_succ hm)
  have hdiv := Nat.div_mul_le_self (2 ^ (4 * n) - 1) 15
  omega
/-- A nibble in each of `n` places, bit by bit. -/
theorem testBit_ones16_mul (n r : Nat) {m l : Nat} (hm : m < 16) (hl : l < 4) :
    ((2 ^ (4 * n) - 1) / 15 * m).testBit (4 * r + l) = (decide (r < n) && m.testBit l) := by
  induction n with
  | zero => simp
  | succ n ih =>
    rw [ones16_succ, Nat.add_mul, Nat.testBit_two_pow_mul_add _ (ones16_mul_lt n hm)]
    rcases Nat.lt_trichotomy r n with h | h | h
    · rw [if_pos (by omega), ih, decide_eq_true h, decide_eq_true (Nat.lt_succ_of_lt h)]
    · subst h
      rw [if_neg (by omega), Nat.add_sub_cancel_left, decide_eq_true (Nat.lt_succ_self r), Bool.true_and]
    · rw [if_neg (by omega), Nat.testBit_lt_two_pow (hm.trans_le (Nat.pow_le_pow_right (show 0 < 2 by decide) (show 4 ≤ 4 * r + l - 4 * n by omega))),
        decide_eq_false (by omega), Bool.false_and]
theorem getLsbD_spanBits (first count : Nat) {n r l : Nat} (hn : n ≤ 4) (hr : r < 32768) (hl : l < 4) :
    (spanBits n first count).getLsbD (4 * r + l) = (decide (l < n) && (decide (first ≤ r) && decide (r < first + count))) := by
  have hm : 2 ^ n - 1 < 16 := by
    have := Nat.pow_le_pow_right (show 0 < 2 by decide) hn
    omega
  rw [spanBits, BitVec.getLsbD_ofNat, decide_eq_true (show 4 * r + l < 131072 by omega), Bool.true_and, Nat.mul_comm _ (2 ^ _), Nat.testBit_two_pow_mul]
  by_cases h : first ≤ r
  · have hcount : decide (r - first < count) = decide (r < first + count) := decide_eq_decide.mpr (by omega)
    rw [show 4 * r + l - 4 * first = 4 * (r - first) + l by omega, testBit_ones16_mul count _ hm hl, Nat.testBit_two_pow_sub_one,
      decide_eq_true (show 4 * first ≤ 4 * r + l by omega), decide_eq_true h, hcount, Bool.true_and, Bool.true_and, Bool.and_comm]
  · simp [h, show ¬4 * first ≤ 4 * r + l by omega]
theorem getLsbD_allRows {m r l : Nat} (hm : m < 16) (hr : r < 32768) (hl : l < 4) : (allRows m).getLsbD (4 * r + l) = m.testBit l := by
  have hbits (n : Nat) (hn : n = 4 * 32768) : ((2 ^ n - 1) / 15 * m).testBit (4 * r + l) = m.testBit l := by
    rw [hn, testBit_ones16_mul _ _ hm hl, decide_eq_true hr, Bool.true_and]
  unfold allRows
  rw [BitVec.getLsbD_ofNat, decide_eq_true (show 4 * r + l < 131072 by omega), Bool.true_and]
  exact hbits 131072 (by omega)
theorem testBit_rowBits (t : TagReg) {r l : Nat} (hl : l < 4) : (rowBits t r).testBit l = t.getLsbD (4 * r + l) := by
  rw [rowBits, ← BitVec.getLsbD, BitVec.getLsbD_extractLsb', decide_eq_true hl, Bool.true_and]
theorem rowBits_lt (t : TagReg) (r : Nat) : rowBits t r < 2 ^ 4 := (t.extractLsb' (4 * r) 4).isLt
/-- The lane bits of a row are 0 where none is set. -/
theorem rowBits_eq_zero {t : TagReg} {r : Nat} (h : ∀ l < 4, t.getLsbD (4 * r + l) = false) : rowBits t r = 0 := by
  refine Nat.eq_of_testBit_eq fun l => ?_
  rw [Nat.zero_testBit]
  rcases Nat.lt_or_ge l 4 with hl | hl
  · rw [testBit_rowBits t hl, h l hl]
  · exact Nat.testBit_lt_two_pow ((rowBits_lt t r).trans_le (Nat.pow_le_pow_right (by decide) hl))
theorem getLsbD_clearedRow (t : TagReg) (k : Nat) {r l : Nat} (hr : r < 32768) (hl : l < 4) :
    (withRowBits t k 0).getLsbD (4 * r + l) = (decide (r ≠ k) && t.getLsbD (4 * r + l)) := by
  have hlt : 4 * r + l < 131072 := by omega
  have hmask : (15#131072 <<< (4 * k)).getLsbD (4 * r + l) = decide (r = k) := by
    rw [BitVec.getLsbD_shiftLeft, decide_eq_true hlt, Bool.true_and, BitVec.getLsbD_ofNat]
    rcases Nat.lt_trichotomy r k with h | h | h
    · rw [decide_eq_true (show 4 * r + l < 4 * k by omega), decide_eq_false (Nat.ne_of_lt h), Bool.not_true, Bool.false_and]
    · subst h
      rw [Nat.add_sub_cancel_left, decide_eq_false (show ¬4 * r + l < 4 * r by omega), show (15 : Nat) = 2 ^ 4 - 1 from rfl,
        Nat.testBit_two_pow_sub_one, decide_eq_true hl, decide_eq_true (show l < 131072 by omega), decide_eq_true rfl]
      rfl
    · rw [Nat.testBit_lt_two_pow ((show 15 < 2 ^ 4 by decide).trans_le (Nat.pow_le_pow_right (by decide) (show 4 ≤ 4 * r + l - 4 * k by omega))),
        decide_eq_false (show ¬r = k by omega), Bool.and_false, Bool.and_false]
  have hzero : BitVec.ofNat 131072 (0 % 16) <<< (4 * k) = 0#131072 := by
    rw [Nat.zero_mod]
    exact BitVec.zero_shiftLeft _
  rw [withRowBits, hzero, BitVec.or_zero, BitVec.getLsbD_and, BitVec.getLsbD_not, decide_eq_true hlt, Bool.true_and, hmask, Bool.and_comm]
  by_cases h : r = k <;> simp [h]
/-- The selected bits are those of the rows and lanes on which an instruction acts (R220). -/
theorem Arr.getLsbD_selected (a : Arr) (x : Rows) {r l : Nat} (hr : r < 32768) (hl : l < 4) :
    (a.selected x).getLsbD (4 * r + l) = a.acts x r l := by
  have hspan : (a.spanMask x.span).getLsbD (4 * r + l) = a.spans? x.span r l := by
    rw [Arr.spanMask, getLsbD_spanBits _ _ a.lanesN_le hr hl, Arr.spans?, Bool.and_assoc]
  rw [Arr.selected, Arr.acts]
  cases x.sel with
  | none => rw [hspan, Bool.and_true]
  | some t =>
    rw [BitVec.getLsbD_and, hspan]
    rfl
/-- No row outside the span is selected. -/
theorem Arr.rowBits_selected_outside (a : Arr) (x : Rows) {r : Nat}
    (h : r < (a.spanOf x.span).1 ∨ (a.spanOf x.span).1 + (a.spanOf x.span).2 ≤ r) : rowBits (a.selected x) r = 0 := by
  refine rowBits_eq_zero fun l hl => ?_
  rcases Nat.lt_or_ge r 32768 with hr | hr
  · rw [a.getLsbD_selected x hr hl, Arr.acts, Arr.spans?]
    rcases h with h | h
    · simp [Nat.not_le.mpr h]
    · simp [Nat.not_lt.mpr h]
  · exact BitVec.getLsbD_of_ge _ _ (by omega)

end Sys2Proof.Machine
end

section
/-! Rows as a map: its canonical form, a stretch of rows filled, and the lanes of one row after a function has acted on the selected ones (R242). -/
namespace Sys2Proof.Machine

/-! ### Maps in canonical form -/

section
variable {α : Type}

theorem above_mput {b k : Nat} {v : α} {m : FMap α} (hk : b < k) (hm : above b m) : above b (mput m k v) := by
  induction m with
  | nil => simpa [mput, above] using hk
  | cons p t ih =>
    have ht : above b t := fun q hq => hm q (List.mem_cons_of_mem _ hq)
    have hp : b < p.1 := hm p List.mem_cons_self
    unfold mput
    split_ifs
    · exact fun q hq => (List.mem_cons.mp hq).elim (fun e => e ▸ hk) fun hq => hm q hq
    · exact fun q hq => (List.mem_cons.mp hq).elim (fun e => e ▸ hk) fun hq => ht q hq
    · exact fun q hq => (List.mem_cons.mp hq).elim (fun e => e ▸ hp) fun hq => ih ht q hq
theorem rising_mput {k : Nat} {v : α} {m : FMap α} (hm : rising m = true) : rising (mput m k v) = true := by
  induction m with
  | nil => rfl
  | cons p t ih =>
    obtain ⟨ha, ht⟩ := (rising_cons p t).mp hm
    unfold mput
    split_ifs with h1 h2
    · exact (rising_cons _ _).mpr ⟨fun q hq => (List.mem_cons.mp hq).elim (fun e => e ▸ h1) fun hq => Nat.lt_trans h1 (ha q hq), hm⟩
    · exact (rising_cons _ _).mpr ⟨fun q hq => h2 ▸ ha q hq, ht⟩
    · exact (rising_cons _ _).mpr ⟨above_mput (show p.1 < k by omega) ha, ih ht⟩
theorem rising_mcanon (m : FMap α) : rising (mcanon m) = true := by
  induction m with
  | nil => rfl
  | cons p t ih => exact rising_mput ih
theorem mhas_mput (m : FMap α) (k j : Nat) (v : α) : mhas (mput m k v) j = (k == j || mhas m j) := by
  induction m with
  | nil => rfl
  | cons p t ih =>
    unfold mput
    split_ifs with h1 h2
    · rfl
    · simp [mhas, h2]
    · exact (congrArg (p.1 == j || ·) ih).trans (Bool.or_left_comm ..)
@[simp] theorem mhas_mcanon (m : FMap α) (k : Nat) : mhas (mcanon m) k = mhas m k := by
  induction m with
  | nil => rfl
  | cons p t ih => exact (mhas_mput (mcanon t) p.1 k p.2).trans (by rw [ih]; rfl)
@[simp] theorem mget_mcanon (d : Nat → α) (m : FMap α) (k : Nat) : mget d (mcanon m) k = mget d m k := by
  induction m with
  | nil => rfl
  | cons p t ih =>
    obtain ⟨j, v⟩ := p
    show mget d (mput (mcanon t) j v) k = _
    rw [mget]
    split_ifs with h
    · rw [h, mget_mput_same]
    · rw [mget_mput_other _ _ _ _ _ (Ne.symm h), ih]
theorem mhas_iff {m : FMap α} {k : Nat} : mhas m k = true ↔ ∃ v, (k, v) ∈ m := by
  simp [mhas]
/-- A listed pair of a map whose keys rise is what its key reads as. -/
theorem mget_of_mem {d : Nat → α} {m : FMap α} {p : Nat × α} (hm : rising m = true) (hp : p ∈ m) : mget d m p.1 = p.2 := by
  induction m with
  | nil => cases hp
  | cons q t ih =>
    obtain ⟨ha, ht⟩ := (rising_cons q t).mp hm
    obtain ⟨j, v⟩ := q
    rw [mget]
    rcases List.mem_cons.mp hp with rfl | hp
    · rw [if_pos rfl]
    · rw [if_neg (Nat.ne_of_lt (ha p hp)), ih ht hp]
end

/-- A map whose values are computed anew and whose zeros are dropped. -/
theorem mget_recomputed {α γ : Type} {w : Nat} (d : Nat → α) (m : FMap α) (F : Nat × α → BitVec w × γ) (hm : rising m = true) (r : Nat) :
    mget (fun _ => 0) (((m.map fun p => (p.1, F p)).filter fun p => p.2.1 != 0).map fun p => (p.1, p.2.1)) r =
      if mhas m r then (F (r, mget d m r)).1 else 0 := by
  induction m with
  | nil => rfl
  | cons p t ih =>
    obtain ⟨ha, ht⟩ := (rising_cons p t).mp hm
    obtain ⟨j, v⟩ := p
    have ih := ih ht
    rw [List.map_cons, List.filter_cons]
    by_cases h : j = r
    · subst h
      have habsent : mhas t j = false := mhas_false t j fun q hq => Nat.ne_of_gt (ha q hq)
      have hlisted : mhas ((j, v) :: t) j = true := by simp [mhas]
      have hread : mget d ((j, v) :: t) j = v := if_pos rfl
      rw [habsent, if_neg (by decide)] at ih
      rw [if_pos hlisted, hread]
      split_ifs with hz
      · exact if_pos rfl
      · rw [ih]
        exact (not_not.mp fun hne => hz (bne_iff_ne.mpr hne)).symm
    · have hlisted : mhas ((j, v) :: t) r = mhas t r := by simp [mhas, h]
      have hread : mget d ((j, v) :: t) r = mget d t r := if_neg h
      rw [hlisted, hread, ← ih]
      split_ifs
      · exact if_neg h
      · rfl

/-! ### Rows filled in a span -/

theorem mget_putRow {r : Nat} {v : BitVec 256} {m : FMap (BitVec 256)} (h : mget (fun _ => 0) m r = 0) (k : Nat) :
    mget (fun _ => 0) (putRow r v m) k = if r = k then v else mget (fun _ => 0) m k := by
  unfold putRow
  by_cases hv : v = 0
  · rw [if_pos hv]
    split_ifs with hk
    · rw [← hk, h, hv]
    · rfl
  · rw [if_neg hv]
    rfl
/-- One row is filled, and then the others from a map that lists only those above it. -/
theorem fillRows_succ (f : Nat → BitVec 256 → BitVec 256) (n : Nat) {r : Nat} {m : FMap (BitVec 256)} (hm : rising m = true)
    (hr : ∀ p ∈ m, r ≤ p.1) :
    ∃ t, fillRows f (n + 1) r m = putRow r (f r (mget (fun _ => 0) m r)) (fillRows f n (r + 1) t) ∧ rising t = true ∧
      (∀ p ∈ t, r + 1 ≤ p.1) ∧ ∀ k, r ≠ k → mget (fun _ => 0) t k = mget (fun _ => 0) m k := by
  match m with
  | [] => exact ⟨[], rfl, rfl, fun _ hp => absurd hp List.not_mem_nil, fun _ _ => rfl⟩
  | (j, v) :: t =>
    obtain ⟨ha, ht⟩ := (rising_cons _ _).mp hm
    by_cases hj : j = r
    · subst hj
      exact ⟨t, by rw [fillRows, if_pos rfl, mget, if_pos rfl], ht, ha, fun k hk => (if_neg hk).symm⟩
    · have hlt : r < j := Nat.lt_of_le_of_ne (hr _ List.mem_cons_self) (Ne.symm hj)
      have habove : ∀ p ∈ (j, v) :: t, r + 1 ≤ p.1 := fun p hp =>
        (List.mem_cons.mp hp).elim (fun e => e ▸ hlt) fun hp => Nat.lt_trans hlt (ha p hp)
      exact ⟨(j, v) :: t, by rw [fillRows, if_neg hj, mget_absent _ _ r fun p hp => Nat.ne_of_gt (habove p hp)], hm, habove, fun _ _ => rfl⟩
/-- Every row of a stretch is what the function makes of it; the others are as they were. -/
theorem mget_fillRows (f : Nat → BitVec 256 → BitVec 256) (n r k : Nat) {m : FMap (BitVec 256)} (hm : rising m = true)
    (hr : ∀ p ∈ m, r ≤ p.1) :
    mget (fun _ => 0) (fillRows f n r m) k = if r ≤ k ∧ k < r + n then f k (mget (fun _ => 0) m k) else mget (fun _ => 0) m k := by
  induction n generalizing r m k with
  | zero => rw [fillRows, if_neg (by omega)]
  | succ n ih =>
    obtain ⟨t, hstep, ht, habove, hrest⟩ := fillRows_succ f n hm hr
    have hlow : mget (fun _ => 0) (fillRows f n (r + 1) t) r = 0 := by
      rw [ih (r + 1) r ht habove, if_neg (by omega), mget_absent _ _ _ fun p hp => Nat.ne_of_gt (habove p hp)]
    rw [hstep, mget_putRow hlow, ih (r + 1) k ht habove]
    by_cases hk : r = k
    · subst hk
      rw [if_pos rfl, if_pos (by omega)]
    · rw [if_neg hk, hrest k hk]
      exact if_congr (by omega) rfl rfl

/-! ### The lanes of one row -/

/-- Conditions joined over a list, bit by bit. -/
theorem Conds.code_or (a b : Conds) : (a.or b).code = a.code ||| b.code := by
  obtain ⟨a1, a2, a3, a4⟩ := a
  obtain ⟨b1, b2, b3, b4⟩ := b
  revert a1 a2 a3 a4 b1 b2 b3 b4
  decide
theorem Conds.getLsbD_code_foldl_or (l : List Conds) (c : Conds) (k : Nat) :
    (l.foldl Conds.or c).code.getLsbD k = true ↔ c.code.getLsbD k = true ∨ ∃ x ∈ l, x.code.getLsbD k = true := by
  induction l generalizing c with
  | nil => simp
  | cons x l ih =>
    simp only [List.foldl_cons, ih, Conds.code_or, BitVec.getLsbD_or, Bool.or_eq_true, List.mem_cons, exists_eq_or_imp, or_assoc]
/-- The lanes before lane `n` of a row after the function has acted on the selected ones. -/
theorem rowStep_succ (w n : Nat) (g : Nat → Nat → Nat × Conds) (nib : Nat) (row : BitVec 256) :
    rowStep w (n + 1) g nib row =
      if nib.testBit n then (withLane (rowStep w n g nib row).1 w n (g n (laneOfRow row w n)).1, (rowStep w n g nib row).2.or (g n (laneOfRow row w n)).2)
      else rowStep w n g nib row := by
  rw [rowStep, List.range_succ, List.foldl_append]
  rfl
theorem laneOfRow_rowStep (n : Nat) {w l : Nat} (g : Nat → Nat → Nat × Conds) (nib : Nat) (row : BitVec 256) (hl : l * w + w ≤ 256) :
    laneOfRow (rowStep w n g nib row).1 w l =
      if l < n ∧ nib.testBit l = true then (g l (laneOfRow row w l)).1 % 2 ^ w else laneOfRow row w l := by
  induction n with
  | zero => rw [if_neg (by omega)]; rfl
  | succ n ih =>
    rw [rowStep_succ]
    by_cases hn : nib.testBit n = true
    · rw [if_pos hn, laneOfRow_withLane _ _ hl, ih]
      by_cases h : l = n
      · subst h
        rw [if_pos rfl, if_pos ⟨Nat.lt_succ_self l, hn⟩]
      · rw [if_neg h]
        exact if_congr (and_congr_left' (by omega)) rfl rfl
    · rw [if_neg hn, ih]
      refine if_congr (and_congr_left fun hbit => ?_) rfl rfl
      have : l ≠ n := fun e => hn (e ▸ hbit)
      omega
theorem getLsbD_code_rowStep (w n : Nat) (g : Nat → Nat → Nat × Conds) (nib : Nat) (row : BitVec 256) (k : Nat) :
    (rowStep w n g nib row).2.code.getLsbD k = true ↔
      ∃ l < n, nib.testBit l = true ∧ (g l (laneOfRow row w l)).2.code.getLsbD k = true := by
  induction n with
  | zero =>
    have hnone : (Conds.code {}).getLsbD k = false := BitVec.getLsbD_zero
    simp [rowStep, hnone]
  | succ n ih =>
    rw [rowStep_succ, Nat.exists_lt_succ_right]
    by_cases hn : nib.testBit n = true
    · rw [if_pos hn, Conds.code_or, BitVec.getLsbD_or, Bool.or_eq_true, ih, hn]
      simp
    · rw [if_neg hn, ih]
      simp [hn]
/-- A row with no selected lane is left as it is. -/
theorem rowStep_none (w n : Nat) (g : Nat → Nat → Nat × Conds) (row : BitVec 256) : rowStep w n g 0 row = (row, {}) := by
  induction n with
  | zero => rfl
  | succ n ih => rw [rowStep_succ, Nat.zero_testBit, if_neg Bool.false_ne_true, ih]
/-- A row of zeros stays one where the function answers 0 for a lane of zeros. -/
theorem rowStep_zero {n : Nat} (w : Nat) {g : Nat → Nat → Nat × Conds} (nib : Nat) (h : ∀ l < n, (g l 0).1 = 0) : (rowStep w n g nib 0).1 = 0 := by
  induction n with
  | zero => rfl
  | succ n ih =>
    have ih := ih fun l hl => h l (Nat.lt_succ_of_lt hl)
    rw [rowStep_succ]
    split_ifs
    · rw [ih, laneOfRow_zero, h n (Nat.lt_succ_self n), withLane_zero]
    · exact ih

end Sys2Proof.Machine
end

section
/-! All rows after a function has acted on every selected lane of every selected row, and the conditions that it has raised (R242, R247). -/
namespace Sys2Proof.Machine

/-- The tag bits without those of the listed rows. -/
theorem getLsbD_clearedRows {α : Type} (m : FMap α) (t : TagReg) {r l : Nat} (hr : r < 32768) (hl : l < 4) :
    (m.foldl (fun t p => withRowBits t p.1 0) t).getLsbD (4 * r + l) = (!mhas m r && t.getLsbD (4 * r + l)) := by
  induction m generalizing t with
  | nil => rfl
  | cons p m ih =>
    have hmem : mhas (p :: m) r = (p.1 == r || mhas m r) := rfl
    rw [List.foldl_cons, ih, getLsbD_clearedRow t p.1 hr hl, hmem]
    by_cases h : r = p.1
    · simp [h]
    · rw [beq_false_of_ne (Ne.symm h), decide_eq_true h, Bool.true_and, Bool.false_or]
theorem Arr.zeroSelected_iff (a : Arr) (sel : TagReg) {l : Nat} (hl : l < 4) :
    a.zeroSelected sel l = true ↔ ∃ r < 32768, mhas a.rows r = false ∧ sel.getLsbD (4 * r + l) = true := by
  have hm : 2 ^ l < 16 := Nat.pow_lt_pow_right (by decide) hl
  have hbit {r k : Nat} (hr : r < 32768) (hk : k < 4) :
      ((a.rows.foldl (fun t p => withRowBits t p.1 0) sel) &&& allRows (2 ^ l)).getLsbD (4 * r + k) = true ↔
        l = k ∧ mhas a.rows r = false ∧ sel.getLsbD (4 * r + k) = true := by
    rw [BitVec.getLsbD_and, getLsbD_clearedRows a.rows sel hr hk, getLsbD_allRows hm hr hk, Nat.testBit_two_pow]
    simp only [Bool.and_eq_true, Bool.not_eq_true', decide_eq_true_eq]
    tauto
  rw [Arr.zeroSelected, bne_iff_ne]
  refine ⟨fun hne => ?_, fun ⟨r, hr, h⟩ hzero => ?_⟩
  · by_contra hnone
    refine hne (BitVec.eq_of_getLsbD_eq fun i hi => ?_)
    refine Eq.trans (Bool.not_eq_true _ ▸ fun hset => ?_) BitVec.getLsbD_zero.symm
    rw [← Nat.div_add_mod i 4] at hset
    obtain ⟨rfl, h⟩ := (hbit (show i / 4 < 32768 by omega) (show i % 4 < 4 by omega)).mp hset
    exact hnone ⟨i / 4, by omega, h⟩
  · have hset := (hbit hr hl).mpr ⟨rfl, h⟩
    rw [hzero] at hset
    exact Bool.false_ne_true (BitVec.getLsbD_zero.symm.trans hset)

theorem mget_append_of_zero {w : Nat} {l m : FMap (BitVec w)} {k : Nat} (h : mget (fun _ => 0) m k = 0) :
    mget (fun _ => 0) (l ++ m) k = mget (fun _ => 0) l k := by
  rw [mget_append]
  split_ifs with hl
  · rfl
  · rw [h, mget_of_not_mhas _ (Bool.not_eq_true _ ▸ hl)]
/-- A row among the listed ones that a test of their numbers keeps. -/
theorem mget_rows_filter (a : Arr) (f : Nat → Bool) (r : Nat) :
    mget (fun _ => 0) ((mcanon a.rows).filter fun p => f p.1) r = if f r = true then a.row r else 0 := by
  split_ifs with h
  · rw [mget_filter _ _ f r h, mget_mcanon]
    rfl
  · exact mget_absent _ _ _ fun p hp e => h (e ▸ (List.mem_filter.mp hp).2)

section
variable (a : Arr) (span : Nat × Nat) (sel : TagReg) (g : Nat → Nat → Nat × Conds)

theorem Arr.runLanes_rest : { (a.runLanes span sel g).1 with rows := a.rows } = a := by
  unfold Arr.runLanes
  dsimp only
  split_ifs <;> rfl
@[simp] theorem Arr.runLanes_lanes : (a.runLanes span sel g).1.lanes = a.lanes := by
  unfold Arr.runLanes
  dsimp only
  split_ifs <;> rfl
@[simp] theorem Arr.runLanes_laneW : (a.runLanes span sel g).1.laneW = a.laneW := by
  rw [Arr.laneW, Arr.lanesN, Arr.runLanes_lanes]
  rfl
/-- Each row is what the function makes of its selected lanes, where no row outside the span is selected. -/
theorem Arr.runLanes_row (hsel : ∀ r, r < span.1 ∨ span.1 + span.2 ≤ r → rowBits sel r = 0) (r : Nat) :
    (a.runLanes span sel g).1.row r = (rowStep a.laneW a.lanesN g (rowBits sel r) (a.row r)).1 := by
  have hrise := rising_mcanon a.rows
  unfold Arr.runLanes
  dsimp only
  split_ifs with hz
  · have hzero : ∀ l < a.lanesN, (g l 0).1 = 0 := fun l hl => by
      simpa using List.all_eq_true.mp hz l (List.mem_range.mpr hl)
    unfold Arr.row
    dsimp only
    rw [mget_recomputed (fun _ => 0) _ (fun p => rowStep a.laneW a.lanesN g (rowBits sel p.1) p.2) hrise, mhas_mcanon, mget_mcanon]
    split_ifs with h
    · rfl
    · rw [mget_of_not_mhas _ (Bool.not_eq_true _ ▸ h), rowStep_zero _ _ hzero]
  · have hbelow := mget_rows_filter a (fun k => decide (k < span.1)) r
    have hrest := mget_rows_filter a (fun k => decide (span.1 ≤ k)) r
    have hfill := mget_fillRows (fun r v => (rowStep a.laneW a.lanesN g (rowBits sel r) v).1) span.2 span.1 r
      (rising_filter _ (fun p => decide (span.1 ≤ p.1)) hrise) fun p hp => of_decide_eq_true (List.mem_filter.mp hp).2
    rw [hrest] at hfill
    unfold Arr.row
    dsimp only
    by_cases h : span.1 ≤ r
    · rw [mget_append, mhas_false _ _ fun p hp => ?_, if_neg Bool.false_ne_true, hfill, if_pos (decide_eq_true h)]
      · split_ifs with hin
        · rfl
        · rw [hsel r (Or.inr (by omega)), rowStep_none]
          rfl
      · have := of_decide_eq_true (List.mem_filter.mp hp).2
        omega
    · rw [if_neg (by omega), if_neg (by simpa using h)] at hfill
      rw [mget_append_of_zero hfill, hbelow, if_pos (decide_eq_true (Nat.lt_of_not_le h)), hsel r (Or.inl (Nat.lt_of_not_le h)), rowStep_none]
      rfl
/-- A condition is raised exactly where a selected lane of a row has raised it. -/
theorem Arr.runLanes_code (k : Nat) :
    (a.runLanes span sel g).2.code.getLsbD k = true ↔ ∃ r l, r < 32768 ∧ l < a.lanesN ∧ sel.getLsbD (4 * r + l) = true ∧
      (g l (laneOfRow (a.row r) a.laneW l)).2.code.getLsbD k = true := by
  have hconds : (a.runLanes span sel g).2 = (((mcanon a.rows).map fun p => (rowStep a.laneW a.lanesN g (rowBits sel p.1) p.2).2) ++
      ((List.range a.lanesN).filter fun i => a.zeroSelected sel i).map fun i => (g i 0).2).foldl Conds.or {} := by
    unfold Arr.runLanes
    dsimp only
    rw [List.map_map]
    split_ifs <;> rfl
  have hnone : (Conds.code {}).getLsbD k = false := BitVec.getLsbD_zero
  rw [hconds, Conds.getLsbD_code_foldl_or, hnone]
  simp only [Bool.false_eq_true, false_or, List.mem_append, List.mem_map, List.mem_filter, List.mem_range]
  constructor
  · rintro ⟨_, ⟨p, hp, rfl⟩ | ⟨l, ⟨hl, hzero⟩, rfl⟩, hk⟩
    · obtain ⟨l, hl, hbit, hk⟩ := (getLsbD_code_rowStep ..).mp hk
      rw [testBit_rowBits sel (hl.trans_le a.lanesN_le)] at hbit
      have hlt := BitVec.lt_of_getLsbD hbit
      have hrow : a.row p.1 = p.2 := (mget_mcanon _ _ _).symm.trans (mget_of_mem (rising_mcanon a.rows) hp)
      exact ⟨p.1, l, by omega, hl, hbit, hrow ▸ hk⟩
    · obtain ⟨r, hr, habsent, hbit⟩ := (a.zeroSelected_iff sel (hl.trans_le a.lanesN_le)).mp hzero
      have hrow : a.row r = 0 := mget_of_not_mhas _ habsent
      exact ⟨r, l, hr, hl, hbit, by rw [hrow, laneOfRow_zero]; exact hk⟩
  · rintro ⟨r, l, hr, hl, hbit, hk⟩
    by_cases h : mhas a.rows r = true
    · obtain ⟨v, hv⟩ := mhas_iff.mp ((mhas_mcanon a.rows r).trans h)
      have hrow : a.row r = v := (mget_mcanon _ _ _).symm.trans (mget_of_mem (rising_mcanon a.rows) hv)
      refine ⟨_, Or.inl ⟨(r, v), hv, rfl⟩, (getLsbD_code_rowStep ..).mpr ⟨l, hl, ?_, hrow ▸ hk⟩⟩
      exact (testBit_rowBits sel (hl.trans_le a.lanesN_le)).trans hbit
    · have habsent := Bool.not_eq_true _ ▸ h
      have hrow : a.row r = 0 := mget_of_not_mhas _ habsent
      rw [hrow, laneOfRow_zero] at hk
      exact ⟨_, Or.inr ⟨l, ⟨hl, (a.zeroSelected_iff sel (hl.trans_le a.lanesN_le)).mpr ⟨r, hr, habsent, hbit⟩⟩, rfl⟩, hk⟩

end

end Sys2Proof.Machine
end

section
/-! What a macro leaves in each row and lane (R242, R244 to R247): its destination, its scratch and every other column. -/
namespace Sys2Proof.Machine

/-! ### Columns and fields after a lane function -/

section
variable (a : Arr) (x : Rows) (g : Nat → Nat → Nat × Conds) {r l : Nat}

/-- The lane that a function leaves where an instruction acts, and the lane as it was elsewhere. -/
theorem Arr.runLanes_lane (hr : r < 32768) (hl : l < a.lanesN) :
    laneOfRow ((a.runLanes (a.spanOf x.span) (a.selected x) g).1.row r) a.laneW l =
      if a.acts x r l = true then (g l (laneOfRow (a.row r) a.laneW l)).1 % 2 ^ a.laneW else laneOfRow (a.row r) a.laneW l := by
  have hl4 := hl.trans_le a.lanesN_le
  rw [a.runLanes_row _ _ g (fun r => a.rowBits_selected_outside x), laneOfRow_rowStep _ _ _ _ (a.lane_fits hl), testBit_rowBits _ hl4,
    a.getLsbD_selected x hr hl4]
  exact if_congr (and_iff_right hl) rfl rfl
theorem Arr.runLanes_col (hr : r < 32768) (hl : l < a.lanesN) {j : Nat} (hj : j < a.laneW) :
    (a.runLanes (a.spanOf x.span) (a.selected x) g).1.col r l j =
      if a.acts x r l = true then (g l (laneOfRow (a.row r) a.laneW l)).1.testBit j else a.col r l j := by
  rw [← Arr.testBit_lane _ (by rwa [a.runLanes_laneW]), a.runLanes_laneW, a.runLanes_lane x g hr hl, ← a.testBit_lane hj]
  split_ifs
  · rw [Nat.testBit_mod_two_pow, decide_eq_true hj, Bool.true_and]
  · rfl
/-- The rows and lanes on which an instruction acts raise its conditions. -/
theorem Arr.runLanes_code_acts (k : Nat) :
    (a.runLanes (a.spanOf x.span) (a.selected x) g).2.code.getLsbD k = true ↔ ∃ r l, r < 32768 ∧ l < a.lanesN ∧ a.acts x r l = true ∧
      (g l (laneOfRow (a.row r) a.laneW l)).2.code.getLsbD k = true := by
  rw [a.runLanes_code]
  refine exists₂_congr fun r l => and_congr_right fun hr => and_congr_right fun hl => ?_
  rw [a.getLsbD_selected x hr (hl.trans_le a.lanesN_le)]
end

/-- A field lies within its lane, or the macro has none (R245, reason 1). -/
def FieldFits (w : Nat) (p : Nat × Nat) : Prop := p.2 = 0 ∨ p.1 + p.2 ≤ w
/-- Two fields share no column (R246). -/
def FieldsApart (p q : Nat × Nat) : Prop := p.2 = 0 ∨ q.2 = 0 ∨ p.1 + p.2 ≤ q.1 ∨ q.1 + q.2 ≤ p.1

theorem Arr.testBit_field (a : Arr) {r l c n : Nat} (h : FieldFits a.laneW (c, n)) (j : Nat) :
    (a.field r l c n).testBit j = (decide (j < n) && a.col r l (c + j)) := by
  rw [Arr.field, testBit_fieldOf]
  by_cases hj : j < n
  · rw [a.testBit_lane (by unfold FieldFits at h; simp only at h; omega)]
  · rw [decide_eq_false hj, Bool.false_and, Bool.false_and]
/-- A field that holds the low bits of a number, column by column. -/
theorem Arr.field_eq_mod (a : Arr) {r l c n v : Nat} (h : FieldFits a.laneW (c, n)) (hbits : ∀ j < n, a.col r l (c + j) = v.testBit j) :
    a.field r l c n = v % 2 ^ n := by
  refine Nat.eq_of_testBit_eq fun j => ?_
  rw [a.testBit_field h, Nat.testBit_mod_two_pow]
  by_cases hj : j < n
  · rw [hbits j hj]
  · rw [decide_eq_false hj, Bool.false_and, Bool.false_and]

/-! ### The checks of a macro's fields (R245, R246) -/

theorem Arr.macroFlaw_none {a : Arr} {i : Instr} (h : a.macroFlaw i = none) :
    topCol [(macroFields i).d, (macroFields i).a, (macroFields i).b, (macroFields i).k, (macroFields i).x] < a.laneW ∧
      formatsOk i = true ∧ roundingOk i = true ∧ overlapCol i (macroFields i) = none := by
  unfold Arr.macroFlaw at h
  dsimp only at h
  split_ifs at h with htop hfmt hrnd
  refine ⟨Nat.lt_of_not_le htop, by simpa using hfmt, by simpa using hrnd, ?_⟩
  cases ho : overlapCol i (macroFields i) with
  | none => rfl
  | some c => simp [ho] at h
theorem le_foldl_max_col (l : List (Nat × Nat)) (t : Nat) :
    t ≤ l.foldl (fun t p => max t (p.1 + p.2 - 1)) t ∧ ∀ p ∈ l, p.1 + p.2 - 1 ≤ l.foldl (fun t p => max t (p.1 + p.2 - 1)) t := by
  induction l generalizing t with
  | nil => exact ⟨Nat.le_refl t, fun p hp => absurd hp List.not_mem_nil⟩
  | cons q l ih =>
    obtain ⟨hstart, hall⟩ := ih (max t (q.1 + q.2 - 1))
    refine ⟨(Nat.le_max_left _ _).trans hstart, fun p hp => ?_⟩
    rcases List.mem_cons.mp hp with rfl | hp
    · exact (Nat.le_max_right _ _).trans hstart
    · exact hall p hp
theorem fieldFits_of_topCol {w : Nat} {fs : List (Nat × Nat)} {p : Nat × Nat} (h : topCol fs < w) (hp : p ∈ fs) : FieldFits w p := by
  by_cases hz : p.2 = 0
  · exact Or.inl hz
  · have := (le_foldl_max_col (fs.filter fun p => p.2 ≠ 0) 0).2 p (List.mem_filter.mpr ⟨hp, decide_eq_true hz⟩)
    rw [topCol] at h
    exact Or.inr (by omega)
theorem minOpt_eq_none {x y : Option Nat} (h : minOpt x y = none) : x = none ∧ y = none := by
  cases x <;> cases y <;> simp_all [minOpt]
theorem fieldsApart_of_sharedCol {p q : Nat × Nat} (h : sharedCol p q = none) : FieldsApart p q := by
  unfold sharedCol at h
  split_ifs at h with hc
  unfold FieldsApart
  omega
/-- A macro whose fields pass the checks: destination and residue lie within the lane, and apart from each other and from the scratch. -/
structure FieldsOk (w : Nat) (m : MFields) : Prop where
  dstFits : FieldFits w m.d
  resFits : FieldFits w m.b
  dstRes : FieldsApart m.d m.b
  dstScratch : FieldsApart m.d m.x
  resScratch : FieldsApart m.b m.x

theorem Arr.fieldsOk_of_macroFlaw {a : Arr} {i : Instr} (h : a.macroFlaw i = none) : FieldsOk a.laneW (macroFields i) := by
  obtain ⟨htop, -, -, hover⟩ := Arr.macroFlaw_none h
  unfold overlapCol at hover
  obtain ⟨hleft, hright⟩ := minOpt_eq_none hover
  obtain ⟨hdst, hscratch⟩ := minOpt_eq_none hleft
  exact
    { dstFits := fieldFits_of_topCol htop (by simp)
      resFits := fieldFits_of_topCol htop (by simp)
      dstRes := fieldsApart_of_sharedCol (minOpt_eq_none hdst).2
      dstScratch := fieldsApart_of_sharedCol (minOpt_eq_none hscratch).1
      resScratch := fieldsApart_of_sharedCol (minOpt_eq_none hright).2 }

/-! ### The result of a macro -/

/-- A condition is among `codes` exactly where a row and lane on which the macro acts has raised it (R247). -/
def Arr.Raised (A : Arr) (x : Rows) (codes : BitVec 4) (q : Nat → Nat → Conds) : Prop := ∀ k, k < 4 → (codes.getLsbD k = true ↔
  ∃ r l, r < 32768 ∧ l < A.lanesN ∧ A.acts x r l = true ∧ (q r l).code.getLsbD k = true)
/-- The destination `d` takes the values `val` where the macro acts, its scratch `q` ends at 0, and nothing else has changed (R247). -/
def Arr.Wrote (A : Arr) (x : Rows) (d q : Nat × Nat) (val : Nat → Nat → Nat × Conds) (a : Arr) (codes : BitVec 4) : Prop :=
  A.Raised x codes (fun r l => (val r l).2) ∧ { a with rows := A.rows } = A ∧ ∀ r l, r < 32768 → l < A.lanesN →
    if A.acts x r l = true then a.field r l d.1 d.2 = (val r l).1 % 2 ^ d.2 ∧ ∀ j, j < A.laneW → j < d.1 ∨ d.1 + d.2 ≤ j →
      a.col r l j = if q.1 ≤ j ∧ j < q.1 + q.2 then false else A.col r l j
    else ∀ j, j < A.laneW → a.col r l j = A.col r l j
/-- The value that a macro's element function answers for a row and lane. -/
def Arr.elemOf (A : Arr) (m : MFields) (e : Nat → Nat → Nat → Nat → Nat × Conds) (r l : Nat) : Nat × Conds :=
  e (A.field r l m.d.1 m.d.2) (A.field r l m.a.1 m.a.2) (A.field r l m.b.1 m.b.2) (A.keyOf l m.k)

/-- Column `j` of a lane on which a macro has acted. -/
theorem Arr.runMacro_col (A : Arr) (x : Rows) (m : MFields) (e : Nat → Nat → Nat → Nat → Nat × Conds) {r l j : Nat} (hr : r < 32768)
    (hl : l < A.lanesN) (hj : j < A.laneW) (hacts : A.acts x r l = true) :
    (A.runMacro x m e).1.col r l j = if m.x.1 ≤ j ∧ j < m.x.1 + m.x.2 then false
      else if m.d.1 ≤ j ∧ j < m.d.1 + m.d.2 then (A.elemOf m e r l).1.testBit (j - m.d.1) else A.col r l j := by
  rw [Arr.runMacro, A.runLanes_col x _ hr hl hj, if_pos hacts, testBit_withField, testBit_withField, Nat.zero_testBit, A.testBit_lane hj]
  rfl
theorem Arr.runMacro_wrote (A : Arr) (x : Rows) {m : MFields} (e : Nat → Nat → Nat → Nat → Nat × Conds) (h : FieldsOk A.laneW m) :
    A.Wrote x m.d m.x (A.elemOf m e) (A.runMacro x m e).1 (A.runMacro x m e).2.code := by
  refine ⟨fun k _ => A.runLanes_code_acts x _ k, A.runLanes_rest _ _ _, fun r l hr hl => ?_⟩
  split_ifs with hacts
  · have hcol {j : Nat} (hj : j < A.laneW) := A.runMacro_col x m e hr hl hj hacts
    refine ⟨Arr.field_eq_mod _ ?_ fun j hj => ?_, fun j hj hout => ?_⟩
    · rw [Arr.runMacro, A.runLanes_laneW]
      exact h.dstFits
    · have hfits := h.dstFits
      have hapart := h.dstScratch
      unfold FieldFits at hfits
      unfold FieldsApart at hapart
      rw [hcol (by omega), if_neg (by omega), if_pos (by omega), Nat.add_sub_cancel_left]
    · rw [hcol hj, if_neg (show ¬(m.d.1 ≤ j ∧ j < m.d.1 + m.d.2) by omega)]
  · exact fun j hj => (A.runLanes_col x _ hr hl hj).trans (if_neg hacts)

/-- What ACVT with rnd:ef leaves: the destination `d` and the residue `b` take the values `val` where it acts, its scratch `q` ends at 0,
and nothing else has changed (R94). -/
def Arr.WroteEF (A : Arr) (x : Rows) (d b q : Nat × Nat) (val : Nat → Nat → Nat × Nat × Conds) (a : Arr) (codes : BitVec 4) : Prop :=
  A.Raised x codes (fun r l => (val r l).2.2) ∧ { a with rows := A.rows } = A ∧ ∀ r l, r < 32768 → l < A.lanesN →
    if A.acts x r l = true then a.field r l d.1 d.2 = (val r l).1 % 2 ^ d.2 ∧
      (∀ j, j < b.2 → a.col r l (b.1 + j) = (val r l).2.1.testBit j) ∧
      ∀ j, j < A.laneW → j < d.1 ∨ d.1 + d.2 ≤ j → j < b.1 ∨ b.1 + b.2 ≤ j →
        a.col r l j = if q.1 ≤ j ∧ j < q.1 + q.2 then false else A.col r l j
    else ∀ j, j < A.laneW → a.col r l j = A.col r l j
/-- The result, the residue and the conditions of ACVT with rnd:ef for a row and lane. -/
def Arr.elemEF (A : Arr) (m : MFields) (fd : Fmt) (sat : Bool) (r l : Nat) : Nat × Nat × Conds :=
  convertEF fd sat (A.field r l m.a.1 m.a.2) (A.field r l m.b.1 m.b.2)
theorem Arr.runEF_col (A : Arr) (x : Rows) (m : MFields) (fd : Fmt) (sat : Bool) {r l j : Nat} (hr : r < 32768) (hl : l < A.lanesN)
    (hj : j < A.laneW) (hacts : A.acts x r l = true) :
    (A.runEF x m fd sat).1.col r l j = if m.x.1 ≤ j ∧ j < m.x.1 + m.x.2 then false
      else if m.b.1 ≤ j ∧ j < m.b.1 + m.b.2 then (A.elemEF m fd sat r l).2.1.testBit (j - m.b.1)
      else if m.d.1 ≤ j ∧ j < m.d.1 + m.d.2 then (A.elemEF m fd sat r l).1.testBit (j - m.d.1) else A.col r l j := by
  rw [Arr.runEF, A.runLanes_col x _ hr hl hj, if_pos hacts, testBit_withField, testBit_withField, testBit_withField, Nat.zero_testBit,
    A.testBit_lane hj]
  rfl
theorem Arr.runEF_wrote (A : Arr) (x : Rows) {m : MFields} (fd : Fmt) (sat : Bool) (h : FieldsOk A.laneW m) :
    A.WroteEF x m.d m.b m.x (A.elemEF m fd sat) (A.runEF x m fd sat).1 (A.runEF x m fd sat).2.code := by
  refine ⟨fun k _ => A.runLanes_code_acts x _ k, A.runLanes_rest _ _ _, fun r l hr hl => ?_⟩
  split_ifs with hacts
  · have hcol {j : Nat} (hj : j < A.laneW) := A.runEF_col x m fd sat hr hl hj hacts
    obtain ⟨hdst, hres, hdstRes, hdstScratch, hresScratch⟩ := h
    unfold FieldsApart at hdstRes hdstScratch hresScratch
    refine ⟨Arr.field_eq_mod _ ?_ fun j hj => ?_, fun j hj => ?_, fun j hj houtDst houtRes => ?_⟩
    · rw [Arr.runEF, A.runLanes_laneW]
      exact hdst
    · unfold FieldFits at hdst
      rw [hcol (by omega), if_neg (by omega), if_neg (by omega), if_pos (by omega), Nat.add_sub_cancel_left]
    · unfold FieldFits at hres
      rw [hcol (by omega), if_neg (by omega), if_pos (by omega), Nat.add_sub_cancel_left]
    · rw [hcol hj, if_neg (show ¬(m.b.1 ≤ j ∧ j < m.b.1 + m.b.2) by omega), if_neg (show ¬(m.d.1 ≤ j ∧ j < m.d.1 + m.d.2) by omega)]
  · exact fun j hj => (A.runLanes_col x _ hr hl hj).trans (if_neg hacts)

end Sys2Proof.Machine
end

section
/-! An array instruction that runs through an idle engine in the turn in which it issues: the one request of its cluster is granted, and the
instruction starts, has its effect and retires (R223, R337, R395). -/
namespace Sys2Proof.Machine
variable {s : State}

/-! ### A lone request at a cluster arbiter (R337) -/

/-- Contender `i` of a cluster asks for `u` units that fit, and no other contender asks for any. -/
structure AsksAlone (s : State) (cl i u : Nat) : Prop where
  contender : i < 32
  wants : s.clusterWants cl i = some u
  alone : ∀ j, j < 32 → j ≠ i → s.clusterWants cl j = none
  pri : s.requestPri cl i ≤ 3
  fits : fitsCurrent u (s.cluster cl).heldUnits (s.cluster cl).budget.toNat = true

section
variable {cl i u : Nat} (h : AsksAlone s cl i u)
include h

theorem AsksAlone.eq_of_wants {j : Nat} (hj : j < 32) (hw : (s.clusterWants cl j).isSome = true) : j = i := by
  by_contra hne
  rw [h.alone j hj hne] at hw
  exact Bool.false_ne_true hw
theorem AsksAlone.skippedReqs_eq {j : Nat} (hj : j ∈ s.skippedReqs cl) : j = i := by
  obtain ⟨hmem, hwants⟩ := List.mem_filter.mp hj
  obtain ⟨q, -, rfl⟩ := List.mem_map.mp hmem
  refine h.eq_of_wants ?_ hwants
  have := Bool.toNat_le q.copy
  omega
/-- The arbiter's order names that contender and no other. -/
theorem AsksAlone.reqOrder_eq : ∃ l, s.reqOrder cl = i :: l := by
  have hall : ∀ j ∈ s.reqOrder cl, j = i := fun j hj => by
    obtain ⟨p, -, hp⟩ := List.mem_flatMap.mp hj
    rcases List.mem_append.mp (List.mem_filter.mp hp).1 with hold | hfresh
    · exact h.skippedReqs_eq hold
    · obtain ⟨hmem, hwants⟩ := List.mem_filter.mp hfresh
      obtain ⟨k, -, rfl⟩ := List.mem_map.mp hmem
      exact h.eq_of_wants (Nat.mod_lt _ (by decide)) (Bool.and_eq_true_iff.mp hwants).1
  have hmem : i ∈ s.reqOrder cl := by
    refine List.mem_flatMap.mpr ⟨s.requestPri cl i, ?_, List.mem_filter.mpr ⟨?_, beq_self_eq_true _⟩⟩
    · have := h.pri
      simp only [List.mem_cons, List.not_mem_nil, or_false]
      omega
    · by_cases hold : i ∈ s.skippedReqs cl
      · exact List.mem_append_left _ hold
      · refine List.mem_append_right _ (List.mem_filter.mpr ⟨List.mem_map.mpr ⟨(i + 32 - (s.cluster cl).arbPtr % 32) % 32, ?_, ?_⟩, ?_⟩)
        · exact List.mem_range.mpr (Nat.mod_lt _ (by decide))
        · have := h.contender
          omega
        · rw [h.wants]
          simpa using fun j hj (e : j = i) => hold (e ▸ hj)
  cases hl : s.reqOrder cl with
  | nil => rw [hl] at hmem; cases hmem
  | cons j l =>
    rw [hl] at hall
    obtain rfl := hall j List.mem_cons_self
    exact ⟨l, rfl⟩
theorem AsksAlone.reqWinner : s.reqWinner cl = some i := by
  obtain ⟨l, hl⟩ := h.reqOrder_eq
  rw [State.reqWinner, hl, List.find?_cons, State.wantUnits, h.wants, Option.getD_some, h.fits]
/-- The request is granted, and none waits. -/
theorem AsksAlone.askUnits : s.askUnits cl i = (s.setCluster cl ((s.cluster cl).granted i)).giveUnits cl i u := by
  obtain ⟨l, hl⟩ := h.reqOrder_eq
  have hpassed : (s.reqOrder cl).takeWhile (fun j => j != i) = [] := by
    rw [hl]
    simp
  have hold : (s.skippedReqs cl).filter (fun j => j != i) = [] :=
    List.filter_eq_nil_iff.mpr fun j hj => by simp [h.skippedReqs_eq hj]
  rw [State.askUnits, if_pos h.reqWinner, State.reservationGrant]
  dsimp only
  rw [h.reqWinner]
  dsimp only
  rw [hpassed, hold, State.wantUnits, h.wants]
  have hnone (l : List Nat) : l.find? (fun _ => false) = none := List.find?_eq_none.mpr fun _ _ => Bool.false_ne_true
  simp [Cluster.granted, hnone]
end

/-! ### The engine -/

theorem clusterOf_contender (c : Nat) : 16 * clusterOf c + 2 * (c % 16) / 2 = c := by
  unfold clusterOf
  omega
theorem unsettled_midway (a : Arr) (i : Instr) : ∀ m ∈ (a.midway i).toList, a.unsettled i m = [] := by
  intro m hm
  have hhit : m.hit = [] := by
    unfold Arr.midway at hm
    cases hw : a.writesOver i with
    | none => simp [hw] at hm
    | some p =>
      simp only [hw, Option.map_some, Option.toList_some, List.mem_singleton] at hm
      rw [hm]
  unfold Arr.unsettled
  rw [hhit]
  cases i <;> rfl
/-- A scalar result, where an array instruction has one (R195). -/
def State.giveResult (s : State) (c : Nat) (res : Option (Reg × Word)) : State :=
  match res with
  | some p => s.updHart (.far c) fun x => x.setReg p.1 p.2
  | none => s
section
variable (c : Nat) (res : Option (Reg × Word))

@[simp] theorem State.giveResult_far (k : Nat) : (s.giveResult c res).far k = s.far k := by cases res <;> rfl
@[simp] theorem State.giveResult_cluster (k : Nat) : (s.giveResult c res).cluster k = s.cluster k := by cases res <;> rfl
theorem State.giveResult_hart : (s.giveResult c res).hart (.far c) = (s.hart (.far c)).setReg (res.getD (0, 0)).1 (res.getD (0, 0)).2 := by
  cases res with
  | none => rfl
  | some p => exact State.setHart_hart _ _ _
theorem State.giveResult_hart_other {k : Nat} (hk : k ≠ agentKey (.far c)) :
    mget hartDefault (s.giveResult c res).harts k = mget hartDefault s.harts k := by
  cases res with
  | none => rfl
  | some p => exact mget_mput_other _ _ _ _ _ hk
end

/-- The effect of an instruction whose fields no other agent has written since it started. -/
theorem arrayEffect_settled {c : Nat} {o : ArrOp} (h : ∀ m ∈ (s.far c).mid.toList, (s.far c).arr.unsettled o.instr m = []) :
    s.arrayEffect c o = (s.setFar c { s.far c with
      arr := ((s.far c).arr.effect o).arr, mid := none
      aflags := (s.far c).aflags ||| ((s.far c).arr.effect o).conds.code }).giveResult c ((s.far c).arr.effect o).res := by
  have hfree : (s.far c).mid.toList.flatMap (fun m => (s.far c).arr.unsettled o.instr m) = [] := List.flatMap_eq_nil_iff.mpr h
  unfold State.arrayEffect
  dsimp only
  rw [hfree]
  cases (s.far c).mid <;> cases ((s.far c).arr.effect o).res <;> rfl

section
variable {c : Nat}

theorem arrayAsk_alone {u : Nat} (h : AsksAlone s (clusterOf c) (2 * (c % 16)) u) :
    s.arrayAsk c = (s.setCluster (clusterOf c) { ((s.cluster (clusterOf c)).granted (2 * (c % 16))) with
      heldUnits := (s.cluster (clusterOf c)).heldUnits + u }).setFar c { s.far c with aheld := u } := by
  have heven : 2 * (c % 16) % 2 = 0 := by omega
  rw [State.arrayAsk, h.askUnits]
  unfold State.giveUnits
  simp only [clusterOf_contender, heven, ↓reduceIte, State.updCluster_eq, State.updFar_eq, State.setCluster_cluster, State.setCluster_far_at]
  simp [State.setCluster, Cluster.granted]
theorem arrayStart_held {o : ArrOp} {q : List ArrOp} (hrun : (s.far c).arun = none) (hq : (s.far c).aq = o :: q) (hheld : (s.far c).aheld ≠ 0) :
    s.arrayStart c = s.setFar c { s.far c with aq := q, arun := some o, mid := (s.far c).arr.midway o.instr, acol := 0, xcol := [] } := by
  unfold State.arrayStart
  simp only [hrun, hq, if_neg hheld]
/-- The last instruction leaves the engine, and its units are given back. -/
theorem arrayLeave_last (o : ArrOp) (hq : (s.far c).aq = []) :
    s.arrayLeave c o = (s.setFar c { s.far c with arun := none, acol := 0, xcol := [], aheld := 0 }).setCluster (clusterOf c)
      { s.cluster (clusterOf c) with heldUnits := (s.cluster (clusterOf c)).heldUnits - (s.far c).aheld } := by
  unfold State.arrayLeave
  simp only [State.updFar_eq, hq, Bool.and_false, Bool.false_eq_true, ↓reduceIte]
  unfold State.arrayRelease
  simp only [State.updFar_eq, State.updCluster_eq, State.setFar_far, State.setFar_cluster_at, State.setCluster_far_at]
  simp [State.setFar, State.setCluster]
theorem arrayRetire_whole {o : ArrOp} (hrun : (s.far c).arun = some o) (hcol : (s.far c).acol = 0) (hw : wholeOf o 0 = true)
    (hn : arraySteps o.instr ≤ 2048) : s.arrayRetire c 2048 = (s.arrayEffect c o).arrayLeave c o := by
  unfold State.arrayRetire
  simp only [hrun, hcol, hw, hn, and_self, ↓reduceIte]
end

/-- An array instruction with the effect `e` has run through the engine of core `c` from start to retirement: the array, the sticky flags, the
scalar result and the arbiter's pointer have changed, and nothing else (R223, R337). -/
structure EngineRan (s t : State) (c : Nat) (e : ArrDone) : Prop where
  far : t.far c = (s.far c).ran e.arr e.conds.code
  fars : ∀ k, k ≠ c → t.far k = s.far k
  hart : t.hart (.far c) = (s.hart (.far c)).setReg (e.res.getD (0, 0)).1 (e.res.getD (0, 0)).2
  harts : ∀ k, k ≠ agentKey (.far c) → mget hartDefault t.harts k = mget hartDefault s.harts k
  clusters : ∀ k, t.cluster k = if k = clusterOf c then (s.cluster k).granted (2 * (c % 16)) else s.cluster k
  rest : { t with harts := s.harts, fars := s.fars, clusters := s.clusters } = s

/-- An instruction that enters an empty engine and whose request is alone runs to its end. -/
theorem arrayDrain_alone {c u : Nat} {o : ArrOp} (n : Nat)
    (hask : AsksAlone (s.setFar c { s.far c with aq := [o] }) (clusterOf c) (2 * (c % 16)) u) (hu : u ≠ 0)
    (hq : (s.far c).aq = []) (hrun : (s.far c).arun = none) (hheld : (s.far c).aheld = 0)
    (hw : wholeOf o 0 = true) (hn : arraySteps o.instr ≤ 2048) :
    EngineRan s ((s.setFar c { s.far c with aq := [o] }).arrayDrain c (n + 2)) c ((s.far c).arr.effect o) := by
  have hone : (s.setFar c { s.far c with aq := [o] }).arrayDrain c (n + 2) =
      ((((s.setFar c { s.far c with aq := [o] }).arrayAsk c).arrayStart c).arrayRetire c 2048).arrayDrain c (n + 1) := by
    rw [State.arrayDrain, if_neg (by simp)]
  rw [hone, arrayAsk_alone hask, arrayStart_held (o := o) (q := []) (by simpa using hrun) (by simp) (by simpa using hu),
    arrayRetire_whole (o := o) (by simp) (by simp) hw hn, arrayEffect_settled (by simpa using unsettled_midway _ _),
    arrayLeave_last o (by simp), arrayDrain_idle (by simp [State.arrayIdle])]
  simp only [State.setFar_far, State.setFar_setFar, State.setFar_cluster_at, State.giveResult_far, State.giveResult_cluster]
  constructor
  case far => simp [Far.ran, hq, hrun, hheld]
  case fars =>
    intro k hk
    simp [hk]
  case hart => simp [State.giveResult_hart]
  case harts =>
    intro k hk
    simp [State.giveResult_hart_other _ _ hk]
  case clusters =>
    intro k
    split_ifs with hk
    · subst hk
      simp [Cluster.granted]
    · simp [hk]
  case rest => cases ((s.far c).arr.effect o).res <;> simp [State.giveResult]

/-! ### The turn of the issuing core -/

/-- The permit is used and the PC moves on: of the module only the hart of the core changes. -/
theorem permitUse_advance_far (u : State) (c n : Nat) (x : Option Word) : ∃ p q y z,
    (u.permitUse (.far c) n).advance (.far c) x =
      u.setHart (.far c) { ((u.hart (.far c)).moveOn x) with macroP := p, passP := q, tableP := y, memP := z } := by
  unfold State.permitUse State.advance
  cases permitClass n with
  | none => exact ⟨_, _, _, _, rfl⟩
  | some k =>
    refine ⟨((u.permitTake (.far c) k).hart (.far c)).macroP, ((u.permitTake (.far c) k).hart (.far c)).passP,
      ((u.permitTake (.far c) k).hart (.far c)).tableP, ((u.permitTake (.far c) k).hart (.far c)).memP, ?_⟩
    cases k <;> simp only [State.permitTake, holdsPermits, ↓reduceIte, State.updHart_eq, State.setHart_hart, State.setHart_setHart] <;> rfl
/-- After a register result, a permit and the PC: what the instruction leaves of its agent. -/
theorem hartDone_of_setReg {u : State} {a : Agent} {d : Reg} {v : Word} (h : u.hart a = (s.hart a).setReg d v)
    (hrest : ∀ k, k ≠ agentKey a → mget hartDefault u.harts k = mget hartDefault s.harts k) (p q y z : Permit) :
    HartDone a s (u.setHart a { ((u.hart a).moveOn none) with macroP := p, passP := q, tableP := y, memP := z }) d v (s.hart a).nextPc := by
  unfold HartDone
  dsimp only
  rw [State.setHart_hart, h]
  refine ⟨⟨?_, fun r hr => ?_⟩, ?_, rfl, ?_, fun k hk => (mget_mput_other _ _ _ _ _ hk).trans (hrest k hk)⟩
  · refine (Hart.setReg_reg (s.hart a) d d v).trans ?_
    by_cases hd : d = 0
    · rw [if_neg (fun e => e.2 hd), if_pos hd, hd, Hart.reg_zero]
    · rw [if_pos ⟨rfl, hd⟩, if_neg hd]
  · exact (Hart.setReg_reg (s.hart a) d r v).trans (if_neg fun e => hr e.1)
  · unfold Hart.setReg
    split <;> rfl
  · unfold HartRest Hart.setReg
    split <;> rfl
theorem arraySteps_le (i : Instr) : arraySteps i ≤ 2048 := by
  unfold arraySteps
  split
  case h_5 =>
    rename_i m1 n1 _ _ _ _
    have := Nat.mul_le_mul (Nat.succ_le_of_lt n1.isLt) (Nat.succ_le_of_lt m1.isLt)
    omega
  all_goals omega
theorem arrayUnits_ne_zero (l : LaneMode) (i : Instr) : arrayUnits l i ≠ 0 := by
  unfold arrayUnits
  cases l <;> dsimp only <;> repeat' split
  all_goals decide

section
variable {c : Nat} {i : Instr} (h : ArrayTurn s c i)
include h

/-- Once the instruction is in the queue, its core's engine asks alone. -/
theorem ArrayTurn.asksAlone (v : List Word) : AsksAlone (s.setFar c { s.far c with aq := [arrayOp i v] }) (clusterOf c) (2 * (c % 16))
    (arrayUnits (s.far c).arr.lanes i) where
  contender := by omega
  wants := by
    have heven : 2 * (c % 16) % 2 = 0 := by omega
    rw [State.clusterWants, clusterOf_contender]
    simp [heven, Far.arrayWants, h.engine, h.held, arrayOp]
  alone j hj hne := by
    rw [← h.alone j hj hne]
    unfold State.clusterWants
    dsimp only
    by_cases hcore : 16 * clusterOf c + j / 2 = c
    · have hodd : j % 2 ≠ 0 := by
        unfold clusterOf at hcore
        omega
      rw [if_neg hodd, if_neg hodd, hcore, State.setFar_far]
      rfl
    · rw [State.setFar_far_other _ _ _ _ hcore]
  pri := by
    have hpri := h.pri
    unfold State.requestPri at hpri ⊢
    rw [clusterOf_contender] at hpri ⊢
    simpa using hpri
  fits := h.current
/-- An array instruction that acts on its own array has its whole effect `e` in its turn. -/
theorem ArrayTurn.runs (hx : exec i s = arrayIssue i s) (hw : ∀ v, wholeOf (arrayOp i v) 0 = true) {e : ArrDone}
    (he : (s.far c).arr.effect (arrayOp i (i.reads.map (s.reg (.far c)))) = e) :
    ∃ t, exec i s = .next t ∧ ArrayDone c s t e.arr e.conds.code (e.res.getD (0, 0)).1 (e.res.getD (0, 0)).2 := by
  have hview : (s.far c).arrView = (s.far c).arr := by simp [Far.arrView, h.engine, h.queue]
  have hfirst : s.windowsFirst (.far c) c i = .ok () s := by rw [State.windowsFirst, if_neg (by simp [h.windows])]
  have hran := arrayDrain_alone 2 (h.asksAlone (i.reads.map (s.reg (.far c)))) (arrayUnits_ne_zero _ _) h.queue h.engine h.held (hw _)
    (arraySteps_le i)
  generalize hu : (s.setFar c { s.far c with aq := [arrayOp i (i.reads.map (s.reg (.far c)))] }).arrayDrain c (2 + 2) = u at hran
  rw [he] at hran
  obtain ⟨hfar, hfars, hhart, hharts, hclusters, hrest⟩ := hran
  have hremotes : u.remotes = s.remotes := by
    have := congrArg State.remotes hrest
    exact this
  have hperform : exec i s = .next ((u.permitUse (.far c) i.major).advance (.far c) none) := by
    rw [hx]
    refine congrArg Host.Outcome.next ((h.issues.perform (x := none) (u := u) ?_ hremotes).trans ?_)
    · rw [h.turn]
      dsimp only
      rw [hview, h.fields, h.ring, hfirst, ← hu]
      simp [Res.bind, h.queue, h.whole]
    · rw [h.turn]
  obtain ⟨p, q, y, z, hadvance⟩ := permitUse_advance_far u c i.major none
  refine ⟨_, hperform, ?_⟩
  rw [hadvance]
  refine ⟨hfar, hfars, hartDone_of_setReg hhart hharts p q y z, hclusters, ?_⟩
  exact congrArg (fun t : State => { t with ticks := s.ticks }) hrest
end

end Sys2Proof.Machine
end

section
/-! Array macros on number formats (R80 to R94, R247, R249 to R263): each macro's element function, fields and scratch, and the settling of
NumberMacros. -/
namespace Sys2Proof.Machine

/-! ### A macro that issues -/

section
variable {s : State} {c : Nat} {i : Instr} {x : Rows}

theorem ArrayTurn.macroFlaw_none (h : ArrayTurn s c i) (hm : isMacro i = true) : (s.far c).arr.macroFlaw i = none := by
  have hfields := h.fields
  rwa [Arr.fieldSpec, if_pos hm] at hfields
theorem wholeOf_of_isMacro (hm : isMacro i = true) (v : List Word) : wholeOf (arrayOp i v) 0 = true := by
  cases i with
  | xrow => cases hm
  | _ => rfl
/-- A macro whose element function gives the values `val` writes them into its destination `d`, with scratch `q`. -/
theorem arrayRuns_wrote {e : Nat → Nat → Nat → Nat → Nat × Conds} {d q : Nat × Nat} {val : Nat → Nat → Nat × Conds}
    (hx : exec i s = arrayIssue i s) (hm : isMacro i = true)
    (he : ∀ v, (s.far c).arr.effect (arrayOp i v) = ofMacro ((s.far c).arr.runMacro x (macroFields i) e))
    (hd : (macroFields i).d = d) (hq : (macroFields i).x = q) (hval : ∀ r l, (s.far c).arr.elemOf (macroFields i) e r l = val r l) :
    ArrayRuns s c i 0 0 ((s.far c).arr.Wrote x d q val) := by
  intro h
  obtain ⟨t, hnext, hdone⟩ := h.runs hx (wholeOf_of_isMacro hm) (he _)
  have hwrote := (s.far c).arr.runMacro_wrote x e (Arr.fieldsOk_of_macroFlaw (h.macroFlaw_none hm))
  rw [hd, hq, funext₂ hval] at hwrote
  exact ⟨t, _, _, hnext, hdone, hwrote⟩
/-- ACVT with rnd:ef writes its result and its residue (R94). -/
theorem acvt_ef_wrote {dc ac bc xc : Col} {f g : Fmt} {sat : Bool} :
    ArrayRuns s c (.acvt x dc ac bc xc f g .ef sat) 0 0 ((s.far c).arr.WroteEF x (dc.toNat, g.width) (bc.toNat, 32) (xc.toNat, 64)
      fun r l => convertEF g sat ((s.far c).arr.field r l ac.toNat f.width) ((s.far c).arr.field r l bc.toNat 32)) := by
  intro h
  obtain ⟨t, hnext, hdone⟩ := h.runs rfl (wholeOf_of_isMacro rfl)
    (e := ofMacro ((s.far c).arr.runEF x (macroFields (.acvt x dc ac bc xc f g .ef sat)) g sat)) rfl
  exact ⟨t, _, _, hnext, hdone, (s.far c).arr.runEF_wrote x g sat (Arr.fieldsOk_of_macroFlaw (h.macroFlaw_none rfl))⟩
end

/-! ### Element functions, key operands and scratch of number formats -/

/-- An exact value rounded once, with its conditions: invalid where the value is, or where what it was computed from was (R80, R82). -/
def rounded (f : Fmt) (rnd : Rnd) (sat bad : Bool) (v : XVal × Bool) : Nat × Conds :=
  ((roundF v.1 rnd f sat).1, (roundF v.1 rnd f sat).2.or (Conds.invalid (bad || v.2)))
/-- The scratch columns of a sum of a number format (R264). -/
def numberScratch (f : Fmt) : Nat := if f = .fp32 then 64 else 32

theorem fmaScratch_eq_two_mul (f : Fmt) : fmaScratch f = 2 * numberScratch f := by
  unfold fmaScratch numberScratch
  split_ifs <;> rfl
/-- A key operand as columns of the key register (R250). -/
theorem Arr.keyOf_eq (A : Arr) (l k n : Nat) : A.keyOf l (k, n) = A.ky.toNat / 2 ^ (l * A.laneW + k) % 2 ^ n := by
  rw [Arr.keyOf, fieldOf, Nat.div_div_eq_div_mul, ← Nat.pow_add]

section
variable {f : Fmt} (hf : f.isInt = false)
include hf

theorem addElem_eq_rounded (rnd : Rnd) (sat sub : Bool) (p q : Nat) : addElem f rnd sat sub p q =
    rounded f rnd sat false (xadd rnd (decodeElem f p) (if sub then (decodeElem f q).neg else decodeElem f q)) := by
  rw [addElem, if_neg (by simp [hf]), rounded, Bool.false_or]
theorem mulElem_eq_rounded (rnd : Rnd) (sat : Bool) (p q : Nat) : mulElem f rnd sat p q =
    rounded f rnd sat false (xmul (decodeElem f p) (decodeElem f q)) := by
  rw [mulElem, if_neg (by simp [hf]), rounded, Bool.false_or]
theorem addScratch_eq : addScratch f = numberScratch f := if_neg (by simp [hf])
theorem mulScratch_eq_two_mul : mulScratch f = 2 * numberScratch f := by
  rw [mulScratch, if_neg (by simp [hf]), fmaScratch_eq_two_mul]
/-- The scratch columns of AMAC. -/
theorem macScratch_eq : (if f = .i4 then 18 else if f.isInt then 34 else 40) = 40 := by
  have hne : f ≠ .i4 := fun e => by simp [e, Fmt.isInt] at hf
  rw [if_neg hne, if_neg (by simp [hf])]
end

/-! ### Each macro: the values that it writes, rounded once (R249 to R263) -/

section
variable {s : State} {c : Nat} {x : Rows} {dc ac bc xc : Col} {f g : Fmt} {rnd : Rnd} {sat : Bool}

theorem aadd_wrote (hf : f.isInt = false) : let A := (s.far c).arr
    ArrayRuns s c (.aadd x dc ac xc f rnd sat) 0 0 (A.Wrote x (dc.toNat, f.width) (xc.toNat, numberScratch f) fun r l =>
      rounded f rnd sat false (xadd rnd (decodeElem f (A.field r l dc.toNat f.width)) (decodeElem f (A.field r l ac.toNat f.width)))) :=
  arrayRuns_wrote (e := fun d p _ _ => addElem f rnd sat false d p) rfl rfl (fun _ => rfl) rfl (by rw [macroFields, addScratch_eq hf])
    fun _ _ => addElem_eq_rounded hf rnd sat false _ _
theorem asub_wrote (hf : f.isInt = false) : let A := (s.far c).arr
    ArrayRuns s c (.asub x dc ac xc f rnd sat) 0 0 (A.Wrote x (dc.toNat, f.width) (xc.toNat, numberScratch f) fun r l =>
      rounded f rnd sat false (xadd rnd (decodeElem f (A.field r l dc.toNat f.width)) (decodeElem f (A.field r l ac.toNat f.width)).neg)) :=
  arrayRuns_wrote (e := fun d p _ _ => addElem f rnd sat true d p) rfl rfl (fun _ => rfl) rfl (by rw [macroFields, addScratch_eq hf])
    fun _ _ => addElem_eq_rounded hf rnd sat true _ _
theorem amul_wrote (hf : f.isInt = false) : let A := (s.far c).arr
    ArrayRuns s c (.amul x dc ac bc xc f rnd sat) 0 0 (A.Wrote x (dc.toNat, f.width) (xc.toNat, 2 * numberScratch f) fun r l =>
      rounded f rnd sat false (xmul (decodeElem f (A.field r l ac.toNat f.width)) (decodeElem f (A.field r l bc.toNat f.width)))) :=
  arrayRuns_wrote (e := fun _ p q _ => mulElem f rnd sat p q) rfl rfl (fun _ => rfl) (by simp [macroFields, hf])
    (by rw [macroFields, mulScratch_eq_two_mul hf]) fun _ _ => mulElem_eq_rounded hf ..
theorem amulk_wrote (hf : f.isInt = false) : let A := (s.far c).arr
    ArrayRuns s c (.amulk x dc ac bc xc f rnd sat) 0 0 (A.Wrote x (dc.toNat, f.width) (xc.toNat, 2 * numberScratch f) fun r l =>
      rounded f rnd sat false (xmul (decodeElem f (A.field r l ac.toNat f.width))
        (decodeElem f (A.ky.toNat / 2 ^ (l * A.laneW + bc.toNat) % 2 ^ f.width)))) :=
  arrayRuns_wrote (e := fun _ p _ k => mulElem f rnd sat p k) rfl rfl (fun _ => rfl) (by simp [macroFields, hf])
    (by rw [macroFields, mulScratch_eq_two_mul hf]) fun r l => by
      rw [← Arr.keyOf_eq]
      exact mulElem_eq_rounded hf ..
theorem afma_wrote : let A := (s.far c).arr
    ArrayRuns s c (.afma x dc ac bc xc f rnd sat) 0 0 (A.Wrote x (dc.toNat, f.width) (xc.toNat, 2 * numberScratch f) fun r l =>
      fmaElem f f f rnd sat (A.field r l ac.toNat f.width) (A.field r l bc.toNat f.width) (A.field r l dc.toNat f.width)) :=
  arrayRuns_wrote (e := fun d p q _ => fmaElem f f f rnd sat p q d) rfl rfl (fun _ => rfl) rfl (by rw [macroFields, fmaScratch_eq_two_mul])
    fun _ _ => rfl
theorem amac_wrote (hf : f.isInt = false) : let A := (s.far c).arr
    ArrayRuns s c (.amac x dc ac bc xc f g rnd sat) 0 0 (A.Wrote x (dc.toNat, 32) (xc.toNat, 40) fun r l =>
      fmaElem f g .fp32 rnd sat (A.field r l ac.toNat f.width) (A.field r l bc.toNat g.width) (A.field r l dc.toNat 32)) :=
  arrayRuns_wrote (e := fun d p q _ => macElem f g rnd sat d p q) rfl rfl (fun _ => rfl) rfl (by rw [macroFields, macScratch_eq hf])
    fun _ _ => if_neg (by simp [hf])
theorem amack_wrote {wa : BitVec 2} (hf : f.carrySave = false) : let A := (s.far c).arr
    ArrayRuns s c (.amack x dc ac bc xc f g rnd sat wa) 0 0 (A.Wrote x (dc.toNat, 32) (xc.toNat, 40) fun r l =>
      fmaElem f g .fp32 rnd sat (A.field r l ac.toNat f.width) (A.ky.toNat / 2 ^ (l * A.laneW + bc.toNat) % 2 ^ g.width)
        (A.field r l dc.toNat 32)) :=
  arrayRuns_wrote (e := fun d p _ k => mackElem f g rnd sat (waOf wa) d p k) rfl rfl (fun _ => rfl) (by simp [macroFields, accWidth, hf])
    (by simp [macroFields, accScratch, hf]) fun r l => by
      rw [← Arr.keyOf_eq]
      simp [Arr.elemOf, macroFields, accWidth, mackElem, hf]
theorem amack_carrySave_wrote {wa : BitVec 2} (hf : f.carrySave = true) : let A := (s.far c).arr
    ArrayRuns s c (.amack x dc ac bc xc f g rnd sat wa) 0 0 (A.Wrote x (dc.toNat, accWidth f wa) (xc.toNat, 0) fun r l =>
      (macCarry f (waOf wa) (A.field r l dc.toNat (accWidth f wa)) (A.field r l ac.toNat f.width)
        (A.ky.toNat / 2 ^ (l * A.laneW + bc.toNat) % 2 ^ g.width), {})) :=
  arrayRuns_wrote (e := fun d p _ k => mackElem f g rnd sat (waOf wa) d p k) rfl rfl (fun _ => rfl) rfl
    (by simp [macroFields, accScratch, hf]) fun r l => by
      rw [← Arr.keyOf_eq]
      exact if_pos hf
theorem acvt_wrote (hrnd : rnd ≠ .ef) : let A := (s.far c).arr
    ArrayRuns s c (.acvt x dc ac bc xc f g rnd sat) 0 0 (A.Wrote x (dc.toNat, g.width) (xc.toNat, 32) fun r l =>
      cvtElem f g rnd sat (A.field r l ac.toNat f.width)) :=
  arrayRuns_wrote (e := fun _ p _ _ => cvtElem f g rnd sat p) rfl rfl (fun _ => if_neg hrnd) rfl (by simp [macroFields, hrnd]) fun _ _ => rfl
theorem aminmax_wrote {mx : Bool} {y : FmtRnd} : let A := (s.far c).arr
    ArrayRuns s c (.aminmax mx x dc ac xc y) 0 0 (A.Wrote x (dc.toNat, y.fmt.width) (xc.toNat, 2) fun r l =>
      (pickElem mx y.fmt (A.field r l dc.toNat y.fmt.width) (A.field r l ac.toNat y.fmt.width), {})) :=
  arrayRuns_wrote (e := fun d p _ _ => (pickElem mx y.fmt d p, {})) rfl rfl (fun _ => rfl) rfl rfl fun _ _ => rfl
theorem aqdec_wrote {y : Rounding} : let A := (s.far c).arr
    ArrayRuns s c (.aqdec x dc ac bc xc f g y) 0 0 (A.Wrote x (dc.toNat, g.width) (xc.toNat, 48) fun r l =>
      qdecElem g (A.field r l ac.toNat 4) (A.field r l bc.toNat 16) (A.ky.toNat / 2 ^ (l * A.laneW) % 2 ^ 32)) :=
  arrayRuns_wrote (e := fun _ p q k => qdecElem g p q k) rfl rfl (fun _ => rfl) rfl rfl fun _ l =>
    congrArg (qdecElem g _ _) (Arr.keyOf_eq _ l 0 32)
theorem aspmac_wrote {y : Rounding} {wa : BitVec 2} {s0 m1 : BitVec 6} : let A := (s.far c).arr
    ArrayRuns s c (.aspmac x dc ac s0 wa m1 xc f g y) 0 0 (A.Wrote x (dc.toNat, accWidth f wa) (xc.toNat, accScratch f) fun r l =>
      A.spElem f g y.rnd y.sat (waOf wa) s0.toNat (m1.toNat + 1) (A.field r l dc.toNat (accWidth f wa))
        (A.field r l ac.toNat ((m1.toNat + 1) * f.width))) :=
  arrayRuns_wrote (e := fun d p _ _ => (s.far c).arr.spElem f g y.rnd y.sat (waOf wa) s0.toNat (m1.toNat + 1) d p) rfl rfl (fun _ => rfl) rfl rfl
    fun _ _ => rfl
end

/-- Settles O41, macro by macro. -/
theorem numberMacros : Obligations.NumberMacros := by
  unfold Obligations.NumberMacros
  intro s c x dc ac bc xc f g rnd sat mx wa s0 m1
  exact ⟨fun hf => ⟨aadd_wrote hf, asub_wrote hf, amul_wrote hf, amulk_wrote hf, afma_wrote, amac_wrote hf⟩, amack_wrote, amack_carrySave_wrote,
    acvt_wrote, acvt_ef_wrote, aminmax_wrote, aqdec_wrote, aspmac_wrote⟩

end Sys2Proof.Machine
end

section
/-! What an instruction leaves of its agent where its own effect has changed more than a register: its permit, its register result and the
advance of the PC (R183, R336, R397); and a waiting instruction that runs again (R336). -/
namespace Sys2Proof.Machine
variable {s u : State} {i : Instr}

/-! ### Operations lost in flight on the register that is written (R128) -/

theorem lostDest_of_dest_none (h : i.dest = none) (u : State) (a : Agent) : u.lostDest a i = false := by
  simp [State.lostDest, Remote.lostAs, h]
theorem lostDest_congr (h : u.remotes = s.remotes) (a : Agent) (i : Instr) : u.lostDest a i = s.lostDest a i := by
  unfold State.lostDest
  rw [h]
theorem overwrites_of_not_lostDest {a : Agent} (h : u.lostDest a i = false) : u.overwrites a i = u :=
  if_neg (by simp [h])

/-! ### The frame of an instruction -/

/-- An instruction that issues and whose own effect answers a target, whatever else that effect has changed. -/
theorem Issues.perform_ok (h : Issues s i) {body : Agent → State → Res (Option Word)} {x : Option Word} (hb : body s.focus s = .ok x u)
    (hl : u.lostDest s.focus i = false) : s.perform i body = (u.permitUse s.focus i.major).advance s.focus x := by
  have hover : (u.permitUse s.focus i.major).overwrites s.focus i = u.permitUse s.focus i.major :=
    overwrites_of_not_lostDest ((lostDest_congr (permitUse_remotes ..) ..).trans hl)
  unfold State.perform
  simp [h.gate, h.fresh, h.permitReady, hb, hover]
theorem Issues.wait_none (h : Issues s i) : (s.hart s.focus).wait = none := by
  have hfresh := h.fresh
  unfold Hart.begun at hfresh
  simpa using (Bool.or_eq_false_iff.mp hfresh).1

section
variable (h : Resumes s i)
include h

theorem Resumes.gate : s.gate s.focus i = .ok () s := by
  have hpriv : (needsS i.major && !(s.hart s.focus).priv) = false := by
    cases hneeds : needsS i.major with
    | false => rfl
    | true => simp [h.privileged hneeds]
  simp [State.gate, h.profile, hpriv, h.ready, h.whole]
theorem Resumes.begun : (s.hart s.focus).begun = true := by simp [Hart.begun, h.waiting]
/-- A waiting instruction that comes to its end uses no second permit. -/
theorem Resumes.perform_ok {body : Agent → State → Res (Option Word)} {x : Option Word} (hb : body s.focus s = .ok x u)
    (hl : u.lostDest s.focus i = false) : s.perform i body = u.advance s.focus x := by
  unfold State.perform
  simp [h.gate, h.begun, hb, overwrites_of_not_lostDest hl]
theorem Resumes.perform_trap {body : Agent → State → Res (Option Word)} {x : Trap} (hb : body s.focus s = .trap x u) :
    s.perform i body = u.takeTrap s.focus x := by
  unfold State.perform
  simp [h.gate, h.begun, hb]
theorem Resumes.perform_wait {body : Agent → State → Res (Option Word)} (hb : body s.focus s = .wait u) : s.perform i body = u := by
  unfold State.perform
  simp [h.gate, h.begun, hb]
end

/-! ### Permits (R397, R422) -/

theorem permitUse_of_no_class {n : Nat} (h : permitClass n = none) (u : State) (a : Agent) : u.permitUse a n = u := by
  unfold State.permitUse
  rw [h]
theorem permitUse_hub (u : State) (k n : Nat) : u.permitUse (.hub k) n = u := by
  unfold State.permitUse
  cases permitClass n <;> rfl
/-- A permit of a near context changes counters of its unit and nothing else. -/
theorem permitUse_near_rest (u : State) (k c n : Nat) : { u.permitUse (.near k c) n with units := u.units } = u := by
  unfold State.permitUse
  cases permitClass n with
  | none => rfl
  | some x => cases x <;> rfl
theorem permitUse_near_unit (u : State) (k c n j : Nat) :
    { (u.permitUse (.near k c) n).unit j with memP := (u.unit j).memP, tableP := (u.unit j).tableP } = u.unit j := by
  have hset : ∀ v : NearUnit, { v with memP := (u.unit k).memP, tableP := (u.unit k).tableP } = u.unit k →
      { (u.setUnit k v).unit j with memP := (u.unit j).memP, tableP := (u.unit j).tableP } = u.unit j := by
    intro v hv
    by_cases hj : j = k
    · rw [hj, State.setUnit_unit, hv]
    · rw [State.setUnit_unit_other _ _ _ _ hj]
  unfold State.permitUse
  cases permitClass n with
  | none => rfl
  | some x =>
    cases x with
    | arrayMacro | arrayPass => rfl
    | table | memory => exact hset _ rfl
/-- A memory instruction has used one permit of its class once its PC has moved on. -/
theorem spent_memory {n : Nat} (h : permitClass n = some .memory) (u : State) (a : Agent) (x : Option Word) :
    Spent a u ((u.permitUse a n).advance a x) .memory := by
  intro ha
  unfold State.permitUse
  rw [h]
  simp only [ha, if_true]
  cases a with
  | far c => simp [State.permitTake, State.permitCount, State.advance, Hart.moveOn, Permit.take]
  | near k c => simp [State.permitTake, State.permitCount, State.advance, Permit.take]
  | hub k => exact absurd ha Bool.false_ne_true

/-! ### A register result and nothing else, and addresses -/

/-- An address without an index (R267). -/
theorem effAddr_zero {len : Nat} (base : Word) (imm : BitVec len) : effAddr base imm 0 = base + imm.signExtend 64 := BitVec.add_zero _

/-- The whole effect of an instruction that has written a register, used a permit where its class has one, and moved the PC on. -/
theorem memDone_write (u : State) (a : Agent) (d : Reg) (v : Word) (n : Nat) :
    MemDone a u (((u.write a d v).permitUse a n).advance a none) d v (u.hart a).nextPc := by
  have hhart : (u.write a d v).hart a = (u.hart a).setReg d v := State.setHart_hart ..
  have hothers : ∀ k, k ≠ agentKey a → mget hartDefault (u.write a d v).harts k = mget hartDefault u.harts k :=
    fun k hk => mget_mput_other _ _ _ _ _ hk
  cases a with
  | far c =>
    obtain ⟨p, q, y, z, he⟩ := permitUse_advance_far (u.write (.far c) d v) c n none
    rw [he]
    exact ⟨hartDone_of_setReg hhart hothers p q y z, rfl, fun _ => rfl, fun _ => rfl⟩
  | hub k =>
    rw [permitUse_hub]
    exact ⟨hartDone_of_setReg hhart hothers _ _ _ _, rfl, fun _ => rfl, fun _ => rfl⟩
  | near k c =>
    have hrest := permitUse_near_rest (u.write (.near k c) d v) k c n
    have hharts : ((u.write (.near k c) d v).permitUse (.near k c) n).harts = (u.write (.near k c) d v).harts :=
      (congrArg State.harts hrest :)
    refine ⟨hartDone_of_setReg ?_ ?_ _ _ _ _, ?_, permitUse_near_unit (u.write (.near k c) d v) k c n, fun x => ?_⟩
    · unfold State.hart
      rw [hharts]
      exact hhart
    · rw [hharts]
      exact hothers
    · exact congrArg (fun t : State => { t with harts := u.harts }) hrest
    · exact (congrArg (fun t : State => memByte t.mem x) hrest :)
/-- The advance of the PC alone, seen with the focus on the agent. -/
theorem advance_regDone_focus (u : State) (a : Agent) :
    RegDone { u with focus := a } { u.advance a none with focus := a } 0 0 (u.hart a).nextPc := by
  have hwrite : (({ u with focus := a } : State).write a 0 0).advance a none = { u.advance a none with focus := a } := by
    simp only [State.write, State.advance, State.updHart_eq, Hart.setReg_zero, State.setHart_hart, State.setHart_setHart]
    rfl
  have hdone := advance_regDone { u with focus := a } 0 0 none
  rw [hwrite] at hdone
  exact hdone

/-! ### An instruction's whole turn, by what its own effect answers -/

/-- An instruction that issues and whose own effect ends in a register result. -/
theorem Issues.writes {r : State} (h : Issues s i) {body : Agent → State → Res (Option Word)} {d : Reg} {v : Word}
    (hx : exec i s = run i s body) (hb : body s.focus s = .ok none (r.write s.focus d v)) (hl : r.lostDest s.focus i = false) :
    ∃ t, exec i s = .next t ∧ MemDone s.focus r t d v (r.hart s.focus).nextPc ∧
      (permitClass i.major = some .memory → Spent s.focus r t .memory) := by
  refine ⟨_, hx.trans (congrArg Host.Outcome.next (h.perform_ok hb hl)), memDone_write r s.focus d v i.major, fun hclass ha => ?_⟩
  refine (spent_memory hclass (r.write s.focus d v) s.focus none ha).trans ?_
  cases s.focus <;> simp [State.write, State.permitCount]
/-- An instruction without a permit that writes no register and goes on, seen with the focus on its agent. -/
theorem Issues.goesOn (h : Issues s i) {body : Agent → State → Res (Option Word)} (hx : exec i s = run i s body)
    (hb : body s.focus s = .ok none u) (hdest : i.dest = none) (hclass : permitClass i.major = none) :
    ∃ t, exec i s = .next t ∧ RegDone { u with focus := s.focus } { t with focus := s.focus } 0 0 (u.hart s.focus).nextPc := by
  refine ⟨_, hx.trans (congrArg Host.Outcome.next (h.perform_ok hb (lostDest_of_dest_none hdest ..))), ?_⟩
  rw [permitUse_of_no_class hclass]
  exact advance_regDone_focus u s.focus
/-- The same of one that runs again. -/
theorem Resumes.goesOn (h : Resumes s i) {body : Agent → State → Res (Option Word)} (hx : exec i s = run i s body)
    (hb : body s.focus s = .ok none u) (hdest : i.dest = none) :
    ∃ t, exec i s = .next t ∧ RegDone { u with focus := s.focus } { t with focus := s.focus } 0 0 (u.hart s.focus).nextPc :=
  ⟨_, hx.trans (congrArg Host.Outcome.next (h.perform_ok hb (lostDest_of_dest_none hdest ..))), advance_regDone_focus u s.focus⟩
/-- An instruction without a permit that traps. -/
theorem Issues.traps (h : Issues s i) {body : Agent → State → Res (Option Word)} (hx : exec i s = run i s body) {x : Trap}
    (hb : body s.focus s = .trap x u) (hclass : permitClass i.major = none) : exec i s = .next (u.takeTrap s.focus x) := by
  rw [hx, run, h.perform_trap hb, permitUse_of_no_class hclass]
/-- A waiting instruction that traps. -/
theorem Resumes.traps (h : Resumes s i) {body : Agent → State → Res (Option Word)} (hx : exec i s = run i s body) {x : Trap}
    (hb : body s.focus s = .trap x u) : exec i s = .next (u.takeTrap s.focus x) := by
  rw [hx, run, h.perform_trap hb]
/-- An instruction without a permit that begins to wait leaves its wait behind. -/
theorem Issues.waits (h : Issues s i) {body : Agent → State → Res (Option Word)} (hx : exec i s = run i s body)
    (hb : body s.focus s = .wait u) (hclass : permitClass i.major = none) : exec i s = .next u := by
  rw [hx, run, h.perform_wait hb, permitUse_of_no_class hclass, ite_self]
theorem Resumes.waits (h : Resumes s i) {body : Agent → State → Res (Option Word)} (hx : exec i s = run i s body)
    (hb : body s.focus s = .wait u) : exec i s = .next u := by
  rw [hx, run, h.perform_wait hb]

end Sys2Proof.Machine
end

section
/-! Stores and the store buffer (R51, R105, R224, R268): what a store of a far core leaves in a turn that overlaps, and the settling of
StoresEnterBuffer. -/
namespace Sys2Proof.Machine
variable {s u : State}

/-! ### Entering and merging -/

/-- The entry of a store in the buffer: its bytes, the policy that the page leaves it, and its scope where it is a release. -/
def Acc.entry (acc : Acc) (n : Nat) (pol : Policy) (rel : Option Scope) (v : BitVec 512) : SbEntry :=
  { pa := acc.pa, n := n, data := v, pol := effPol pol acc.mt1, rel := rel, page := acc.page, size := acc.size }
/-- The buffer after a store: merged into its newest entry, or with an entry of its own. -/
def sbAfter (sb : List SbEntry) (e : SbEntry) : List SbEntry := (sbMerge sb e).getD (sb ++ [e])

/-- A release, a first entry, a .u store and one outside device memory never merge (R105). -/
theorem sbMerge_eq_none {sb : List SbEntry} {e : SbEntry} (h : e.rel.isSome = true ∨ sb = [] ∨ e.pol = .u ∨ isDevice e.pa = false) :
    sbMerge sb e = none := by
  unfold sbMerge
  split
  · rfl
  · next x hx =>
    refine if_pos ?_
    rcases h with h | h | h | h
    · exact .inl h
    · simp [h] at hx
    · simp [h]
    · simp [h]
/-- A plain store within the newest entry merges there (DEDUCED, log entry 11). -/
theorem sbMerge_within {l : List SbEntry} {x e : SbEntry} (hrel : e.rel = none) (hopen : x.shut = false) (hpol : x.pol = e.pol) (hu : e.pol ≠ .u)
    (he : isDevice e.pa = true) (hx : isDevice x.pa = true) (hlo : x.pa ≤ e.pa) (hhi : e.pa + e.n ≤ x.pa + x.n) :
    sbMerge (l ++ [x]) e = some (l ++ [{ x with data := putBytes x.data (e.pa - x.pa) e.n e.data }]) := by
  unfold sbMerge
  simp [hrel, hopen, hpol, hu, he, hx, hlo, hhi]

/-! ### A store that has passed its checks -/

section
variable {core : Nat} {acc : Acc} (hov : u.overlap = true) (hroom : (u.far core).sb.length < 16)
  (hwin : isFormat acc.pa = false ∨ u.windowWaits core acc.pa = false)
include hov hroom hwin

theorem storeIssue_far (n : Nat) (pol : Policy) (rel : Option Scope) (v : BitVec 512) : u.storeIssue (.far core) acc n pol rel v =
    .ok () (u.setFar core { u.far core with sb := sbAfter (u.far core).sb (acc.entry n pol rel v) }) := by
  have hopen : ¬(isFormat acc.pa && u.windowWaits core acc.pa) = true := by
    rcases hwin with h | h <;> simp [h]
  unfold State.storeIssue
  simp only [if_neg hopen, if_neg (show ¬16 ≤ (u.far core).sb.length by omega), hov, if_true, State.setFar_overlap]
  unfold sbAfter Acc.entry
  split
  · next h => rw [h, Option.getD_some]
  · next h => rw [h, Option.getD_none]

variable (halias : aliasRel acc.pa = false ∨ u.xrowBusy core = false)
include halias

theorem storeOrder_far (n : Nat) (pol : Policy) (rel : Option Scope) (v : BitVec 512) : u.storeOrder (.far core) acc n pol rel v =
    .ok () (u.setFar core { u.far core with sb := sbAfter (u.far core).sb (acc.entry n pol rel v) }) := by
  have horder : (if aliasRel acc.pa then u.xrowOrder (.far core) .island else .ok () u) = .ok () u := by
    unfold State.xrowOrder
    rcases halias with h | h <;> simp [h, hov]
  unfold State.storeOrder
  rw [horder]
  exact storeIssue_far hov hroom hwin n pol rel v
theorem storeReg_far {va : Word} {width : Width} {pol : Policy} (hacc : s.access (.far core) va width.bytes kStore .store pol true = .ok acc u)
    (rel : Option Scope) (d : Reg) : s.storeReg (.far core) va width pol rel d =
    .ok none (u.setFar core { u.far core with
      sb := sbAfter (u.far core).sb (acc.entry width.bytes pol rel (BitVec.ofNat 512 (lowBytes width.bytes (u.reg (.far core) d)))) }) := by
  simp only [State.storeReg, hacc, Res.bind, storeOrder_far hov hroom hwin halias]
end

/-- A memory instruction that writes no register, and whose own effect has changed its core's own parts only. -/
theorem Issues.farStore {i : Instr} {core : Nat} {f : Far} (h : Issues s i) (hfocus : s.focus = .far core)
    {body : Agent → State → Res (Option Word)} (hx : exec i s = run i s body) (hb : body (.far core) s = .ok none (u.setFar core f))
    (hdest : i.dest = none) (hclass : permitClass i.major = some .memory) :
    ∃ t, exec i s = .next t ∧ HartDone (.far core) u t 0 0 (u.hart (.far core)).nextPc ∧ Spent (.far core) u t .memory ∧ FarIs core u t f := by
  obtain ⟨p, q, y, z, he⟩ := permitUse_advance_far (u.setFar core f) core i.major none
  have hspent := spent_memory hclass (u.setFar core f) (.far core) none
  refine ⟨_, hx.trans (congrArg Host.Outcome.next (h.perform_ok (hfocus ▸ hb) (lostDest_of_dest_none hdest ..))), ?_⟩
  rw [he] at hspent
  rw [hfocus, he]
  exact ⟨hartDone_of_setReg (Hart.setReg_zero ..).symm (fun _ _ => rfl) p q y z, hspent,
    State.setFar_far .., fun k hk => State.setFar_far_other _ _ _ _ hk, rfl, fun _ => rfl⟩

/-- Settles O28: the three forms reach the buffer by the one lemma on a store that has passed its checks; whether it merges is
`sbMerge`'s. -/
theorem storesEnterBuffer : Obligations.StoresEnterBuffer := by
  unfold Obligations.StoresEnterBuffer
  intro s u r core width p sc d a b k m acc f n e enters hfocus hov hroom halias hwin
  have henters : ∀ (i : Instr) (rel : Option Scope) (body : Agent → State → Res (Option Word)), Issues s i → exec i s = run i s body →
      body f s = .ok none (u.setFar core { u.far core with sb := sbAfter (u.far core).sb (e rel (u.reg f d)) }) →
      i.dest = none → permitClass i.major = some .memory → enters i rel := by
    intro i rel body hi hx hb hdest hclass
    obtain ⟨t, ht, hdone, hspent, hfar⟩ := hi.farStore hfocus hx hb hdest hclass
    refine ⟨t, ht, hdone, hspent, fun hnew => ?_, fun l x hsb hrel hopen hpol hu hmt hdev hxdev hlo hhi => ?_⟩
    · rw [sbAfter, sbMerge_eq_none (e := e rel (u.reg f d)) hnew] at hfar
      exact hfar
    · have heff : (e rel (u.reg f d)).pol = p := if_neg (by simp [hmt])
      rw [sbAfter, hsb, sbMerge_within (e := e rel (u.reg f d)) hrel hopen (hpol.trans heff.symm) (heff.symm ▸ hu) hdev hxdev hlo hhi] at hfar
      exact hfar
  refine ⟨fun hi hacc => ?_, fun hi hacc => ?_, fun hi horder hacc => ?_⟩
  · refine henters _ none _ hi (exec_st ..) ?_ rfl rfl
    refine storeReg_far hov hroom hwin halias ?_ none d
    rw [effAddr_zero]
    exact hacc
  · exact henters _ none _ hi (exec_stx ..) (storeReg_far hov hroom hwin halias hacc none d) rfl rfl
  · refine henters _ (some sc) _ hi (exec_stl ..) ?_ rfl rfl
    show (s.xrowOrder f sc).bind _ = _
    rw [horder]
    refine storeReg_far hov hroom hwin halias ?_ (some sc) d
    rw [effAddr_zero]
    exact hacc

end Sys2Proof.Machine
end

section
/-! Atomics (R106, R271, R272): an atomic's one step, its register result, and the settling of AtomicsComplete. -/
namespace Sys2Proof.Machine

/-- An atomic that passes its checks and its order makes one step at its point, and the old value goes to `d`. -/
theorem atomic_ok {s u v r : State} {f : Agent} {va : Word} {n : Nat} {p : Policy} {sc : Scope} {o : Order} {acc : Acc} {old : Nat}
    {g : Nat → Option Nat} (hacc : s.access f va n kAtomic .atomic p true = .ok acc u) (horder : u.atomicOrder f acc n p sc o = .ok () v)
    (hstep : v.atomicAt f acc n p sc g = .ok old r) (d : Reg) : s.atomic f va n p sc o d g = .ok none (r.write f d (BitVec.ofNat 64 old)) := by
  simp only [State.atomic, hacc, horder, hstep, Res.bind]

/-- Settles O29: AMO, CAS and AMOF are one atomic with three functions. -/
theorem atomicsComplete : Obligations.AtomicsComplete := by
  unfold Obligations.AtomicsComplete
  intro s u v r p sc o d a b m dbl op fo acc old f n y done
  have hdone : ∀ (i : Instr) (body : Agent → State → Res (Option Word)), Issues s i → exec i s = run i s body →
      body f s = .ok none (r.write f d (BitVec.ofNat 64 old)) → permitClass i.major = some .memory → done i := by
    intro i body hi hx hb hclass hl
    obtain ⟨t, ht, hmem, hspent⟩ := hi.writes hx hb hl
    exact ⟨t, ht, hmem, hspent hclass⟩
  refine ⟨fun hi hacc horder hstep => ?_, fun hi hacc horder hstep => ?_, fun hi hacc horder hstep => ?_⟩
  · exact hdone _ _ hi (exec_amo ..) (atomic_ok hacc horder hstep d) rfl
  · refine hdone _ _ hi (exec_cas ..) (atomic_ok ?_ horder hstep d) rfl
    rw [effAddr_zero]
    exact hacc
  · exact hdone _ _ hi (exec_amof ..) (atomic_ok hacc horder hstep d) rfl

end Sys2Proof.Machine
end

section
/-! FENCE (R109, R128, R273): the fence that goes on, the one that meets an operation lost in flight, and the settling of FenceCompletes. -/
namespace Sys2Proof.Machine

/-- Settles O30: the fence's own effect is that of its wait for the accesses of its scope, or the trap for a lost operation. -/
theorem fenceCompletes : Obligations.FenceCompletes := by
  unfold Obligations.FenceCompletes
  intro s r u sc hi horder wide q
  have hwide : (sc == .package || sc == .system) = decide wide := by cases sc <;> rfl
  have hq : (if decide wide && !r.overlap then r.settle s.focus else r) = q := by simp [q]
  refine ⟨fun hnone hfence => ?_, fun hw x hx => ?_⟩
  · refine hi.goesOn (exec_fence sc) ?_ rfl rfl
    have hlost : (if decide wide then q.lostAny s.focus else none) = none := by
      rcases hnone with h | h <;> simp [h]
    dsimp only
    rw [horder]
    simp only [Res.bind, hwide, hq, hlost, hfence]
  · refine hi.traps (exec_fence sc) ?_ rfl
    have hlost : (if decide wide then q.lostAny s.focus else none) = some x := by simp [hw, hx]
    dsimp only
    rw [horder]
    simp only [Res.bind, hwide, hq, hlost]

end Sys2Proof.Machine
end

section
/-! WAITM and WAITC (R110, R111, R274 to R276, R292): the first look, the wait, and each way out of it, and the settling of Waits. -/
namespace Sys2Proof.Machine
variable {s u v : State}

/-! ### The low half of a register, and serial order -/

theorem toNat_lowHalf (x : Word) : (x.extractLsb' 0 32).toNat = x.toNat % 2 ^ 32 := by simp
/-- The limit of a bounded wait is the low half of its register. -/
theorem lowHalf_eq_zero_iff (x : Word) : x.extractLsb' 0 32 = (0 : BitVec 32) ↔ x.toNat % 2 ^ 32 = 0 := by
  rw [← BitVec.toNat_inj, toNat_lowHalf]
  rfl
theorem seqLe_iff (a b : BitVec 32) : seqLe a b = true ↔ (b.toNat + 2 ^ 32 - a.toNat) % 2 ^ 32 < 2 ^ 31 := by
  have ha := a.isLt
  rw [seqLe, decide_eq_true_iff, BitVec.toNat_sub, show 2 ^ 32 - a.toNat + b.toNat = b.toNat + 2 ^ 32 - a.toNat by omega]

/-! ### WAITM -/

section
variable {width : Width} {p : Policy} {d a b c : Reg} {m : BitVec 24}

/-- The monitor that a WAITM arms on the line of its access (R110). -/
def armedMonitor (a : Agent) (p : Policy) (acc : Acc) : Monitor :=
  { line := lineOf (if isAlias acc.pa then deviceOffset acc.pa else acc.pa), msc := monitorMsc a acc.pa (effPol p acc.mt1) }
/-- The hart of an agent that has armed a monitor and waits (R110). -/
def Hart.arm (h : Hart) (a : Agent) (p : Policy) (acc : Acc) (limit : BitVec 32) : Hart :=
  { h with monitor := some (armedMonitor a p acc), wait := some { kind := .waitm, limit := limit } }
/-- The first look of a WAITM, once it has read its location (R274). -/
theorem waitm_first {acc : Acc} {x : BitVec 512} (hmon : (s.hart s.focus).monitor = none)
    (hacc : s.access s.focus (s.reg s.focus a + m.signExtend 64) width.bytes 0 .waitm p true = .ok acc u)
    (hload : u.loadIssue s.focus acc width.bytes p = .ok x v) :
    ∃ body, exec (.waitm width p d a b c m) s = run (.waitm width p d a b c m) s body ∧ body s.focus s =
      if x.toNat ≠ lowBytes width.bytes (v.reg s.focus b) then .ok none (v.write s.focus d 0)
      else if (s.reg s.focus c).extractLsb' 0 32 = (0 : BitVec 32) then .ok none (v.write s.focus d 3)
      else .wait (v.updHart s.focus fun h => h.arm s.focus p acc ((s.reg s.focus c).extractLsb' 0 32)) := by
  refine ⟨_, exec_waitm .., ?_⟩
  dsimp only
  rw [hmon, effAddr_zero]
  unfold kLoad
  simp only [hacc, Res.bind, hload]
  rfl
/-- A WAITM that runs again (R110). -/
theorem waitm_again {y : Monitor} (hmon : (s.hart s.focus).monitor = some y) :
    ∃ body, exec (.waitm width p d a b c m) s = run (.waitm width p d a b c m) s body ∧
      (∀ code, s.waitmCode s.focus y = some code → body s.focus s = .ok none (s.write s.focus d (BitVec.ofNat 64 code))) ∧
      (s.waitmCode s.focus y = none → body s.focus s = .wait s) := by
  refine ⟨_, exec_waitm .., fun code hcode => ?_, fun hcode => ?_⟩
  all_goals simp only [hmon, hcode]

/-- A waiting WAITM whose monitor answers a code returns it. -/
theorem Resumes.waitm_returns (h : Resumes s (.waitm width p d a b c m)) {y : Monitor} (hmon : (s.hart s.focus).monitor = some y) {code : Nat}
    (hcode : s.waitmCode s.focus y = some code) :
    ∃ t, exec (.waitm width p d a b c m) s = .next t ∧ RegDone s t d (BitVec.ofNat 64 code) (s.hart s.focus).nextPc := by
  obtain ⟨body, hx, hreturn, -⟩ := waitm_again (width := width) (p := p) (d := d) (a := a) (b := b) (c := c) (m := m) hmon
  exact ⟨_, hx.trans (congrArg Host.Outcome.next (h.perform_ok (hreturn code hcode) h.free)), advance_regDone s d _ none⟩
end
/-- The code of a waiting WAITM whose monitor has seen nothing: 3 once its limit is over (R110; log entry 2). -/
theorem waitmCode_of_no_code {f : Agent} {y : Monitor} {z : Wait} (hy : y.code = none) (hz : (s.hart f).wait = some z) :
    s.waitmCode f y = if z.late || !s.overlap then some 3 else none := by
  simp only [State.waitmCode, hy, hz]

/-! ### WAITC -/

/-- A WAITC, first or again, by whether its channel's counter has reached the threshold (R275). -/
theorem waitc_body {core : Nat} (hfocus : s.focus = .far core) (ch : BitVec 4) (sc : Scope) (a b : Reg) :
    ∃ body, exec (.waitc ch sc a b) s = run (.waitc ch sc a b) s body ∧ body s.focus s =
      if seqLe ((s.reg s.focus a).extractLsb' 0 32) ((s.far core).channel ch.toNat).counter then
        (s.acquireOrder s.focus sc).bind fun _ s => .ok none s
      else s.waitOr s.focus .waitc ((s.reg s.focus b).extractLsb' 0 32) ch.toNat fun u =>
        .trap (u.channelExpired core ch.toNat ((s.reg s.focus b).extractLsb' 0 32)) u := by
  refine ⟨_, exec_waitc .., ?_⟩
  rw [hfocus]
/-- A wait that begins: over at once with a limit of 0, and else left behind (R292). -/
theorem waitOr_first {α : Type} {f : Agent} (h : (s.hart f).wait = none) (k : WaitKind) (limit : BitVec 32) (obj : Nat) (expired : State → Res α) :
    s.waitOr f k limit obj expired =
      if limit = 0 then expired s else .wait (s.setHart f { s.hart f with wait := some { kind := k, limit := limit, obj := obj } }) := by
  simp only [State.waitOr, h]
/-- A wait whose limit is over (R276, R292). -/
theorem waitOr_late {α : Type} {f : Agent} {z : Wait} (h : (s.hart f).wait = some z) (hlate : z.late = true) (k : WaitKind) (limit : BitVec 32)
    (obj : Nat) (expired : State → Res α) : s.waitOr f k limit obj expired = expired s := by
  simp [State.waitOr, h, hlate]
/-- WAIT_EXPIRED of a channel in its registers (R276, R293). -/
theorem channelExpired_eq (s : State) (core : Nat) (ch : BitVec 4) (x : Word) :
    s.channelExpired core ch.toNat (x.extractLsb' 0 32) =
      { cause := 10, infos := ⟨BitVec.ofNat 64 ((s.far core).vcore.toNat * 16 + ch.toNat), ((s.far core).channel ch.toNat).popc.zeroExtend 64,
                               ((s.far core).channel ch.toNat).counter.zeroExtend 64, BitVec.ofNat 64 (x.toNat % 2 ^ 32)⟩ } := by
  unfold State.channelExpired waitExpired
  simp only [toNat_lowHalf, Nat.zero_mul, Nat.zero_add, BitVec.ofNat_toNat]

/-- Settles O31: WAITM by what its first look and its later turns answer, WAITC by whether its counter has reached the threshold. -/
theorem waits : Obligations.Waits := by
  unfold Obligations.Waits
  refine ⟨?_, ?_⟩
  · intro s u v width p d a b c m acc x f n i limit
    refine ⟨fun hi hmon hacc hload hlost => ?_, fun y z hi hmon hwait => ?_⟩
    · obtain ⟨body, hx, hb⟩ := waitm_first (d := d) (b := b) (c := c) hmon hacc hload
      refine ⟨fun hne => ?_, fun heq hlimit => ?_, fun heq hlimit => ?_⟩
      · obtain ⟨t, ht, hdone, -⟩ := hi.writes hx (hb.trans (if_pos hne)) hlost
        exact ⟨t, ht, hdone⟩
      · have hzero := hb.trans ((if_neg (not_not_intro heq)).trans (if_pos ((lowHalf_eq_zero_iff _).mpr hlimit)))
        obtain ⟨t, ht, hdone, -⟩ := hi.writes hx hzero hlost
        exact ⟨t, ht, hdone⟩
      · have harm := hb.trans ((if_neg (not_not_intro heq)).trans (if_neg (mt (lowHalf_eq_zero_iff _).mp hlimit)))
        refine ⟨_, armedMonitor f p acc, hi.waits hx harm rfl, ?_⟩
        rw [State.updHart_eq, State.setHart_hart]
        exact ⟨rfl, rfl, rfl, rfl, rfl, fun _ => rfl⟩
    · intro returns
      have hnone := fun hy => waitmCode_of_no_code (s := s) (f := f) (y := y) hy hwait
      refine ⟨fun code hy => hi.waitm_returns hmon (by simp only [State.waitmCode, hy]), fun hy hover => ?_, fun hy hlate hov => ?_⟩
      · refine hi.waitm_returns hmon ((hnone hy).trans (if_pos ?_))
        rcases hover with h | h <;> simp [h]
      · obtain ⟨body, hx, -, hstay⟩ := waitm_again (width := width) (p := p) (d := d) (a := a) (b := b) (c := c) (m := m) hmon
        exact hi.waits hx (hstay ((hnone hy).trans (if_neg (by simp [hlate, hov]))))
  · intro s u core ch sc a b f i x limit reached expired hfocus
    obtain ⟨body, hx, hb⟩ := waitc_body hfocus ch sc a b
    have hreached : seqLe ((s.reg s.focus a).extractLsb' 0 32) x.counter = true ↔ reached := by
      rw [seqLe_iff, toNat_lowHalf, hfocus]
    have hgo : reached → s.acquireOrder s.focus sc = .ok () u → body s.focus s = .ok none u := fun hr horder =>
      hb.trans ((if_pos (hreached.mpr hr)).trans (by rw [horder]; rfl))
    have hstay := fun hr : ¬reached => hb.trans (if_neg (mt hreached.mp hr))
    have hexpired : s.channelExpired core ch.toNat ((s.reg s.focus b).extractLsb' 0 32) = expired := by
      rw [channelExpired_eq, hfocus]
    have hlimit : (s.reg s.focus b).extractLsb' 0 32 = (0 : BitVec 32) ↔ limit = 0 := by
      rw [lowHalf_eq_zero_iff, hfocus]
    rw [← hfocus]
    refine ⟨fun hi hr horder => ?_, fun hi hr h0 => ?_, fun hi hr h0 => ?_, fun z hi hr hwait hlate => ?_⟩
    · rcases hi with hi | hi
      · exact hi.goesOn hx (hgo hr horder) rfl rfl
      · exact hi.goesOn hx (hgo hr horder) rfl
    · exact hexpired ▸ hi.traps hx ((hstay hr).trans ((waitOr_first hi.wait_none ..).trans (if_pos (hlimit.mpr h0)))) rfl
    · have hwait := (hstay hr).trans ((waitOr_first hi.wait_none ..).trans (if_neg (mt hlimit.mp h0)))
      refine ⟨_, { kind := .waitc, limit := (s.reg s.focus b).extractLsb' 0 32, obj := ch.toNat }, hi.waits hx hwait rfl, ?_⟩
      rw [State.setHart_hart]
      exact ⟨rfl, rfl, fun _ => rfl, onlyHart_setHart ..⟩
    · exact hexpired ▸ hi.traps hx ((hstay hr).trans (waitOr_late hwait hlate ..))

end Sys2Proof.Machine
end

section
/-! The row buffer of a near context (R136 to R138): NROW.open, NROW.close and NLUT as they issue, and the settling of RowsAndLookups. -/
namespace Sys2Proof.Machine
variable {s u v : State} {n c : Nat}

/-! ### NROW -/

/-- A near context's own parts have changed, and then its PC has moved on. -/
theorem setNear_advance_done (u : State) (n c : Nat) (x : NearCtx) : let t := (u.setNear n c x).advance (.near n c) none
    HartDone (.near n c) u t 0 0 (u.hart (.near n c)).nextPc ∧ NearIs n c u t x :=
  ⟨hartDone_of_setReg (u := u.setNear n c x) (Hart.setReg_zero ..).symm (fun _ _ => rfl) _ _ _ _,
    State.setNear_near .., fun _ hk => mget_mput_other _ _ _ _ _ hk, rfl, fun _ => rfl⟩
/-- An instruction without a permit that writes no register, and whose own effect has changed its near context's own parts only. -/
theorem Issues.changesNear {i : Instr} {x : NearCtx} (h : Issues s i) (hfocus : s.focus = .near n c)
    {body : Agent → State → Res (Option Word)} (hx : exec i s = run i s body) (hb : body (.near n c) s = .ok none (u.setNear n c x))
    (hdest : i.dest = none) (hclass : permitClass i.major = none) :
    ∃ t, exec i s = .next t ∧ HartDone (.near n c) u t 0 0 (u.hart (.near n c)).nextPc ∧ NearIs n c u t x := by
  refine ⟨_, hx.trans (congrArg Host.Outcome.next (h.perform_ok (hfocus ▸ hb) (lostDest_of_dest_none hdest ..))), ?_⟩
  rw [permitUse_of_no_class hclass, hfocus]
  exact setNear_advance_done u n c x

/-- Device memory outside the windows is free of the checks that NROW makes of an address (R137). -/
theorem rowReason_none {pa : Nat} (halias : isAlias pa = false) (hformat : isFormat pa = false) : s.rowReason pa = none := by
  simp [State.rowReason, halias, hformat]
/-- NROW.open of a row that the context's own home holds (R137). -/
theorem openRow_ok {f : Agent} {va : Word} {e : TlbEntry} {row : BitVec 8192} (htlb : s.translate f va kLoad = .ok e u)
    (hdev : isDevice (e.pa va) = true) (halias : isAlias (e.pa va) = false) (hformat : isFormat (e.pa va) = false)
    (hnear : remote f (e.pa va) = none) (hhome : homeOf (e.pa va) = n) (hown : u.ownOnBytes f (e.pa va) 1024 = false)
    (hread : u.readRow (e.pa va) 16 = .ok row v) :
    s.openRow f n c va = .ok none (v.setNear n c { v.near n c with row := row, rowOpen := true }) := by
  simp [State.openRow, htlb, Res.bind, rowReason_none halias hformat, hnear, hdev, hhome, hown, hread]

/-! ### NLUT -/

/-- An entry of a row buffer as a number (R138). -/
theorem rowEntry_eq (row : BitVec 8192) (t k : Nat) : rowEntry row t k = row.toNat / 2 ^ (8 * (32 * t + 2 * k)) % 2 ^ 16 := by
  rw [rowEntry, BitVec.extractLsb'_toNat, Nat.shiftRight_eq_div_pow]
/-- The nibbles of a word, by number (R138). -/
theorem bits_nibble (w : Word) (j : Nat) : bits w (4 * j + 3) (4 * j) = w.toNat / 2 ^ (4 * j) % 16 := by simp [bits]
/-- Bits [4:0] of a word, the table that NLUT reads (R138). -/
theorem bits_table (w : Word) : bits w 4 0 = w.toNat % 32 := by simp [bits]
/-- The additions of NLUT, with each entry a number of the row buffer. -/
theorem lookupSum_eq (row : BitVec 8192) (t : Nat) (w : Word) (start : Nat) :
    lookupSum row t w start = (List.range 16).foldl (fun acc j => faddBits .fp32 acc
      ((row.toNat / 2 ^ (8 * (32 * t + 2 * (w.toNat / 2 ^ (4 * j) % 16))) % 2 ^ 16) * 2 ^ 16)) start := by
  simp only [lookupSum, rowEntry_eq, bits_nibble]

/-- A table lookup of a near context has used one permit of its class once its PC has moved on (R397). -/
theorem spent_table_near (u : State) (n c : Nat) (x : Option Word) :
    Spent (.near n c) u ((u.permitUse (.near n c) 0x3F).advance (.near n c) x) .table := by
  intro _
  show (((u.setUnit n { u.unit n with tableP := (u.unit n).tableP.take }).advance (.near n c) x).unit n).tableP.count = _
  simp [State.advance, State.permitCount, Permit.take]

section
variable {d a b : Reg} {add : Bool}

/-- NLUT at a near context, by whether its row is open (R138). -/
theorem nlut_body (hfocus : s.focus = .near n c) (add : Bool) (d a b : Reg) :
    ∃ body, exec (.nlut add d a b) s = run (.nlut add d a b) s body ∧ body s.focus s =
      if (s.near n c).rowOpen then .ok none (s.write s.focus d (BitVec.ofNat 64
        (lookupSum (s.near n c).row (bits (s.reg s.focus b) 4 0) (s.reg s.focus a) (if add then lowBytes 4 (s.reg s.focus d) else 0))))
      else .trap (protOperand 0 0 7 0) s := by
  refine ⟨_, exec_nlut .., ?_⟩
  rw [hfocus]
  cases h : (s.near n c).rowOpen <;> simp [h]
/-- NLUT that writes a register has used its permit. -/
theorem Issues.looksUp (h : Issues s (.nlut add d a b)) (hfocus : s.focus = .near n c) {body : Agent → State → Res (Option Word)}
    (hx : exec (.nlut add d a b) s = run (.nlut add d a b) s body) {x : Word} (hb : body s.focus s = .ok none (s.write s.focus d x)) :
    ∃ t, exec (.nlut add d a b) s = .next t ∧ Spent (.near n c) s t .table ∧ MemDone (.near n c) s t d x (s.hart (.near n c)).nextPc := by
  refine ⟨_, hx.trans (congrArg Host.Outcome.next (h.perform_ok hb h.free)), ?_⟩
  rw [hfocus]
  exact ⟨spent_table_near (s.write (.near n c) d x) n c none, memDone_write s (.near n c) d x 0x3F⟩
end

/-- Settles O34: NROW changes its context's own parts only; NLUT answers a register or a trap by whether its row is open. -/
theorem rowsAndLookups : Obligations.RowsAndLookups := by
  unfold Obligations.RowsAndLookups
  intro s u v n c d a b k e row f va x hfocus
  refine ⟨fun hi htlb hdev halias hformat hnear hhome hown hread => ?_, fun hi => ?_, fun add hi hopen => ?_, fun add hi hclosed => ?_⟩
  · refine hi.changesNear hfocus (exec_nrowOpen a k) ?_ rfl rfl
    dsimp only
    rw [effAddr_zero]
    exact openRow_ok htlb hdev halias hformat hnear hhome hown hread
  · exact hi.changesNear hfocus exec_nrowClose rfl rfl rfl
  · intro entry
    obtain ⟨body, hx, hb⟩ := nlut_body hfocus add d a b
    obtain ⟨t, ht, hspent, hdone⟩ := hi.looksUp hfocus hx (hb.trans (if_pos hopen))
    rw [lookupSum_eq, bits_table, hfocus] at hdone
    exact ⟨t, ht, hspent, hdone⟩
  · obtain ⟨body, hx, hb⟩ := nlut_body hfocus add d a b
    have htrap := hi.perform_trap (hb.trans (if_neg (by simp [x, hclosed])))
    rw [hfocus] at htrap
    exact ⟨protOperand 0 0 7 0, hx.trans (congrArg Host.Outcome.next htrap), rfl, rfl⟩

end Sys2Proof.Machine
end

section
/-! BAR, BARRIER_ARRIVAL and LARM (R171 to R173, R307, R308): the generation that leaves, the turns of a BAR, the two ways of a LARM, and
the settling of BarriersAndArming. -/
namespace Sys2Proof.Machine
variable {s u w : State}

/-! ### A generation that leaves ends the waits of its members (R172) -/

/-- A hart whose wait, where it waits, has been met. -/
def Hart.metWait (h : Hart) : Hart := { h with wait := h.wait.map fun w => { w with won := true } }
theorem Hart.metWait_metWait (h : Hart) : h.metWait.metWait = h.metWait := by
  unfold Hart.metWait
  cases h.wait <;> rfl
theorem Hart.metWait_wait {h : Hart} {z : Wait} (hz : h.wait = some z) : h.metWait.wait = some { z with won := true } := by
  simp [Hart.metWait, hz]
theorem foldl_metWait_hart (l : List Nat) (s : State) (c : Nat) :
    (l.foldl (fun s k => s.updHart (.far k) Hart.metWait) s).hart (.far c) =
      if c ∈ l then (s.hart (.far c)).metWait else s.hart (.far c) := by
  induction l generalizing s with
  | nil => rfl
  | cons k l ih =>
    rw [List.foldl_cons, ih, State.updHart_eq]
    by_cases hk : c = k
    · subst hk
      simp [Hart.metWait_metWait]
    · have hkey : agentKey (.far c) ≠ agentKey (.far k) := hk
      simp [hk, State.setHart_hart_other _ _ _ _ hkey]
@[simp] theorem State.setBars_hart (s : State) (core lvl : Nat) (l : List Bar) (a : Agent) : (s.setBars core lvl l).hart a = s.hart a := by
  unfold State.setBars
  split_ifs <;> rfl
theorem State.barLeave_hart (s : State) (core : Nat) (b : Bar) (c : Nat) :
    (s.barLeave core b).hart (.far c) = if c ∈ b.cores then (s.hart (.far c)).metWait else s.hart (.far c) :=
  (foldl_metWait_hart b.cores _ c).trans (by rw [State.setBars_hart])
/-- A full generation in which no member asked for completion leaves at once. -/
theorem State.barCheck_of_full (s : State) {b : Bar} (core : Nat) (hfull : b.size ≤ b.cores.length) (hcomp : b.comp = []) :
    s.barCheck core b = s.barLeave core b :=
  if_pos (by simp [Bar.full, hfull, hcomp])

section
variable {m : BarMsg} (hm : m.comp = false)
include hm

/-- The last arrival of a generation meets the waits of its members. -/
theorem State.barArrive_last_hart {b : Bar} (hfind : (s.barsAt m.core m.lvl).find? (fun b => b.is m.ctx m.lvl m.id && !b.full) = some b)
    (hsize : b.size = b.cores.length + 1) (hcomp : b.comp = []) {c : Nat} (hc : c ∈ m.core :: b.cores) :
    (s.barArrive m).hart (.far c) = (s.hart (.far c)).metWait := by
  unfold State.barArrive
  simp only [hfind, hm, Bool.false_eq_true, if_false]
  rw [State.barCheck_of_full (b := { b with cores := b.cores ++ [m.core] }) _ _ (by simp [hsize]) hcomp, State.barLeave_hart,
    State.setBars_hart, if_pos]
  exact List.mem_append.mpr ((List.mem_cons.mp hc).symm.imp_right List.mem_singleton.mpr)
/-- So does the arrival of the one member of a domain of SIZE 1. -/
theorem State.barArrive_alone_hart (hnone : ∀ b ∈ s.barsAt m.core m.lvl, b.is m.ctx m.lvl m.id = false) (hsize : m.size = 1) :
    (s.barArrive m).hart (.far m.core) = (s.hart (.far m.core)).metWait := by
  have hfind : (s.barsAt m.core m.lvl).find? (fun b => b.is m.ctx m.lvl m.id && !b.full) = none :=
    List.find?_eq_none.mpr fun b hb => by simp [hnone b hb]
  unfold State.barArrive
  simp only [hfind, hm, Bool.false_eq_true, if_false]
  rw [State.barCheck_of_full _ _ (by simp [hsize]) rfl, State.barLeave_hart, State.setBars_hart, if_pos (by simp)]
end

/-- BARRIER_ARRIVAL of an arrival that no die's reset has made stale (R126). -/
theorem State.barrierArrival_eq {k : Nat} {m : BarMsg} (hk : s.barMsgs[k]? = some m)
    (hfresh : m.lvl = 3 → s.staleInc none (dieOf m.core) m.inc = false) :
    s.barrierArrival k = ({ s with barMsgs := dropAt s.barMsgs k }).barArrive m := by
  unfold State.barrierArrival
  simp only [hk]
  refine if_neg fun hstale => ?_
  obtain ⟨hlvl, hinc⟩ := Bool.and_eq_true_iff.mp hstale
  exact Bool.false_ne_true ((hfresh (of_decide_eq_true hlvl)).symm.trans hinc)

/-! ### The turns of a BAR (R172, R307) -/

/-- The arrival that a core sends to its unit. -/
def State.arrival (s : State) (core lvl : Nat) (dom : Word) (comp : Bool) : BarMsg :=
  { core := core, ctx := s.coreCtx core, lvl := lvl, id := domId dom, size := domSize dom, comp := comp, inc := s.sentInc core }
/-- A core that has begun to wait in a BAR. -/
def State.inBar (s : State) (core lvl : Nat) (limit : BitVec 32) : State :=
  s.updHart (.far core) fun h => { h with wait := some { kind := .bar, limit := limit, obj := lvl } }

section
variable {core : Nat} {lvl : BitVec 2} {c : Bool} {a : Reg}

/-- The first turn of a BAR and its later ones. -/
theorem bar_body (hfocus : s.focus = .far core) (lvl : BitVec 2) (c : Bool) (a : Reg) :
    ∃ body, exec (.bar lvl c a) s = run (.bar lvl c a) s body ∧
      ((s.hart s.focus).wait.isSome = true →
        body s.focus s = (s.barSettle core lvl.toNat).barGo core lvl.toNat ((s.reg s.focus a).extractLsb' 0 32)) ∧
      ((s.hart s.focus).wait = none → domSize ((s.far core).dom lvl.toNat) = 0 → body s.focus s = .ok none s) ∧
      ∀ {q u w : State}, (s.hart s.focus).wait = none → domSize ((s.far core).dom lvl.toNat) ≠ 0 →
        s.xrowOrder (.far core) (barScope lvl.toNat) = .ok () q → q.needDrained (.far core) = .ok () u →
        u.releaseAt (.far core) (barScope lvl.toNat) = .ok () w →
        let limit := (s.reg s.focus a).extractLsb' 0 32
        let m := w.arrival core lvl.toNat ((s.far core).dom lvl.toNat) c
        let t := w.inBar core lvl.toNat limit
        body s.focus s =
          if w.overlap && limit != 0 then .wait { t with barMsgs := w.barMsgs ++ [m] }
          else if (t.barArrive m).won (.far core) then .ok none (t.barArrive m)
          else if limit = 0 then .trap ((t.barArrive m).barExpired core lvl.toNat limit) (t.barArrive m) else .wait (t.barArrive m) := by
  refine ⟨_, exec_bar .., fun hwait => ?_, fun hwait hdom => ?_, fun {q u w} hwait hdom hq hu hw => ?_⟩
  all_goals rw [hfocus] at hwait ⊢; dsimp only
  · exact if_pos hwait
  · rw [if_neg (by simp [hwait]), if_pos hdom]
  · rw [if_neg (by simp [hwait]), if_neg hdom]
    simp only [hq, hu, hw, Res.bind]
    rfl

/-- A BAR whose wait has been met goes on, where neither an arrival of its core is on its way nor a generation holds it. -/
theorem barSettle_idle {lvl : Nat} (hmsgs : s.barMsgs = []) (hbar : s.barOf core lvl = none) : s.barSettle core lvl = s := by
  unfold State.barSettle
  simp only [hmsgs, indexOf?, hbar]
theorem barGo_won {lvl : Nat} {limit : BitVec 32} {z : Wait} (hz : (s.hart (.far core)).wait = some z) (hwon : z.won = true) :
    s.barGo core lvl limit = .ok none s :=
  if_pos (by simp [State.won, hz, hwon])

/-- A BAR in a domain of one vcore, in a turn that does not overlap: its own arrival ends its wait. -/
theorem Issues.bar_alone {q : State} (h : Issues s (.bar lvl false a)) (hfocus : s.focus = .far core)
    (hdom : domSize ((s.far core).dom lvl.toNat) = 1) (hq : s.xrowOrder (.far core) (barScope lvl.toNat) = .ok () q)
    (hu : q.needDrained (.far core) = .ok () u) (hw : u.releaseAt (.far core) (barScope lvl.toNat) = .ok () w) (hov : w.overlap = false)
    (hnone : ∀ b ∈ w.barsAt core lvl.toNat, b.is (w.coreCtx core) lvl.toNat (domId ((s.far core).dom lvl.toNat)) = false) :
    ∃ t z, exec (.bar lvl false a) s = .next t ∧
      t.hart (.far core) = ({ w.hart (.far core) with wait := some z } : Hart).moveOn none := by
  obtain ⟨body, hx, -, -, hfirst⟩ := bar_body hfocus lvl false a
  have hb := hfirst h.wait_none (by simp [hdom]) hq hu hw
  dsimp only at hb
  set limit := (s.reg s.focus a).extractLsb' 0 32
  have harrive := State.barArrive_alone_hart (s := w.inBar core lvl.toNat limit)
    (m := w.arrival core lvl.toNat ((s.far core).dom lvl.toNat) false) rfl hnone hdom
  set t := (w.inBar core lvl.toNat limit).barArrive (w.arrival core lvl.toNat ((s.far core).dom lvl.toNat) false)
  have hhart : t.hart (.far core) = { w.hart (.far core) with wait := some { kind := .bar, limit := limit, obj := lvl.toNat, won := true } } := by
    refine harrive.trans ?_
    show ((w.inBar core lvl.toNat limit).hart (.far core)).metWait = _
    simp [State.inBar, Hart.metWait]
  have hwon : t.won (.far core) = true := by simp [State.won, hhart]
  rw [if_neg (by simp [hov]), if_pos hwon] at hb
  refine ⟨_, { kind := .bar, limit := limit, obj := lvl.toNat, won := true },
    hx.trans (congrArg Host.Outcome.next (h.perform_ok hb (lostDest_of_dest_none rfl ..))), ?_⟩
  rw [permitUse_of_no_class rfl, hfocus]
  simp [State.advance, hhart]
/-- A BAR that begins to wait, in a turn that overlaps: its arrival is on its way. -/
theorem Issues.bar_waits {q : State} (h : Issues s (.bar lvl c a)) (hfocus : s.focus = .far core)
    (hdom : domSize ((s.far core).dom lvl.toNat) ≠ 0) (hq : s.xrowOrder (.far core) (barScope lvl.toNat) = .ok () q)
    (hu : q.needDrained (.far core) = .ok () u) (hw : u.releaseAt (.far core) (barScope lvl.toNat) = .ok () w) (hov : w.overlap = true)
    (hlimit : (s.reg s.focus a).extractLsb' 0 32 ≠ (0 : BitVec 32)) :
    exec (.bar lvl c a) s = .next { w.inBar core lvl.toNat ((s.reg s.focus a).extractLsb' 0 32) with
      barMsgs := w.barMsgs ++ [w.arrival core lvl.toNat ((s.far core).dom lvl.toNat) c] } := by
  obtain ⟨body, hx, -, -, hfirst⟩ := bar_body hfocus lvl c a
  have hb := hfirst h.wait_none hdom hq hu hw
  dsimp only at hb
  rw [if_pos (Bool.and_eq_true_iff.mpr ⟨hov, bne_iff_ne.mpr hlimit⟩)] at hb
  exact h.waits hx hb rfl

/-- A BAR that goes on at once, or from a wait that has been met, changes nothing but its PC. -/
theorem Issues.bar_empty (h : Issues s (.bar lvl c a)) (hfocus : s.focus = .far core) (hdom : domSize ((s.far core).dom lvl.toNat) = 0) :
    ∃ t, exec (.bar lvl c a) s = .next t ∧ RegDone s t 0 0 (s.hart s.focus).nextPc := by
  obtain ⟨body, hx, -, hempty, -⟩ := bar_body hfocus lvl c a
  have hperform := h.perform_ok (hempty h.wait_none hdom) h.free
  rw [permitUse_of_no_class rfl] at hperform
  exact ⟨_, hx.trans (congrArg Host.Outcome.next hperform), advance_regDone_focus s s.focus⟩
theorem Resumes.bar_won (h : Resumes s (.bar lvl c a)) (hfocus : s.focus = .far core) {z : Wait} (hz : (s.hart (.far core)).wait = some z)
    (hwon : z.won = true) (hmsgs : s.barMsgs = []) (hbar : s.barOf core lvl.toNat = none) :
    ∃ t, exec (.bar lvl c a) s = .next t ∧ RegDone s t 0 0 (s.hart s.focus).nextPc := by
  obtain ⟨body, hx, hagain, -, -⟩ := bar_body hfocus lvl c a
  have hb := hagain h.waiting
  rw [barSettle_idle hmsgs hbar, barGo_won hz hwon] at hb
  exact ⟨_, hx.trans (congrArg Host.Outcome.next (h.perform_ok hb h.free)), advance_regDone_focus s s.focus⟩

/-! ### LARM (R308) -/

/-- LARM by its address, and once its access, its release and its store have been done. -/
theorem larm_body (a : Reg) (s : State) :
    ∃ body, exec (.larm a) s = run (.larm a) s body ∧
      ((s.reg s.focus a).toNat % 128 ≠ 0 → body s.focus s = .trap (misaligned (s.reg s.focus a) 128 kStore) s) ∧
      ∀ {acc : Acc} {u w r : State}, (s.reg s.focus a).toNat % 128 = 0 → s.access s.focus (s.reg s.focus a) 8 kStore .store .m false = .ok acc u →
        u.release s.focus .package = .ok () w →
        w.storeAt s.focus acc.pa 8 (effPol .m acc.mt1) acc.page acc.size 1 (some .package) = .ok () r → body s.focus s = .ok none r := by
  refine ⟨_, exec_larm .., fun hva => if_pos hva, fun {acc u w r} hva hacc hrel hstore => ?_⟩
  dsimp only
  rw [if_neg (by simp [hva])]
  simp only [hacc, hrel, hstore, Res.bind]
/-- An instruction of a far core that writes no register, whatever its own effect has changed. -/
theorem Issues.effect_far {i : Instr} {r : State} (h : Issues s i) (hfocus : s.focus = .far core) {body : Agent → State → Res (Option Word)}
    (hx : exec i s = run i s body) (hb : body s.focus s = .ok none r) (hdest : i.dest = none) :
    ∃ t, exec i s = .next t ∧ HartDone (.far core) r t 0 0 (r.hart (.far core)).nextPc ∧ ∀ y, memByte t.mem y = memByte r.mem y := by
  obtain ⟨p, q, y, z, he⟩ := permitUse_advance_far r core i.major none
  refine ⟨_, hx.trans (congrArg Host.Outcome.next (h.perform_ok hb (lostDest_of_dest_none hdest ..))), ?_⟩
  rw [hfocus, he]
  exact ⟨hartDone_of_setReg (Hart.setReg_zero ..).symm (fun _ _ => rfl) p q y z, fun _ => rfl⟩
end

/-- Settles O45: BAR by its first and its later turns, BARRIER_ARRIVAL by the generation that its arrival completes, LARM by its
address. -/
theorem barriersAndArming : Obligations.BarriersAndArming := by
  unfold Obligations.BarriersAndArming
  intro s q u w r core lvl c a k acc f i l dom limit sc
  have hlimit : limit ≠ 0 → (s.reg f a).extractLsb' 0 32 ≠ (0 : BitVec 32) := mt (lowHalf_eq_zero_iff _).mp
  refine ⟨fun hfocus hi hdom => ?_, fun hfocus hi hdom hq hu hw hov hc hnone => ?_, fun hfocus hi hdom hq hu hw hov h0 => ?_,
    fun m b hk hm hfresh hfind hsize hcomp => ?_, fun z hfocus hi hz hwon hmsgs hbar => ?_, ?_⟩
  · have hempty := hi.bar_empty hfocus hdom
    rwa [hfocus] at hempty
  · subst hc
    obtain ⟨t, z, ht, hhart⟩ := hi.bar_alone hfocus hdom hq hu hw hov hnone
    exact ⟨t, ht, hhart ▸ ⟨rfl, rfl, fun _ => rfl⟩⟩
  · have hhart := State.setHart_hart w f { w.hart f with wait := some { kind := .bar, limit := (s.reg f a).extractLsb' 0 32, obj := l } }
    refine ⟨_, hi.bar_waits hfocus hdom hq hu hw hov (hfocus ▸ hlimit h0), ?_⟩
    rw [hfocus]
    exact ⟨(congrArg (fun g : Hart => g.wait.isSome) hhart :), (congrArg Hart.pc hhart :), rfl⟩
  · refine ⟨_, exec_barrierArrival .., fun y hy z hz => ?_⟩
    rw [State.barrierArrival_eq hk hfresh, State.barArrive_last_hart (s := { s with barMsgs := dropAt s.barMsgs k }) hm hfind hsize hcomp hy]
    exact ⟨{ z with won := true }, Hart.metWait_wait hz, rfl⟩
  · have hmet := hi.bar_won hfocus hz hwon hmsgs hbar
    rwa [hfocus] at hmet
  · intro j va hfocus hi
    obtain ⟨body, hx, htrap, hok⟩ := larm_body a s
    refine ⟨fun hva => ?_, fun hva hacc hrel hstore => ?_⟩
    · have hperform := hi.perform_trap (htrap (hfocus ▸ hva))
      rw [hfocus] at hperform
      exact ⟨misaligned va 128 kStore, hx.trans (congrArg Host.Outcome.next hperform), rfl, rfl, rfl⟩
    · rw [hfocus] at hok
      exact hi.effect_far hfocus hx (hfocus ▸ hok hva hacc hrel hstore) rfl

end Sys2Proof.Machine
end

section
/-! The memory system neither reads nor changes the parts of the module that deal out tasks: the homes' queues, the near contexts, and the
pointers and launches of the command processors. Each of its operations commutes with an exchange of those parts. -/
namespace Sys2Proof.Machine
variable (s : State)

/-! ### The parts, and their exchange -/

/-- The parts of the module that deal out tasks (R156 to R166). -/
structure Dealing where
  homes : FMap Home
  nears : FMap NearCtx
  cpPtr : FMap Nat
  launches : FMap (Option Launch)
def State.dealing : Dealing := { homes := s.homes, nears := s.nears, cpPtr := s.hub.cpPtr, launches := s.hub.launches }
/-- A module with other such parts. -/
def State.deal (p : Dealing) : State :=
  { s with homes := p.homes, nears := p.nears, hub := { s.hub with cpPtr := p.cpPtr, launches := p.launches } }
def Res.deal {α : Type} (r : Res α) (p : Dealing) : Res α :=
  match r with
  | .ok a s => .ok a (s.deal p)
  | .trap t s => .trap t (s.deal p)
  | .wait s => .wait (s.deal p)

variable (p : Dealing) {α β : Type}

theorem State.deal_ite (c : Prop) [Decidable c] (t : State) : (if c then s.deal p else t.deal p) = (if c then s else t).deal p :=
  (apply_ite (State.deal · p) c s t).symm
theorem Res.deal_ite (c : Prop) [Decidable c] (x y : Res α) : (if c then x.deal p else y.deal p) = (if c then x else y).deal p :=
  (apply_ite (Res.deal · p) c x y).symm
theorem Res.bind_deal {f : α → State → Res β} (hf : ∀ a s, f a (s.deal p) = (f a s).deal p) (r : Res α) :
    (r.deal p).bind f = (r.bind f).deal p := by
  cases r with
  | ok a s => exact hf a s
  | trap t s => rfl
  | wait s => rfl
theorem foldl_deal {f : State → α → State} (hf : ∀ s x, f (s.deal p) x = (f s x).deal p) (l : List α) (s : State) :
    l.foldl f (s.deal p) = (l.foldl f s).deal p :=
  List.foldl_hom (State.deal · p) hf

/-! ### What does not depend on them -/

theorem State.hart_deal (a : Agent) : (s.deal p).hart a = s.hart a := rfl
theorem State.stack_deal (k : Nat) : (s.deal p).stack k = s.stack k := rfl
theorem State.homeLost_deal (h : Nat) : (s.deal p).homeLost h = s.homeLost h := rfl
theorem State.ctx_deal (c : Nat) : (s.deal p).ctx c = s.ctx c := rfl
theorem State.placedOn_deal (c v : Nat) : (s.deal p).placedOn c v = s.placedOn c v := rfl
theorem State.badIn_deal (unit own a b : Nat) : (s.deal p).badIn unit own a b = s.badIn unit own a b := rfl
theorem State.mscAt_deal (ln : Nat) : (s.deal p).mscAt ln = s.mscAt ln := rfl
theorem State.mscVictim_deal (ln : Nat) : (s.deal p).mscVictim ln = s.mscVictim ln := rfl
theorem State.mscMiss_deal (ln : Nat) (need : BitVec 2) : (s.deal p).mscMiss ln need = s.mscMiss ln need := rfl
theorem State.filledMsc_deal (ln : Nat) (need : BitVec 2) : (s.deal p).filledMsc ln need = s.filledMsc ln need := rfl
theorem State.writtenMsc_deal (pa n : Nat) (v : BitVec 512) : (s.deal p).writtenMsc pa n v = s.writtenMsc pa n v := rfl
theorem State.mscBar_deal (ln : Nat) (write : Bool) : (s.deal p).mscBar ln write = s.mscBar ln write := rfl
theorem State.cleanBar_deal (d ln : Nat) : (s.deal p).cleanBar d ln = s.cleanBar d ln := rfl

/-! ### The log (R357, R358) -/

theorem State.hirq_deal (k : Nat) : (s.deal p).hirq k = (s.hirq k).deal p :=
  foldl_deal p (fun _ _ => rfl) _ s
theorem State.raise_deal (fn k : Nat) : (s.deal p).raise fn k = (s.raise fn k).deal p := by
  unfold State.raise
  rw [← State.deal_ite]
  rfl
theorem State.log_deal (kind unit cls id addr detail die : Nat) :
    (s.deal p).log kind unit cls id addr detail die = (s.log kind unit cls id addr detail die).deal p := by
  unfold State.log
  dsimp only
  rw [← State.deal_ite, ← State.raise_deal, ← State.hirq_deal]
  rfl
theorem State.logSector_deal (kind unit own pa detail : Nat) :
    (s.deal p).logSector kind unit own pa detail = (s.logSector kind unit own pa detail).deal p := s.log_deal p ..
theorem State.lostWrite_deal (pa : Nat) : (s.deal p).lostWrite pa = (s.lostWrite pa).deal p := s.log_deal p ..

/-! ### Codes (R356) -/

theorem State.freshen_deal (unit own sec : Nat) : (s.deal p).freshen unit own sec = (s.freshen unit own sec).deal p := by
  unfold State.freshen
  rw [← State.deal_ite]
  rfl
theorem State.coverFresh_deal (unit own ln : Nat) (cov : BitVec 2) :
    (s.deal p).coverFresh unit own ln cov = (s.coverFresh unit own ln cov).deal p := by
  unfold State.coverFresh
  dsimp only
  rw [State.freshen_deal, State.deal_ite, State.freshen_deal, State.deal_ite, State.deal_ite]
  rfl
theorem memoryError_deal (pa unit kind own : Nat) :
    (memoryError (s.deal p) pa unit kind own : Res α) = (memoryError s pa unit kind own).deal p := by
  unfold memoryError
  dsimp only
  rw [State.logSector_deal]
  rfl
theorem State.checkSectors_deal (unit own ln : Nat) (b : BitVec 2) (kind : Nat) :
    (s.deal p).checkSectors unit own ln b kind = (s.checkSectors unit own ln b kind).deal p := by
  unfold State.checkSectors
  rw [← Res.deal_ite, State.badIn_deal]
  refine if_congr Iff.rfl rfl ?_
  cases s.badIn unit own (sectorRange ln b).1 (sectorRange ln b).2 with
  | none => rfl
  | some x =>
    dsimp only
    rw [State.freshen_deal, memoryError_deal]
theorem State.errorOut_deal (unit own ln : Nat) (b : BitVec 2) (agent : Option Agent) :
    (s.deal p).errorOut unit own ln b agent = (s.errorOut unit own ln b agent).deal p := by
  unfold State.errorOut
  rw [← State.deal_ite, State.badIn_deal]
  refine if_congr Iff.rfl rfl ?_
  cases s.badIn unit own (sectorRange ln b).1 (sectorRange ln b).2 with
  | none => rfl
  | some x =>
    dsimp only
    rw [State.freshen_deal, State.logSector_deal]
    cases agent <;> rfl

/-! ### Monitors and sort buffers (R110, R142) -/

theorem State.wake_deal (msc : Bool) (ln code : Nat) : (s.deal p).wake msc ln code = (s.wake msc ln code).deal p := by
  unfold State.wake
  rw [← State.deal_ite]
  rfl
theorem State.flushBank_deal (stk bank : Nat) : (s.deal p).flushBank stk bank = (s.flushBank stk bank).deal p := by
  unfold State.flushBank
  dsimp only
  rw [← State.deal_ite, ← State.deal_ite]
  refine if_congr Iff.rfl rfl (if_congr Iff.rfl ?_ rfl)
  exact congrArg (fun t : State => t.updStack stk fun x => { x with sort := mdel x.sort bank })
    (foldl_deal p (fun s (e : SortEntry) => s.lostWrite_deal p e.pa) _ s)
theorem State.flushFor_deal (pa n : Nat) : (s.deal p).flushFor pa n = (s.flushFor pa n).deal p := by
  unfold State.flushFor
  rw [State.flushBank_deal]
  rw [← State.deal_ite]
  rfl

/-! ### The memory-side cache (R53 to R56, R59) -/

theorem State.setMsc_deal (ln : Nat) (l : CLine) : (s.deal p).setMsc ln l = (s.setMsc ln l).deal p := rfl
theorem State.backInvalidate_deal (ln : Nat) : (s.deal p).backInvalidate ln = (s.backInvalidate ln).deal p := by
  unfold State.backInvalidate
  rw [← State.deal_ite]
  rfl
theorem State.backRead_deal (ln : Nat) : (s.deal p).backRead ln = (s.backRead ln).deal p := by
  unfold State.backRead
  rw [← State.deal_ite]
  rfl
theorem State.askHostOff_deal (x ln : Nat) (write : Bool) : (s.deal p).askHostOff x ln write = (s.askHostOff x ln write).deal p := by
  unfold State.askHostOff
  rw [State.backInvalidate_deal, State.backRead_deal, State.deal_ite]
/-- The banks take bytes. -/
theorem State.withMem_deal (m : List Host.Cell) : { s.deal p with mem := m } = ({ s with mem := m } : State).deal p := rfl
theorem State.mscClean_deal (ln : Nat) : (s.deal p).mscClean ln = (s.mscClean ln).deal p := by
  unfold State.mscClean
  dsimp only
  simp only [State.mscAt_deal, State.homeLost_deal, State.errorOut_deal, State.lostWrite_deal, State.deal_ite, State.coverFresh_deal]
  simp only [State.withMem_deal, State.deal_ite, State.setMsc_deal, State.stack_deal]
  rfl
theorem State.mscDrop_deal (ln : Nat) : (s.deal p).mscDrop ln = (s.mscDrop ln).deal p := by
  unfold State.mscDrop
  rw [State.mscClean_deal, ← State.deal_ite, ← State.wake_deal]
  rfl
theorem State.mscMake_deal (ln : Nat) : (s.deal p).mscMake ln = (s.mscMake ln).deal p := by
  unfold State.mscMake
  rw [State.mscVictim_deal]
  cases s.mscVictim ln with
  | none => rfl
  | some v => exact s.mscDrop_deal p v
theorem State.flushTouch_deal (pa n : Nat) (need : BitVec 2) : (s.deal p).flushTouch pa n need = (s.flushTouch pa n need).deal p := by
  unfold State.flushTouch
  rw [State.flushFor_deal, State.flushFor_deal, State.deal_ite]
  rfl
theorem State.checkMsc_deal (ln : Nat) (need : BitVec 2) (kind : Nat) :
    (s.deal p).checkMsc ln need kind = (s.checkMsc ln need kind).deal p := by
  unfold State.checkMsc
  rw [← Res.deal_ite, State.checkSectors_deal, Res.bind_deal p fun _ s => s.checkSectors_deal p ..]
  rfl
theorem State.mscRead_deal (pa n kind : Nat) : (s.deal p).mscRead pa n kind = (s.mscRead pa n kind).deal p := by
  unfold State.mscRead
  dsimp only
  rw [← Res.deal_ite, memoryError_deal, State.mscBar_deal]
  refine if_congr Iff.rfl rfl ?_
  cases s.mscBar (lineOf pa) false with
  | some x => exact congrArg Res.wait (s.askHostOff_deal p ..)
  | none =>
    dsimp only
    rw [State.checkMsc_deal]
    refine Res.bind_deal p (fun _ s => ?_) _
    rw [State.mscMake_deal, State.flushTouch_deal, State.mscMiss_deal, State.filledMsc_deal, State.coverFresh_deal]
    rfl
theorem State.mscWrite_deal (pa n kind : Nat) (v : BitVec 512) : (s.deal p).mscWrite pa n kind v = (s.mscWrite pa n kind v).deal p := by
  unfold State.mscWrite
  dsimp only
  rw [← Res.deal_ite, memoryError_deal, State.mscBar_deal]
  refine if_congr Iff.rfl rfl ?_
  cases s.mscBar (lineOf pa) true with
  | some x => exact congrArg Res.wait (s.askHostOff_deal p ..)
  | none =>
    dsimp only
    rw [State.checkMsc_deal]
    refine Res.bind_deal p (fun _ s => ?_) _
    rw [State.mscMake_deal, State.flushTouch_deal, State.mscMiss_deal, State.coverFresh_deal, State.writtenMsc_deal, State.setMsc_deal,
      State.wake_deal]
    rfl
theorem State.mscMerge_deal (ln : Nat) (d : BitVec 512) (sec : BitVec 2) : (s.deal p).mscMerge ln d sec = (s.mscMerge ln d sec).deal p := by
  unfold State.mscMerge
  dsimp only
  rw [State.log_deal, State.mscMake_deal, State.coverFresh_deal, State.flushFor_deal, State.deal_ite, State.flushFor_deal, State.deal_ite,
    State.setMsc_deal, State.wake_deal, State.deal_ite, State.deal_ite]
  rfl

/-! ### Island caches (R53, R56, R59) -/

theorem State.setL2_deal (d ln : Nat) (l : CLine) : (s.deal p).setL2 d ln l = (s.setL2 d ln l).deal p := rfl
theorem State.putL1_deal (c ln : Nat) (l : CLine) : (s.deal p).putL1 c ln l = (s.putL1 c ln l).deal p := rfl
theorem State.updFar_deal (c : Nat) (f : Far → Far) : (s.deal p).updFar c f = (s.updFar c f).deal p := rfl
theorem State.updIsland_deal (d : Nat) (f : Island → Island) : (s.deal p).updIsland d f = (s.updIsland d f).deal p := rfl
theorem State.pbForget_deal (c ln : Nat) : (s.deal p).pbForget c ln = (s.pbForget c ln).deal p := by
  unfold State.pbForget
  rw [← State.deal_ite]
  rfl
theorem State.l1Clean_deal (c ln : Nat) (drop : Bool) (own : Option Agent) :
    (s.deal p).l1Clean c ln drop own = (s.l1Clean c ln drop own).deal p := by
  unfold State.l1Clean
  dsimp only
  rw [State.errorOut_deal, State.coverFresh_deal, State.setL2_deal, State.deal_ite, State.pbForget_deal, State.updFar_deal, State.putL1_deal,
    State.deal_ite, State.deal_ite]
  rfl
theorem State.l1CleanAll_deal (d ln : Nat) (drop : Bool) (own : Option Agent) :
    (s.deal p).l1CleanAll d ln drop own = (s.l1CleanAll d ln drop own).deal p :=
  foldl_deal p (fun s c => s.l1Clean_deal p c ln drop own) _ s
theorem State.lineToHost_deal (d ln : Nat) (data : BitVec 512) (sec : BitVec 2) :
    (s.deal p).lineToHost d ln data sec = (s.lineToHost d ln data sec).deal p := by
  unfold State.lineToHost
  rw [← State.deal_ite]
  rfl
theorem State.l2Clean_deal (d ln : Nat) (drop : Bool) (own : Option Agent) :
    (s.deal p).l2Clean d ln drop own = (s.l2Clean d ln drop own).deal p := by
  unfold State.l2Clean
  dsimp only
  rw [State.errorOut_deal, State.lineToHost_deal, State.mscMerge_deal, State.deal_ite, State.deal_ite, State.updIsland_deal, State.setL2_deal,
    State.deal_ite, State.deal_ite]
  rfl
theorem State.cleanTry_deal (d ln : Nat) (drop : Bool) (own : Option Agent) :
    (s.deal p).cleanTry d ln drop own = (s.cleanTry d ln drop own).deal p := by
  unfold State.cleanTry
  rw [State.cleanBar_deal]
  cases s.cleanBar d ln with
  | some x => exact congrArg Res.wait (s.backInvalidate_deal p x)
  | none =>
    refine congrArg (Res.ok ()) ?_
    unfold State.islandClean
    rw [State.l1CleanAll_deal, State.l2Clean_deal]
/-- An atomic at the memory-side cache. -/
theorem State.amoM_deal (d pa n : Nat) (f : Nat → Option Nat) (own : Option Agent) :
    (s.deal p).amoM d pa n f own = (s.amoM d pa n f own).deal p := by
  unfold State.amoM
  dsimp only
  rw [State.mscBar_deal]
  cases s.mscBar (lineOf pa) true with
  | some x => exact congrArg Res.wait (s.backInvalidate_deal p x)
  | none =>
    dsimp only
    rw [State.cleanTry_deal]
    refine Res.bind_deal p (fun _ s => ?_) _
    rw [State.mscRead_deal]
    refine Res.bind_deal p (fun v s => ?_) _
    cases f v.toNat with
    | none => rfl
    | some w =>
      dsimp only
      rw [State.wake_deal, State.mscWrite_deal]
      exact Res.bind_deal p (fun _ _ => rfl) _

/-! ### The anchor clean of a dispatch (R121) -/

theorem State.lineOut_deal (d ln : Nat) : (s.deal p).lineOut d ln = (s.lineOut d ln).deal p := by
  unfold State.lineOut
  rw [State.cleanTry_deal, State.l1CleanAll_deal, ← Res.deal_ite]
  rfl
theorem eachLine_deal {f : State → Nat → Res Unit} (hf : ∀ s ln, f (s.deal p) ln = (f s ln).deal p) (l : List Nat) (s : State) :
    eachLine f l (s.deal p) = (eachLine f l s).deal p :=
  List.foldl_hom (g₁ := fun r ln => r.bind fun _ s => f s ln) (init := .ok () s) (Res.deal · p)
    fun r ln => Res.bind_deal p (fun _ s => hf s ln) r
theorem State.anchorClean_deal (t : Task) : (s.deal p).anchorClean t = (s.anchorClean t).deal p := by
  refine eachLine_deal p (fun s ln => ?_) _ s
  rw [State.lineOut_deal]
  refine Res.bind_deal p (fun _ s => ?_) _
  rw [State.wake_deal]
  rfl

/-! ### Status notices (R168 to R170) -/

theorem State.dropStale_deal (d : Option Nat) (sender : Nat) (inc : BitVec 16) :
    (s.deal p).dropStale d sender inc = (s.dropStale d sender inc).deal p := s.log_deal p ..
theorem State.slotIn_deal (core ch : Nat) (d : BitVec 512) : (s.deal p).slotIn core ch d = (s.slotIn core ch d).deal p := by
  unfold State.slotIn
  dsimp only
  simp only [State.setFar_hart_at, State.hart_deal]
  cases (s.hart (.far core)).wait with
  | none => rfl
  | some w =>
    dsimp only
    rw [← State.deal_ite]
    rfl
theorem State.acceptOwn_deal (m : Msg) : (s.deal p).acceptOwn m = (s.acceptOwn m).deal p := by
  unfold State.acceptOwn
  rw [State.ctx_deal]
  cases s.ctx m.ctx with
  | none => exact s.log_deal p ..
  | some x =>
    dsimp only
    rw [← State.deal_ite, State.log_deal]
    refine if_congr Iff.rfl rfl ?_
    rw [State.placedOn_deal]
    cases s.placedOn m.ctx m.vcore with
    | none => rfl
    | some core =>
      dsimp only
      rw [← State.deal_ite, ← State.deal_ite, State.dropStale_deal, ← State.slotIn_deal]
      rfl
theorem State.notice_deal (ctx vcore kind nvcore wher : Nat) (body : BitVec 448) :
    (s.deal p).notice ctx vcore kind nvcore wher body = (s.notice ctx vcore kind nvcore wher body).deal p := by
  unfold State.notice State.deliverOwn
  generalize ({ ctx := ctx, vcore := vcore, ch := 15, data := noticeData kind nvcore wher body, src := 0, own := true } : Msg) = m
  rw [State.placedOn_deal]
  cases s.placedOn m.ctx m.vcore with
  | none => exact s.acceptOwn_deal p m
  | some core =>
    dsimp only
    rw [← State.deal_ite, ← State.acceptOwn_deal]
    rfl

/-! ### So they leave those parts as they were -/

variable {s}

/-- An operation that commutes with every exchange of the parts keeps them. -/
theorem dealing_of_deal {t : State} (h : t = t.deal s.dealing) : t.dealing = s.dealing := h ▸ rfl
theorem State.log_dealing (s : State) (kind unit cls id addr detail die : Nat) :
    (s.log kind unit cls id addr detail die).dealing = s.dealing := dealing_of_deal (s.log_deal s.dealing ..)
theorem State.notice_dealing (s : State) (ctx vcore kind nvcore wher : Nat) (body : BitVec 448) :
    (s.notice ctx vcore kind nvcore wher body).dealing = s.dealing := dealing_of_deal (s.notice_deal s.dealing ..)
theorem Res.dealing_of_deal {x : Res α} {a : α} {t : State} (h : x = x.deal s.dealing) (hx : x = .ok a t) : t.dealing = s.dealing := by
  rw [hx] at h
  injection h with _ ht
  exact Machine.dealing_of_deal ht
theorem State.amoM_dealing {d pa n : Nat} {f : Nat → Option Nat} {own : Option Agent} {old : Nat} {t : State}
    (h : s.amoM d pa n f own = .ok old t) : t.dealing = s.dealing := Res.dealing_of_deal (s.amoM_deal s.dealing ..) h

end Sys2Proof.Machine
end

section
/-! The command processor (R163 to R166, R309, R329): a record that is taken, a launch that fails, one that comes to its end, and the settling
of LaunchEvents. -/
namespace Sys2Proof.Machine
variable {s u v r t : State} {part i assigned : Nat} {l : Launch}

/-! ### A delivered task changes no launch (R160, R161) -/

@[simp] theorem State.stealDrop_hub (s : State) (core home : Nat) : (s.stealDrop core home).hub = s.hub := by
  unfold State.stealDrop
  dsimp only
  split <;> rfl
@[simp] theorem State.autoCancel_hub (s : State) (core : Nat) : (s.autoCancel core).hub = s.hub := by
  unfold State.autoCancel
  cases (s.far core).autoHome with
  | none => rfl
  | some h =>
    dsimp only
    split
    · rfl
    · exact s.stealDrop_hub core h
@[simp] theorem State.autoCancelAll_hub (s : State) (ctx : Nat) (here : Nat → Bool) : (s.autoCancelAll ctx here).hub = s.hub := by
  unfold State.autoCancelAll
  generalize s.fars = l
  induction l generalizing s with
  | nil => rfl
  | cons p l ih =>
    rw [List.foldl_cons, ih]
    split
    · exact s.autoCancel_hub p.1
    · rfl
theorem State.clusterRoom_hub {cl ctx need : Nat} (h : s.clusterRoom cl ctx need = some t) : t.hub = s.hub := by
  unfold State.clusterRoom at h
  dsimp only at h
  split_ifs at h
  · cases h
    rfl
  · cases h
    simp
theorem State.coreRoom_hub {core ctx : Nat} (h : s.coreRoom core ctx = some t) : t.hub = s.hub := by
  unfold State.coreRoom at h
  dsimp only at h
  split_ifs at h
  · cases h
    rfl
  · split at h
    · cases h
    · next hroom =>
      cases h
      simp [State.clusterRoom_hub hroom]
theorem State.coreEnqueue_hub {core : Nat} {x : Task} (h : s.coreEnqueue core x = some t) : t.hub = s.hub := by
  unfold State.coreEnqueue at h
  cases hroom : s.coreRoom core x.ctx with
  | none => simp [hroom] at h
  | some w =>
    rw [← State.coreRoom_hub hroom]
    simp only [hroom] at h
    split at h
    · split_ifs at h
      all_goals
        cases h
        simp
    · cases h
      simp
/-- A task that is delivered leaves the pointers of the command processors. -/
theorem State.taskDeliver_cpPtr {sender : Option (Nat × Nat)} {vcore : Nat} {x : Task} (h : s.taskDeliver sender vcore x = .done t) :
    t.hub.cpPtr = s.hub.cpPtr := by
  have hdead (body : BitVec 448) (ctx : Nat) : (s.deadLetter sender 2 vcore 0 ctx body).hub.cpPtr = s.hub.cpPtr := by
    unfold State.deadLetter
    cases sender with
    | none => exact (congrArg Dealing.cpPtr (s.log_dealing 11 0 5 0 0 ctx 0) :)
    | some c => exact (congrArg Dealing.cpPtr (s.notice_dealing c.1 c.2 2 vcore 0 body) :)
  have hspill (x : Context) (e : Spill) (c : Nat)
      (he : (if x.spillRoom then Delivered.done (s.setCtx c { x with spill := x.spill ++ [e] }) else .full) = .done t) :
      t.hub.cpPtr = s.hub.cpPtr := by
    split at he
    · cases he
      rfl
    · cases he
  unfold State.taskDeliver at h
  cases hctx : s.ctx x.ctx with
  | none =>
    simp only [hctx] at h
    cases h
    exact hdead ..
  | some y =>
    simp only [hctx] at h
    split at h
    · cases h
      exact hdead ..
    · split at h
      · exact hspill _ _ _ h
      · cases hplaced : s.placedOn x.ctx vcore with
        | none =>
          simp only [hplaced] at h
          exact hspill _ _ _ h
        | some core =>
          cases henter : s.coreEnqueue core x with
          | none =>
            simp only [hplaced, henter] at h
            exact hspill _ _ _ h
          | some w =>
            simp only [hplaced, henter] at h
            cases h
            rw [State.coreEnqueue_hub henter]

/-! ### A launch that leaves the hub -/

theorem mget_mdel_same {α : Type} (dflt : Nat → α) (m : FMap α) (k : Nat) : mget dflt (mdel m k) k = dflt k :=
  mget_absent dflt _ k fun p hp => by simpa using (List.mem_filter.mp hp).2
theorem State.dropLaunch_gone (s : State) (part : Nat) : mget (fun _ => none) (s.dropLaunch part).hub.launches part = none :=
  mget_mdel_same ..
/-- A compare-and-swap of an arm word leaves the pointers of the command processors. -/
theorem State.armSwap_cpPtr {pa z : Nat} {old new : Word} (h : s.armSwap pa old new = .ok z r) : r.hub.cpPtr = s.hub.cpPtr :=
  congrArg Dealing.cpPtr (State.amoM_dealing h)

/-! ### Status notices leave memory as it was -/

@[simp] theorem State.slotIn_mem (s : State) (core ch : Nat) (d : BitVec 512) : (s.slotIn core ch d).mem = s.mem := by
  unfold State.slotIn
  dsimp only
  split
  · split <;> rfl
  · rfl
@[simp] theorem State.acceptOwn_mem (s : State) (m : Msg) : (s.acceptOwn m).mem = s.mem := by
  unfold State.acceptOwn
  cases s.ctx m.ctx with
  | none => simp
  | some x =>
    dsimp only
    split
    · simp
    · cases s.placedOn m.ctx m.vcore with
      | none => rfl
      | some core =>
        dsimp only
        split_ifs
        · exact s.log_mem ..
        · rfl
        · exact State.slotIn_mem ..
@[simp] theorem State.notice_mem (s : State) (ctx vcore kind nvcore wher : Nat) (body : BitVec 448) :
    (s.notice ctx vcore kind nvcore wher body).mem = s.mem := by
  unfold State.notice State.deliverOwn
  dsimp only
  split
  · split
    · rfl
    · simp
  · simp

/-! ### A record that is taken (R164, R329) -/

/-- The pool of a partition after record `i` has been taken: its pointer has moved past the record, whose launch stands in the hub. -/
def State.launched (s : State) (part i : Nat) (l : Launch) : State :=
  (s.updHub fun h => { h with cpPtr := mput h.cpPtr part ((i + 1) % 4096) }).setLaunch part l
theorem State.launched_cpPtr (s : State) (part i : Nat) (l : Launch) :
    mget (fun _ => 0) (s.launched part i l).hub.cpPtr part = (i + 1) % 4096 := mget_mput_same ..
/-- A record that the command processor takes is checked and launched from there on. -/
theorem State.launchTake_eq {ws : List Word} (hbusy : s.hub.partBusy = false) (hstage : s.hub.stage = 3) (hpart : part < s.partCount)
    (hfree : s.launchFree part = true)
    (hturn : firstFrom 4096 (mget (fun _ => 0) s.hub.cpPtr part) (s.launchArmed part) = some i)
    (hwords : s.recordWords (s.launchPa part i) = .ok ws u)
    (hl : l = { index := i, pa := s.launchPa part i, ctx := bits (ws.getD 7 0) 5 0, words := ws })
    (hswap : u.armSwap l.pa (l.word 0) l.taken = .ok (l.word 0).toNat v) :
    s.launchTake part i assigned =
      (v.launched part i { l with failed := v.launchFlaw assigned l }).launchStep part { l with failed := v.launchFlaw assigned l } := by
  unfold State.launchTake
  dsimp only
  rw [if_neg (by simp [hbusy, hstage, hpart, hfree, hturn]), hwords]
  subst hl
  dsimp only [Res.bind]
  rw [hswap]
  dsimp only [Res.bind]
  rw [if_pos rfl]
  rfl

/-! ### The end of a launch (R166) -/

section
variable {z : Nat}

/-- A record that fails leaves the hub, its arm word FAILED, with a notice to the context that its index is assigned to. -/
theorem State.launchStep_fails {cause : Nat} (hfailed : l.failed = some (cause, 0, some assigned))
    (hswap : s.armSwap l.pa l.taken (BitVec.ofNat 64 (cause * 2 ^ 24 + 4)) = .ok z r) :
    ∃ body, s.launchStep part l = (r.dropLaunch part).notice assigned 0 4 0 l.index body := by
  unfold State.launchStep State.launchFail
  simp only [hfailed, Nat.zero_mul, Nat.zero_add, hswap]
  exact ⟨_, rfl⟩
/-- A launch whose anchors have been checked goes on. -/
theorem State.launchStep_checked (hfailed : l.failed = none) (hchecked : l.unchecked = false) : s.launchStep part l = s.launchOn part l := by
  unfold State.launchStep
  simp only [hfailed, hchecked, Bool.not_false, if_true]

section
variable {y : Context} (hctx : (s.ctx l.ctx).getD {} = y) (hcount : l.count = l.next + 1)
include hctx hcount

/-- The last task of a launch has been dealt out: the arm word becomes DONE, and the launch leaves the hub. -/
theorem State.launchOn_last {l' : Launch} (hgo : s.launchGo (part % 4) l y 1 = (t, l')) (hnext : l'.next = l.next + 1)
    (hswap : t.armSwap l.pa l.taken 3 = .ok z r) :
    s.launchOn part l =
      if l.len = 0 then (r.dropLaunch part).updCtx l.ctx fun c => { c with rr := (c.rr + l.count) % max 1 c.nv } else r.dropLaunch part := by
  unfold State.launchOn
  dsimp only
  rw [hctx, hcount, Nat.add_sub_cancel_left, hgo]
  dsimp only
  rw [if_neg (by omega), hswap]
  rfl
end

/-- An unanchored task that is delivered. -/
theorem State.launchGo_unanchored {hub : Nat} {y : Context} (hmore : l.next < l.count) (hlen : l.len = 0)
    (hgo : s.taskDeliver none (l.task l.next (max 1 y.nv) y.rr).vcore (l.task l.next (max 1 y.nv) y.rr) = .done t) :
    s.launchGo hub l y 1 = (t, { l with next := l.next + 1 }) := by
  have hanchored : (l.task l.next (max 1 y.nv) y.rr).anchored = false := by simp [Launch.task, hlen]
  simp only [State.launchGo, if_neg (Nat.not_le.mpr hmore), hanchored, Bool.false_eq_true, if_false, hgo]
/-- An anchored task that is appended, where its queue has room. -/
theorem State.launchGo_anchored {hub : Nat} {y : Context} (hmore : l.next < l.count) (hlen : l.len ≠ 0) {x : Task}
    (hx : l.task l.next (max 1 y.nv) y.rr = x) (hqueue : ((s.home x.home).queueAt x.queue).ctx = some x.ctx)
    (hroom : s.queueRoom x.home x.queue 0 = true) :
    s.launchGo hub l y 1 =
      (s.updHome x.home fun h => { h with arrivals := h.arrivals ++ [{ src := 8192 + hub, items := [(x.queue, x)] }] },
        { l with next := l.next + 1 }) := by
  have hanchored : x.anchored = true := by
    rw [← hx]
    simp [Launch.task, hlen]
  simp only [State.launchGo, if_neg (Nat.not_le.mpr hmore), hx, hanchored, if_true, hqueue, ne_eq, not_true_eq_false, if_false, hroom]
end

/-! ### The two events -/

/-- What LAUNCH_TAKE leaves of a record that it has taken and that has come to its end: the pointer has moved past it, its launch has left the
hub, and memory is as the last write of its arm word has left it. -/
def Retired (t r : State) (part i : Nat) : Prop :=
  mget (fun _ => 0) t.hub.cpPtr part = (i + 1) % 4096 ∧ mget (fun _ => none) t.hub.launches part = none ∧
    ∀ y, memByte t.mem y = memByte r.mem y

/-- A record that fails before its anchors are looked at. -/
theorem retired_of_fails {cause z : Nat} {l : Launch} (hfailed : l.failed = some (cause, 0, some assigned))
    (hswap : (v.launched part i l).armSwap l.pa l.taken (BitVec.ofNat 64 (cause * 2 ^ 24 + 4)) = .ok z r) :
    Retired ((v.launched part i l).launchStep part l) r part i := by
  obtain ⟨body, hfail⟩ := State.launchStep_fails (part := part) hfailed hswap
  have hdealing := (r.dropLaunch part).notice_dealing assigned 0 4 0 l.index body
  rw [hfail]
  refine ⟨?_, ?_, fun y => by rw [State.notice_mem]; rfl⟩
  · have hptr := congrArg Dealing.cpPtr hdealing
    refine (congrArg (mget (fun _ => 0) · part) hptr).trans ?_
    exact (congrArg (mget (fun _ => 0) · part) (State.armSwap_cpPtr hswap)).trans (v.launched_cpPtr ..)
  · exact (congrArg (mget (fun _ => none) · part) (congrArg Dealing.launches hdealing)).trans (r.dropLaunch_gone part)
/-- A record of one unanchored task that has been delivered. -/
theorem retired_of_unanchored {z : Nat} {l : Launch} {y : Context} {q : State} (hfailed : l.failed = none) (hctx : (v.ctx l.ctx) = some y)
    (hnext : l.next = 0) (hlen : l.len = 0) (hcount : l.count = 1)
    (hdeliver : (v.launched part i l).taskDeliver none (l.task 0 (max 1 y.nv) y.rr).vcore (l.task 0 (max 1 y.nv) y.rr) = .done q)
    (hswap : q.armSwap l.pa l.taken 3 = .ok z r) :
    Retired ((v.launched part i l).launchStep part l) r part i := by
  have hgo := State.launchGo_unanchored (hub := part % 4) (y := y) (l := l) (by omega) hlen (by rwa [hnext])
  have hctx' : (v.ctx l.ctx).getD {} = y := by rw [hctx, Option.getD_some]
  have hon := State.launchOn_last (part := part) (s := v.launched part i l) hctx' (by omega) hgo rfl hswap
  rw [State.launchStep_checked hfailed (by simp [Launch.unchecked, hlen]), hon, if_pos hlen]
  have hrest (f : Context → Context) : ∃ c, (r.dropLaunch part).updCtx l.ctx f = { r.dropLaunch part with ctxs := c } := by
    unfold State.updCtx
    split
    · exact ⟨_, rfl⟩
    · exact ⟨_, rfl⟩
  obtain ⟨c, hc⟩ := hrest fun c => { c with rr := (c.rr + l.count) % max 1 c.nv }
  rw [hc]
  refine ⟨?_, r.dropLaunch_gone part, fun _ => rfl⟩
  have hptr : r.hub.cpPtr = (v.launched part i l).hub.cpPtr := (State.armSwap_cpPtr hswap).trans (State.taskDeliver_cpPtr hdeliver)
  exact (congrArg (mget (fun _ => 0) · part) hptr).trans (v.launched_cpPtr ..)

/-- Settles O52: LAUNCH_TAKE by the record's first flaw, LAUNCH_RESUME by the last task of its launch. -/
theorem launchEvents : Obligations.LaunchEvents := by
  unfold Obligations.LaunchEvents
  intro s u v r q part i assigned ws l old z y pa w0 gone
  refine ⟨fun hbusy hstage hpart hfree hturn hwords hl hswap => ?_, fun hl hfailed hlen hcount hbases => ?_, fun hl => ?_⟩
  · have hword : l.word 0 = w0 := by rw [hl]; rfl
    have hpa : l.pa = pa := by rw [hl]
    have htake := State.launchTake_eq (assigned := assigned) hbusy hstage hpart hfree hturn hwords hl (by rwa [hpa, hword])
    have hfails : ∀ cause, v.launchFlaw assigned l = some (cause, 0, some assigned) →
        (v.launched part i { l with failed := some (cause, 0, some assigned) }).armSwap l.pa l.taken
          (BitVec.ofNat 64 (cause * 2 ^ 24 + 4)) = .ok z r →
        ∃ t, exec (.launchTake part i assigned) s = .next t ∧ Retired t r part i := by
      intro cause hflaw hfail
      rw [hflaw] at htake
      exact ⟨_, exec_launchTake .., htake ▸ retired_of_fails (l := { l with failed := some (cause, 0, some assigned) }) rfl hfail⟩
    refine ⟨fun hres hfail => ?_, fun hres hctx hfail => ?_, fun hres hctx hy hst hlen hcount hdeliver hdone => ?_⟩
    · exact hfails 5 (by simp [State.launchFlaw, hres]) hfail
    · exact hfails 6 (by simp [State.launchFlaw, hres, hctx]) hfail
    · subst hctx
      have hflaw : v.launchFlaw l.ctx l = none := by simp [State.launchFlaw, hres, hst, hy]
      have hnone : l.failed = none := by rw [hl]
      have hsame : { l with failed := none } = l := by rw [← hnone]
      rw [hflaw, hsame] at htake
      exact ⟨_, exec_launchTake .., htake ▸ retired_of_unanchored hnone hy (by rw [hl]) hlen hcount (hsame ▸ hdeliver) hdone⟩
  · intro t0 hqueue hroom x hdone
    have hchecked : l.unchecked = false := by simp [Launch.unchecked, hbases]
    have hgo := State.launchGo_anchored (hub := part % 4) (l := l) (y := (s.ctx l.ctx).getD {}) (by omega) hlen rfl hqueue hroom
    have hon := State.launchOn_last (part := part) rfl hcount hgo rfl hdone
    rw [if_neg hlen] at hon
    refine ⟨r.dropLaunch part, ?_, r.dropLaunch_gone part, rfl, fun _ => rfl⟩
    rw [exec_launchResume, execLaunchResume, hl]
    exact congrArg Host.Outcome.next ((State.launchStep_checked hfailed hchecked).trans hon)
  · rw [exec_launchResume, execLaunchResume, hl]
    rfl

end Sys2Proof.Machine
end

section
/-! What the maps, the tail of a queue and the registers of a dispatch come to: the small facts of the task events (R154, R158, R331). -/
namespace Sys2Proof.Machine
variable {s : State} {h core : Nat}

/-! ### Queues of a home -/

/-- What a change of every listed value leaves alone, it leaves alone in the value at each key. -/
theorem mget_mmap_proj {α β : Type} {g : α → β} {f : Nat → α → α} (hf : ∀ k v, g (f k v) = g v) (dflt : Nat → α) (m : FMap α)
    (k : Nat) :
    g (mget dflt (mmap f m) k) = g (mget dflt m k) := by
  induction m with
  | nil => rfl
  | cons p m ih =>
    obtain ⟨j, v⟩ := p
    show g (if j = k then f j v else mget dflt (mmap f m) k) = g (if j = k then v else mget dflt m k)
    split
    · exact hf j v
    · exact ih
@[simp] theorem Home.ageAll_tasks (x : Home) (l : List Nat) (q : Nat) : ((x.ageAll l).queueAt q).tasks = (x.queueAt q).tasks := by
  unfold Home.ageAll Home.queueAt
  dsimp only
  refine mget_mmap_proj (g := Queue.tasks) (fun k v => ?_) _ _ q
  split <;> rfl
@[simp] theorem Home.ageAll_counter (x : Home) (l : List Nat) (q : Nat) : ((x.ageAll l).queueAt q).counter = (x.queueAt q).counter := by
  unfold Home.ageAll Home.queueAt
  dsimp only
  refine mget_mmap_proj (g := Queue.counter) (fun k v => ?_) _ _ q
  split <;> rfl
@[simp] theorem Home.setQueue_queueAt (x : Home) (q : Nat) (v : Queue) : (x.setQueue q v).queueAt q = v := mget_mput_same ..
/-- The tail of a queue that has no exclusion gives as many tasks as are asked for (R158). -/
theorem takeTail_free (n : Nat) (l running : List Task) : takeTail false n l running = (l.take n, l.drop n) := by
  induction n generalizing l running with
  | zero => rfl
  | succ n ih =>
    cases l with
    | nil => rfl
    | cons t l => simp [takeTail, eligible, ih]

/-! ### The registers of a dispatch (R154) -/

/-- The scalar registers that a task finds: its anchor, its arguments, its number and the kind of its runner. -/
theorem Hart.dispatch_reg (g : Hart) (t : Task) (kind : Word) :
    (g.dispatch t kind).reg 1 = (if t.anchored then t.base else 0) ∧
    (g.dispatch t kind).reg 2 = (if t.anchored then BitVec.ofNat 64 t.len else 0) ∧ (g.dispatch t kind).reg 3 = t.arg0 ∧
    (g.dispatch t kind).reg 4 = t.arg1 ∧ (g.dispatch t kind).reg 5 = t.seq.zeroExtend 64 ∧ (g.dispatch t kind).reg 6 = kind := by
  have hregs : ∀ r, (g.dispatch t kind).reg r = ((((((g.setReg 1 (if t.anchored then t.base else 0)).setReg 2
      (if t.anchored then BitVec.ofNat 64 t.len else 0)).setReg 3 t.arg0).setReg 4 t.arg1).setReg 5 (t.seq.zeroExtend 64)).setReg 6 kind).reg r :=
    fun _ => rfl
  simp [hregs, Hart.setReg_reg]
@[simp] theorem Hart.dispatch_ctxid (g : Hart) (t : Task) (kind : Word) : (g.dispatch t kind).ctxid = g.ctxid := by
  simp [Hart.dispatch]

end Sys2Proof.Machine
end

section
/-! HOME_CYCLE (R156 to R158, R330, R331): the arrivals, the steal request whose turn it is, and the placement on a free context. -/
namespace Sys2Proof.Machine
variable {s v : State} {h q c : Nat} {t0 : Task}

/-! ### Step 1: arrivals -/

/-- A home to which nothing has been sent is as it was. -/
theorem State.homeArrive_nil (harrivals : (s.home h).arrivals = []) : s.homeArrive h = s.setHome h (s.home h) := by
  have hsame : { s.home h with arrivals := [] } = s.home h := by rw [← harrivals]
  unfold State.homeArrive
  simp only [harrivals, List.foldl_nil, hsame]
/-- One record that has arrived enters its queue with the next number. -/
theorem State.homeArrive_one {a : Arrival} (harrivals : (s.home h).arrivals = [a]) (hitems : a.items = [(q, t0)]) (hsrc : a.src ≠ returnSrc)
    (hfresh : s.arrivalStale h a = false) (hbound : ((s.home h).queueAt q).ctx = some t0.ctx) :
    let u := (s.home h).queueAt q
    s.homeArrive h = (s.setHome h { s.home h with arrivals := [] }).setHome h (({ s.home h with arrivals := [] } : Home).setQueue q
      { u with tasks := u.tasks ++ [{ t0 with seq := u.counter, pri := u.pri }], counter := u.counter + 1 }) := by
  have hkeep : (a.src == returnSrc) = false := by simpa using hsrc
  have hstale : (s.setHome h { s.home h with arrivals := [] }).arrivalStale h a = false := hfresh
  have hqueue : ({ s.home h with arrivals := [] } : Home).queueAt q = (s.home h).queueAt q := rfl
  unfold State.homeArrive
  simp only [harrivals, List.foldl_cons, List.foldl_nil, arrivalInsert, hstale, hitems, hkeep, Bool.false_eq_true, if_false]
  unfold State.appendTask
  simp only [State.setHome_home, hqueue, hbound, if_true, Bool.false_eq_true, if_false]

/-! ### Step 2: the steal request whose turn it is -/

theorem State.homeGrant_nil (hsteals : (s.home h).steals = []) : s.homeGrant h = (s, none) := by
  unfold State.homeGrant
  simp only [hsteals, List.map_nil, nearestFrom, List.foldl_nil]
/-- A queue from which a core of a context may steal: it holds more tasks than its threshold keeps (R158). -/
def State.stealable (s : State) (x : Home) (ctx q : Nat) : Bool :=
  (x.queueAt q).ctx == some ctx && s.dispatches ctx && decide ((x.queueAt q).t < 255) && decide ((x.queueAt q).t < (x.queueAt q).tasks.length)
/-- The one request is granted the youngest tasks above the threshold of the best queue. -/
theorem State.homeGrant_one {r : StealReq} {u : Queue} {n : Nat} (hsteals : (s.home h).steals = [r])
    (hbest : (s.home h).bestQueue (s.home h).qPtr (s.stealable (s.home h) r.ctx) = some q) (hu : (s.home h).queueAt q = u)
    (hn : min (u.tasks.length - u.t) (min r.count 8) = n) (hcount : 0 < r.count) (hfree : u.excl = false) (habove : u.t < u.tasks.length) :
    let given := (u.tasks.reverse.take n).map fun y => { y with entry := u.farPc }
    s.homeGrant h = ({ s.setHome h { (s.home h).setQueue q { u with tasks := (u.tasks.reverse.drop n).reverse } with
        running := (s.home h).running ++ given, steals := [], stealPtr := (r.core + 1) % 4096, qPtr := (q + 1) % 16 } with
      grants := s.grants ++ [{ core := r.core, tasks := given, home := h, inc := s.incOf (h / 64), cinc := s.sentInc r.core }] }, some q) := by
  have hbest' : (s.home h).bestQueue (s.home h).qPtr (fun q => (s.home h |>.queueAt q).ctx == some r.ctx && s.dispatches r.ctx &&
      decide (((s.home h).queueAt q).t < 255) && decide (((s.home h).queueAt q).t < ((s.home h).queueAt q).tasks.length)) = some q := hbest
  have hsome : (u.tasks.reverse.take n).isEmpty = false := by
    rw [List.isEmpty_eq_false_iff, ← List.length_pos_iff, List.length_take, List.length_reverse]
    omega
  have htake (running : List Task) : takeTail u.excl n u.tasks.reverse running = (u.tasks.reverse.take n, u.tasks.reverse.drop n) := by
    rw [hfree, takeTail_free]
  have hfilter : [r].filter (fun y => y.core != r.core) = [] := by simp
  unfold State.homeGrant
  simp only [hsteals, List.map_cons, List.map_nil, nearestFrom, List.foldl_cons, List.foldl_nil, List.find?_cons, beq_self_eq_true, hbest', hu,
    hn, htake, hsome, hfilter, Bool.false_eq_true, if_false]

/-! ### Step 3: a placement -/

/-- A busy context takes no task. -/
theorem State.homePlace_busy (hbusy : (s.near h c).task.isSome = true) : s.homePlace h c = (s, none) :=
  if_pos (by simp [hbusy])
/-- A queue that has a task for a free near context (R158). -/
def State.placeable (s : State) (x : Home) (q : Nat) : Bool :=
  match (x.queueAt q).ctx with
  | some k => s.dispatches k && (x.queueAt q).tasks.any (eligible (x.queueAt q).excl x.running)
  | none => false
/-- A free context takes the first eligible task of the best queue, once the task's anchor is clean. -/
theorem State.homePlace_free {u : Queue} (hfree : (s.near h c).task = none) (hlive : s.nearLive h = true)
    (hbest : (s.home h).bestQueue (s.home h).nearPtr (s.placeable (s.home h)) = some q) (hu : (s.home h).queueAt q = u)
    (hfirst : u.tasks.find? (eligible u.excl (s.home h).running) = some t0) (hclean : s.anchorClean { t0 with entry := u.nearPc } = .ok () v) :
    s.homePlace h c = ((v.setHome h { (v.home h).setQueue q { u with tasks := u.tasks.erase t0 } with
        running := (v.home h).running ++ [{ t0 with entry := u.nearPc }], nearPtr := (q + 1) % 16 }).nearDispatch h c { t0 with entry := u.nearPc },
      some q) := by
  unfold State.homePlace
  dsimp only
  rw [if_neg (by simp [hfree, hlive])]
  split
  · next hnone => exact absurd (hnone.symm.trans hbest) (by simp)
  · next q' hq' =>
    obtain rfl : q' = q := Option.some.inj (hq'.symm.trans hbest)
    simp only [hu, hfirst, hclean]

/-! ### The cycle -/

/-- A home cycle by its steps; what ages afterwards are the queues that no step has taken from (R331). -/
theorem State.homeCycle_steps {s1 s2 s3 s4 : State} {g p q : Option Nat} (harrive : s.homeArrive h = s1) (hgrant : s1.homeGrant h = (s2, g))
    (hplace : s2.homePlace h 0 = (s3, p)) (hplace' : s3.homePlace h 1 = (s4, q)) :
    s.homeCycle h = s4.setHome h ((s4.home h).ageAll (g.toList ++ p.toList ++ q.toList)) := by
  simp only [State.homeCycle, harrive, hgrant, hplace, hplace', State.updHome_eq]

end Sys2Proof.Machine
end

section
/-! Steals and far cores (R159 to R162, R332, R333): requests and grants that arrive, a core that takes a task, and a request that is
withdrawn. -/
namespace Sys2Proof.Machine
variable {s v : State} {h core k q : Nat} {t0 : Task}

/-! ### A placement and what it leaves -/

/-- A task that begins on a near context (R154). -/
theorem State.nearDispatch_near (s : State) (h c : Nat) (t : Task) :
    (s.nearDispatch h c t).near h c = { row := (s.near h c).row, rowOpen := false, task := some t, wrote := [] } := State.setNear_near ..
theorem State.nearDispatch_near_other (s : State) (h : Nat) (t : Task) : (s.nearDispatch h 0 t).near h 1 = s.near h 1 :=
  mget_mput_other _ _ _ _ _ (by omega)
theorem State.nearDispatch_hart (s : State) (h c : Nat) (t : Task) : ∃ g : Hart, (s.nearDispatch h c t).hart (.near h c) = g.dispatch t 1 :=
  ⟨_, State.setHart_hart ..⟩
theorem State.nearDispatch_home (s : State) (h c : Nat) (t : Task) (k : Nat) : (s.nearDispatch h c t).home k = s.home k := rfl
/-- A cycle in which one task begins on context 0: its registers, and its queue without it. -/
theorem State.homeCycle_places {u : Queue} (harrivals : (s.home h).arrivals = []) (hsteals : (s.home h).steals = [])
    (hfree : (s.near h 0).task = none) (hbusy : (s.near h 1).task.isSome = true) (hlive : s.nearLive h = true)
    (hbest : (s.home h).bestQueue (s.home h).nearPtr (s.placeable (s.home h)) = some q) (hu : (s.home h).queueAt q = u)
    (hfirst : u.tasks.find? (eligible u.excl (s.home h).running) = some t0) (hclean : s.anchorClean { t0 with entry := u.nearPc } = .ok () v) :
    ∃ (w : State) (g : Hart), s.homeCycle h = w ∧ (w.near h 0).task = some { t0 with entry := u.nearPc } ∧ (w.near h 0).rowOpen = false ∧
      w.hart (.near h 0) = g.dispatch { t0 with entry := u.nearPc } 1 ∧ ((w.home h).queueAt q).tasks = u.tasks.erase t0 := by
  -- Listing the home anew changes nothing that the anchor clean reads.
  have hdeal : s.setHome h (s.home h) = s.deal { s.dealing with homes := mput s.homes h (s.home h) } := rfl
  have hclean' := (congrArg (State.anchorClean · { t0 with entry := u.nearPc }) hdeal).trans
    ((s.anchorClean_deal _ _).trans (congrArg (Res.deal · _) hclean))
  have hhome := State.setHome_home s h (s.home h)
  have hplace := State.homePlace_free (s := s.setHome h (s.home h)) (c := 0) hfree hlive (by rw [hhome]; exact hbest) (by rw [hhome]; exact hu)
    (by rw [hhome]; exact hfirst) hclean'
  have hgrant := State.homeGrant_nil (s := s.setHome h (s.home h)) (h := h) (by rw [hhome]; exact hsteals)
  have hsteps := State.homeCycle_steps (State.homeArrive_nil harrivals) hgrant hplace
    (State.homePlace_busy (by rw [State.nearDispatch_near_other]; exact hbusy))
  have hkept : (v.deal { s.dealing with homes := mput s.homes h (s.home h) }).home h = s.home h := State.setHome_home s h _
  rw [hkept] at hsteps
  generalize hw : (v.deal { s.dealing with homes := mput s.homes h (s.home h) }).setHome h _ = w at hsteps
  obtain ⟨g, hg⟩ := State.nearDispatch_hart w h 0 { t0 with entry := u.nearPc }
  refine ⟨_, g, hsteps, ?_, ?_, hg, ?_⟩
  · exact congrArg NearCtx.task (State.nearDispatch_near ..)
  · exact congrArg NearCtx.rowOpen (State.nearDispatch_near ..)
  · rw [State.setHome_home, Home.ageAll_tasks, State.nearDispatch_home, ← hw, State.setHome_home]
    exact congrArg Queue.tasks (Home.setQueue_queueAt ..)

/-! ### Requests and grants (R159, R332) -/

/-- A request of no earlier incarnation, which has not been granted, becomes pending at its home. -/
theorem State.stealArrive_pending {m : StealMsg} (hopen : ∀ g ∈ s.grants, g.core = m.req.core → g.home ≠ m.home)
    (hfresh : dieOf m.req.core = m.home / 64 ∨ (mget (fun _ => 1) (s.stack (m.home / 64)).incCopy (dieOf m.req.core)).toNat ≤ m.inc.toNat) :
    s.stealArrive m = s.setHome m.home { s.home m.home with
      steals := ((s.home m.home).steals.filter fun r => r.core != m.req.core) ++ [m.req] } := by
  unfold State.stealArrive
  dsimp only
  rw [if_neg, if_neg]
  · rfl
  · simpa using hopen
  · intro hstale
    simp only [Bool.and_eq_true, bne_iff_ne, decide_eq_true_eq] at hstale
    obtain ⟨⟨-, hdie⟩, hinc⟩ := hstale
    exact hfresh.elim hdie (Nat.not_le.mpr hinc)
@[simp] theorem State.stealDrop_far (s : State) (core home k : Nat) : (s.stealDrop core home).far k = s.far k := by
  unfold State.stealDrop
  dsimp only
  split <;> rfl
@[simp] theorem State.stealDrop_grants (s : State) (core home : Nat) : (s.stealDrop core home).grants = s.grants := by
  unfold State.stealDrop
  dsimp only
  split <;> rfl
theorem State.stealDrop_steals (s : State) (core home : Nat) : ∀ r ∈ ((s.stealDrop core home).home home).steals, r.core ≠ core := by
  unfold State.stealDrop
  dsimp only
  split
  · rw [State.updHome_eq, State.setHome_home]
    intro r hr
    simpa using (List.mem_filter.mp hr).2
  · next hnone =>
    intro r hr hcore
    exact hnone (List.any_eq_true.mpr ⟨r, hr, by simpa using hcore⟩)
@[simp] theorem State.autoCancel_coreQ (s : State) (core : Nat) : ((s.autoCancel core).far core).coreQ = (s.far core).coreQ := by
  unfold State.autoCancel
  split
  · rfl
  · split
    · rfl
    · simp
@[simp] theorem State.autoCancel_grants (s : State) (core : Nat) : (s.autoCancel core).grants = s.grants := by
  unfold State.autoCancel
  split
  · rfl
  · split
    · rfl
    · exact s.stealDrop_grants core _
/-- An anchored task enters a core's queue that has room. -/
theorem State.coreEnqueue_room (hroom : (s.far core).coreQ.length < 8) (hanchored : t0.anchored = true) :
    ∃ t, s.coreEnqueue core t0 = some t ∧ (t.far core).coreQ = (s.far core).coreQ ++ [t0] ∧ t.grants = s.grants := by
  unfold State.coreEnqueue State.coreRoom
  simp only [if_pos hroom, hanchored, if_true]
  split
  · split
    · exact ⟨_, rfl, by simp, by simp⟩
    · exact ⟨_, rfl, by simp, by simp⟩
  · exact ⟨_, rfl, by simp, by simp⟩
/-- A granted task of the core's own context, with none before it, enters the core's queue. -/
theorem State.grantDeliver_enters {g : Grant} {y : Context} (hk : s.grants[k]? = some g) (htasks : g.tasks = [t0])
    (hfresh : s.grantStale g = none) (hlive : s.coreLive g.core = true) (hplaced : (s.far g.core).placed = true) (hctx : s.ctx t0.ctx = some y)
    (hspill : y.spill.any (Spill.taskFor (s.far g.core).vcore.toNat) = false) (hown : t0.ctx = s.coreCtx g.core)
    (hhold : (s.far g.core).grantHold = []) (hroom : (s.far g.core).coreQ.length < 8) (hanchored : t0.anchored = true) :
    ((s.grantDeliver k).far g.core).coreQ = (s.far g.core).coreQ ++ [t0] ∧ (s.grantDeliver k).grants = dropAt s.grants k := by
  have hfits : s.grantFits g = true := by simp [State.grantFits, hlive, hplaced, htasks, hown]
  set u : State := { s with grants := dropAt s.grants k } with hu
  obtain ⟨t, henqueue, hqueue, hgrants⟩ := State.coreEnqueue_room (s := u) (core := g.core) hroom hanchored
  have henter : u.grantEnter g.core t0 = t := by
    have hctx' : u.ctx t0.ctx = some y := hctx
    have hspill' : y.spill.any (Spill.taskFor (u.far g.core).vcore.toNat) = false := hspill
    have hhold' : (u.far g.core).grantHold = [] := hhold
    unfold State.grantEnter
    simp only [hhold', List.isEmpty_nil, Bool.not_true, Bool.false_eq_true, if_false, hctx', hspill', henqueue]
  have hreach : u.grantReach g = t := by
    have hfresh' : u.grantStale g = none := hfresh
    have hfits' : u.grantFits g = true := hfits
    unfold State.grantReach
    simp only [hfresh', hfits', if_true, htasks, List.foldl_cons, List.foldl_nil, henter]
  unfold State.grantDeliver
  simp only [hk, hfits, hfresh, Option.isNone_none, Bool.and_self, Bool.not_true, Bool.false_eq_true, if_false, ← hu, hreach]
  exact ⟨(congrArg Far.coreQ (State.setFar_far ..)).trans hqueue, hgrants⟩

/-! ### A core that takes a task (R162) -/

section
variable {x : Context} (hctx : s.ctx (s.coreCtx core) = some x) (hheld : x.held = []) (hspill : x.spill = []) (hmail : (s.far core).held = [])
include hctx hspill hmail

/-- A mailbox for which nothing waits is as it was. -/
theorem State.flushMailbox_idle : s.flushMailbox core = s := by
  have hchannel (ch n : Nat) : s.flushChannel core ch n = s := by
    cases n with
    | zero => rfl
    | succ n =>
      unfold State.flushChannel
      simp [hmail, hctx, hspill]
  unfold State.flushMailbox
  induction List.range 16 with
  | nil => rfl
  | cons ch l ih => rw [List.foldl_cons, hchannel, ih]

include hheld
/-- Where nothing waits for a core, neither at its side nor with its context, a refill changes no part of the core. -/
theorem State.queueRefill_idle (hhold : (s.far core).grantHold = []) :
    (s.queueRefill core).far core = s.far core ∧ (s.queueRefill core).harts = s.harts := by
  obtain ⟨f, hf⟩ : ∃ f, f = s.far core := ⟨_, rfl⟩
  rw [← hf] at hmail hhold ⊢
  obtain ⟨u, hu⟩ : ∃ u, (s.setCtx (s.coreCtx core) { x with held := [] }).setFar core { f with held := [] } = u := ⟨_, rfl⟩
  have hfar : u.far core = f := by rw [← hu, State.setFar_far, ← hmail]
  have hctx' : u.ctx (s.coreCtx core) = some { x with held := [] } := by
    rw [← hu]
    exact State.setCtx_ctx ..
  have hflush : u.flushMailbox core = u :=
    State.flushMailbox_idle (x := { x with held := [] }) (by rw [← hctx', ← hu]; rfl) hspill (by rw [hfar]; exact hmail)
  have hredeliver : s.redeliver (s.coreCtx core) f.vcore.toNat core = u := by
    unfold State.redeliver
    simp only [hctx, hheld, List.filter_nil, State.updFar_eq, State.setCtx_far_at, ← hf, hmail, List.append_nil, hu, hflush, hctx']
    rw [hspill, List.foldl_nil]
  have hrefill : s.queueRefill core = u := by
    unfold State.queueRefill
    simp only [← hf, hredeliver, hfar, hhold, List.foldl_nil]
  rw [hrefill]
  exact ⟨hfar, by rw [← hu]; rfl⟩
end

/-- A core that takes a task runs it, and the next refill, for which nothing waits, leaves the core and its registers as they are. -/
theorem State.farDispatch_refill {y : Context} (hctx : s.ctx (s.coreCtx core) = some y) (hheld : y.held = []) (hspill : y.spill = [])
    (hmail : (s.far core).held = []) (hhold : (s.far core).grantHold = []) (t : Task) :
    (((s.farDispatch core t).queueRefill core).far core) = { s.far core with task := some t } ∧
    ((s.farDispatch core t).queueRefill core).hart (.far core) = (s.hart (.far core)).dispatch t 2 := by
  have hfar : (s.farDispatch core t).far core = { s.far core with task := some t } := State.setFar_far ..
  have hhart : (s.farDispatch core t).hart (.far core) = (s.hart (.far core)).dispatch t 2 := State.setHart_hart ..
  have hcore : (s.farDispatch core t).coreCtx core = s.coreCtx core := by
    unfold State.coreCtx
    rw [hhart, Hart.dispatch_ctxid]
  obtain ⟨hfar', hharts⟩ := State.queueRefill_idle (s := s.farDispatch core t) (core := core) (x := y) (by rw [hcore]; exact hctx) hheld hspill
    (by rw [hfar]; exact hmail) (by rw [hfar]; exact hhold)
  exact ⟨hfar'.trans hfar, (congrArg (mget hartDefault · (agentKey (.far core))) hharts).trans hhart⟩
/-- A core without a task, whose queue begins with an unanchored one, takes it. -/
theorem State.farTake_first {l : List Task} (hplaced : (s.far core).placed = true) (hfree : (s.far core).task = none)
    (hidle : (s.hart (.far core)).active = false) (hgoes : (s.hart (.far core)).stopped = false) (hruns : s.dispatches (s.coreCtx core) = true)
    (hqueue : (s.far core).coreQ = t0 :: l) (hauto : (s.far core).autoHome = none) (hunanchored : t0.anchored = false) :
    s.farTake core = ((s.setFar core { s.far core with coreQ := l }).farDispatch core t0).queueRefill core := by
  have hsearch : s.farSearch core = s := by
    unfold State.farSearch State.autoCancel
    simp [hqueue, hauto]
  have hclean : s.anchorClean t0 = .ok () s := by
    unfold State.anchorClean Task.lines
    simp only [hunanchored, Bool.false_eq_true, if_false]
    rfl
  unfold State.dispatches at hruns
  unfold State.farTake
  dsimp only
  rw [if_neg (by simp [hplaced, hfree, hidle, hgoes])]
  cases hctx : s.ctx (s.coreCtx core) with
  | none => simp [hctx] at hruns
  | some y =>
    simp only [hctx, Bool.and_eq_true, beq_iff_eq, Option.isNone_iff_eq_none] at hruns
    obtain ⟨hrun, hsusp⟩ := hruns
    unfold State.coreCtx at hctx
    simp only [hctx, hrun, hsusp, hsearch, hqueue, hclean, Option.isSome_none, Bool.false_eq_true, if_false, ne_eq, not_true_eq_false,
      State.updFar_eq]

/-! ### A request that is withdrawn (R333) -/

/-- A core that names no home to steal from posts no request. -/
theorem State.autoPost_none (hset : (s.far core).stealSet = 0) : s.autoPost core = s := by
  have hfirst (p : Nat) (f : Nat → Nat → Bool) : (firstFrom 4 p fun i => (stealEntry 0 i).any (f i)) = none := by
    simp [firstFrom, stealEntry, tb]
  unfold State.autoPost
  dsimp only
  split
  · rfl
  · simp only [hset, hfirst]
/-- A pending request is withdrawn, and none takes its place. -/
theorem State.autoWithdraw_pending {r : StealReq} (hauto : (s.far core).autoHome = some h) (hr : r ∈ (s.home h).steals) (hcore : r.core = core)
    (hset : (s.far core).stealSet = 0) :
    s.autoWithdraw core = (s.stealDrop core h).setFar core { s.far core with autoHome := none } := by
  have hpending : (s.home h).steals.any (fun r => r.core == core) = true := List.any_eq_true.mpr ⟨r, hr, by simpa using hcore⟩
  unfold State.autoWithdraw
  simp only [hauto, hpending, Bool.true_or, if_true, State.updFar_eq, State.stealDrop_far]
  exact State.autoPost_none (by rw [State.setFar_far]; exact hset)

end Sys2Proof.Machine
end

section
/-! The settling of TaskEvents (O50): a home cycle that takes in what has arrived, and one that grants; then the statement, part by part. -/
namespace Sys2Proof.Machine
variable {s : State} {h core q : Nat} {t0 : Task}

/-- A cycle without a steal request, both contexts busy: what has arrived is in its queue, with the next number. -/
theorem State.homeCycle_arrives {a : Arrival} (harrivals : (s.home h).arrivals = [a]) (hitems : a.items = [(q, t0)]) (hsrc : a.src ≠ returnSrc)
    (hfresh : s.arrivalStale h a = false) (hbound : ((s.home h).queueAt q).ctx = some t0.ctx) (hsteals : (s.home h).steals = [])
    (hbusy0 : (s.near h 0).task.isSome = true) (hbusy1 : (s.near h 1).task.isSome = true) :
    let u := (s.home h).queueAt q
    ∃ t, s.homeCycle h = t ∧ ((t.home h).queueAt q).tasks = u.tasks ++ [{ t0 with seq := u.counter, pri := u.pri }] ∧
      ((t.home h).queueAt q).counter = u.counter + 1 ∧ (t.home h).arrivals = [] := by
  intro u
  have harrive := State.homeArrive_one harrivals hitems hsrc hfresh hbound
  have hgrant := State.homeGrant_nil (s := s.homeArrive h) (h := h) (by rw [harrive, State.setHome_home]; exact hsteals)
  have hplace (c : Nat) (hbusy : (s.near h c).task.isSome = true) :=
    State.homePlace_busy (s := s.homeArrive h) (h := h) (c := c) (by rw [harrive]; exact hbusy)
  refine ⟨_, State.homeCycle_steps rfl hgrant (hplace 0 hbusy0) (hplace 1 hbusy1), ?_, ?_, ?_⟩
  · rw [State.setHome_home, Home.ageAll_tasks, harrive, State.setHome_home, Home.setQueue_queueAt]
  · rw [State.setHome_home, Home.ageAll_counter, harrive, State.setHome_home, Home.setQueue_queueAt]
  · rw [State.setHome_home, harrive, State.setHome_home]
    rfl
/-- A cycle to which nothing has been sent, both contexts busy, grants the one request. -/
theorem State.homeCycle_grants {r : StealReq} {u : Queue} {n : Nat} (harrivals : (s.home h).arrivals = []) (hsteals : (s.home h).steals = [r])
    (hbusy0 : (s.near h 0).task.isSome = true) (hbusy1 : (s.near h 1).task.isSome = true)
    (hbest : (s.home h).bestQueue (s.home h).qPtr (s.stealable (s.home h) r.ctx) = some q) (hu : (s.home h).queueAt q = u)
    (hn : min (u.tasks.length - u.t) (min r.count 8) = n) (hcount : 0 < r.count) (hfree : u.excl = false) (habove : u.t < u.tasks.length) :
    ∃ t, s.homeCycle h = t ∧ (t.home h).steals = [] ∧
      t.grants = s.grants ++ [{ core := r.core, tasks := (u.tasks.reverse.take n).map fun y => { y with entry := u.farPc }, home := h
                                inc := s.incOf (h / 64), cinc := s.sentInc r.core }] ∧
      ((t.home h).queueAt q).tasks = (u.tasks.reverse.drop n).reverse ∧ (t.home h).stealPtr = (r.core + 1) % 4096 := by
  have hhome := State.setHome_home s h (s.home h)
  have hgrant := State.homeGrant_one (s := s.setHome h (s.home h)) (h := h) (by rw [hhome]; exact hsteals) (by rw [hhome]; exact hbest)
    (by rw [hhome]; exact hu) hn hcount hfree habove
  rw [hhome] at hgrant
  have hsteps := State.homeCycle_steps (State.homeArrive_nil harrivals) hgrant (State.homePlace_busy hbusy0) (State.homePlace_busy hbusy1)
  refine ⟨_, hsteps, ?_, rfl, ?_, ?_⟩
  all_goals rw [State.setHome_home]
  · exact congrArg Home.steals (State.setHome_home ..)
  · rw [Home.ageAll_tasks]
    exact (congrArg (fun x : Home => (x.queueAt q).tasks) (State.setHome_home ..)).trans (congrArg Queue.tasks (Home.setQueue_queueAt ..))
  · exact congrArg Home.stealPtr (State.setHome_home ..)

/-- Settles O50: each step of a home cycle by its own rule, and each event of a steal or a far core by what it does to the requests, the
grants and the queue of the core. -/
theorem taskEvents : Obligations.TaskEvents := by
  unfold Obligations.TaskEvents
  intro s v h core k q t0 m r x busy u
  refine ⟨?_, ?_, ?_, ?_, ?_, ?_, ?_⟩
  -- What has arrived.
  · intro a harrivals hitems hsrc hfresh hbound hsteals hbusy0 hbusy1
    obtain ⟨t, ht, hrest⟩ := State.homeCycle_arrives harrivals hitems hsrc hfresh hbound hsteals hbusy0 hbusy1
    exact ⟨t, congrArg runEvent ht, hrest⟩
  -- A grant.
  · intro harrivals hsteals hbusy0 hbusy1 hfree hcount hbest n habove
    obtain ⟨t, ht, hrest⟩ := State.homeCycle_grants harrivals hsteals hbusy0 hbusy1 hbest rfl rfl hcount hfree habove
    exact ⟨t, congrArg runEvent ht, hrest⟩
  -- A placement.
  · intro harrivals hsteals hfree hbusy hlive hanchored hbest hfirst hclean hbusy'
    obtain ⟨w, g, hw, htask, hclosed, hhart, htasks⟩ := State.homeCycle_places harrivals hsteals hfree hbusy hlive hbest rfl hfirst hclean
    obtain ⟨h1, h2, h3, h4, h5, h6⟩ := g.dispatch_reg { t0 with entry := u.nearPc } 1
    refine ⟨w, congrArg runEvent hw, htask, hclosed, ?_, htasks⟩
    dsimp only
    rw [hhart]
    exact ⟨rfl, rfl, h1.trans (if_pos hanchored), h2.trans (if_pos hanchored), h3, h4, h5, h6⟩
  -- A request that arrives.
  · intro hk hopen hfresh
    have hpending := State.stealArrive_pending (s := { s with stealMsgs := dropAt s.stealMsgs k }) hopen hfresh
    have hexec : exec (.stealRequestArrival k) s = runEvent (({ s with stealMsgs := dropAt s.stealMsgs k }).stealArrive m) := by
      rw [exec_stealRequestArrival]
      unfold execStealRequestArrival
      rw [hk]
    refine ⟨_, hexec.trans (congrArg runEvent hpending), ?_, rfl⟩
    rw [State.setHome_home]
    exact List.mem_append_right _ (List.mem_singleton_self _)
  -- A grant that arrives.
  · intro g y hk htasks hfresh hlive hplaced hctx hspill hown hhold hroom hanchored
    exact ⟨_, rfl, State.grantDeliver_enters hk htasks hfresh hlive hplaced hctx hspill hown hhold hroom hanchored⟩
  -- A core that takes a task.
  · intro f a l hplaced hfree hidle hgoes hruns hqueue hauto hunanchored hhold hmail hwaits
    obtain ⟨y, hctx⟩ : ∃ y, s.ctx (s.coreCtx core) = some y := by
      unfold State.dispatches at hruns
      split at hruns
      · next y hctx => exact ⟨y, hctx⟩
      · cases hruns
    obtain ⟨hheld, hspill⟩ := hwaits y hctx
    set w := s.setFar core { s.far core with coreQ := l } with hw
    have hfar : w.far core = { s.far core with coreQ := l } := State.setFar_far ..
    have htake : s.farTake core = (w.farDispatch core t0).queueRefill core :=
      State.farTake_first hplaced hfree hidle hgoes hruns hqueue hauto hunanchored
    obtain ⟨hfar', hhart⟩ := State.farDispatch_refill (s := w) hctx hheld hspill (by rw [hfar]; exact hmail) (by rw [hfar]; exact hhold) t0
    obtain ⟨h1, h2, h3, h4, h5, h6⟩ := (w.hart a).dispatch_reg t0 2
    rw [if_neg (by simp [hunanchored])] at h1 h2
    refine ⟨_, congrArg runEvent htake, ?_, ?_, ?_⟩
    · rw [hfar']
    · rw [hfar', hfar]
    · rw [hhart]
      exact ⟨rfl, rfl, h1, h2, h3, h4, h5, h6⟩
  -- A request that is withdrawn.
  · intro y hauto hy hcore hset
    refine ⟨_, congrArg runEvent (State.autoWithdraw_pending hauto hy hcore hset), ?_, ?_⟩
    · rw [State.setFar_far]
    · exact s.stealDrop_steals core h

end Sys2Proof.Machine
end

section
/-! The values that the manual gives for reset (R183, R312). -/
namespace Sys2Proof.Machine

/-- Reset lists no hart: each has the values of its kind, which differ in the privilege alone. -/
theorem reset_hart (a : Agent) : State.reset.hart a = { priv := decide (8192 ≤ agentKey a) } := by
  change hartDefault (agentKey a) = _
  unfold hartDefault
  split
  case isTrue hhub => rw [decide_eq_true hhub]
  case isFalse hcore => rw [decide_eq_false hcore]
theorem reset_far_priv {c : Nat} (hc : c < 4096) : (State.reset.hart (.far c)).priv = false := by
  rw [reset_hart]
  exact decide_eq_false (show ¬ 8192 ≤ c by omega)
theorem reset_hub_priv (n : Nat) : (State.reset.hart (.hub n)).priv = true := by
  rw [reset_hart]
  exact decide_eq_true (Nat.le_add_right 8192 n)
theorem Hart.reg_of_regs_nil {h : Hart} (hr : h.regs = []) (r : Reg) : h.reg r = 0 := by
  unfold Hart.reg
  rw [hr]
  exact ite_self _

/-- Settles O1: reset lists no unit, so that each has the values of its kind. -/
theorem resetState : Obligations.ResetState := by
  refine ⟨fun a => ?_, fun c => reset_far_priv, reset_hub_priv, fun c => ?_, fun c => ?_, fun d => ⟨rfl, rfl⟩, fun k => ⟨rfl, rfl, rfl, rfl⟩,
    fun h q => rfl, fun c => rfl, rfl, rfl, rfl, rfl, rfl, rfl, rfl, rfl⟩
  -- A hart.
  · rw [reset_hart]
    exact ⟨rfl, rfl, rfl, rfl, rfl, rfl, rfl, rfl, rfl, rfl, rfl, rfl, rfl, Hart.reg_of_regs_nil rfl⟩
  -- A far core.
  · exact ⟨rfl, rfl, rfl, rfl, rfl, rfl, rfl, rfl, rfl, rfl, rfl, rfl, rfl⟩
  -- A cluster.
  · exact ⟨rfl, rfl, rfl, rfl, rfl, rfl, rfl, rfl, rfl, rfl⟩

end Sys2Proof.Machine
end

section
/-! Decoding the encoding of an instruction gives it back (R184, R185, R243). -/
namespace Sys2Proof.Laws.RoundTrip

/-- The round trip of every instruction: one lemma for each constructor, in the order of `Instr`. -/
theorem statement_holds (i : Instr) : Statement i :=
  Instr.casesOn (motive := Statement) i
    ill add sub and or xor andn shl shr sha rot mul mulh div minmax cmp sel addi li logi shi bext bins bitc hdrx hdrp addpc br brz
    jmp jal jr lineFetch ld st lda stl ldx stx amo cas amof fence waitm waitmWake waitmLimitExpire waitc cmaint get put ramo
    remoteOpPerform remoteReply csrr csrw csrx trap sysc eret idle ckpt rmread rmack time snap tlbi tlbiComplete ien nrowOpen
    nrowClose nlut pcmp pset pcs top tshf tcnt tany tfirst span spanRd seg segRd key cfill cread cwrite tload tstore fmov frot
    xrow ttld ttrun arrayInstructionStart arrayInstructionRetire aadd asub aaddk amul amulk amac amack afma acvt acmp aminmax ared
    alut aresolve aqdec aspmac aspmacLdx aspmacLdm reservationGrant stackReservationGrant permitRefill cpy afill aspill
    engineCommandStart engineCompletion mbwait mbpop msend mailboxDelivery bar barrierArrival larm launchTake launchResume qbind
    qstat tenq tsteal tnext tend homeCycle stealGrantDelivery stealRequestArrival farTaskTake autoStealWithdraw waitLimitExpire
    storeBufferDrain walkStart walkComplete cacheEviction writtenLineInvalidate bankAddI32 bankAddI64 bankAddF32 bankAddBf16x2
    bankMaxF32 bankMinF32 bankOr64 allbankFill fillWave idxsum idxsumExecute idxsumComplete counterWrite counterPacket
    stackDetredWrite detredChangeComplete hostMemRead hostMemWrite hostSnoop linkWake linkRetrain heartbeatMissing dieRejoin
    mapCommit mapGraceExpire ctxMapackWrite takeEvent coreStop supervisorRepair supervisorReplace suspendDeadline
    suspensionComplete contextResume serviceRecordTake partModeWrite partModeApply clClockWrite dieVddWrite clockChangeComplete
    vddRampComplete clCurrentWrite clPermitWrite permitBcastWrite stallSample forecastUpdate thermalSample thermStatWrite snapTrig
    snapshotComplete hostNoticeWrite spdmRequest bootRom bringUp controlRegisterWrite hostBiResponse hostCacheResponse
    linkLowPowerEntry corePowerGate

/-- Settles O4, from the round trips of the single instructions. -/
theorem decodeEncode : Obligations.DecodeEncode := statement_holds

end Sys2Proof.Laws.RoundTrip
end

section
/-! How an encoded instruction comes to issue: its frame, the traps and stalls before its own effect, and a head that does not decode
(R184, R185, R195, R323). -/
namespace Sys2Proof.Machine
variable {s u : State} {i : Instr}

/-! ### The frame that every encoded instruction runs in -/

/-- Each encoded instruction runs in its frame: four of them, which set the PC or the running task themselves, in `runSelf`, the others in
`run`. -/
theorem exec_frame (s : State) (hevent : i.isEvent = false) (hill : ∀ h t, i ≠ .ill h t) :
    (∃ body, exec i s = run i s body) ∨ ∃ body, exec i s = runSelf i s body := by
  cases i with
  | ill h t => exact absurd rfl (hill h t)
  | eret | ckpt | tend | tnext => exact .inr ⟨_, rfl⟩
  | add | sub | and | or | xor | andn | shl | shr | sha | rot | mul | mulh | div | minmax | cmp | sel | addi | li | logi | shi
  | bext | bins | bitc | hdrx | hdrp | addpc | br | brz | jmp | jal | jr | ld | st | lda | stl | ldx | stx | amo | cas | amof
  | fence | waitm | waitc | cmaint | get | put | ramo | csrr | csrw | csrx | trap | sysc | idle | rmread | rmack | time | snap
  | tlbi | ien | nrowOpen | nrowClose | nlut | pcmp | pset | pcs | top | tshf | tcnt | tany | tfirst | span | spanRd | seg | segRd
  | key | cfill | cread | cwrite | tload | tstore | fmov | frot | xrow | ttld | ttrun | aadd | asub | aaddk | amul | amulk
  | amac | amack | afma | acvt | acmp | aminmax | ared | alut | aresolve | aqdec | aspmac | aspmacLdx | aspmacLdm | cpy | afill
  | aspill | mbwait | mbpop | msend | bar | larm | qbind | qstat | tenq | tsteal => exact .inl ⟨_, rfl⟩
  | _ => cases hevent

section
variable (hevent : i.isEvent = false) (hill : ∀ h t, i ≠ .ill h t)
include hevent hill

/-- A check that traps before an instruction's own effect is all that the instruction comes to. -/
theorem exec_of_gate_trap {x : Trap} (hg : s.gate s.focus i = .trap x u) : exec i s = .next (u.takeTrap s.focus x) := by
  obtain ⟨body, he⟩ | ⟨body, he⟩ := exec_frame s hevent hill
  · simp [he, run, State.perform, hg]
  · simp [he, runSelf, State.performSelf, hg]
/-- An instruction that its checks hold back does nothing. -/
theorem exec_of_gate_wait (hg : s.gate s.focus i = .wait u) : exec i s = .next u := by
  obtain ⟨body, he⟩ | ⟨body, he⟩ := exec_frame s hevent hill
  · simp [he, run, State.perform, hg]
  · simp [he, runSelf, State.performSelf, hg]
end

/-! ### The checks before an instruction's own effect -/

theorem needsS_iff (op : Nat) : needsS op = true ↔ op = 0x3A ∨ op = 0x3B ∨ op = 0x3C := by
  simp [needsS, or_assoc]
theorem gate_outside_profile (a : Agent) (hp : inProfile a i.major = false) :
    s.gate a i = .trap (illegalInsn (s.headHere a i) 3) s := by
  simp [State.gate, hp]
theorem gate_unprivileged {a : Agent} (hp : inProfile a i.major = true) (hs : needsS i.major = true) (hu : (s.hart a).priv = false) :
    s.gate a i = .trap (privilege (s.headHere a i) 0) s := by
  simp [State.gate, hp, hs, hu]
/-- A pending register holds the instruction back where the turn overlaps (R195). -/
theorem gate_hazard {a : Agent} (hp : inProfile a i.major = true) (hs : needsS i.major = true → (s.hart a).priv = true)
    (ho : s.overlap = true) (hz : s.hazard a i = true) : s.gate a i = .wait s := by
  have hpriv : (needsS i.major && !(s.hart a).priv) = false := by
    cases hneeds : needsS i.major with
    | false => rfl
    | true => simp [hs hneeds]
  simp [State.gate, hp, hpriv, ho, hz]

/-- An agent that holds no line reports the instruction's own words (R184). -/
theorem State.headHere_of_no_line {a : Agent} (hl : (s.hart a).line = none) (i : Instr) : s.headHere a i = encode i := by
  simp [State.headHere, hl]

/-! ### The turn of an agent in a legal line -/

/-- Whose turn it is changes the focus and the pointer of a near unit, no agent. -/
theorem State.giveTurn_hart (s : State) (a b : Agent) : (s.giveTurn a).hart b = s.hart b := by
  unfold State.giveTurn
  split
  · split <;> rfl
  · rfl
theorem State.giveTurn_focus (s : State) (a : Agent) : (s.giveTurn a).focus = a := by
  unfold State.giveTurn
  split
  · split <;> rfl
  · rfl

/-- The agent is in a line that passes its checks, at a head of it (R178, R180). -/
structure Hart.InLine (h : Hart) (l : BitVec 512) : Prop where
  held : h.line = some (h.pc &&& ~~~63, l)
  whole : lineFlaw l = none
  even : h.pc.toNat % 2 = 0
  first : 2 ≤ h.pc.toNat % 64
  last : h.pc.toNat % 64 ≤ 2 * lineN l
/-- Nothing comes before the agent's next instruction: it runs, and no trap and no event is pending (R347). -/
structure State.Goes (s : State) (a : Agent) : Prop where
  active : (s.hart a).active = true
  running : (s.hart a).stopped = false
  quiet : (s.hart a).pend = none
  calm : s.boundary a = none

theorem Hart.InLine.fetch {a : Agent} {l : BitVec 512} (h : (s.hart a).InLine l) : s.fetch a = .ok l s := by
  have hvalid : pcValid (lineN l) (s.hart a).pc = true := by simp [pcValid, h.even, h.first, h.last]
  simp [State.fetch, h.held, State.lineCheck, h.whole, hvalid]
theorem State.Goes.ready {l : BitVec 512} (h : s.Goes s.focus) (hl : (s.hart s.focus).InLine l) : s.ready = s.decodeAt s.focus l := by
  simp [State.ready, h.active, h.running, h.quiet, h.calm, hl.fetch]

/-- The major code of a head is its bits above bit 8 (R184). -/
theorem head_major (h : BitVec 16) : (h.extractLsb' 9 7).toNat = h.toNat / 512 := by
  rw [BitVec.extractLsb'_toNat, Nat.shiftRight_eq_div_pow]
  exact Nat.mod_eq_of_lt (by omega)
/-- A head in the agent's profile that the decoder rejects for another reason than 5 traps with that reason (R184, R185). -/
theorem State.decodeAt_bad {a : Agent} {l : BitVec 512} {p : BitVec 16 × BitVec 64} {n : Nat} (hhead : headAt l (s.hart a).pc = p)
    (hd : decode p.1 p.2 = .bad n) (hn : n ≠ 5) (hp : inProfile a (p.1.toNat / 512) = true) :
    s.decodeAt a l = .done (s.takeTrap a (illegalInsn p n)) := by
  simp only [State.decodeAt, hhead, hd, head_major, hp, hn, Bool.not_true, Bool.false_eq_true, and_false, false_and, if_false]

/-- Settles O7: the checks by the frame of the instruction, a head that does not decode by the turn of its agent. -/
theorem issueRules : Obligations.IssueRules := by
  refine ⟨fun i s hevent hill => ⟨fun hp => ?_, fun hp hs hu => ?_⟩,
    fun h t s => ⟨exec_ill h t, fun hline => ?_⟩, ?_,
    fun i s hevent hill hp hs ho hz => ?_⟩
  -- Outside the profile.
  · exact exec_of_gate_trap hevent hill (gate_outside_profile _ hp)
  -- Without the privilege.
  · exact exec_of_gate_trap hevent hill (gate_unprivileged hp ((needsS_iff _).2 hs) hu)
  -- A reserved major code, with no line held.
  · exact State.headHere_of_no_line hline _
  -- A head that the decoder rejects.
  · intro s a ov dt n r l h u k hturns hactive hstopped hpend hcalm hline hflaw heven hfirst hlast hdecode hn hprofile
    have hhart : u.hart a = h := State.giveTurn_hart ..
    have hfocus : u.focus = a := State.giveTurn_focus ..
    have hgoes : u.Goes u.focus := by
      rw [hfocus]
      exact ⟨hhart ▸ hactive, hhart ▸ hstopped, hhart ▸ hpend, hcalm⟩
    have hin : (u.hart u.focus).InLine l := by
      rw [hfocus, hhart]
      exact ⟨hline, hflaw, heven, hfirst, hlast⟩
    have hbad : u.decodeAt a l = .done (u.takeTrap a (illegalInsn (lineHead l k, lineTail l k) n)) :=
      State.decodeAt_bad (by rw [hhart]; rfl) hdecode hn hprofile
    have hstep : step s = agentTurn u := by
      unfold step
      rw [hturns]
    rw [hstep, agentTurn, hgoes.ready hin, hfocus, hbad]
    rfl
  -- A register that awaits an earlier result.
  · exact exec_of_gate_wait hevent hill (gate_hazard hp (fun h => hs ((needsS_iff _).1 h)) ho hz)

end Sys2Proof.Machine
end

section
/-! Results of scalar instructions (R194, R198, R207): forms with a width bit, bit by bit and as numbers, and the settling of Arithmetic and
Shifts. -/
namespace Sys2Proof.Machine
variable {s : State} {i : Instr} {d : Reg} {v w pc : Word}

/-! ### The value that is written -/

/-- An instruction that writes a value writes whatever equals it. -/
theorem next_of_value (e : v = w) (h : ∃ t, exec i s = .next t ∧ RegDone s t d v pc) :
    ∃ t, exec i s = .next t ∧ RegDone s t d w pc := e ▸ h
/-- A value that satisfies a property is written as one that does. -/
theorem next_of_property {p : Word → Prop} (hv : p v) (h : ∃ t, exec i s = .next t ∧ RegDone s t d v pc) :
    ∃ t v, exec i s = .next t ∧ RegDone s t d v pc ∧ p v := by
  obtain ⟨t, ht, hd⟩ := h
  exact ⟨t, v, ht, hd, hv⟩

/-! ### Forms with a width bit (R194) -/

theorem alu_false (f : (n : Nat) → BitVec n → BitVec n → BitVec n) (x y : Word) : alu false f x y = f 64 x y := rfl
theorem alu_true (f : (n : Nat) → BitVec n → BitVec n → BitVec n) (x y : Word) :
    alu true f x y = (f 32 (x.extractLsb' 0 32) (y.extractLsb' 0 32)).signExtend 64 := rfl
/-- Both widths at once: the operation acts on the low bits of its operands, and its result is sign-extended. -/
theorem alu_eq (w : Bool) (f : (n : Nat) → BitVec n → BitVec n → BitVec n) (x y : Word) :
    alu w f x y = (f (if w then 32 else 64) (x.setWidth _) (y.setWidth _)).signExtend 64 := by
  cases w with
  | false =>
    rw [alu_false]
    exact (BitVec.signExtend_eq _).symm.trans (by simp)
  | true =>
    rw [alu_true, ← BitVec.setWidth_eq_extractLsb' (by omega), ← BitVec.setWidth_eq_extractLsb' (by omega)]
    rfl
/-- The 32-bit form of a bitwise operation has bit 31 of its result in every bit above it. -/
theorem getLsbD_alu {f : (n : Nat) → BitVec n → BitVec n → BitVec n} {g : Bool → Bool → Bool}
    (hf : ∀ n (x y : BitVec n) (j : Nat), j < n → (f n x y).getLsbD j = g (x.getLsbD j) (y.getLsbD j)) (w : Bool) (x y : Word) :
    ∀ j < 64, (alu w f x y).getLsbD j = g (x.getLsbD (if w then min j 31 else j)) (y.getLsbD (if w then min j 31 else j)) := by
  intro j hj
  cases w with
  | false => exact hf 64 x y j hj
  | true =>
    have hbit : ∀ k < 32, (f 32 (x.extractLsb' 0 32) (y.extractLsb' 0 32)).getLsbD k = g (x.getLsbD k) (y.getLsbD k) := by
      intro k hk
      rw [hf 32 _ _ k hk, BitVec.getLsbD_extractLsb', BitVec.getLsbD_extractLsb']
      simp only [hk, decide_true, Bool.true_and, Nat.zero_add]
    rw [alu_true, BitVec.getLsbD_signExtend, BitVec.msb_eq_getLsbD_last, decide_eq_true hj, Bool.true_and, if_pos rfl]
    by_cases h : j < 32
    · rw [if_pos h, hbit j h, Nat.min_eq_left (by omega)]
    · rw [if_neg h, hbit 31 (by omega), Nat.min_eq_right (by omega)]

/-- Settles O8: the value that each form writes is `alu` of its operation. -/
theorem arithmetic : Obligations.Arithmetic := by
  refine ⟨fun d a b s => ⟨add_next _ _ _ _, add_next _ _ _ _, sub_next _ _ _ _, sub_next _ _ _ _, mul_next _ _ _ _, mul_next _ _ _ _⟩,
    fun d a b k s => ⟨fun w hi => ?_, fun w hi => ?_, fun w hi => ?_, fun w hi => ?_,
      logi_next _ _ _ _, logi_next _ _ _ _, logi_next _ _ _ _⟩⟩
  · exact next_of_property (getLsbD_alu (g := and) (fun _ _ _ _ _ => BitVec.getLsbD_and) w _ _) (and_next w d a b hi)
  · exact next_of_property (getLsbD_alu (g := or) (fun _ _ _ _ _ => BitVec.getLsbD_or) w _ _) (or_next w d a b hi)
  · exact next_of_property (getLsbD_alu (g := xor) (fun _ _ _ _ _ => BitVec.getLsbD_xor) w _ _) (xor_next w d a b hi)
  · exact next_of_property (getLsbD_alu (g := fun p q => p && !q) (fun _ _ _ _ hj => by simp [hj]) w _ _) (andn_next w d a b hi)

/-! ### Shifts and rotations (R198, R207) -/

/-- A shift or rotation by a count below the width, in the words of R198: a rotation moves the low bits to the top. -/
def shiftTo (op : ShOp) {n : Nat} (x : BitVec n) (k : Nat) : BitVec n :=
  match op with
  | .shl => x <<< k
  | .shr => x >>> k
  | .sha => x.sshiftRight k
  | .rot => (x >>> k) ||| (x <<< (n - k))
theorem shiftBy_eq_shiftTo (op : ShOp) {n : Nat} (x y : BitVec n) : shiftBy op n x y = shiftTo op x (y.toNat % n) := by
  cases op with
  | shl | shr | sha => rfl
  | rot => simp only [shiftBy, shiftTo, BitVec.rotateRight_def, Nat.mod_mod]

section
variable (op : ShOp) (x y : Word) {c : BitVec 6}

theorem alu_false_shiftBy : alu false (shiftBy op) x y = shiftTo op x (y.toNat % 64) := shiftBy_eq_shiftTo op x y
theorem alu_true_shiftBy : alu true (shiftBy op) x y = (shiftTo op (x.extractLsb' 0 32) (y.toNat % 32)).signExtend 64 := by
  have hcount : (y.extractLsb' 0 32).toNat % 32 = y.toNat % 32 := by
    rw [BitVec.extractLsb'_toNat]
    omega
  rw [alu_true, shiftBy_eq_shiftTo, hcount]
theorem alu_false_shiftBy_imm : alu false (shiftBy op) x (c.zeroExtend 64) = shiftTo op x c.toNat := by
  rw [alu_false_shiftBy, BitVec.toNat_setWidth]
  congr 1
  omega
theorem alu_true_shiftBy_imm (hc : c.toNat < 32) :
    alu true (shiftBy op) x (c.zeroExtend 64) = (shiftTo op (x.extractLsb' 0 32) c.toNat).signExtend 64 := by
  rw [alu_true_shiftBy, BitVec.toNat_setWidth]
  congr 2
  omega
end

/-- Settles O9: each form is `alu` of a shift by its count modulo the width. -/
theorem shifts : Obligations.Shifts := by
  intro d a b c s
  refine ⟨shl_next _ _ _ _, ?_, shr_next _ _ _ _, ?_, sha_next _ _ _ _, ?_, ?_, ?_, ?_, ?_, ?_, ?_, fun hc => ⟨?_, ?_, ?_, ?_⟩⟩
  -- By a register.
  · exact fun hi => next_of_value (alu_true_shiftBy .shl _ _) (shl_next _ _ _ _ hi)
  · exact fun hi => next_of_value (alu_true_shiftBy .shr _ _) (shr_next _ _ _ _ hi)
  · exact fun hi => next_of_value (alu_true_shiftBy .sha _ _) (sha_next _ _ _ _ hi)
  · exact fun hi => next_of_value (alu_false_shiftBy .rot _ _) (rot_next _ _ _ _ hi)
  · exact fun hi => next_of_value (alu_true_shiftBy .rot _ _) (rot_next _ _ _ _ hi)
  -- By an immediate.
  · exact fun hi => next_of_value (alu_false_shiftBy_imm .shl _) (shi_next _ _ _ _ _ hi)
  · exact fun hi => next_of_value (alu_false_shiftBy_imm .shr _) (shi_next _ _ _ _ _ hi)
  · exact fun hi => next_of_value (alu_false_shiftBy_imm .sha _) (shi_next _ _ _ _ _ hi)
  · exact fun hi => next_of_value (alu_false_shiftBy_imm .rot _) (shi_next _ _ _ _ _ hi)
  · exact fun hi => next_of_value (alu_true_shiftBy_imm .shl _ hc) (shi_next _ _ _ _ _ hi)
  · exact fun hi => next_of_value (alu_true_shiftBy_imm .shr _ hc) (shi_next _ _ _ _ _ hi)
  · exact fun hi => next_of_value (alu_true_shiftBy_imm .sha _ hc) (shi_next _ _ _ _ _ hi)
  · exact fun hi => next_of_value (alu_true_shiftBy_imm .rot _ hc) (shi_next _ _ _ _ _ hi)

end Sys2Proof.Machine
end

section
/-! Heads and tails of the 16-bit class (R185): their fields, and what the decoder answers where a form is reserved or a bit is not 0. -/
namespace Sys2Proof
variable {op : BitVec 7} {tl : BitVec 3} {d : Reg} {t : BitVec 64} {i : Instr}

/-- A head of a major code that is not reserved, with its own tail class. -/
def HeadOk (op : BitVec 7) (tl : BitVec 3) : Prop := reservedOp op.toNat = false ∧ tl.toNat = tailClass op.toNat

theorem head_op (op : BitVec 7) (tl : BitVec 3) (d : Reg) : (head op tl d).extractLsb' 9 7 = op := by
  rw [head, extract_append_high _ _ _ _ (by omega), extract_append_high _ _ _ _ (by omega)]
  exact extract_full op
theorem head_class (op : BitVec 7) (tl : BitVec 3) (d : Reg) : (head op tl d).extractLsb' 6 3 = tl := by
  rw [head, extract_append_high _ _ _ _ (by omega), extract_append_low _ _ _ _ (by omega)]
  exact extract_full tl
theorem head_dest (op : BitVec 7) (tl : BitVec 3) (d : Reg) : (head op tl d).extractLsb' 0 6 = d := by
  rw [head, extract_append_low _ _ _ _ (by omega)]
  exact extract_full d

/-- A reserved value of a sub-field is rejected with reason 4 (R184). -/
theorem decode_reserved (hh : HeadOk op tl) (hraw : decodeRaw op.toNat d t = none) : decode (head op tl d) t = .bad 4 := by
  simp only [decode, head_op, head_class, head_dest, hh.1, hh.2, hraw, ne_eq, not_true_eq_false, Bool.false_eq_true, if_false]
/-- A candidate without a flaw is the instruction where its own words are those decoded, and else a bit that must be 0 is not (R185). -/
theorem decode_candidate (hh : HeadOk op tl) (hraw : decodeRaw op.toNat d t = some i) (hflaw : i.flaw = none) :
    decode (head op tl d) t = if encode i = (head op tl d, t) then .ok i else .bad 5 := by
  simp only [decode, head_op, head_class, head_dest, hh.1, hh.2, hraw, hflaw, ne_eq, not_true_eq_false, Bool.false_eq_true, if_false]

/-- Words that the encoder gives a well-formed instruction decode to it, by the round trip. -/
theorem decode_of_encode {h : BitVec 16} (he : encode i = (h, t)) (hevent : i.isEvent = false) (hwf : i.wf = true) : decode h t = .ok i := by
  have hround := Laws.RoundTrip.statement_holds i hevent hwf
  rwa [he] at hround

section
variable (a b : Reg) (f : BitVec 4)

theorem t16_eq_ofNat : t16 a b f = BitVec.ofNat 64 (a.toNat * 1024 + b.toNat * 16 + f.toNat) := by
  have hlow := Nat.shiftLeft_add_eq_or_of_lt f.isLt ((a ++ b).toNat)
  have hhigh := Nat.shiftLeft_add_eq_or_of_lt b.isLt a.toNat
  rw [← BitVec.toNat_append, Nat.shiftLeft_eq] at hlow hhigh
  have htail : t16 a b f = (a ++ b ++ f).setWidth 64 := (BitVec.setWidth_eq_append (by omega)).symm
  apply BitVec.eq_of_toNat_eq
  rw [htail, BitVec.toNat_setWidth, BitVec.toNat_ofNat, ← hlow, ← hhigh]
  congr 1
  omega
theorem t16_a : fld (t16 a b f) 10 6 = a := by
  rw [fld, t16, extract_append_low _ _ _ _ (by omega), extract_append_high _ _ _ _ (by omega), extract_append_high _ _ _ _ (by omega)]
  exact extract_full a
theorem t16_b : fld (t16 a b f) 4 6 = b := by
  rw [fld, t16, extract_append_low _ _ _ _ (by omega), extract_append_high _ _ _ _ (by omega), extract_append_low _ _ _ _ (by omega)]
  exact extract_full b
theorem t16_low {len : Nat} (h : len ≤ 4) : fld (t16 a b f) 0 len = f.extractLsb' 0 len := by
  rw [fld, t16, extract_append_low _ _ _ _ (by omega), extract_append_low _ _ _ _ (by omega)]
/-- The fields of a tail determine it, and it determines them. -/
theorem t16_inj {b b' : Reg} {f f' : BitVec 4} : t16 a b f = t16 a b' f' ↔ b = b' ∧ f = f' := by
  constructor
  · intro h
    have hb := congrArg (fld · 4 6) h
    have hf := congrArg (fld · 0 4) h
    simp only [t16_b, t16_low _ _ _ (Nat.le_refl 4), extract_full] at hb hf
    exact ⟨hb, hf⟩
  · rintro ⟨rfl, rfl⟩
    rfl
end

/-! ### MULH (R199) and BITC (R209) -/

theorem head_mulh (d : Reg) : 0x1840 + d.zeroExtend 16 = head 0x0C 1 d := by revert d; decide
theorem head_bitc (d : Reg) : 0x2C40 + d.zeroExtend 16 = head 0x16 1 d := by revert d; decide

theorem mulhMode_of_low_eq_none (f : BitVec 4) : MulhMode.of (f.extractLsb' 0 2) = none ↔ f.toNat % 4 = 3 := by revert f; decide
theorem bitcOp_of_eq_none (f : BitVec 4) : BitcOp.of f = none ↔ 3 ≤ f.toNat := by revert f; decide
theorem bitcOp_of_eq_some {f : BitVec 4} {o : BitcOp} (h : BitcOp.of f = some o) : f = o.code := by
  revert f
  cases o <;> decide

theorem decode_mulh (d a b : Reg) (f : BitVec 4) : decode (head 0x0C 1 d) (t16 a b f) =
    if f = 0 then .ok (.mulh .ss d a b) else if f = 1 then .ok (.mulh .uu d a b) else if f = 2 then .ok (.mulh .su d a b)
    else .bad (if f.toNat % 4 = 3 then 4 else 5) := by
  have hhead : HeadOk 0x0C 1 := ⟨rfl, rfl⟩
  have hraw : decodeRaw 0x0C d (t16 a b f) = (MulhMode.of (f.extractLsb' 0 2)).map (.mulh · d a b) := by
    have hfields : decodeRaw 0x0C d (t16 a b f) =
        (MulhMode.of (fld (t16 a b f) 0 2)).map (.mulh · d (fld (t16 a b f) 10 6) (fld (t16 a b f) 4 6)) := rfl
    rw [hfields, t16_low a b f (by omega), t16_a, t16_b]
  have hencode : ∀ m, encode (.mulh m d a b) = (head 0x0C 1 d, t16 a b f) ↔ 0#2 ++ m.code = f := by
    intro m
    have he : encode (.mulh m d a b) = (head 0x0C 1 d, t16 a b (0#2 ++ m.code)) := rfl
    rw [he, Prod.mk.injEq, t16_inj]
    simp only [true_and]
  cases hm : MulhMode.of (f.extractLsb' 0 2) with
  | none =>
    have h3 := (mulhMode_of_low_eq_none f).1 hm
    have h0 : f ≠ 0 := by rintro rfl; cases hm
    have h1 : f ≠ 1 := by rintro rfl; cases hm
    have h2 : f ≠ 2 := by rintro rfl; cases hm
    rw [decode_reserved hhead (hraw.trans (by rw [hm]; rfl)), if_neg h0, if_neg h1, if_neg h2, if_pos h3]
  | some m =>
    have h3 : f.toNat % 4 ≠ 3 := fun h => by rw [(mulhMode_of_low_eq_none f).2 h] at hm; cases hm
    rw [decode_candidate hhead (hraw.trans (by rw [hm]; rfl)) rfl]
    simp only [hencode]
    by_cases hf : 0#2 ++ m.code = f
    · subst hf
      cases m <;> rfl
    · have h0 : f ≠ 0 := by rintro rfl; cases hm; exact hf rfl
      have h1 : f ≠ 1 := by rintro rfl; cases hm; exact hf rfl
      have h2 : f ≠ 2 := by rintro rfl; cases hm; exact hf rfl
      rw [if_neg hf, if_neg h0, if_neg h1, if_neg h2, if_neg h3]

theorem decode_bitc (d a b : Reg) (f : BitVec 4) : decode (head 0x16 1 d) (t16 a b f) =
    if 3 ≤ f.toNat then .bad 4 else if b ≠ 0 then .bad 5
    else .ok (if f = 0 then .bitc .pop d a else if f = 1 then .bitc .clz d a else .bitc .ctz d a) := by
  have hhead : HeadOk 0x16 1 := ⟨rfl, rfl⟩
  have hraw : decodeRaw 0x16 d (t16 a b f) = (BitcOp.of f).map (.bitc · d a) := by
    have hfields : decodeRaw 0x16 d (t16 a b f) = (BitcOp.of (fld (t16 a b f) 0 4)).map (.bitc · d (fld (t16 a b f) 10 6)) := rfl
    rw [hfields, t16_low a b f (by omega), t16_a, extract_full]
  cases ho : BitcOp.of f with
  | none => rw [decode_reserved hhead (hraw.trans (by rw [ho]; rfl)), if_pos ((bitcOp_of_eq_none f).1 ho)]
  | some o =>
    obtain rfl := bitcOp_of_eq_some ho
    have hencode : encode (.bitc o d a) = (head 0x16 1 d, t16 a b o.code) ↔ b = 0 := by
      have he : encode (.bitc o d a) = (head 0x16 1 d, t16 a 0 o.code) := rfl
      rw [he, Prod.mk.injEq, t16_inj]
      simp only [true_and, and_true, eq_comm]
    rw [decode_candidate hhead (hraw.trans (by rw [ho]; rfl)) rfl]
    simp only [hencode]
    by_cases hb : b = 0
    · subst hb
      cases o <;> rfl
    · rw [if_neg hb, if_pos hb]
      cases o <;> rfl

end Sys2Proof
end

section
/-! Integers of scalar words (R199 to R205, R212): products, quotients, choices, compares and immediates as numbers, and the settling of
MulhHighHalf, DivTruncates and ChoiceAndImmediates. -/
namespace Sys2Proof.Machine

/-! ### Words as integers -/

/-- Bits of an integer's word are the word of the integer divided. -/
theorem extractLsb'_ofInt {n lo len : Nat} (p : Int) (h : lo + len ≤ n) :
    (BitVec.ofInt n p).extractLsb' lo len = BitVec.ofInt len (p / 2 ^ lo) := by
  have hp : p / 2 ^ lo = p % 2 ^ n / 2 ^ lo + p / 2 ^ n * 2 ^ (n - lo - len) * 2 ^ len := by
    have hn : (2 : Int) ^ n = 2 ^ (n - lo - len) * 2 ^ len * 2 ^ lo := by
      rw [← pow_add, ← pow_add]
      congr 1
      omega
    calc p / 2 ^ lo = (p % 2 ^ n + p / 2 ^ n * 2 ^ (n - lo - len) * 2 ^ len * 2 ^ lo) / 2 ^ lo := by
          rw [mul_assoc, mul_assoc, ← mul_assoc (2 ^ (n - lo - len)), ← hn, Int.emod_add_ediv_mul]
      _ = _ := Int.add_mul_ediv_right _ _ (by positivity)
  have hrem : p % 2 ^ n = ((p % 2 ^ n).toNat : Int) := (Int.toNat_of_nonneg (Int.emod_nonneg _ (by positivity))).symm
  apply BitVec.eq_of_toNat_eq
  rw [BitVec.extractLsb'_toNat, BitVec.toNat_ofInt, BitVec.toNat_ofInt, hp, Nat.shiftRight_eq_div_pow]
  push_cast
  rw [Int.add_mul_emod_self_right, hrem]
  norm_cast
theorem ofInt_toNat {n : Nat} (x : BitVec n) : BitVec.ofInt n x.toNat = x := by
  rw [BitVec.ofInt_natCast, BitVec.ofNat_toNat, BitVec.setWidth_eq]
/-- The low half of a word, as an integer. -/
theorem low32_eq_ofInt (x : Word) : x.extractLsb' 0 32 = BitVec.ofInt 32 x.toInt := by
  simpa using extractLsb'_ofInt (n := 64) (lo := 0) (len := 32) x.toInt (by omega)

/-! ### MULH (R199) -/

theorem mulHigh_ss (x y : Word) : mulHigh .ss x y = BitVec.ofInt 64 (x.toInt * y.toInt / 2 ^ 64) := by
  rw [← extractLsb'_ofInt (n := 128) _ (by omega), BitVec.ofInt_mul]
  rfl
theorem zeroExtend_eq_ofInt {n m : Nat} (x : BitVec n) : x.zeroExtend m = BitVec.ofInt m x.toNat := by
  rw [BitVec.ofInt_natCast, BitVec.ofNat_toNat]
theorem mulHigh_uu (x y : Word) : mulHigh .uu x y = BitVec.ofInt 64 ((x.toNat : Int) * (y.toNat : Int) / 2 ^ 64) := by
  rw [← extractLsb'_ofInt (n := 128) _ (by omega), BitVec.ofInt_mul, ← zeroExtend_eq_ofInt, ← zeroExtend_eq_ofInt]
  rfl
theorem mulHigh_su (x y : Word) : mulHigh .su x y = BitVec.ofInt 64 (x.toInt * (y.toNat : Int) / 2 ^ 64) := by
  rw [← extractLsb'_ofInt (n := 128) _ (by omega), BitVec.ofInt_mul, ← zeroExtend_eq_ofInt]
  rfl
/-- The high half of a product of 32 bits, signed. -/
theorem high32_mul_signExtend (p q : BitVec 32) :
    (p.signExtend 64 * q.signExtend 64).extractLsb' 32 32 = BitVec.ofInt 32 (p.toInt * q.toInt / 2 ^ 32) := by
  rw [← extractLsb'_ofInt (n := 64) _ (by omega), BitVec.ofInt_mul]
  rfl
theorem high32_mul_zeroExtend (p q : BitVec 32) :
    (p.zeroExtend 64 * q.zeroExtend 64).extractLsb' 32 32 = BitVec.ofNat 32 (p.toNat * q.toNat / 2 ^ 32) := by
  rw [zeroExtend_eq_ofInt, zeroExtend_eq_ofInt, ← BitVec.ofInt_mul, extractLsb'_ofInt _ (by omega), ← BitVec.ofInt_natCast]
  norm_cast

/-! ### DIV (R200) -/

/-- A word divided as a number of either kind, with the two results that R200 gives for a zero divisor. -/
theorem divide_eq_ofInt (u rem : Bool) (n : Nat) (x y : BitVec n) :
    divide u rem n x y =
      let xi : Int := if u then (x.toNat : Int) else x.toInt
      let yi : Int := if u then (y.toNat : Int) else y.toInt
      BitVec.ofInt n (if rem then (if yi = 0 then xi else xi.tmod yi) else if yi = 0 then 2 ^ n - 1 else xi.tdiv yi) := by
  have hx : BitVec.ofInt n (if u then (x.toNat : Int) else x.toInt) = x := by
    cases u with
    | false => exact BitVec.ofInt_toInt
    | true => exact ofInt_toNat x
  have hzero : (if u then (y.toNat : Int) else y.toInt) = 0 ↔ y = 0 := by
    cases u with
    | false => simp [← BitVec.toInt_inj]
    | true => simp [BitVec.toNat_eq]
  dsimp only
  by_cases hy : y = 0
  · have hones : BitVec.ofInt n (2 ^ n - 1) = BitVec.allOnes n := by
      have hcast : (2 : Int) ^ n - 1 = ((2 ^ n - 1 : Nat) : Int) := by push_cast [Nat.one_le_two_pow]; rfl
      rw [hcast, BitVec.ofInt_natCast]
      exact BitVec.eq_of_toNat_eq (by simp)
    rw [if_pos (hzero.2 hy), if_pos (hzero.2 hy), divide, if_pos hy]
    cases rem with
    | false => exact hones.symm
    | true => exact hx.symm
  · rw [if_neg (mt hzero.1 hy), if_neg (mt hzero.1 hy), divide, if_neg hy]
    cases u with
    | true =>
      cases rem with
      | true => exact (ofInt_toNat (x % y)).symm
      | false => exact (ofInt_toNat (x / y)).symm
    | false =>
      cases rem with
      | true => exact (BitVec.ofInt_toInt.symm.trans (congrArg (BitVec.ofInt n) (BitVec.toInt_srem x y)))
      | false => exact BitVec.eq_of_toInt_eq ((BitVec.toInt_sdiv x y).trans (BitVec.toInt_ofInt _).symm)

/-- Settles O11: DIV is `alu` of a division of one width, whose number is the one that R200 gives. -/
theorem divTruncates : Obligations.DivTruncates := by
  refine ⟨fun w u rem d a b s hi => ?_, decode_of_encode rfl rfl rfl⟩
  refine next_of_value ?_ (div_next w u rem d a b hi)
  rw [alu_eq, divide_eq_ofInt]
  rfl

/-- Settles O10: the three forms by their products, the encodings by the decoder, MUL by the product of extended operands. -/
theorem mulhHighHalf : Obligations.MulhHighHalf := by
  intro d a b s
  refine ⟨?_, ?_, ?_, ?_, fun p q => ⟨fun hi hx hy => ?_, fun hi hx hy => ?_⟩⟩
  · exact fun hi => next_of_value (mulHigh_ss _ _) (mulh_next _ _ _ _ hi)
  · exact fun hi => next_of_value (mulHigh_uu _ _) (mulh_next _ _ _ _ hi)
  · exact fun hi => next_of_value (mulHigh_su _ _) (mulh_next _ _ _ _ hi)
  · exact fun f => by rw [head_mulh, ← t16_eq_ofNat]; exact decode_mulh d a b f
  · refine next_of_property ?_ (mul_next false d a b hi)
    rw [alu_false]
    exact (congrArg₂ (fun u v : Word => (u * v).extractLsb' 32 32) hx hy).trans (high32_mul_signExtend p q)
  · refine next_of_property ?_ (mul_next false d a b hi)
    rw [alu_false]
    exact (congrArg₂ (fun u v : Word => (u * v).extractLsb' 32 32) hx hy).trans (high32_mul_zeroExtend p q)

/-! ### MINMAX, CMP and SEL (R201 to R203) -/

section
variable (u g : Bool) {n : Nat} (x y : BitVec n)

theorem pick_mem : pick u g n x y = x ∨ pick u g n x y = y := by
  unfold pick
  exact ite_eq_or_eq _ _ _
theorem toInt_pick : (pick false g n x y).toInt = if g then max x.toInt y.toInt else min x.toInt y.toInt := by
  by_cases h : x.toInt < y.toInt
  · cases g with
    | false => simp [pick, BitVec.slt, h, h.le]
    | true => simp [pick, BitVec.slt, h, h.le]
  · cases g with
    | false => simp [pick, BitVec.slt, h, not_lt.1 h]
    | true => simp [pick, BitVec.slt, h, not_lt.1 h]
theorem toNat_pick : (pick true g n x y).toNat = if g then max x.toNat y.toNat else min x.toNat y.toNat := by
  by_cases h : x.toNat < y.toNat
  · cases g with
    | false => simp [pick, BitVec.ult, h, h.le]
    | true => simp [pick, BitVec.ult, h, h.le]
  · cases g with
    | false => simp [pick, BitVec.ult, h, not_lt.1 h]
    | true => simp [pick, BitVec.ult, h, not_lt.1 h]
end

theorem boolWord_eq {b : Bool} {p : Prop} [Decidable p] (h : b = true ↔ p) : boolWord b = if p then 1 else 0 := by
  by_cases hp : p
  · rw [if_pos hp, h.2 hp]
    rfl
  · rw [if_neg hp, Bool.eq_false_iff.2 (mt h.1 hp)]
    rfl

section
variable (x y : Word)

theorem condHolds_eq : condHolds .eq x y = true ↔ x = y := beq_iff_eq
theorem condHolds_ne : condHolds .ne x y = true ↔ x ≠ y := bne_iff_ne
theorem condHolds_lt : condHolds .lt x y = true ↔ x.toInt < y.toInt := BitVec.slt_iff_toInt_lt
theorem condHolds_ltu : condHolds .ltu x y = true ↔ x.toNat < y.toNat := BitVec.ult_iff_toNat_lt
theorem condHolds_ge : condHolds .ge x y = true ↔ x.toInt ≥ y.toInt := by
  rw [ge_iff_le, ← not_lt, ← condHolds_lt]
  simp [condHolds]
theorem condHolds_geu : condHolds .geu x y = true ↔ x.toNat ≥ y.toNat := by
  rw [ge_iff_le, ← not_lt, ← condHolds_ltu]
  simp [condHolds]
end

/-! ### ADDI, LI and ADDPC (R204, R205, R212) -/

section
variable (x : Word)

theorem addi_false (k : BitVec 20) : alu false (fun _ x y => x + y) x (k.signExtend 64) = BitVec.ofInt 64 (x.toInt + k.toInt) := by
  rw [BitVec.ofInt_add, BitVec.ofInt_toInt]
  rfl
theorem addi_true (k : BitVec 20) :
    alu true (fun _ x y => x + y) x (k.signExtend 64) = (BitVec.ofInt 32 (x.toInt + k.toInt)).signExtend 64 := by
  rw [alu_true, low32_eq_ofInt, low32_eq_ofInt, BitVec.ofInt_add, BitVec.toInt_signExtend_of_le (by omega)]
/-- LI shifts the old value up and puts an immediate of as many bits below it (R205). -/
theorem shiftLeft_or_eq_ofNat {k v : Nat} (h : v < 2 ^ k) : (x <<< k) ||| BitVec.ofNat 64 v = BitVec.ofNat 64 (x.toNat * 2 ^ k + v) := by
  have hshift : x <<< k = BitVec.ofNat 64 (x.toNat <<< k) := by
    apply BitVec.eq_of_toNat_eq
    rw [BitVec.toNat_shiftLeft, BitVec.toNat_ofNat]
  rw [← Nat.shiftLeft_eq, Nat.shiftLeft_add_eq_or_of_lt h, BitVec.ofNat_or, hshift]
theorem loadImm_m (k : BitVec 24) : loadImm .m x k = BitVec.ofNat 64 (x.toNat * 2 ^ 24 + k.toNat) := by
  rw [← shiftLeft_or_eq_ofNat x k.isLt, BitVec.ofNat_toNat]
  rfl
theorem loadImm_h {k : BitVec 24} (hk : k.toNat < 2 ^ 16) : loadImm .h x k = BitVec.ofNat 64 (x.toNat * 2 ^ 16 + k.toNat) := by
  have hlow : (k.extractLsb' 0 16).toNat = k.toNat := by
    rw [BitVec.extractLsb'_toNat]
    exact Nat.mod_eq_of_lt hk
  rw [← shiftLeft_or_eq_ofNat x hk, ← hlow, BitVec.ofNat_toNat]
  rfl
theorem add_signExtend_eq_ofInt {n : Nat} (k : BitVec n) : x + k.signExtend 64 = BitVec.ofInt 64 (x.toNat + k.toInt) := by
  rw [BitVec.ofInt_add, ofInt_toNat]
  rfl
end

/-- Settles O12: each form by the number that its word stands for. -/
theorem choiceAndImmediates : Obligations.ChoiceAndImmediates := by
  refine ⟨fun d a b c s => ⟨fun w u g hi => ?_, ?_, ?_, ?_, ?_, ?_, ?_, sel_next d a b c⟩,
    fun d a k m p s => ⟨?_, ?_, li_next .s d m, ?_, ?_, ?_⟩⟩
  -- MINMAX.
  · obtain ⟨t, ht, hd⟩ := minmax_next w u g d a b hi
    rw [alu_eq] at hd
    refine ⟨t, _, ht, hd, pick_mem u g _ _, ?_, ?_, ?_, ?_⟩
    all_goals
      rintro rfl rfl
      simp only [toInt_pick, toNat_pick, if_true, Bool.false_eq_true, if_false]
    · exact ⟨min_le_left _ _, min_le_right _ _⟩
    · exact ⟨le_max_left _ _, le_max_right _ _⟩
    · exact ⟨min_le_left _ _, min_le_right _ _⟩
    · exact ⟨le_max_left _ _, le_max_right _ _⟩
  -- CMP.
  · exact fun hi => next_of_value (boolWord_eq (condHolds_eq _ _)) (cmp_next _ _ _ _ hi)
  · exact fun hi => next_of_value (boolWord_eq (condHolds_ne _ _)) (cmp_next _ _ _ _ hi)
  · exact fun hi => next_of_value (boolWord_eq (condHolds_lt _ _)) (cmp_next _ _ _ _ hi)
  · exact fun hi => next_of_value (boolWord_eq (condHolds_ge _ _)) (cmp_next _ _ _ _ hi)
  · exact fun hi => next_of_value (boolWord_eq (condHolds_ltu _ _)) (cmp_next _ _ _ _ hi)
  · exact fun hi => next_of_value (boolWord_eq (condHolds_geu _ _)) (cmp_next _ _ _ _ hi)
  -- Immediates.
  · exact fun hi => next_of_value (addi_false _ k) (addi_next _ _ _ _ hi)
  · exact fun hi => next_of_value (addi_true _ k) (addi_next _ _ _ _ hi)
  · exact fun hi => next_of_value (loadImm_m _ m) (li_next _ _ _ hi)
  · exact fun hm hi => next_of_value (loadImm_h _ hm) (li_next _ _ _ hi)
  · exact fun hi => next_of_value (add_signExtend_eq_ofInt _ p) (addpc_next _ _ hi)

end Sys2Proof.Machine
end

section
/-! Bit fields and record fields (R208, R210, R211): each bit of a field read or packed, and the settling of Fields. -/
namespace Sys2Proof.Machine

section
variable {lo len j : Nat} (x old : Word)

theorem getLsbD_lowMask (hj : j < 64) : (lowMask len).getLsbD j = decide (j < len) := by
  rw [lowMask, BitVec.getLsbD_ofNat, decide_eq_true hj, Bool.true_and, Nat.testBit_two_pow_sub_one]
/-- A field of a word, extended with zeros or with its top bit (R208). -/
theorem getLsbD_extractField (sx : Bool) (hlen : 0 < len) (hfit : lo + len ≤ 64) (hj : j < 64) :
    (extractField sx lo len x).getLsbD j = if j < len then x.getLsbD (lo + j) else (sx && x.getLsbD (lo + len - 1)) := by
  have hlow : ∀ k < 64, ((x >>> lo) &&& lowMask len).getLsbD k = (x.getLsbD (lo + k) && decide (k < len)) := by
    intro k hk
    rw [BitVec.getLsbD_and, BitVec.getLsbD_ushiftRight, getLsbD_lowMask hk]
  cases sx with
  | false =>
    rw [extractField, if_neg Bool.false_ne_true, hlow j hj]
    by_cases h : j < len <;> simp [h]
  | true =>
    -- The field stands at the top of the word before it is shifted down again.
    have htop : ∀ k < 64, (((x >>> lo) &&& lowMask len) <<< (64 - len)).getLsbD k =
        (decide (64 - len ≤ k) && x.getLsbD (lo + (k - (64 - len)))) := by
      intro k hk
      by_cases h : 64 - len ≤ k
      · rw [BitVec.getLsbD_shiftLeft, hlow _ (by omega)]
        simp [hk, h, show k - (64 - len) < len by omega]
      · simp [h, show k < 64 - len by omega]
    rw [extractField, if_pos rfl, BitVec.getLsbD_sshiftRight, BitVec.msb_eq_getLsbD_last, htop 63 (by omega)]
    by_cases h : j < len
    · rw [if_pos (by omega), if_pos h, htop (64 - len + j) (by omega), show 64 - len + j - (64 - len) = j by omega]
      simp [hj]
    · rw [if_neg (by omega), if_neg h, show lo + (63 - (64 - len)) = lo + len - 1 by omega]
      simp [hj, show 64 - len ≤ 63 by omega]
/-- A word with a field replaced by the low bits of another (R208, R210). -/
theorem getLsbD_insertField (hfit : lo + len ≤ 64) (hj : j < 64) :
    (insertField lo len old x).getLsbD j = if lo ≤ j ∧ j < lo + len then x.getLsbD (j - lo) else old.getLsbD j := by
  have hmask : (lowMask len <<< lo).getLsbD j = decide (lo ≤ j ∧ j < lo + len) := by
    by_cases h : lo ≤ j
    · rw [BitVec.getLsbD_shiftLeft, getLsbD_lowMask (by omega)]
      simp [hj, h, show j - lo < len ↔ j < lo + len by omega]
    · simp [h, show j < lo by omega]
  have hfield : ((x &&& lowMask len) <<< lo).getLsbD j = (decide (lo ≤ j ∧ j < lo + len) && x.getLsbD (j - lo)) := by
    by_cases h : lo ≤ j
    · rw [BitVec.getLsbD_shiftLeft, BitVec.getLsbD_and, getLsbD_lowMask (by omega)]
      simp [hj, h, show j - lo < len ↔ j < lo + len by omega, Bool.and_comm]
    · simp [h, show j < lo by omega]
  rw [insertField, BitVec.getLsbD_or, BitVec.getLsbD_and, BitVec.getLsbD_not, hmask, hfield]
  by_cases h : lo ≤ j ∧ j < lo + len <;> simp [h, hj]
/-- Bits of a word as a number (R210). -/
theorem shiftRight_and_lowMask : (x >>> lo) &&& lowMask len = BitVec.ofNat 64 (x.toNat / 2 ^ lo % 2 ^ len) := by
  have hshift : x >>> lo = BitVec.ofNat 64 (x.toNat / 2 ^ lo) := by
    rw [← Nat.shiftRight_eq_div_pow, ← BitVec.toNat_ushiftRight, BitVec.ofNat_toNat, BitVec.setWidth_eq]
  rw [hshift, lowMask, ← BitVec.ofNat_and, Nat.and_two_pow_sub_one_eq_mod]
theorem extractField_eq_ofNat : extractField false lo len x = BitVec.ofNat 64 (x.toNat / 2 ^ lo % 2 ^ len) := shiftRight_and_lowMask x
end

/-! ### Record layouts (R211) -/

/-- The fields of the record layouts that are bits of the word: layout, field, lowest bit and length. -/
def layoutRows : List (BitVec 6 × BitVec 8 × Nat × Nat) :=
  [(0, 0, 9, 7), (0, 1, 6, 3), (0, 2, 0, 6), (1, 0, 32, 12), (1, 1, 16, 4), (1, 2, 0, 13), (2, 0, 32, 16), (2, 1, 24, 8), (2, 2, 0, 4),
   (3, 0, 16, 36), (3, 1, 8, 2), (3, 2, 6, 1), (3, 3, 5, 1), (3, 4, 4, 1), (3, 5, 3, 1), (3, 6, 2, 1), (3, 7, 1, 1), (3, 8, 0, 1),
   (4, 0, 8, 4), (4, 1, 4, 4), (4, 2, 0, 4), (4, 3, 4, 8), (5, 0, 36, 4), (5, 3, 0, 12), (6, 0, 32, 13), (6, 1, 0, 8)]
/-- The model's layouts are those rows, none of which is a computed field, and each lies in a word. -/
theorem layoutBits_of_row : ∀ r ∈ layoutRows, layoutBits r.1.toNat r.2.1.toNat = (r.2.2.1, r.2.2.2) ∧ r.2.2.1 + r.2.2.2 ≤ 64 ∧
    ¬(r.1.toNat = 5 ∧ r.2.1.toNat = 1) ∧ ¬(r.1.toNat = 5 ∧ r.2.1.toNat = 2) := by decide
theorem fieldValue_of_row (x : Word) {r : BitVec 6 × BitVec 8 × Nat × Nat} (hr : r ∈ layoutRows) :
    fieldValue r.1.toNat r.2.1.toNat x = BitVec.ofNat 64 (x.toNat / 2 ^ r.2.2.1 % 2 ^ r.2.2.2) := by
  obtain ⟨hbits, -, hpchan, hhome⟩ := layoutBits_of_row r hr
  rw [fieldValue, if_neg hpchan, if_neg hhome, hbits]
  exact extractField_eq_ofNat x

/-- The pseudo-channel of an address: its bits [17:12] and [23:18] combined (R211). -/
def pchanOf (x : Word) : Nat := (x.toNat / 2 ^ 12 % 64) ^^^ (x.toNat / 2 ^ 18 % 64)
theorem fieldValue_pchan (x : Word) : fieldValue 5 1 x = BitVec.ofNat 64 (pchanOf x) := by
  have hand : ((x >>> 12) ^^^ (x >>> 18)) &&& 63 = ((x >>> 12) &&& lowMask 6) ^^^ ((x >>> 18) &&& lowMask 6) :=
    BitVec.eq_of_toNat_eq Nat.and_xor_distrib_right
  rw [pchanOf, BitVec.ofNat_xor]
  exact hand.trans (congrArg₂ _ (shiftRight_and_lowMask x) (shiftRight_and_lowMask x))
/-- The home of an address: its die's 64 homes, and the pseudo-channel among them (R211). -/
theorem fieldValue_home (x : Word) : fieldValue 5 2 x = BitVec.ofNat 64 (x.toNat / 2 ^ 36 % 16 * 64 + pchanOf x) := by
  have hdie : (x >>> 36) &&& 15 = BitVec.ofNat 64 (x.toNat / 2 ^ 36 % 16) := shiftRight_and_lowMask (len := 4) x
  rw [BitVec.ofNat_add, BitVec.ofNat_mul, ← hdie, ← fieldValue_pchan]
  rfl

/-- Settles O13: BEXT and BINS bit by bit, the record fields by their rows, the two computed ones by their numbers. -/
theorem fields : Obligations.Fields := by
  refine ⟨fun d a lo len s hlen hfit => ⟨fun sx hi => ?_, fun hi => ?_⟩,
    fun d a s => ⟨fun r hr => ⟨fun hi => ?_, fun hi => ?_⟩, fun hi => ?_, fun hi => ?_⟩⟩
  -- BEXT and BINS.
  · exact next_of_property (fun j hj => getLsbD_extractField _ sx hlen hfit hj) (bext_next sx d a lo len hi)
  · exact next_of_property (fun j hj => getLsbD_insertField _ _ hfit hj) (bins_next d a lo len hi)
  -- HDRX and HDRP on a row.
  · exact next_of_value (fieldValue_of_row _ hr) (hdrx_next d a _ _ hi)
  · obtain ⟨hbits, hfit, -, -⟩ := layoutBits_of_row r hr
    refine next_of_property (fun j hj => ?_) (hdrp_next d a _ _ hi)
    rw [hbits]
    exact getLsbD_insertField _ _ hfit hj
  -- The computed fields.
  · exact next_of_value (fieldValue_pchan _) (hdrx_next d a 5 1 hi)
  · exact next_of_value (fieldValue_home _) (hdrx_next d a 5 2 hi)

end Sys2Proof.Machine
end

section
/-! BITC (R209): the 1 bits of a word, its highest and its lowest, and the settling of BitCounts. -/
namespace Sys2Proof.Machine
variable (x : Word)

theorem popcount_eq (n v : Nat) : popcount v n = ((List.range n).filter fun k => v.testBit k).length := by
  induction n generalizing v with
  | zero => rfl
  | succ n ih =>
    rw [popcount, ih, List.range_succ_eq_map, List.filter_cons, List.filter_map, Nat.testBit_zero]
    have hrest : (fun k => v.testBit k) ∘ Nat.succ = fun k => (v / 2).testBit k := funext fun k => Nat.testBit_succ v k
    rw [hrest]
    by_cases h : v % 2 = 1
    · simp [h, Nat.add_comm]
    · simp [show v % 2 = 0 by omega]

/-- The highest 1 bit of a word that is not 0, and 0 bits above it. -/
theorem highest_bit (hx : x ≠ 0) :
    x.toNat.log2 < 64 ∧ x.getLsbD x.toNat.log2 = true ∧ ∀ k, x.toNat.log2 < k → x.getLsbD k = false := by
  have hne : x.toNat ≠ 0 := fun h => hx (BitVec.eq_of_toNat_eq h)
  refine ⟨(Nat.log2_lt hne).2 x.isLt, Nat.testBit_log2 hne, fun k hk => Nat.testBit_lt_two_pow ?_⟩
  exact Nat.lt_of_lt_of_le Nat.lt_log2_self (Nat.pow_le_pow_right (by omega) hk)
/-- A word and its negation share the lowest 1 bit alone. -/
theorem getLsbD_and_neg (k : Nat) : (x &&& -x).getLsbD k = true ↔ x.getLsbD k = true ∧ ∀ j < k, x.getLsbD j = false := by
  rw [BitVec.getLsbD_and, BitVec.getLsbD_neg]
  by_cases hk : x.getLsbD k = true
  · simp only [hk, decide_eq_true (BitVec.lt_of_getLsbD hk), Bool.true_and, Bool.true_xor, Bool.not_eq_true', decide_eq_false_iff_not,
      true_and, not_exists, not_and, Bool.not_eq_true]
  · simp only [hk, Bool.false_and, Bool.false_eq_true, false_and]
theorem and_neg_ne_zero (hx : x ≠ 0) : x &&& -x ≠ 0 := by
  have hbit : ∃ k, x.getLsbD k = true := by
    by_contra h
    exact hx (BitVec.eq_of_getLsbD_eq fun k _ => by simpa using fun hk => h ⟨k, hk⟩)
  have hlow := (getLsbD_and_neg x (Nat.find hbit)).2 ⟨Nat.find_spec hbit, fun j hj => Bool.eq_false_iff.2 (Nat.find_min hbit hj)⟩
  intro h
  rw [h] at hlow
  simp at hlow
/-- The lowest 1 bit of a word that is not 0, and 0 bits below it. -/
theorem lowest_bit (hx : x ≠ 0) :
    (x &&& -x).toNat.log2 < 64 ∧ x.getLsbD (x &&& -x).toNat.log2 = true ∧ ∀ k < (x &&& -x).toNat.log2, x.getLsbD k = false := by
  obtain ⟨hlt, hbit, -⟩ := highest_bit _ (and_neg_ne_zero x hx)
  exact ⟨hlt, (getLsbD_and_neg x _).1 hbit⟩

theorem bitCount_pop : bitCount .pop x = ((List.range 64).filter fun k => x.getLsbD k).length := popcount_eq 64 x.toNat
theorem bitCount_clz : bitCount .clz x ≤ 64 ∧ (∀ k, 64 - bitCount .clz x ≤ k → x.getLsbD k = false) ∧
    (bitCount .clz x < 64 → x.getLsbD (63 - bitCount .clz x) = true) := by
  by_cases hx : x = 0
  · simp [bitCount, hx]
  · obtain ⟨hlt, hbit, habove⟩ := highest_bit x hx
    rw [bitCount, if_neg hx]
    refine ⟨by omega, fun k hk => habove k (by omega), fun _ => ?_⟩
    rwa [show 63 - (63 - x.toNat.log2) = x.toNat.log2 by omega]
theorem bitCount_ctz : bitCount .ctz x ≤ 64 ∧ (∀ k < bitCount .ctz x, x.getLsbD k = false) ∧
    (bitCount .ctz x < 64 → x.getLsbD (bitCount .ctz x) = true) := by
  by_cases hx : x = 0
  · simp [bitCount, hx]
  · obtain ⟨hlt, hbit, hbelow⟩ := lowest_bit x hx
    rw [bitCount, if_neg hx]
    exact ⟨by omega, hbelow, fun _ => hbit⟩

/-- Settles O14: the three counts, and the decoder on the encodings of R209. -/
theorem bitCounts : Obligations.BitCounts := by
  intro d a b s
  refine ⟨fun hi => ?_, fun hi => ?_, fun hi => ?_, fun f => ?_⟩
  · exact next_of_value (congrArg (BitVec.ofNat 64) (bitCount_pop _)) (bitc_next .pop d a hi)
  · obtain ⟨hle, hbits⟩ := bitCount_clz (s.reg s.focus a)
    exact ⟨_, hle, bitc_next .clz d a hi, hbits⟩
  · obtain ⟨hle, hbits⟩ := bitCount_ctz (s.reg s.focus a)
    exact ⟨_, hle, bitc_next .ctz d a hi, hbits⟩
  · rw [head_bitc, ← t16_eq_ofNat]
    exact decode_bitc d a b f

end Sys2Proof.Machine
end

section
/-! Control transfers (R180, R181, R214): targets as numbers, transfers without a link, and the settling of ControlTransfers. -/
namespace Sys2Proof.Machine
variable {s t : State} {v w pc dest : Word}

/-- Whatever is written to g0 is lost (R183). -/
theorem RegDone.of_g0 (w : Word) (h : RegDone s t 0 v pc) : RegDone s t 0 w pc := h
/-- A control transfer without a link that goes to a place goes to whatever equals it. -/
theorem next_of_target {i : Instr} (e : pc = dest) (h : ∃ t, exec i s = .next t ∧ RegDone s t 0 v pc) :
    ∃ t, exec i s = .next t ∧ RegDone s t 0 w dest := by
  obtain ⟨t, ht, hd⟩ := h
  exact ⟨t, ht, e ▸ hd.of_g0 w⟩

/-- The target is `delta` lines of 64 bytes from the branch's own line, at a head of two bytes (R181). -/
theorem Hart.target_eq {n : Nat} (h : Hart) (delta : BitVec n) (slot : BitVec 5) :
    h.target delta slot = (h.pc &&& ~~~63) + BitVec.ofInt 64 (64 * delta.toInt + 2 * slot.toNat) := by
  have hlines : delta.signExtend 64 <<< 6 = BitVec.ofInt 64 (64 * delta.toInt) := by
    rw [BitVec.shiftLeft_eq_mul_twoPow, mul_comm, BitVec.ofInt_mul]
    rfl
  have hhead : (slot.zeroExtend 64 <<< 1 : Word) = BitVec.ofInt 64 (2 * slot.toNat) := by
    rw [BitVec.shiftLeft_eq_mul_twoPow, mul_comm, BitVec.ofInt_mul, ← zeroExtend_eq_ofInt]
    rfl
  rw [Hart.target, targetPc, hlines, hhead, BitVec.ofInt_add, add_assoc]
  rfl

/-- A branch goes to its target where its condition holds, and else to NextPC (R214). -/
theorem branch_target {h : Hart} {c : Bool} {p : Prop} [Decidable p] (hc : c = true ↔ p) {n : Nat} (delta : BitVec n) (slot : BitVec 5) :
    (if c then some (h.target delta slot) else none : Option Word).getD h.nextPc =
      if p then (h.pc &&& ~~~63) + BitVec.ofInt 64 (64 * delta.toInt + 2 * slot.toNat) else h.nextPc := by
  by_cases hp : p
  · rw [if_pos hp, if_pos (hc.2 hp), Option.getD_some, Hart.target_eq]
  · rw [if_neg hp, if_neg (mt hc.1 hp), Option.getD_none]

/-- Settles O15: branches by their conditions, jumps by their targets. -/
theorem controlTransfers : Obligations.ControlTransfers := by
  intro d a b s
  refine ⟨fun e k => ⟨?_, ?_, ?_, ?_, ?_, ?_⟩, fun e k => ⟨?_, ?_⟩, fun e k => ⟨?_, ?_⟩, jr_next d a⟩
  -- BR.
  · exact fun hi => next_of_target (branch_target (condHolds_eq _ _) e k) (br_next _ _ _ _ _ hi)
  · exact fun hi => next_of_target (branch_target (condHolds_ne _ _) e k) (br_next _ _ _ _ _ hi)
  · exact fun hi => next_of_target (branch_target (condHolds_lt _ _) e k) (br_next _ _ _ _ _ hi)
  · exact fun hi => next_of_target (branch_target (condHolds_ge _ _) e k) (br_next _ _ _ _ _ hi)
  · exact fun hi => next_of_target (branch_target (condHolds_ltu _ _) e k) (br_next _ _ _ _ _ hi)
  · exact fun hi => next_of_target (branch_target (condHolds_geu _ _) e k) (br_next _ _ _ _ _ hi)
  -- BRZ.
  · exact fun hi => next_of_target (branch_target (by simp) e k) (brz_next _ _ _ _ hi)
  · exact fun hi => next_of_target (branch_target (by simp) e k) (brz_next _ _ _ _ hi)
  -- JMP and JAL.
  · exact fun hi => next_of_target (Hart.target_eq _ e k) (jmp_next _ _ hi)
  · intro hi
    have h := jal_next d e k hi
    rw [Option.getD_some, Hart.target_eq] at h
    exact h

end Sys2Proof.Machine
end

section
/-! The encodings that the manual works out. -/
namespace Sys2Proof

/-- Settles O5: the printed words are those that the encoder gives the named instructions. -/
theorem workedEncodings : Obligations.WorkedEncodings :=
  ⟨decode_of_encode rfl rfl rfl, decode_of_encode rfl rfl rfl, decode_of_encode rfl rfl rfl, decode_of_encode rfl rfl rfl,
    decode_of_encode rfl rfl rfl, decode_of_encode rfl rfl rfl, decode_of_encode rfl rfl rfl, decode_of_encode rfl rfl rfl,
    decode_of_encode rfl rfl rfl, decode_of_encode rfl rfl rfl, decode_of_encode rfl rfl rfl⟩

end Sys2Proof
end

section
/-! Array instructions at issue (R195, R222, R223): the queue of the engine, FIELD_SPEC and the ring, for each of them; and the refutation of
ArrayIssues, whose range of codes holds reserved ones too. -/
namespace Sys2Proof.Machine
variable {s : State} {c : Nat} {i : Instr}

/-- What ArrayIssues claims of one instruction at one core. -/
def ArrayIssueRules (s : State) (c : Nat) (i : Instr) : Prop :=
  let f := s.far c
  let ops := i.reads.map (s.reg (.far c))
  let p := s.headHere (.far c) i
  let check := f.arrView.fieldSpec i (ops.getD 0 0) (ops.getD 1 0) ops
  let clear := s.sbHas (.far c) (fun e => isFormat e.pa && (windowCore e.pa == c || windowCore e.pa == ringOf c i)) = false
  s.focus = .far c → i.isEvent = false → 0x40 ≤ i.major → i.major ≤ 0x6F → Issues s i →
  (s.overlap = true → check = none → s.ringFlaw c i = none → clear → f.aq.length < 2 →
    ∃ t, exec i s = .next t ∧ t.far c = { f with aq := f.aq ++ [arrayOp i ops] } ∧ (∀ k, k ≠ c → t.far k = s.far k) ∧
      HartDone (.far c) s t 0 0 (s.hart (.far c)).nextPc ∧ { t with harts := s.harts, fars := s.fars } = s) ∧
  (s.overlap = true → check = none → s.ringFlaw c i = none → clear → 2 ≤ f.aq.length → exec i s = .next s) ∧
  (∀ reason value, check = some (reason, value) → exec i s = .next ((s.permitUse (.far c) i.major).takeTrap (.far c)
    { cause := 0x0B, infos := ⟨p.1.zeroExtend 64, p.2, BitVec.ofNat 64 reason, BitVec.ofNat 64 value⟩ })) ∧
  (∀ d t span lane, i = .tcnt d t span (some lane) → f.arrView.lanesN ≤ lane.toNat → check = some (2, lane.toNat)) ∧
  (∀ a b col n1 lane, i = .cwrite a b col n1 lane → col.toNat + n1.toNat < f.arrView.laneW → lane.toNat < f.arrView.lanesN →
    32767 < (s.reg (.far c) a).toNat → check = some (4, (s.reg (.far c) a).toNat)) ∧
  (∀ prev rows cd cs n1, i = .xrow prev rows cd cs n1 → check = none → s.coreLive (ringTo c prev) = true →
    s.coreCtx (ringTo c prev) ≠ s.coreCtx c → ∃ u : Trap,
    exec i s = .next ((s.permitUse (.far c) i.major).takeTrap (.far c) u) ∧ u.cause = 7 ∧ u.infos.i2 = 9)
theorem arrayIssues_iff : Obligations.ArrayIssues ↔ ∀ s c i, ArrayIssueRules s c i := Iff.rfl

/-! ### The refutation -/

/-- Far core 0 in U after reset, in a turn that overlaps: its engine is idle and its queue empty. -/
def idleOverlapState : State := { State.reset with overlap := true }

/-- The reserved code 0x55, between the codes of the array passes and those of the array macros (R184). -/
def reservedArrayCode : Instr := .ill 0xAA00 0
theorem decode_reservedArrayCode : decode 0xAA00 0 = .ok reservedArrayCode := by decide

theorem reservedArrayCode_issues : Issues idleOverlapState reservedArrayCode where
  profile := by decide
  privileged := by decide
  ready := by decide
  whole := by decide
  free := by decide
  fresh := by decide
  permit := by decide

/-- Refutes O35: its range 0x40 to 0x6F holds the reserved codes 0x55 to 0x5F too, which decode to ILL and trap ILLEGAL_INSN (R184).
In `idleOverlapState` the code 0x55 meets every premise, and the queue of the engine stays empty. -/
theorem not_arrayIssues : ¬ Obligations.ArrayIssues := by
  rw [arrayIssues_iff]
  intro h
  obtain ⟨henters, -⟩ := h idleOverlapState 0 reservedArrayCode rfl rfl (by decide) (by decide) reservedArrayCode_issues
  obtain ⟨t, ht, hfar, -⟩ := henters rfl (by decide) rfl (by decide) (by decide)
  have hkept : ∀ x, x.cause = 1 → (idleOverlapState.takeTrap (.far 0) x).far 0 = idleOverlapState.far 0 := by
    intro x hx
    rw [takeTrap_far (by decide) (by decide) (by decide), hx]
    rfl
  obtain rfl : idleOverlapState.takeTrap (.far 0) _ = t := Host.Outcome.next.inj ((exec_ill _ _).symm.trans ht)
  have hqueue := congrArg (fun f => f.aq.length) ((hkept _ rfl).symm.trans hfar)
  exact absurd hqueue (by decide)

/-! ### Every other instruction of the range -/

/-- But for ILL, the codes 0x40 to 0x6F are those of the array instructions, and each of them issues in one way. -/
theorem exec_eq_arrayIssue (hill : ∀ h t, i ≠ .ill h t) (hlow : 0x40 ≤ i.major) (hhigh : i.major ≤ 0x6F) (s : State) :
    exec i s = arrayIssue i s := by
  cases i with
  | ill h t => exact absurd rfl (hill h t)
  | pcmp | pset | pcs | top | tshf | tcnt | tany | tfirst | span | spanRd | seg | segRd | key | cfill | cread | cwrite | tload | tstore
  | fmov | frot | xrow | ttld | ttrun | aadd | asub | aaddk | amul | amulk | amac | amack | afma | acvt | acmp | aminmax | ared | alut
  | aresolve | aqdec | aspmac | aspmacLdx | aspmacLdm => rfl
  | cpy | afill | aspill | mbwait | mbpop | msend | bar | larm | qbind | tenq | tnext | tsteal | tend | qstat =>
    exact absurd hhigh (of_decide_eq_true rfl)
  | _ => exact absurd hlow (of_decide_eq_true rfl)

/-- The checks of FIELD_SPEC on an instruction with the registers of its core, against what the engine will leave of the array (R222). -/
def State.arrayCheck (s : State) (c : Nat) (i : Instr) : Option (Nat × Nat) :=
  let ops := i.reads.map (s.reg (.far c))
  (s.far c).arrView.fieldSpec i (ops.getD 0 0) (ops.getD 1 0) ops
/-- An instruction enters the queue of the engine with its operands. -/
def State.enqueue (s : State) (c : Nat) (i : Instr) : State :=
  s.setFar c { s.far c with aq := (s.far c).aq ++ [arrayOp i (i.reads.map (s.reg (.far c)))] }

theorem windowsFirst_clear {a : Agent}
    (h : s.sbHas a (fun e => isFormat e.pa && (windowCore e.pa == c || windowCore e.pa == ringOf c i)) = false) :
    s.windowsFirst a c i = .ok () s := by
  rw [State.windowsFirst, if_neg (by simp [h])]

section
variable (hi : Issues s i) (hx : exec i s = arrayIssue i s) (hfocus : s.focus = .far c)
include hi hx hfocus

/-- A field that fails a check traps, its permit used (R222). -/
theorem Issues.array_trap_fieldSpec {flaw : Nat × Nat} (hcheck : s.arrayCheck c i = some flaw) :
    exec i s = .next ((s.permitUse (.far c) i.major).takeTrap (.far c) (fieldSpecTrap (s.headHere (.far c) i) flaw)) := by
  rw [State.arrayCheck] at hcheck
  rw [hx, arrayIssue, run, hi.perform_trap (u := s) (x := fieldSpecTrap (s.headHere (.far c) i) flaw), hfocus]
  rw [hfocus]
  dsimp only
  rw [hcheck]
/-- So does an XROW whose neighbour takes none (R241). -/
theorem Issues.array_trap_ring {n r : Nat} (hcheck : s.arrayCheck c i = none) (hring : s.ringFlaw c i = some (n, r)) :
    exec i s = .next ((s.permitUse (.far c) i.major).takeTrap (.far c) (protOperand 0 n r 0)) := by
  rw [State.arrayCheck] at hcheck
  rw [hx, arrayIssue, run, hi.perform_trap (u := s) (x := protOperand 0 n r 0), hfocus]
  rw [hfocus]
  dsimp only
  rw [hcheck, hring]

section
variable (hcheck : s.arrayCheck c i = none) (hring : s.ringFlaw c i = none) (hoverlap : s.overlap = true)
  (hclear : s.sbHas (.far c) (fun e => isFormat e.pa && (windowCore e.pa == c || windowCore e.pa == ringOf c i)) = false)
include hcheck hring hoverlap hclear

/-- With two in the queue it waits (R223). -/
theorem Issues.array_waits (hfull : 2 ≤ (s.far c).aq.length) : exec i s = .next s := by
  rw [State.arrayCheck] at hcheck
  rw [hx, arrayIssue, run, hi.perform_wait (u := s), hi.fresh]
  · rfl
  · rw [hfocus]
    dsimp only
    rw [hcheck, hring, windowsFirst_clear hclear]
    simp [Res.bind, hoverlap, hfull]
/-- With room it enters the queue with its operands, and the core goes on (R223). -/
theorem Issues.array_enters (hroom : (s.far c).aq.length < 2) : ∃ t, exec i s = .next t ∧
    t.far c = { s.far c with aq := (s.far c).aq ++ [arrayOp i (i.reads.map (s.reg (.far c)))] } ∧ (∀ k, k ≠ c → t.far k = s.far k) ∧
    HartDone (.far c) s t 0 0 (s.hart (.far c)).nextPc ∧ { t with harts := s.harts, fars := s.fars } = s := by
  have hhart : (s.enqueue c i).hart (.far c) = (s.hart (.far c)).setReg 0 0 := (Hart.setReg_zero ..).symm
  obtain ⟨p, q, y, z, hadvance⟩ := permitUse_advance_far (s.enqueue c i) c i.major none
  have hperform : exec i s = .next (((s.enqueue c i).permitUse (.far c) i.major).advance (.far c) none) := by
    rw [State.arrayCheck] at hcheck
    rw [hx, arrayIssue, run, hi.perform (u := s.enqueue c i) (x := none) ?_ rfl, hfocus]
    rw [hfocus]
    dsimp only
    rw [hcheck, hring, windowsFirst_clear hclear]
    simp [Res.bind, hoverlap, hroom, State.enqueue]
  refine ⟨_, hperform, ?_⟩
  rw [hadvance]
  exact ⟨State.setFar_far .., fun k hk => State.setFar_far_other _ _ _ _ hk, hartDone_of_setReg hhart (fun _ _ => rfl) p q y z, rfl⟩
end
end

/-! ### The checks of ArrayIssues (R222, R241) -/

theorem fieldSpec_tcnt_lane (A : Arr) (d : Reg) (t : TagNo) (span lane : BitVec 2) (x y : Word) (ws : List Word) (h : A.lanesN ≤ lane.toNat) :
    A.fieldSpec (.tcnt d t span (some lane)) x y ws = some (2, lane.toNat) := by
  have hspec : A.fieldSpec (.tcnt d t span (some lane)) x y ws =
      if A.laneW ≤ 0 then some (1, 0) else if A.lanesN ≤ lane.toNat then some (2, lane.toNat) else none := rfl
  have hwidth : ¬ A.laneW ≤ 0 := fun hle => by
    have hall := A.lanesN_mul_laneW
    rw [Nat.le_zero.1 hle] at hall
    omega
  rw [hspec, if_neg hwidth, if_pos h]
theorem fieldSpec_cwrite_row (A : Arr) (a b : Reg) (col : Col) (n1 : BitVec 6) (lane : BitVec 2) (x y : Word) (ws : List Word)
    (hcol : col.toNat + n1.toNat < A.laneW) (hlane : lane.toNat < A.lanesN) (hrow : 32767 < x.toNat) :
    A.fieldSpec (.cwrite a b col n1 lane) x y ws = some (4, x.toNat) := by
  have hspec : A.fieldSpec (.cwrite a b col n1 lane) x y ws =
      let top := max 0 (col.toNat + n1.toNat)
      if A.laneW ≤ top then some (1, top) else if A.lanesN ≤ lane.toNat then some (2, lane.toNat)
      else if 32767 < x.toNat then some (4, x.toNat) else none := rfl
  rw [hspec, if_neg (by omega), if_neg (by omega), if_pos hrow]
theorem ringFlaw_other_context {prev : Bool} {rows : Rows} {cd cs : Col} {n1 : BitVec 8} (hlive : s.coreLive (ringTo c prev) = true)
    (hctx : s.coreCtx (ringTo c prev) ≠ s.coreCtx c) : s.ringFlaw c (.xrow prev rows cd cs n1) = some (ringTo c prev, 9) := by
  simp [State.ringFlaw, hlive, hctx]

/-- What ArrayIssues claims holds of every instruction but ILL. -/
theorem arrayIssueRules_of_not_ill (hill : ∀ h t, i ≠ .ill h t) (s : State) (c : Nat) : ArrayIssueRules s c i := by
  intro hfocus _ hlow hhigh hi
  have hx := exec_eq_arrayIssue hill hlow hhigh s
  refine ⟨fun hov hcheck hring hclear hroom => hi.array_enters hx hfocus hcheck hring hov hclear hroom,
    fun hov hcheck hring hclear hfull => hi.array_waits hx hfocus hcheck hring hov hclear hfull,
    fun reason value hcheck => hi.array_trap_fieldSpec (flaw := (reason, value)) hx hfocus hcheck, ?_, ?_, ?_⟩
  · rintro d t span lane rfl hlane
    exact fieldSpec_tcnt_lane _ _ _ _ _ _ _ _ hlane
  · rintro a b col n1 lane rfl hcol hlane hrow
    exact fieldSpec_cwrite_row _ _ _ _ _ _ _ _ _ hcol hlane hrow
  · rintro prev rows cd cs n1 rfl hcheck hlive hctx
    exact ⟨_, hi.array_trap_ring hx hfocus hcheck (ringFlaw_other_context hlive hctx), rfl, rfl⟩

end Sys2Proof.Machine
end

section
/-! How an array instruction of one effect runs in its turn, the columns that its checks leave within a lane, and the reads of tags, spans,
table entries and rows after writes (R218 to R223). -/
namespace Sys2Proof.Machine

/-! ### Maps that leave out the default -/

section
variable {α : Type}

theorem mget_mdel_other (dflt : Nat → α) (m : FMap α) {k j : Nat} (h : j ≠ k) : mget dflt (mdel m k) j = mget dflt m j :=
  mget_filter dflt m (fun x => x != k) j (bne_iff_ne.mpr h)
theorem mget_mset [DecidableEq α] (dflt : α) (m : FMap α) (k : Nat) (v : α) (j : Nat) :
    mget (fun _ => dflt) (mset dflt m k v) j = if j = k then v else mget (fun _ => dflt) m j := by
  unfold mset
  by_cases hj : j = k
  · subst hj
    rw [if_pos rfl]
    split_ifs with hv
    · rw [mget_mdel_same, hv]
    · exact mget_mput_same ..
  · rw [if_neg hj]
    split_ifs with hv
    · exact mget_mdel_other _ _ hj
    · exact mget_mput_other _ _ _ _ _ hj
end

/-! ### Parts of the array after writes -/

section
variable (a : Arr)

theorem Arr.tag_setTag (t u : TagNo) (v : TagReg) : (a.setTag t v).tag u = if u = t then v else a.tag u :=
  (mget_mset ..).trans (if_congr BitVec.toNat_inj rfl rfl)
theorem Arr.tag_setTag_same (t : TagNo) (v : TagReg) : (a.setTag t v).tag t = v := by
  rw [Arr.tag_setTag, if_pos rfl]
theorem Arr.tag_setTag_other {t u : TagNo} (v : TagReg) (h : u ≠ t) : (a.setTag t v).tag u = a.tag u := by
  rw [Arr.tag_setTag, if_neg h]
theorem Arr.row_setRow (k r : Nat) (v : BitVec 256) : (a.setRow k v).row r = if r = k then v else a.row r := mget_mset ..
end

/-- An array that differs in its rows alone has the same lanes. -/
theorem Arr.lanesN_of_rows {a b : Arr} (h : { b with rows := a.rows } = a) : b.lanesN = a.lanesN := by
  have hlanes := congrArg Arr.lanesN h
  exact hlanes
theorem Arr.laneW_of_rows {a b : Arr} (h : { b with rows := a.rows } = a) : b.laneW = a.laneW := by
  rw [Arr.laneW, Arr.laneW, Arr.lanesN_of_rows h]

/-! ### An array instruction in its turn -/

section
variable {s : State} {c : Nat} {i : Instr} {p : Arr → BitVec 4 → Prop}

/-- An instruction that leaves the array `b`, with no conditions and no scalar result. -/
theorem arrayRuns_write (b : Arr) (hx : exec i s = arrayIssue i s) (hw : ∀ v, wholeOf (arrayOp i v) 0 = true)
    (he : (s.far c).arr.effect (arrayOp i (i.reads.map (s.reg (.far c)))) = { arr := b }) (hp : ArrayTurn s c i → p b 0) :
    ArrayRuns s c i 0 0 p := by
  intro h
  obtain ⟨t, hnext, hdone⟩ := h.runs hx hw he
  exact ⟨t, b, Conds.code {}, hnext, hdone, hp h⟩
/-- An instruction that writes `v` to register `d` and leaves the array `b`, with no conditions. -/
theorem arrayRuns_read (b : Arr) {d : Reg} {v : Word} (hx : exec i s = arrayIssue i s) (hw : ∀ v, wholeOf (arrayOp i v) 0 = true)
    (he : (s.far c).arr.effect (arrayOp i (i.reads.map (s.reg (.far c)))) = { arr := b, res := some (d, v) }) (hp : p b 0) :
    ArrayRuns s c i d v p := by
  intro h
  obtain ⟨t, hnext, hdone⟩ := h.runs hx hw he
  exact ⟨t, b, Conds.code {}, hnext, hdone, hp⟩

/-- The checks of a pass instruction have found every field within the lane. -/
theorem ArrayTurn.passFits (h : ArrayTurn s c i) (hm : isMacro i = false) {q : Nat × Nat} (hq : q ∈ (s.far c).arr.passFields i) :
    FieldFits (s.far c).arr.laneW q := by
  have hfields := h.fields
  rw [Arr.fieldSpec, if_neg (by simp [hm])] at hfields
  refine fieldFits_of_topCol (Nat.lt_of_not_le fun htop => ?_) hq
  unfold Arr.passFlaw at hfields
  rw [if_pos htop] at hfields
  cases hfields
end

/-- The last column of a field of at least one column lies within the lane. -/
theorem FieldFits.lt {w c n : Nat} (h : FieldFits w (c, n + 1)) : c + n < w := by
  unfold FieldFits at h
  simp only at h
  omega

end Sys2Proof.Machine
end

section
/-! Tag logic and the controls of the array (R220, R228, R229, R231 to R233, R239, R262), and the settling of TagsAndControls. -/
namespace Sys2Proof.Machine

/-! ### Tag logic (R228) -/

theorem getLsbD_allRows_at {m j : Nat} (hm : m < 16) (hj : j < 131072) : (allRows m).getLsbD j = m.testBit (j % 4) := by
  have h := getLsbD_allRows (m := m) (r := j / 4) (l := j % 4) hm (by omega) (by omega)
  rwa [Nat.div_add_mod] at h
theorem getLsbD_allRows_full {j : Nat} (hj : j < 131072) : (allRows 15).getLsbD j = true := by
  rw [getLsbD_allRows_at (by decide) hj, show 15 = 2 ^ 4 - 1 from rfl, Nat.testBit_two_pow_sub_one, decide_eq_true (by omega)]
/-- The bits past the last row are none of any tag. -/
theorem getLsbD_allRows_ge (m : Nat) {j : Nat} (hj : 131072 ≤ j) : (allRows m).getLsbD j = false := BitVec.getLsbD_of_ge _ _ hj

/-- Tag `d` holds the bits `f`, and nothing else of the array has changed. -/
def Arr.TagIs (A : Arr) (d : TagNo) (f : Nat → Bool) (a : Arr) (codes : BitVec 4) : Prop :=
  codes = 0 ∧ { a with tags := A.tags } = A ∧ (∀ u, u ≠ d → a.tag u = A.tag u) ∧ ∀ j, j < 131072 → (a.tag d).getLsbD j = f j
theorem Arr.setTag_tagIs (A : Arr) (d : TagNo) {v : TagReg} {f : Nat → Bool} (h : ∀ j, j < 131072 → v.getLsbD j = f j) :
    A.TagIs d f (A.setTag d v) 0 :=
  ⟨rfl, rfl, fun _ hu => A.tag_setTag_other v hu, fun j hj => by rw [Arr.tag_setTag_same, h j hj]⟩

/-- A TOP writes its tag. -/
theorem top_tagIs {s : State} {c : Nat} {op : TopOp} {d : TagNo} {v : TagReg} {f : Nat → Bool} (hop : (s.far c).arr.top op = (s.far c).arr.setTag d v)
    (h : ∀ j, j < 131072 → v.getLsbD j = f j) : ArrayRuns s c (.top op) 0 0 ((s.far c).arr.TagIs d f) :=
  arrayRuns_write ((s.far c).arr.setTag d v) rfl (fun _ => rfl) (congrArg (fun a : Arr => ({ arr := a } : ArrDone)) hop) fun _ => Arr.setTag_tagIs _ d h

/-! ### Tags moved by rows and by lanes (R229) -/

theorem getLsbD_tag_up (t : TagReg) (ones : Bool) (n : Nat) {j : Nat} (hj : j < 131072) :
    ((t >>> n) ||| (if ones then ~~~((allRows 15) >>> n) else 0)).getLsbD j = if j + n < 131072 then t.getLsbD (j + n) else ones := by
  have hones : (if ones then ~~~((allRows 15) >>> n) else 0).getLsbD j = (ones && !(allRows 15).getLsbD (n + j)) := by
    cases ones
    · exact BitVec.getLsbD_zero
    · rw [if_pos rfl, BitVec.getLsbD_not, BitVec.getLsbD_ushiftRight, decide_eq_true hj]
  rw [BitVec.getLsbD_or, BitVec.getLsbD_ushiftRight, hones, Nat.add_comm n j]
  split_ifs with h
  · rw [getLsbD_allRows_full h, Bool.not_true, Bool.and_false, Bool.or_false]
  · rw [getLsbD_allRows_ge 15 (Nat.le_of_not_lt h), BitVec.getLsbD_of_ge t _ (Nat.le_of_not_lt h), Bool.not_false, Bool.and_true, Bool.false_or]
theorem getLsbD_tag_down (t : TagReg) (ones : Bool) (n : Nat) {j : Nat} (hj : j < 131072) :
    ((t <<< n) ||| (if ones then ~~~((allRows 15) <<< n) else 0)).getLsbD j = if n ≤ j then t.getLsbD (j - n) else ones := by
  have hshift (u : TagReg) : (u <<< n).getLsbD j = (!decide (j < n) && u.getLsbD (j - n)) := by
    rw [BitVec.getLsbD_shiftLeft, decide_eq_true hj, Bool.true_and]
  have hones : (if ones then ~~~((allRows 15) <<< n) else 0).getLsbD j = (ones && !(!decide (j < n) && (allRows 15).getLsbD (j - n))) := by
    cases ones
    · exact BitVec.getLsbD_zero
    · rw [if_pos rfl, BitVec.getLsbD_not, hshift, decide_eq_true hj]
  rw [BitVec.getLsbD_or, hshift, hones, getLsbD_allRows_full (show j - n < 131072 by omega)]
  split_ifs with h
  · rw [decide_eq_false (Nat.not_lt.mpr h)]
    simp
  · rw [decide_eq_true (Nat.lt_of_not_le h)]
    simp

/-- The bits of one lane, taken from lane `k` of each row. -/
theorem getLsbD_laneFrom (t : TagReg) {k l j : Nat} (hl : l < 4) (hj : j < 131072) :
    (((t >>> k) &&& allRows 1) <<< l).getLsbD j = (decide (j % 4 = l) && t.getLsbD (j / 4 * 4 + k)) := by
  have hlane0 : (allRows 1).getLsbD (j - l) = decide (0 = (j - l) % 4) := by
    rw [getLsbD_allRows_at (by decide) (by omega), show 1 = 2 ^ 0 from rfl, Nat.testBit_two_pow]
  rw [BitVec.getLsbD_shiftLeft, decide_eq_true hj, Bool.true_and, BitVec.getLsbD_and, BitVec.getLsbD_ushiftRight, hlane0]
  by_cases hlane : j % 4 = l
  · rw [decide_eq_true hlane, decide_eq_false (show ¬j < l by omega), decide_eq_true (show 0 = (j - l) % 4 by omega),
      show k + (j - l) = j / 4 * 4 + k by omega]
    simp
  · by_cases hlt : j < l
    · simp [hlane, hlt]
    · simp [hlane, show ¬0 = (j - l) % 4 by omega]
theorem getLsbD_foldl_or {α : Type} {w : Nat} (l : List α) (f : α → BitVec w) (b : BitVec w) (j : Nat) :
    (l.foldl (fun acc x => acc ||| f x) b).getLsbD j = (b.getLsbD j || l.any fun x => (f x).getLsbD j) := by
  induction l generalizing b with
  | nil => simp
  | cons x l ih => simp [ih, Bool.or_assoc]
theorem testBit_idleLanes (m : LaneMode) : ∀ l < 4, (16 - 2 ^ laneCount m).testBit l = decide (laneCount m ≤ l) := by
  cases m <;> decide
theorem Arr.getLsbD_tag_lane (a : Arr) (t : TagReg) (k : Nat) {j : Nat} (hj : j < 131072) :
    ((List.range a.lanesN).foldl (fun acc l => acc ||| (((t >>> ((l + k) % a.lanesN)) &&& allRows 1) <<< l))
      (t &&& allRows (16 - 2 ^ a.lanesN))).getLsbD j =
      if j % 4 < a.lanesN then t.getLsbD (j / 4 * 4 + (j % 4 + k) % a.lanesN) else t.getLsbD j := by
  have hmask : 16 - 2 ^ a.lanesN < 16 := by
    have := Nat.two_pow_pos a.lanesN
    omega
  have hidle : (t &&& allRows (16 - 2 ^ a.lanesN)).getLsbD j = (t.getLsbD j && decide (a.lanesN ≤ j % 4)) := by
    rw [BitVec.getLsbD_and, getLsbD_allRows_at hmask hj]
    exact congrArg (t.getLsbD j && ·) (testBit_idleLanes a.lanes (j % 4) (by omega))
  have hlanes : ((List.range a.lanesN).any fun l => (((t >>> ((l + k) % a.lanesN)) &&& allRows 1) <<< l).getLsbD j) =
      (decide (j % 4 < a.lanesN) && t.getLsbD (j / 4 * 4 + (j % 4 + k) % a.lanesN)) := by
    rw [Bool.eq_iff_iff, List.any_eq_true, Bool.and_eq_true, decide_eq_true_eq]
    constructor
    · rintro ⟨l, hl, hbit⟩
      have hl := List.mem_range.mp hl
      rw [getLsbD_laneFrom t (hl.trans_le a.lanesN_le) hj, Bool.and_eq_true, decide_eq_true_eq] at hbit
      obtain ⟨rfl, hbit⟩ := hbit
      exact ⟨hl, hbit⟩
    · rintro ⟨hl, hbit⟩
      refine ⟨j % 4, List.mem_range.mpr hl, ?_⟩
      rw [getLsbD_laneFrom t (hl.trans_le a.lanesN_le) hj, hbit, decide_eq_true rfl, Bool.true_and]
  rw [getLsbD_foldl_or, hidle, hlanes]
  split_ifs with h
  · simp [h, Nat.not_le.mpr h]
  · simp [h, Nat.le_of_not_lt h]

/-- A TSHF writes its tag. -/
theorem tshf_tagIs {s : State} {c : Nat} {op : TshfOp} {d x : TagNo} {v : TagReg} {f : Nat → Bool}
    (hop : (s.far c).arr.tshf op d x = (s.far c).arr.setTag d v) (h : ∀ j, j < 131072 → v.getLsbD j = f j) :
    ArrayRuns s c (.tshf op d x) 0 0 ((s.far c).arr.TagIs d f) :=
  arrayRuns_write ((s.far c).arr.setTag d v) rfl (fun _ => rfl) (congrArg (fun a : Arr => ({ arr := a } : ArrDone)) hop) fun _ =>
    Arr.setTag_tagIs _ d h

/-! ### Registers of the array that are set in parts (R233, R239, R262) -/

/-- A register of which part `q` of `w` bits has been replaced. -/
theorem getLsbD_withPart {n w : Nat} (old : BitVec n) (v : BitVec w) (q : Nat) {j : Nat} (hj : j < n) (hw : 0 < w) :
    ((old &&& ~~~(BitVec.ofNat n (2 ^ w - 1) <<< (w * q))) ||| (v.zeroExtend n <<< (w * q))).getLsbD j =
      if j / w = q then v.getLsbD (j % w) else old.getLsbD j := by
  have hmask : (BitVec.ofNat n (2 ^ w - 1) <<< (w * q)).getLsbD j = (!decide (j < w * q) && decide (j - w * q < w)) := by
    rw [BitVec.getLsbD_shiftLeft, BitVec.getLsbD_ofNat, Nat.testBit_two_pow_sub_one, decide_eq_true hj, Bool.true_and,
      decide_eq_true (show j - w * q < n by omega), Bool.true_and]
  have hnew : (v.zeroExtend n <<< (w * q)).getLsbD j = (!decide (j < w * q) && v.getLsbD (j - w * q)) := by
    rw [BitVec.getLsbD_shiftLeft, BitVec.zeroExtend_eq_setWidth, BitVec.getLsbD_setWidth, decide_eq_true hj, Bool.true_and,
      decide_eq_true (show j - w * q < n by omega), Bool.true_and]
  rw [BitVec.getLsbD_or, BitVec.getLsbD_and, BitVec.getLsbD_not, hmask, hnew, decide_eq_true hj, Bool.true_and]
  have hdiv := Nat.div_add_mod j w
  have hmod := Nat.mod_lt j hw
  split_ifs with h
  · subst h
    rw [decide_eq_false (show ¬j < w * (j / w) by omega), decide_eq_true (show j - w * (j / w) < w by omega),
      show j - w * (j / w) = j % w by omega]
    simp
  · by_cases hlt : j < w * q
    · simp [hlt]
    · have hge : w ≤ j - w * q := by
        by_contra hin
        refine h ((Nat.div_eq_iff hw).mpr ⟨?_, ?_⟩)
        · rw [Nat.mul_comm]
          omega
        · rw [Nat.mul_comm q w]
          omega
      simp [hlt, Nat.not_lt.mpr hge, BitVec.getLsbD_of_ge v _ hge]

/-! ### Truth table entries (R239) -/

theorem ttWords_cons (w : Word) (ws : List Word) : ttWords (w :: ws) = w.extractLsb' 0 32 :: w.extractLsb' 32 32 :: ttWords ws := rfl
theorem length_ttWords (ws : List Word) : (ttWords ws).length = 2 * ws.length := by
  induction ws with
  | nil => rfl
  | cons w ws ih =>
    rw [ttWords_cons, List.length_cons, List.length_cons, List.length_cons, ih]
    omega
theorem getD_ttWords (ws : List Word) (j : Nat) : (ttWords ws).getD j 0 = (ws.getD (j / 2) 0).extractLsb' (32 * (j % 2)) 32 := by
  induction ws generalizing j with
  | nil => simp [ttWords]
  | cons w ws ih =>
    rw [ttWords_cons]
    match j with
    | 0 => rfl
    | 1 => rfl
    | j + 2 =>
      rw [List.getD_cons_succ, List.getD_cons_succ, ih, Nat.add_div_right j (by decide), List.getD_cons_succ, Nat.add_mod_right]
/-- Entries listed from place `e` on. -/
theorem ttEntry_foldl (l : List (BitVec 32)) (e n : Nat) (a : Arr) (k : Nat) :
    ((l.zipIdx n).foldl (fun a p => { a with tt := mset 0 a.tt (e + p.2) p.1 }) a).ttEntry k =
      if e + n ≤ k ∧ k < e + n + l.length then l.getD (k - (e + n)) 0 else a.ttEntry k := by
  induction l generalizing n a with
  | nil => rw [if_neg (by simp)]; rfl
  | cons x l ih =>
    have hone : ({ a with tt := mset 0 a.tt (e + n) x } : Arr).ttEntry k = if k = e + n then x else a.ttEntry k := mget_mset ..
    rw [List.zipIdx_cons, List.foldl_cons, ih, hone, List.length_cons]
    by_cases hk : k = e + n
    · subst hk
      rw [if_neg (by omega), if_pos rfl, if_pos (by omega), Nat.sub_self, List.getD_cons_zero]
    · rw [if_neg hk]
      by_cases hin : e + n ≤ k ∧ k < e + n + (l.length + 1)
      · rw [if_pos hin, if_pos (by omega), show k - (e + n) = k - (e + (n + 1)) + 1 by omega, List.getD_cons_succ]
      · rw [if_neg hin, if_neg (by omega)]
theorem ttld_rest (l : List (BitVec 32 × Nat)) (e : Nat) (a : Arr) :
    { l.foldl (fun a p => { a with tt := mset 0 a.tt (e + p.2) p.1 }) a with tt := a.tt } = a := by
  induction l generalizing a with
  | nil => rfl
  | cons x l ih => exact congrArg (fun b : Arr => { b with tt := a.tt }) (ih { a with tt := mset 0 a.tt (e + x.2) x.1 })
theorem Arr.ttEntry_ttld (a : Arr) (e : Nat) (ws : List Word) (k : Nat) :
    (a.ttld e ws).ttEntry k = if e ≤ k ∧ k < e + 2 * ws.length then
      (ws.getD ((k - e) / 2) 0).extractLsb' (32 * ((k - e) % 2)) 32 else a.ttEntry k := by
  rw [Arr.ttld, ttEntry_foldl, length_ttWords, getD_ttWords, Nat.add_zero]

/-! ### Each control instruction -/

section
variable (s : State) (c : Nat)

/-- The words that a TTLD takes from its registers. -/
def ttldWords (g : Reg → Word) : TtRegs → List Word
  | .one a => [g a]
  | .two a b => [g a, g b]
  | .three a b c => [g a, g b, g c]
theorem span_runs (ls : BitVec 2) (x y : Reg) : let A := (s.far c).arr
    ArrayRuns s c (.span ls x y) 0 0 fun a codes => codes = 0 ∧ { a with spans := A.spans } = A ∧
      ∀ k, a.spanOf k = if k = ls then ((s.reg (.far c) x).toNat, (s.reg (.far c) y).toNat) else A.spanOf k :=
  arrayRuns_write { (s.far c).arr with spans := mset (0, 32768) (s.far c).arr.spans ls.toNat ((s.reg (.far c) x).toNat, (s.reg (.far c) y).toNat) }
    rfl (fun _ => rfl) rfl fun _ => ⟨rfl, rfl, fun _ => (mget_mset ..).trans (if_congr BitVec.toNat_inj rfl rfl)⟩
theorem seg_runs (m : LaneMode) : ArrayRuns s c (.seg m) 0 0 fun a codes => codes = 0 ∧ a = { (s.far c).arr with lanes := m } :=
  arrayRuns_write _ rfl (fun _ => rfl) rfl fun _ => ⟨rfl, rfl⟩
theorem key_runs (q : BitVec 2) (x : Reg) : let A := (s.far c).arr
    ArrayRuns s c (.key q x) 0 0 fun a codes => codes = 0 ∧ { a with ky := A.ky } = A ∧ ∀ j, j < 256 → a.ky.getLsbD j =
      if j / 64 = q.toNat then (s.reg (.far c) x).getLsbD (j % 64) else A.ky.getLsbD j :=
  arrayRuns_write { (s.far c).arr with ky := ((s.far c).arr.ky &&& ~~~(BitVec.ofNat 256 (2 ^ 64 - 1) <<< (64 * q.toNat))) |||
    ((s.reg (.far c) x).zeroExtend 256 <<< (64 * q.toNat)) } rfl (fun _ => rfl) rfl fun _ =>
    ⟨rfl, rfl, fun _ hj => getLsbD_withPart _ _ _ hj (by decide)⟩
theorem ttld_runs (e : BitVec 8) (regs : TtRegs) : let A := (s.far c).arr
    let ws := ttldWords (s.reg (.far c)) regs
    ArrayRuns s c (.ttld e regs) 0 0 fun a codes => codes = 0 ∧ { a with tt := A.tt } = A ∧ ∀ k, a.ttEntry k =
      if e.toNat ≤ k ∧ k < e.toNat + 2 * ws.length then
        (ws.getD ((k - e.toNat) / 2) 0).extractLsb' (32 * ((k - e.toNat) % 2)) 32 else A.ttEntry k := by
  refine arrayRuns_write ((s.far c).arr.ttld e.toNat (ttldWords (s.reg (.far c)) regs)) rfl (fun _ => rfl) ?_ fun _ =>
    ⟨rfl, ttld_rest _ _ _, fun k => Arr.ttEntry_ttld _ _ _ k⟩
  cases regs <;> rfl
theorem aspmacLdx_runs (q : BitVec 2) : let A := (s.far c).arr
    ArrayRuns s c (.aspmacLdx q) 0 0 fun a codes => codes = 0 ∧ { a with sact := A.sact } = A ∧ ∀ j, j < 1024 → a.sact.getLsbD j =
      if j / 256 = q.toNat then A.ky.getLsbD (j % 256) else A.sact.getLsbD j :=
  arrayRuns_write ((s.far c).arr.ldx q.toNat) rfl (fun _ => rfl) rfl fun _ => ⟨rfl, rfl, fun _ hj => getLsbD_withPart _ _ _ hj (by decide)⟩
theorem aspmacLdm_runs : let A := (s.far c).arr
    ArrayRuns s c .aspmacLdm 0 0 fun a codes => codes = 0 ∧ { a with smask := A.smask } = A ∧
      ∀ j, j < 128 → a.smask.getLsbD j = A.ky.getLsbD j :=
  arrayRuns_write (s.far c).arr.ldm rfl (fun _ => rfl) rfl fun _ => ⟨rfl, rfl, fun j hj => by
    simp [Arr.ldm, hj]⟩
end

/-- Settles O36, operation by operation. -/
theorem tagsAndControls : Obligations.TagsAndControls := by
  unfold Obligations.TagsAndControls
  refine ⟨fun s c d x y k n ones => ⟨?and, ?or, ?xor, ?andn, ?not, ?mov, ?clr, ?set, ?up, ?dn, ?lane⟩,
    fun s c x y ls q m e regs => ⟨span_runs s c ls x y, seg_runs s c m, key_runs s c q x, ?ttld, aspmacLdx_runs s c q, aspmacLdm_runs s c⟩⟩
  case and => exact top_tagIs rfl fun j _ => BitVec.getLsbD_and
  case or => exact top_tagIs rfl fun j _ => BitVec.getLsbD_or
  case xor => exact top_tagIs rfl fun j _ => BitVec.getLsbD_xor
  case andn => exact top_tagIs rfl fun j hj => by rw [BitVec.getLsbD_and, BitVec.getLsbD_not, decide_eq_true hj, Bool.true_and]
  case not => exact top_tagIs rfl fun j hj => by rw [BitVec.getLsbD_not, decide_eq_true hj, Bool.true_and]
  case mov => exact top_tagIs rfl fun j _ => rfl
  case clr => exact top_tagIs rfl fun j _ => BitVec.getLsbD_zero
  case set => exact top_tagIs rfl fun j hj => getLsbD_allRows_full hj
  case up => exact tshf_tagIs rfl fun j hj => getLsbD_tag_up _ ones _ hj
  case dn => exact tshf_tagIs rfl fun j hj => getLsbD_tag_down _ ones _ hj
  case lane => exact tshf_tagIs rfl fun j hj => Arr.getLsbD_tag_lane _ _ _ hj
  case ttld => cases regs <;> exact ttld_runs s c e _

end Sys2Proof.Machine
end

section
/-! The reads of the array (R230, R235): the set bits of a tag counted in blocks, the lowest of them, and the settling of ArrayReads. -/
namespace Sys2Proof.Machine

/-! ### Numbers by digits, and masks of every second digit -/

/-- The number with the digits `f 0` to `f (n - 1)` in base `b`. -/
def digitSum (b : Nat) (f : Nat → Nat) : Nat → Nat
  | 0 => 0
  | n + 1 => f 0 + b * digitSum b (fun i => f (i + 1)) n

theorem digitSum_add (b : Nat) (f g : Nat → Nat) (n : Nat) : digitSum b f n + digitSum b g n = digitSum b (fun i => f i + g i) n := by
  induction n generalizing f g with
  | zero => rfl
  | succ n ih =>
    rw [digitSum, digitSum, digitSum, ← ih]
    ring
/-- A number without its lowest digit. -/
theorem digitSum_div {b : Nat} {f : Nat → Nat} (n : Nat) (h0 : f 0 < b) (hn : f n = 0) :
    digitSum b f n / b = digitSum b (fun i => f (i + 1)) n := by
  have hlast (g : Nat → Nat) (m : Nat) (hg : g m = 0) : digitSum b g (m + 1) = digitSum b g m := by
    induction m generalizing g with
    | zero => rw [digitSum, digitSum, hg]; simp [digitSum]
    | succ m ih => exact congrArg (g 0 + b * ·) (ih (fun i => g (i + 1)) hg)
  rw [← hlast f n hn, digitSum, Nat.add_mul_div_left _ _ (Nat.zero_lt_of_lt h0), Nat.div_eq_of_lt h0, Nat.zero_add]
/-- The digits of a number of `n` bits. -/
theorem digitSum_bits (n : Nat) {x : Nat} (hx : x < 2 ^ n) : digitSum 2 (fun i => (x.testBit i).toNat) n = x := by
  induction n generalizing x with
  | zero => simpa [digitSum] using (Nat.lt_one_iff.mp hx).symm
  | succ n ih =>
    have hhalf : x / 2 < 2 ^ n := by
      rw [Nat.pow_succ] at hx
      omega
    have hrest := ih hhalf
    simp only [Nat.testBit_div_two] at hrest
    rw [digitSum, hrest, Nat.testBit_zero]
    have := Nat.mod_two_eq_zero_or_one x
    rcases this with h | h <;> simp [h] <;> omega
theorem digitSum_toNat {n : Nat} (x : BitVec n) : digitSum 2 (fun i => (x.getLsbD i).toNat) n = x.toNat := digitSum_bits n x.isLt

/-- Every second digit of base `2 ^ w` at its highest value, of `2 * n` digits. -/
def evenMask (w n : Nat) : Nat := digitSum ((2 ^ w) ^ 2) (fun _ => 2 ^ w - 1) n
theorem evenMask_eq (w n : Nat) : evenMask w n = (2 ^ (w * (2 * n)) - 1) / (2 ^ w + 1) := by
  have hpos := Nat.two_pow_pos w
  have hmul : evenMask w n * (2 ^ w + 1) + 1 = 2 ^ (w * (2 * n)) := by
    induction n with
    | zero => simp [evenMask, digitSum]
    | succ n ih =>
      have hsucc : evenMask w (n + 1) = 2 ^ w - 1 + (2 ^ w) ^ 2 * evenMask w n := rfl
      obtain ⟨b, hb⟩ : ∃ b, 2 ^ w = b + 1 := ⟨2 ^ w - 1, by omega⟩
      have hpow : 2 ^ (w * (2 * (n + 1))) = (2 ^ w) ^ 2 * 2 ^ (w * (2 * n)) := by
        rw [← Nat.pow_mul, ← Nat.pow_add]
        exact congrArg (2 ^ ·) (by ring)
      rw [hsucc, hpow, ← ih, hb, Nat.add_sub_cancel]
      ring
  rw [← hmul, Nat.add_sub_cancel, Nat.mul_div_cancel _ (Nat.succ_pos _)]
/-- The low digit of two numbers and what stands above it are joined apart. -/
theorem and_two_pow_add {w p q : Nat} (hp : p < 2 ^ w) (hq : q < 2 ^ w) (x y : Nat) :
    (p + 2 ^ w * x) &&& (q + 2 ^ w * y) = (p &&& q) + 2 ^ w * (x &&& y) := by
  refine Nat.eq_of_testBit_eq fun j => ?_
  rw [Nat.testBit_and, Nat.add_comm p, Nat.add_comm q, Nat.add_comm (p &&& q), Nat.testBit_two_pow_mul_add _ hp, Nat.testBit_two_pow_mul_add _ hq,
    Nat.testBit_two_pow_mul_add _ (Nat.and_lt_two_pow p hq)]
  split_ifs <;> rw [Nat.testBit_and]
/-- The mask keeps the digits of even place. -/
theorem digitSum_and_evenMask {w : Nat} (f : Nat → Nat) (n : Nat) (hf : ∀ i, f i < 2 ^ w) :
    digitSum (2 ^ w) f (2 * n) &&& evenMask w n = digitSum ((2 ^ w) ^ 2) (fun i => f (2 * i)) n := by
  induction n generalizing f with
  | zero => simp [evenMask, digitSum]
  | succ n ih =>
    have hpos := Nat.two_pow_pos w
    have hsplit : digitSum (2 ^ w) f (2 * (n + 1)) =
        f 0 + 2 ^ w * (f 1 + 2 ^ w * digitSum (2 ^ w) (fun i => f (i + 2)) (2 * n)) := rfl
    have hmask : evenMask w (n + 1) = 2 ^ w - 1 + 2 ^ w * (0 + 2 ^ w * evenMask w n) := by
      rw [Nat.zero_add, ← Nat.mul_assoc, ← Nat.pow_two]
      rfl
    rw [hsplit, hmask, and_two_pow_add (hf 0) (by omega), and_two_pow_add (hf 1) hpos, Nat.and_two_pow_sub_one_eq_mod,
      Nat.mod_eq_of_lt (hf 0), Nat.and_zero, ih _ fun i => hf (i + 2), digitSum, Nat.zero_add, ← Nat.mul_assoc, ← Nat.pow_two]
    rfl

/-! ### The count of a tag's bits (R230) -/

/-- The set bits of block `i` of `2 ^ k` bits. -/
def blockCount (t : TagReg) : Nat → Nat → Nat
  | 0, i => (t.getLsbD i).toNat
  | k + 1, i => blockCount t k (2 * i) + blockCount t k (2 * i + 1)

theorem blockCount_eq_countP (t : TagReg) (k i : Nat) :
    blockCount t k i = (List.range (2 ^ k)).countP fun j => t.getLsbD (i * 2 ^ k + j) := by
  induction k generalizing i with
  | zero => cases h : t.getLsbD i <;> simp [blockCount, h]
  | succ k ih =>
    have hfirst : 2 * i * 2 ^ k = i * 2 ^ (k + 1) := by ring
    have hsecond : (2 * i + 1) * 2 ^ k = i * 2 ^ (k + 1) + 2 ^ k := by ring
    have htwo : 2 ^ (k + 1) = 2 ^ k + 2 ^ k := by ring
    rw [blockCount, ih, ih, hfirst, hsecond]
    conv_rhs => rw [htwo, List.range_add, List.countP_append, List.countP_map, ← htwo]
    simp only [Function.comp_def, Nat.add_assoc]
theorem blockCount_lt (t : TagReg) (k i : Nat) : blockCount t k i < 2 ^ 2 ^ k := by
  rw [blockCount_eq_countP]
  exact (List.countP_le_length.trans_eq List.length_range).trans_lt Nat.lt_two_pow_self
theorem blockCount_eq_zero (t : TagReg) (k : Nat) {i : Nat} (h : 131072 ≤ i * 2 ^ k) : blockCount t k i = 0 := by
  rw [blockCount_eq_countP, List.countP_eq_zero]
  intro j _
  rw [BitVec.getLsbD_of_ge t _ (by omega)]
  exact Bool.false_ne_true

/-- Neighbouring blocks added, where `n` bits are left of `2 ^ k` bits each. -/
def joinBlocks (n x k : Nat) : Nat :=
  let b := 2 ^ 2 ^ k
  let m := (2 ^ n - 1) / (b + 1)
  (x &&& m) + (x / b &&& m)
theorem joinBlocks_eq (t : TagReg) {k m : Nat} (h : 2 ^ k * (2 * m) = 131072) :
    joinBlocks 131072 (digitSum (2 ^ 2 ^ k) (blockCount t k) (2 * m)) k = digitSum (2 ^ 2 ^ (k + 1)) (blockCount t (k + 1)) m := by
  have hend : blockCount t k (2 * m) = 0 := blockCount_eq_zero t k (by rw [Nat.mul_comm, h])
  have hsquare : 2 ^ 2 ^ (k + 1) = (2 ^ 2 ^ k) ^ 2 := by rw [← Nat.pow_mul, Nat.pow_succ]
  have hmask := evenMask_eq (2 ^ k) m
  rw [h] at hmask
  unfold joinBlocks
  dsimp only
  rw [← hmask, digitSum_div _ (blockCount_lt t k 0) hend, digitSum_and_evenMask _ _ (blockCount_lt t k),
    digitSum_and_evenMask _ _ fun i => blockCount_lt t k (i + 1), digitSum_add, hsquare]
  rfl
theorem foldl_joinBlocks (t : TagReg) (k : Nat) (hk : k ≤ 17) :
    (List.range k).foldl (joinBlocks 131072) t.toNat = digitSum (2 ^ 2 ^ k) (blockCount t k) (2 ^ (17 - k)) := by
  induction k with
  | zero => exact (digitSum_toNat t).symm
  | succ k ih =>
    have hhalves : 2 ^ (17 - k) = 2 * 2 ^ (17 - (k + 1)) := by
      rw [← Nat.pow_succ']
      exact congrArg (2 ^ ·) (by omega)
    have hbits : 2 ^ k * (2 * 2 ^ (17 - (k + 1))) = 131072 := by
      rw [← hhalves, ← Nat.pow_add, show k + (17 - k) = 17 by omega]
    rw [List.range_succ, List.foldl_append, ih (Nat.le_of_succ_le hk), hhalves]
    exact joinBlocks_eq t hbits
theorem countBits_eq_countP (t : TagReg) : countBits t = (List.range 131072).countP t.getLsbD := by
  have hfold : countBits t = blockCount t 17 0 := by
    refine (foldl_joinBlocks t 17 (Nat.le_refl 17)).trans ?_
    rw [show 2 ^ (17 - 17) = 0 + 1 from rfl, digitSum, digitSum, Nat.mul_zero, Nat.add_zero]
  have hbits : 2 ^ 17 = 131072 := rfl
  rw [hfold, blockCount_eq_countP]
  simp only [hbits, Nat.zero_mul, Nat.zero_add]

/-! ### The lowest of a tag's bits (R230) -/

theorem and_neg_eq_twoPow {w : Nat} {x : BitVec w} {j : Nat} (hj : x.getLsbD j = true) (hlow : ∀ i < j, x.getLsbD i = false) :
    x &&& -x = BitVec.twoPow w j := by
  refine BitVec.eq_of_getLsbD_eq fun i hi => ?_
  rw [BitVec.getLsbD_and, BitVec.getLsbD_neg, BitVec.getLsbD_twoPow, decide_eq_true hi, Bool.true_and,
    decide_eq_true (BitVec.lt_of_getLsbD hj), Bool.true_and]
  rcases Nat.lt_trichotomy i j with h | rfl | h
  · rw [hlow i h, decide_eq_false (Nat.ne_of_gt h), Bool.false_and]
  · have hnone : ¬∃ k < i, x.getLsbD k = true := by
      rintro ⟨k, hk, hbit⟩
      rw [hlow k hk] at hbit
      exact Bool.false_ne_true hbit
    rw [hj, decide_eq_false hnone, decide_eq_true rfl]
    rfl
  · rw [decide_eq_true (show ∃ k < i, x.getLsbD k = true from ⟨j, h, hj⟩), decide_eq_false (Nat.ne_of_lt h)]
    cases x.getLsbD i <;> rfl
theorem log2_and_neg {w : Nat} {x : BitVec w} {j : Nat} (hj : x.getLsbD j = true) (hlow : ∀ i < j, x.getLsbD i = false) :
    (x &&& -x).toNat.log2 = j := by
  have hlt := Nat.pow_lt_pow_right (show 1 < 2 by decide) (BitVec.lt_of_getLsbD hj)
  rw [and_neg_eq_twoPow hj hlow, BitVec.toNat_twoPow, Nat.mod_eq_of_lt hlt, Nat.log2_two_pow]
theorem lowestBit_eq {t : TagReg} {j : Nat} (hj : t.getLsbD j = true) (hlow : ∀ i < j, t.getLsbD i = false) : lowestBit t = j :=
  log2_and_neg hj hlow
theorem eq_zero_of_getLsbD {w : Nat} {x : BitVec w} (h : ∀ j < w, x.getLsbD j = false) : x = 0 :=
  BitVec.eq_of_getLsbD_eq fun j hj => (h j hj).trans BitVec.getLsbD_zero.symm

/-! ### The bits that a reduction reads -/

/-- Bit `j` is one that a reduction over a span and the lanes named reads (R230). -/
def Arr.counted (A : Arr) (t : TagNo) (ls : BitVec 2) (lane : Option (BitVec 2)) (j : Nat) : Bool :=
  A.spans? ls (j / 4) (j % 4) && A.tagAt t (j / 4) (j % 4) && (match lane with | none => true | some l => j % 4 == l.toNat)
theorem Arr.getLsbD_spanMask (A : Arr) (ls : BitVec 2) {r l : Nat} (hr : r < 32768) (hl : l < 4) :
    (A.spanMask ls).getLsbD (4 * r + l) = A.spans? ls r l := by
  rw [Arr.spanMask, getLsbD_spanBits _ _ A.lanesN_le hr hl, Arr.spans?, Bool.and_assoc]
theorem Arr.getLsbD_tagBits (A : Arr) (t : TagNo) (ls : BitVec 2) (lane : Option (BitVec 2)) {j : Nat} (hj : j < 131072) :
    (A.tagBits t ls lane).getLsbD j = A.counted t ls lane j := by
  have hspan := A.getLsbD_spanMask ls (show j / 4 < 32768 by omega) (show j % 4 < 4 by omega)
  have htag : A.tagAt t (j / 4) (j % 4) = (A.tag t).getLsbD j := by rw [Arr.tagAt, Nat.div_add_mod]
  rw [Nat.div_add_mod] at hspan
  cases lane with
  | none =>
    rw [Arr.tagBits, Arr.counted, htag, BitVec.getLsbD_and, hspan, Bool.and_true, Bool.and_comm]
  | some l =>
    have hlane : (allRows (2 ^ l.toNat)).getLsbD j = (j % 4 == l.toNat) := by
      rw [getLsbD_allRows_at (Nat.pow_lt_pow_right (by decide) l.isLt) hj, Nat.testBit_two_pow, Bool.eq_iff_iff, decide_eq_true_eq, beq_iff_eq, eq_comm]
    rw [Arr.tagBits, Arr.counted, htag, BitVec.getLsbD_and, BitVec.getLsbD_and, hspan, hlane, Bool.and_comm (A.spans? ls _ _)]

section
variable (A : Arr) (t : TagNo) (ls : BitVec 2) (lane : Option (BitVec 2))

theorem Arr.countBits_tagBits : countBits (A.tagBits t ls lane) = (List.range 131072).countP (A.counted t ls lane) := by
  rw [countBits_eq_countP]
  exact List.countP_congr fun j hj => by rw [A.getLsbD_tagBits t ls lane (List.mem_range.mp hj)]
theorem Arr.tagBits_eq_zero_iff : A.tagBits t ls lane = 0 ↔ ∀ j < 131072, A.counted t ls lane j = false := by
  refine ⟨fun h j hj => ?_, fun h => eq_zero_of_getLsbD fun j hj => by rw [A.getLsbD_tagBits t ls lane hj, h j hj]⟩
  rw [← A.getLsbD_tagBits t ls lane hj, h]
  exact BitVec.getLsbD_zero
theorem Arr.tagBits_any : boolWord (A.tagBits t ls lane != 0) = if (List.range 131072).any (A.counted t ls lane) then 1 else 0 := by
  have hany : (A.tagBits t ls lane != 0) = (List.range 131072).any (A.counted t ls lane) := by
    rw [Bool.eq_iff_iff, bne_iff_ne, List.any_eq_true, Ne, A.tagBits_eq_zero_iff]
    simp
  rw [boolWord, hany]
variable {A t ls lane}
theorem Arr.tfirst_none (clr : Bool) (h : ∀ j < 131072, A.counted t ls lane j = false) : A.tfirst clr t ls lane = (BitVec.allOnes 64, A) := by
  unfold Arr.tfirst
  dsimp only
  rw [if_pos ((A.tagBits_eq_zero_iff t ls lane).mpr h)]
  rfl
theorem Arr.tfirst_some (clr : Bool) {j : Nat} (hj : j < 131072) (hhit : A.counted t ls lane j = true)
    (hlow : ∀ i < j, A.counted t ls lane i = false) : A.tfirst clr t ls lane =
      (BitVec.ofNat 64 (j / 4 + j % 4 * 65536), if clr then A.setTag t (A.tag t &&& ~~~(1#131072 <<< j)) else A) := by
  have hne : A.tagBits t ls lane ≠ 0 := fun h => by
    rw [(A.tagBits_eq_zero_iff t ls lane).mp h j hj] at hhit
    exact Bool.false_ne_true hhit
  have hlowest : lowestBit (A.tagBits t ls lane) = j := by
    refine lowestBit_eq ((A.getLsbD_tagBits t ls lane hj).trans hhit) fun i hi => ?_
    rw [A.getLsbD_tagBits t ls lane (hi.trans hj), hlow i hi]
  unfold Arr.tfirst
  dsimp only
  rw [if_neg hne, hlowest]
end

/-- The tag after TFIRST: without the bit found, where the instruction clears it. -/
theorem Arr.getLsbD_clearedBit (A : Arr) (t : TagNo) (clr : Bool) {i j : Nat} (hi : i < 131072) :
    ((if clr then A.setTag t (A.tag t &&& ~~~(1#131072 <<< j)) else A).tag t).getLsbD i = ((A.tag t).getLsbD i && !(clr && i == j)) := by
  cases clr with
  | false => simp
  | true =>
    have hone : (1#131072 <<< j).getLsbD i = (i == j) := by
      rw [← BitVec.twoPow_eq, BitVec.getLsbD_twoPow, Bool.eq_iff_iff, Bool.and_eq_true, decide_eq_true_eq, decide_eq_true_eq, beq_iff_eq]
      omega
    rw [if_pos rfl, Arr.tag_setTag_same, BitVec.getLsbD_and, BitVec.getLsbD_not, hone, decide_eq_true hi, Bool.true_and, Bool.true_and]

/-! ### Each read -/

section
variable (s : State) (c : Nat) (d g : Reg)

theorem tfirst_clears (t : TagNo) (ls : BitVec 2) (lane : Option (BitVec 2)) (clr : Bool) {j : Nat} : let A := (s.far c).arr
    j < 131072 → A.counted t ls lane j = true → (∀ i, i < j → A.counted t ls lane i = false) →
    ArrayRuns s c (.tfirst clr d t ls lane) d (BitVec.ofNat 64 (j / 4 + j % 4 * 65536)) fun a codes => codes = 0 ∧
      { a with tags := A.tags } = A ∧ (∀ u, u ≠ t → a.tag u = A.tag u) ∧
      ∀ i, i < 131072 → (a.tag t).getLsbD i = ((A.tag t).getLsbD i && !(clr && i == j)) := by
  intro A hj hhit hlow
  refine arrayRuns_read _ rfl (fun _ => rfl)
    (congrArg (fun p : Word × Arr => ({ arr := p.2, res := some (d, p.1) } : ArrDone)) (Arr.tfirst_some clr hj hhit hlow)) ⟨rfl, ?_, ?_, ?_⟩
  · cases clr <;> rfl
  · intro u hu
    cases clr with
    | false => rfl
    | true => exact Arr.tag_setTag_other _ _ hu
  · exact fun i hi => Arr.getLsbD_clearedBit _ t clr hi
/-- The top bit of a number of `n + 1` bits. -/
theorem testBit_top_iff {v n : Nat} (h : v < 2 ^ (n + 1)) : v.testBit n = true ↔ 2 ^ n ≤ v := by
  have hpos := Nat.two_pow_pos n
  rw [Nat.pow_succ] at h
  rw [Nat.testBit_eq_decide_div_mod_eq, decide_eq_true_eq, ← Nat.one_le_div_iff hpos]
  have : v / 2 ^ n < 2 := (Nat.div_lt_iff_lt_mul hpos).mpr (by omega)
  generalize v / 2 ^ n = q at *
  omega
theorem segRd_runs : ArrayRuns s c (.segRd d) d (match (s.far c).arr.lanes with | .one => 1 | .two => 2 | .four => 4)
    fun a codes => a = (s.far c).arr ∧ codes = 0 := by
  refine arrayRuns_read _ rfl (fun _ => rfl) ?_ ⟨rfl, rfl⟩
  have hcount : BitVec.ofNat 64 (s.far c).arr.lanesN = (match (s.far c).arr.lanes with | .one => 1 | .two => 2 | .four => 4) := by
    unfold Arr.lanesN
    cases (s.far c).arr.lanes <;> rfl
  exact congrArg (fun v : Word => ({ arr := (s.far c).arr, res := some (d, v) } : ArrDone)) hcount
theorem cread_runs (sx : Bool) (col : Col) (n1 : BitVec 6) (ln : BitVec 2) : let n := n1.toNat + 1
    let v := (s.far c).arr.field (s.reg (.far c) g).toNat ln.toNat col.toNat n
    ArrayRuns s c (.cread sx d g col n1 ln) d (if sx = true ∧ 2 ^ (n - 1) ≤ v then BitVec.ofInt 64 ((v : Int) - 2 ^ n) else BitVec.ofNat 64 v)
      fun a codes => a = (s.far c).arr ∧ codes = 0 := by
  intro n v
  refine arrayRuns_read _ rfl (fun _ => rfl) ?_ ⟨rfl, rfl⟩
  have htop : tb v n1.toNat = true ↔ 2 ^ (n - 1) ≤ v := testBit_top_iff (fieldOf_lt ..)
  have hword : (s.far c).arr.cread sx (s.reg (.far c) g).toNat col.toNat n ln.toNat =
      if sx = true ∧ 2 ^ (n - 1) ≤ v then BitVec.ofInt 64 ((v : Int) - 2 ^ n) else BitVec.ofNat 64 v :=
    if_congr (by rw [Bool.and_eq_true]; exact and_congr_right' htop) rfl rfl
  exact congrArg (fun w : Word => ({ arr := (s.far c).arr, res := some (d, w) } : ArrDone)) hword
end

/-- Settles O37, read by read. -/
theorem arrayReads : Obligations.ArrayReads := by
  unfold Obligations.ArrayReads
  intro s c d g t ls lane clr sx col n1 ln
  refine ⟨?cnt, ?any, fun hnone => ?none, fun j hj hhit hlow => tfirst_clears s c d t ls lane clr hj hhit hlow,
    arrayRuns_read _ rfl (fun _ => rfl) rfl ⟨rfl, rfl⟩, segRd_runs s c d, cread_runs s c d g sx col n1 ln⟩
  case cnt =>
    refine arrayRuns_read _ rfl (fun _ => rfl) ?_ ⟨rfl, rfl⟩
    exact congrArg (fun n => ({ arr := (s.far c).arr, res := some (d, BitVec.ofNat 64 n) } : ArrDone)) (Arr.countBits_tagBits _ t ls lane)
  case any =>
    refine arrayRuns_read _ rfl (fun _ => rfl) ?_ ⟨rfl, rfl⟩
    exact congrArg (fun v : Word => ({ arr := (s.far c).arr, res := some (d, v) } : ArrDone)) (Arr.tagBits_any _ t ls lane)
  case none =>
    refine arrayRuns_read _ rfl (fun _ => rfl) ?_ ⟨rfl, rfl⟩
    exact congrArg (fun p : Word × Arr => ({ arr := p.2, res := some (d, p.1) } : ArrDone)) (Arr.tfirst_none clr hnone)

end Sys2Proof.Machine
end

section
/-! Rows and tags after a pass (R220, R221, R226, R227): a test of every row, a tag combined in a span, the columns written in selected
lanes. -/
namespace Sys2Proof.Machine

/-! ### Tests of every row -/

/-- Bits gathered from a test of each place. -/
theorem foldl_bits (f : Nat → Bool) (n : Nat) :
    (List.range n).foldl (fun acc l => acc + if f l then 2 ^ l else 0) 0 < 2 ^ n ∧
      ∀ l, ((List.range n).foldl (fun acc l => acc + if f l then 2 ^ l else 0) 0).testBit l = (decide (l < n) && f l) := by
  induction n with
  | zero => simp
  | succ n ih =>
    obtain ⟨hlt, hbit⟩ := ih
    rw [List.range_succ, List.foldl_append, List.foldl_cons, List.foldl_nil]
    generalize (List.range n).foldl (fun acc l => acc + if f l then 2 ^ l else 0) 0 = x at hlt hbit
    have hsum : x + (if f n then 2 ^ n else 0) = 2 ^ n * (f n).toNat + x := by
      cases f n
      · simp
      · simp [Nat.add_comm]
    rw [hsum]
    refine ⟨?_, fun l => ?_⟩
    · have hone := Nat.mul_le_mul_left (2 ^ n) (Bool.toNat_le (f n))
      rw [Nat.pow_succ]
      omega
    · rw [Nat.testBit_two_pow_mul_add _ hlt]
      split_ifs with hl
      · rw [hbit, decide_eq_true hl, decide_eq_true (Nat.lt_succ_of_lt hl)]
      · by_cases he : l = n
        · subst he
          cases f l <;> simp
        · have hzero : (f n).toNat.testBit (l - n) = false :=
            Nat.testBit_lt_two_pow ((Bool.toNat_lt (f n)).trans_le (Nat.pow_le_pow_right (show 0 < 2 by decide) (show 1 ≤ l - n by omega)))
          rw [hzero, decide_eq_false (show ¬l < n + 1 by omega), Bool.false_and]
theorem getLsbD_withRowBits (t : TagReg) (k nib : Nat) {r l : Nat} (hr : r < 32768) (hl : l < 4) :
    (withRowBits t k nib).getLsbD (4 * r + l) = if r = k then nib.testBit l else t.getLsbD (4 * r + l) := by
  have hlt : 4 * r + l < 131072 := by omega
  have hcleared := getLsbD_clearedRow t k hr hl
  have hsplit : withRowBits t k nib = withRowBits t k 0 ||| (BitVec.ofNat 131072 (nib % 16) <<< (4 * k)) := by
    rw [withRowBits, withRowBits, show BitVec.ofNat 131072 (0 % 16) = 0#131072 from rfl, BitVec.zero_shiftLeft, BitVec.or_zero]
  rw [hsplit, BitVec.getLsbD_or, hcleared, BitVec.getLsbD_shiftLeft, BitVec.getLsbD_ofNat, decide_eq_true hlt,
    decide_eq_true (show 4 * r + l - 4 * k < 131072 by omega), Bool.true_and, Bool.true_and, show 16 = 2 ^ 4 from rfl, Nat.testBit_mod_two_pow]
  split_ifs with h
  · subst h
    simp [hl]
  · by_cases hlow : 4 * r + l < 4 * k
    · simp [h, hlow]
    · simp [h, show ¬4 * r + l - 4 * k < 4 by omega]
/-- Lane bits computed for every listed row. -/
theorem getLsbD_foldl_withRowBits {α : Type} (dflt : Nat → α) (nib : α → Nat) (m : FMap α) (hm : rising m = true) (t : TagReg) {r l : Nat}
    (hr : r < 32768) (hl : l < 4) : (m.foldl (fun t p => withRowBits t p.1 (nib p.2)) t).getLsbD (4 * r + l) =
      if mhas m r then (nib (mget dflt m r)).testBit l else t.getLsbD (4 * r + l) := by
  induction m generalizing t with
  | nil => rfl
  | cons p m ih =>
    obtain ⟨j, v⟩ := p
    obtain ⟨habove, hrest⟩ := (rising_cons _ _).mp hm
    have hlisted : mhas ((j, v) :: m) r = (j == r || mhas m r) := rfl
    rw [List.foldl_cons, ih hrest, getLsbD_withRowBits _ _ _ hr hl, mget, hlisted]
    by_cases h : j = r
    · subst h
      have habsent : mhas m j = false := mhas_false m j fun q hq => Nat.ne_of_gt (habove q hq)
      simp [habsent]
    · simp [h, Ne.symm h]
theorem Arr.getLsbD_testRows (a : Arr) (f : Nat → Nat → Bool) {r l : Nat} (hr : r < 32768) (hl : l < 4) :
    (a.testRows f).getLsbD (4 * r + l) = (decide (l < a.lanesN) && f l (laneOfRow (a.row r) a.laneW l)) := by
  have hbits (row : BitVec 256) := foldl_bits (fun l => f l (laneOfRow row a.laneW l)) a.lanesN
  have hnib : (List.range a.lanesN).foldl (fun acc l => acc + if f l (laneOfRow 0 a.laneW l) then 2 ^ l else 0) 0 < 16 :=
    (hbits 0).1.trans_le (Nat.pow_le_pow_right (by decide) a.lanesN_le)
  unfold Arr.testRows
  dsimp only
  rw [getLsbD_foldl_withRowBits (fun _ => 0) (fun row => (List.range a.lanesN).foldl
    (fun acc l => acc + if f l (laneOfRow row a.laneW l) then 2 ^ l else 0) 0) _ (rising_mcanon a.rows) _ hr hl,
    getLsbD_allRows hnib hr hl, (hbits _).2, (hbits _).2, mhas_mcanon, mget_mcanon]
  split_ifs with h
  · rfl
  · have hzero : a.row r = 0 := mget_of_not_mhas _ (Bool.not_eq_true _ ▸ h)
    rw [hzero]

/-! ### A tag combined in a span (R226) -/

/-- The tag bit that a pass leaves in its span. -/
def combined (comb : Comb) (old hit : Bool) : Bool := match comb with | .mov => hit | .and => old && hit | .or => old || hit
/-- Tag `d` has been combined with `hit` in a span, and no other tag bit has changed. -/
def Arr.Tagged (A : Arr) (d : TagNo) (a : Arr) (ls : BitVec 2) (comb : Comb) (hit : Nat → Nat → Bool) : Prop :=
  (∀ u, u ≠ d → a.tag u = A.tag u) ∧ ∀ r l, r < 32768 → l < 4 →
    a.tagAt d r l = if A.spans? ls r l then combined comb (A.tagAt d r l) (hit r l) else A.tagAt d r l

/-- What a pass reads in an array whose rows have been written. -/
theorem Arr.tag_of_rows {A b : Arr} (h : { b with rows := A.rows } = A) (t : TagNo) : b.tag t = A.tag t := by
  have htag := congrArg (fun a => Arr.tag a t) h
  exact htag
theorem Arr.spanMask_of_rows {A b : Arr} (h : { b with rows := A.rows } = A) (ls : BitVec 2) : b.spanMask ls = A.spanMask ls := by
  have hmask := congrArg (fun a => Arr.spanMask a ls) h
  exact hmask
theorem Arr.combTag_tagged {A b : Arr} (h : { b with rows := A.rows } = A) (d : TagNo) (ls : BitVec 2) (comb : Comb) {hit : TagReg}
    {f : Nat → Nat → Bool} (hf : ∀ r l, r < 32768 → l < 4 → A.spans? ls r l = true → hit.getLsbD (4 * r + l) = f r l) :
    A.Tagged d (b.combTag d ls comb hit) ls comb f := by
  refine ⟨fun u hu => (Arr.tag_setTag_other _ _ hu).trans (Arr.tag_of_rows h u), fun r l hr hl => ?_⟩
  have hspan := A.getLsbD_spanMask ls hr hl
  unfold Arr.combTag
  dsimp only
  rw [Arr.tagAt, Arr.tag_setTag_same, Arr.tag_of_rows h, Arr.spanMask_of_rows h, BitVec.getLsbD_or, BitVec.getLsbD_and, BitVec.getLsbD_and,
    BitVec.getLsbD_not, hspan, decide_eq_true (show 4 * r + l < 131072 by omega), ← Arr.tagAt]
  by_cases hin : A.spans? ls r l = true
  · have hbit := hf r l hr hl hin
    rw [if_pos hin, hin]
    cases comb <;> simp [combined, hbit, Arr.tagAt]
  · rw [if_neg hin, eq_false_of_ne_true hin]
    simp

/-! ### Columns written in selected lanes (R242) -/

/-- No row or lane outside the span is selected. -/
def Arr.Within (A : Arr) (ls : BitVec 2) (sel : TagReg) : Prop :=
  ∀ r l, r < 32768 → l < 4 → sel.getLsbD (4 * r + l) = true → A.spans? ls r l = true

section
variable (A : Arr) (x : Rows) (g : Nat → Nat → Nat) {sel : TagReg} {r l : Nat}

theorem Arr.within_selected : A.Within x.span (A.selected x) := by
  intro r l hr hl h
  rw [A.getLsbD_selected x hr hl, Arr.acts, Bool.and_eq_true] at h
  exact h.1
theorem Arr.Within.and {ls : BitVec 2} (h : A.Within ls sel) (t : TagReg) : A.Within ls (t &&& sel) := by
  intro r l hr hl hbit
  rw [BitVec.getLsbD_and, Bool.and_eq_true] at hbit
  exact h r l hr hl hbit.2
theorem Arr.Within.rowBits {ls : BitVec 2} (h : A.Within ls sel)
    (hout : r < (A.spanOf ls).1 ∨ (A.spanOf ls).1 + (A.spanOf ls).2 ≤ r) : rowBits sel r = 0 := by
  refine rowBits_eq_zero fun l hl => ?_
  rcases Nat.lt_or_ge r 32768 with hr | hr
  · by_contra hbit
    have hspan := h r l hr hl (Bool.not_eq_false _ ▸ hbit)
    simp only [Arr.spans?, Bool.and_eq_true, decide_eq_true_eq] at hspan
    omega
  · exact BitVec.getLsbD_of_ge _ _ (by omega)
theorem Arr.runBits_rest : { A.runBits x sel g with rows := A.rows } = A := A.runLanes_rest ..
@[simp] theorem Arr.runBits_laneW : (A.runBits x sel g).laneW = A.laneW := A.runLanes_laneW ..
theorem Arr.runBits_lane (h : A.Within x.span sel) (hl : l < A.lanesN) :
    laneOfRow ((A.runBits x sel g).row r) A.laneW l = if sel.getLsbD (4 * r + l) = true then g l (laneOfRow (A.row r) A.laneW l) % 2 ^ A.laneW
      else laneOfRow (A.row r) A.laneW l := by
  rw [Arr.runBits, A.runLanes_row _ _ _ fun r => h.rowBits, laneOfRow_rowStep _ _ _ _ (A.lane_fits hl),
    testBit_rowBits _ (hl.trans_le A.lanesN_le)]
  exact if_congr (and_iff_right hl) rfl rfl
theorem Arr.runBits_col (h : A.Within x.span sel) (hl : l < A.lanesN) {j : Nat} (hj : j < A.laneW) :
    (A.runBits x sel g).col r l j = if sel.getLsbD (4 * r + l) = true then (g l (laneOfRow (A.row r) A.laneW l)).testBit j else A.col r l j := by
  rw [← Arr.testBit_lane _ (by rwa [Arr.runBits_laneW]), Arr.runBits_laneW, A.runBits_lane x g h hl, ← A.testBit_lane hj]
  split_ifs
  · rw [Nat.testBit_mod_two_pow, decide_eq_true hj, Bool.true_and]
  · rfl
/-- The columns after a pass over the rows and lanes on which an instruction acts. -/
theorem Arr.runBits_selected_col (hr : r < 32768) (hl : l < A.lanesN) {j : Nat} (hj : j < A.laneW) :
    (A.runBits x (A.selected x) g).col r l j = if A.acts x r l = true then (g l (laneOfRow (A.row r) A.laneW l)).testBit j else A.col r l j :=
  A.runLanes_col x _ hr hl hj
/-- Columns of the lanes are read only through the rows and the lane width. -/
theorem Arr.col_combTag (d : TagNo) (ls : BitVec 2) (comb : Comb) (hit : TagReg) (j : Nat) : (A.combTag d ls comb hit).col r l j = A.col r l j := rfl
end

end Sys2Proof.Machine
end

section
/-! Column specifications (R221), and the settling of ArrayPasses. -/
namespace Sys2Proof.Machine

/-! ### Matching and writing columns -/

theorem Arr.colsMatch_lane (A : Arr) (r l : Nat) {cs : List (Nat × Bool)} (h : ∀ p ∈ cs, p.1 < A.laneW) :
    colsMatch (laneOfRow (A.row r) A.laneW l) cs = cs.all fun p => A.col r l p.1 == p.2 := by
  unfold colsMatch
  rw [Bool.eq_iff_iff, List.all_eq_true, List.all_eq_true]
  exact forall₂_congr fun p hp => by rw [tb, A.testBit_lane (h p hp)]
/-- A column after a list of writes: what the last write to it has left. -/
theorem testBit_colsWrite (cs : List (Nat × Bool)) (v j : Nat) :
    (colsWrite v cs).testBit j = ((cs.reverse.find? fun p => p.1 == j).map fun p => p.2).getD (v.testBit j) := by
  induction cs generalizing v with
  | nil => rfl
  | cons p cs ih =>
    have hone : colsWrite v (p :: cs) = colsWrite (withField v p.1 1 p.2.toNat) cs := rfl
    rw [hone, ih, testBit_withField, List.reverse_cons, List.find?_append]
    cases cs.reverse.find? fun p => p.1 == j with
    | some q => rfl
    | none =>
      by_cases h : p.1 = j
      · subst h
        cases hp : p.2 <;> simp [hp]
      · rw [if_neg (by omega)]
        simp [h]
/-- The write of a range of columns to one of them. -/
theorem find?_reverse_range (c n j : Nat) (g : Nat → Bool) :
    ((((List.range (n + 1)).map fun i => (c + i, g i)).reverse.find? fun p => p.1 == j).map fun p => p.2) =
      if c ≤ j ∧ j ≤ c + n then some (g (j - c)) else none := by
  induction n with
  | zero =>
    by_cases h : c = j
    · subst h; simp
    · simp [h, show ¬(c ≤ j ∧ j ≤ c) by omega]
  | succ n ih =>
    rw [List.range_succ, List.map_append, List.reverse_append, List.map_singleton, List.reverse_singleton, List.singleton_append, List.find?_cons]
    by_cases h : c + (n + 1) = j
    · subst h; simp
    · rw [beq_false_of_ne h]
      dsimp only
      rw [ih]
      exact if_congr (by omega) rfl rfl

/-! ### What a specification names (R221) -/

/-- The columns of a row and lane hold the bits of a list of pairs. -/
def Arr.meets (A : Arr) (ps : List (Col × Bool)) (r l : Nat) : Bool := ps.all fun p => A.col r l p.1.toNat == p.2
/-- The bit that the last of a list of pairs for column `j` puts there. -/
def putAt (ps : List (Col × Bool)) (j : Nat) : Option Bool := (ps.reverse.find? fun p => p.1.toNat == j).map fun p => p.2
/-- The columns of a row and lane hold the bits of a specification. -/
def Arr.named (A : Arr) (sp : Spec) (r l : Nat) : Bool :=
  match sp with
  | .pairs ps => A.meets ps r l
  | .imm k n1 key => (List.range (n1.toNat + 1)).all fun j => A.col r l (k.toNat + j) == key.getLsbD j
  | .ky k n1 => (List.range (n1.toNat + 1)).all fun j => A.col r l (k.toNat + j) == A.ky.getLsbD (l * A.laneW + k.toNat + j)
/-- The bit that a specification writes to column `j` of a lane. -/
def Arr.written (A : Arr) (sp : Spec) (l j : Nat) : Option Bool :=
  match sp with
  | .pairs ps => putAt ps j
  | .imm k n1 key => if k.toNat ≤ j ∧ j ≤ k.toNat + n1.toNat then some (key.getLsbD (j - k.toNat)) else none
  | .ky k n1 => if k.toNat ≤ j ∧ j ≤ k.toNat + n1.toNat then some (A.ky.getLsbD (l * A.laneW + j)) else none

section
variable (A : Arr)

theorem pairCols_lt {w : Nat} {ps : List (Col × Bool)} (h : ∀ p ∈ ps, FieldFits w (p.1.toNat, 1)) : ∀ q ∈ pairCols ps, q.1 < w := by
  intro q hq
  obtain ⟨p, hp, rfl⟩ := List.mem_map.mp hq
  exact (h p hp).lt
theorem Arr.specCols_lt {sp : Spec} (h : ∀ q ∈ specFields sp, FieldFits A.laneW q) (l : Nat) : ∀ q ∈ A.specCols sp l, q.1 < A.laneW := by
  intro q hq
  cases sp with
  | pairs ps => exact pairCols_lt (fun p hp => h _ (List.mem_map.mpr ⟨p, hp, rfl⟩)) q hq
  | imm k n1 key | ky k n1 =>
    obtain ⟨i, hi, rfl⟩ := List.mem_map.mp hq
    have hlast := (h _ List.mem_cons_self).lt
    have := List.mem_range.mp hi
    dsimp only
    omega
theorem Arr.colsMatch_pairCols (r l : Nat) {ps : List (Col × Bool)} (h : ∀ p ∈ ps, FieldFits A.laneW (p.1.toNat, 1)) :
    colsMatch (laneOfRow (A.row r) A.laneW l) (pairCols ps) = A.meets ps r l := by
  rw [A.colsMatch_lane r l (pairCols_lt h), pairCols, List.all_map]
  rfl
theorem Arr.colsMatch_specCols (r l : Nat) {sp : Spec} (h : ∀ q ∈ specFields sp, FieldFits A.laneW q) :
    colsMatch (laneOfRow (A.row r) A.laneW l) (A.specCols sp l) = A.named sp r l := by
  rw [A.colsMatch_lane r l (A.specCols_lt h l)]
  cases sp <;> exact List.all_map ..
theorem testBit_colsWrite_pairCols (ps : List (Col × Bool)) (v j : Nat) :
    (colsWrite v (pairCols ps)).testBit j = (putAt ps j).getD (v.testBit j) := by
  rw [testBit_colsWrite, pairCols, ← List.map_reverse, List.find?_map, Option.map_map]
  rfl
theorem Arr.testBit_colsWrite_specCols (sp : Spec) (l v j : Nat) :
    (colsWrite v (A.specCols sp l)).testBit j = (A.written sp l j).getD (v.testBit j) := by
  cases sp with
  | pairs ps => exact testBit_colsWrite_pairCols ps v j
  | imm k n1 key =>
    rw [testBit_colsWrite, Arr.specCols, find?_reverse_range k.toNat n1.toNat j fun i => key.getLsbD i]
    rfl
  | ky k n1 =>
    rw [testBit_colsWrite, Arr.specCols, find?_reverse_range k.toNat n1.toNat j fun i => A.ky.getLsbD (l * A.laneW + k.toNat + i), Arr.written]
    split_ifs with h
    · rw [Nat.add_assoc, Nat.add_sub_cancel' h.1]
    · rfl
end

/-! ### Each pass -/

/-- Of an array only tags and rows have changed, and no condition has been raised. -/
def Arr.Passed (A a : Arr) (codes : BitVec 4) : Prop := codes = 0 ∧ { a with tags := A.tags, rows := A.rows } = A
/-- The columns of the active lanes of all rows. -/
def Arr.Cols (A a : Arr) (g : Nat → Nat → Nat → Bool) : Prop := ∀ r l j, r < 32768 → l < A.lanesN → j < A.laneW → a.col r l j = g r l j

theorem Arr.spans?_of_acts {A : Arr} {x : Rows} {r l : Nat} (h : A.acts x r l = true) : A.spans? x.span r l = true := by
  rw [Arr.acts, Bool.and_eq_true] at h
  exact h.1
theorem Arr.lt_lanesN_of_spans? {A : Arr} {ls : BitVec 2} {r l : Nat} (h : A.spans? ls r l = true) : l < A.lanesN := by
  simp only [Arr.spans?, Bool.and_eq_true, decide_eq_true_eq] at h
  exact h.1.1
theorem Arr.passed_of_rows {A b : Arr} (h : { b with rows := A.rows } = A) (d : TagNo) (ls : BitVec 2) (comb : Comb) (hit : TagReg) :
    A.Passed (b.combTag d ls comb hit) 0 := ⟨rfl, congrArg (fun a : Arr => { a with tags := A.tags }) h⟩
/-- The rows and lanes on which an instruction acts and where a test holds. -/
theorem Arr.getLsbD_tested (A : Arr) (x : Rows) (f : Nat → Nat → Bool) {r l : Nat} (hr : r < 32768) (hl : l < 4) :
    (A.testRows f &&& A.selected x).getLsbD (4 * r + l) = (A.acts x r l && f l (laneOfRow (A.row r) A.laneW l)) := by
  rw [BitVec.getLsbD_and, A.getLsbD_testRows f hr hl, A.getLsbD_selected x hr hl, Bool.and_comm]
  by_cases h : A.acts x r l = true
  · rw [decide_eq_true (Arr.lt_lanesN_of_spans? (Arr.spans?_of_acts h)), Bool.true_and]
  · rw [eq_false_of_ne_true h, Bool.false_and, Bool.false_and]

section
variable {s : State} {c : Nat} (d : TagNo) (x : Rows) (comb : Comb)

theorem pcmp_runs (sp : Spec) : let A := (s.far c).arr
    ArrayRuns s c (.pcmp d x comb sp) 0 0 fun a codes => A.Passed a codes ∧ a.rows = A.rows ∧
      A.Tagged d a x.span comb fun r l => A.acts x r l && A.named sp r l := by
  refine arrayRuns_write ((s.far c).arr.pcmp d x comb sp) rfl (fun _ => rfl) rfl fun h => ⟨Arr.passed_of_rows rfl .., rfl, ?_⟩
  refine Arr.combTag_tagged rfl _ _ _ fun r l hr hl _ => ?_
  rw [Arr.getLsbD_tested _ _ _ hr hl, Arr.colsMatch_specCols _ _ _ fun q hq => h.passFits rfl hq]
theorem pset_runs (sp : Spec) : let A := (s.far c).arr
    ArrayRuns s c (.pset x sp) 0 0 fun a codes => A.Passed a codes ∧ a.tags = A.tags ∧
      A.Cols a fun r l j => if A.acts x r l then (A.written sp l j).getD (A.col r l j) else A.col r l j := by
  refine arrayRuns_write ((s.far c).arr.pset x sp) rfl (fun _ => rfl) rfl fun _ => ?_
  have hrest := (s.far c).arr.runBits_rest x (sel := (s.far c).arr.selected x) fun l v => colsWrite v ((s.far c).arr.specCols sp l)
  have htags := congrArg Arr.tags hrest
  refine ⟨⟨rfl, ?_⟩, htags, fun r l j hr hl hj => ?_⟩
  · exact congrArg (fun a : Arr => { a with tags := (s.far c).arr.tags }) hrest
  · rw [Arr.pset, Arr.runBits_selected_col _ _ _ hr hl hj, Arr.testBit_colsWrite_specCols, Arr.testBit_lane _ hj]
theorem pcs_runs (cs ws : List (Col × Bool)) : let A := (s.far c).arr
    ArrayRuns s c (.pcs d x comb cs ws) 0 0 fun a codes => A.Passed a codes ∧
      A.Tagged d a x.span comb (fun r l => A.acts x r l && A.meets cs r l) ∧
      A.Cols a fun r l j => if A.acts x r l && A.meets cs r l then (putAt ws j).getD (A.col r l j) else A.col r l j := by
  refine arrayRuns_write ((s.far c).arr.pcs d x comb cs ws) rfl (fun _ => rfl) rfl fun h => ?_
  have hmeets (r l : Nat) : colsMatch (laneOfRow ((s.far c).arr.row r) (s.far c).arr.laneW l) (pairCols cs) = (s.far c).arr.meets cs r l :=
    Arr.colsMatch_pairCols _ _ _ fun p hp => h.passFits rfl (List.mem_map.mpr ⟨p, List.mem_append_left _ hp, rfl⟩)
  refine ⟨Arr.passed_of_rows (Arr.runBits_rest ..) .., Arr.combTag_tagged (Arr.runBits_rest ..) _ _ _ fun r l hr hl _ => ?_, fun r l j hr hl hj => ?_⟩
  · rw [Arr.getLsbD_tested _ _ _ hr hl, hmeets]
  · rw [Arr.pcs, Arr.col_combTag, Arr.runBits_col _ _ _ (((s.far c).arr.within_selected x).and _ _) hl hj,
      Arr.getLsbD_tested _ _ _ hr (hl.trans_le (Arr.lanesN_le _)), hmeets, testBit_colsWrite_pairCols, Arr.testBit_lane _ hj]
theorem tload_runs (ls : BitVec 2) (col : Col) : let A := (s.far c).arr
    ArrayRuns s c (.tload d ls col) 0 0 fun a codes => A.Passed a codes ∧ a.rows = A.rows ∧ A.Tagged d a ls .mov fun r l => A.col r l col.toNat := by
  refine arrayRuns_write ((s.far c).arr.tload d ls col.toNat) rfl (fun _ => rfl) rfl fun h => ⟨Arr.passed_of_rows rfl .., rfl, ?_⟩
  refine Arr.combTag_tagged rfl _ _ _ fun r l hr hl hspan => ?_
  have hcol : col.toNat < (s.far c).arr.laneW := (h.passFits rfl (List.mem_cons_self (a := (col.toNat, 1)))).lt
  rw [Arr.getLsbD_testRows _ _ hr hl, decide_eq_true (Arr.lt_lanesN_of_spans? hspan), Bool.true_and, tb, Arr.testBit_lane _ hcol]
theorem acmp_runs (ac bc xc : Col) (cond : ACond) (f : FmtRnd) : let A := (s.far c).arr
    ArrayRuns s c (.acmp cond d x ac bc xc f comb) 0 0 fun a codes => A.Passed a codes ∧
      A.Tagged d a x.span comb
        (fun r l => A.acts x r l && cmpElem cond f.fmt (A.field r l ac.toNat f.fmt.width) (A.field r l bc.toNat f.fmt.width)) ∧
      A.Cols a fun r l j => if A.acts x r l ∧ xc.toNat ≤ j ∧ j < xc.toNat + 2 then false else A.col r l j := by
  refine arrayRuns_write ((s.far c).arr.acmp cond d x (macroFields (.acmp cond d x ac bc xc f comb)) f.fmt comb) rfl (fun _ => rfl) rfl fun _ => ?_
  refine ⟨Arr.passed_of_rows (Arr.runBits_rest ..) .., Arr.combTag_tagged (Arr.runBits_rest ..) _ _ _ fun r l hr hl _ => ?_, fun r l j hr hl hj => ?_⟩
  · exact Arr.getLsbD_tested _ _ _ hr hl
  · rw [Arr.acmp, Arr.col_combTag, Arr.runBits_selected_col _ _ _ hr hl hj, testBit_withField, Nat.zero_testBit, Arr.testBit_lane _ hj, ← ite_and]
    rfl
end

/-- Settles O38, pass by pass. -/
theorem arrayPasses : Obligations.ArrayPasses := by
  unfold Obligations.ArrayPasses
  intro s c d x comb sp cs ws ls col ac bc xc cond f rnd sat
  exact ⟨pcmp_runs d x comb sp, pset_runs x sp, pcs_runs d x comb cs ws, tload_runs d ls col, acmp_runs d x comb ac bc xc cond ⟨f, rnd, sat⟩⟩

end Sys2Proof.Machine
end

section
/-! Field moves within a core's own array (R234 to R237, R240): fills, writes, stores of a tag, moves, rotations and truth tables. -/
namespace Sys2Proof.Machine

/-! ### Lanes and rows that are written one after another -/

/-- Lanes of a row, each made anew from what it held, where its bit is set. -/
theorem laneOfRow_foldl_withLane (F : Nat → Nat → Nat) (nib : Nat) (row : BitVec 256) {w n l : Nat} (hn : n * w ≤ 256) (hl : l * w + w ≤ 256) :
    laneOfRow ((List.range n).foldl (fun acc i => if tb nib i then withLane acc w i (F i (laneOfRow acc w i)) else acc) row) w l =
      if l < n ∧ nib.testBit l = true then F l (laneOfRow row w l) % 2 ^ w else laneOfRow row w l := by
  induction n generalizing l with
  | zero => rw [if_neg (by omega)]; rfl
  | succ n ih =>
    rw [Nat.succ_mul] at hn
    have hlow := ih (l := l) (by omega) hl
    have hcur := ih (l := n) (by omega) (by omega)
    rw [if_neg (by omega)] at hcur
    rw [List.range_succ, List.foldl_append, List.foldl_cons, List.foldl_nil, hcur]
    by_cases hbit : nib.testBit n = true
    · rw [tb, if_pos hbit, laneOfRow_withLane _ _ hl]
      by_cases h : l = n
      · subst h
        rw [if_pos rfl, if_pos ⟨Nat.lt_succ_self l, hbit⟩]
      · rw [if_neg h, hlow]
        exact if_congr (and_congr_left' (by omega)) rfl rfl
    · rw [tb, if_neg hbit, hlow]
      refine if_congr (and_congr_left fun hl => ?_) rfl rfl
      have : l ≠ n := fun e => hbit (e ▸ hl)
      omega
theorem Arr.foldl_rest {α : Type} {f : Arr → α → Arr} (hf : ∀ b x, { f b x with rows := b.rows } = b) (l : List α) (a : Arr) :
    { l.foldl f a with rows := a.rows } = a := by
  induction l generalizing a with
  | nil => rfl
  | cons x l ih => exact (congrArg (fun b : Arr => { b with rows := a.rows }) (ih (f a x))).trans (hf a x)
theorem Arr.row_foldl_setRow (P : Nat → Prop) [DecidablePred P] (F : Nat → BitVec 256) (l : List Nat) (a : Arr) (r : Nat) :
    (l.foldl (fun b x => if P x then b.setRow x (F x) else b) a).row r = if r ∈ l ∧ P r then F r else a.row r := by
  induction l generalizing a with
  | nil => simp
  | cons x l ih =>
    rw [List.foldl_cons, ih]
    by_cases hx : r = x
    · subst hx
      by_cases hP : P r <;> simp [hP, Arr.row_setRow]
    · have hone : (if P x then a.setRow x (F x) else a).row r = a.row r := by
        split_ifs
        · rw [Arr.row_setRow, if_neg hx]
        · rfl
      rw [hone]
      simp [hx]
theorem mem_uniq {l : List Nat} {x : Nat} : x ∈ uniq l ↔ x ∈ l := by
  induction l with
  | nil => rfl
  | cons y l ih =>
    have hstep : uniq (y :: l) = if l.any (fun z => z == y) then uniq l else y :: uniq l := rfl
    rw [hstep]
    split_ifs with h
    · obtain ⟨z, hz, he⟩ := List.any_eq_true.mp h
      obtain rfl := beq_iff_eq.mp he
      rw [ih, List.mem_cons]
      exact ⟨Or.inr, fun h => h.elim (fun e => e ▸ hz) id⟩
    · rw [List.mem_cons, List.mem_cons, ih]
theorem mem_keys_iff {α : Type} {m : FMap α} {k : Nat} : k ∈ m.map (·.1) ↔ mhas m k = true := by
  simp [mhas]
theorem Arr.row_of_not_mem {a : Arr} {r : Nat} (h : r ∉ a.rows.map (·.1)) : a.row r = 0 :=
  mget_of_not_mhas _ (eq_false_of_ne_true fun hm => h (mem_keys_iff.mpr hm))

/-! ### Fields moved (R234 to R237) -/

section
variable (A : Arr) (x : Rows) {r l j : Nat}

theorem Arr.cfill_col (c n : Nat) (v : Word) (hr : r < 32768) (hl : l < A.lanesN) (hj : j < A.laneW) :
    (A.cfill x c n v).col r l j = if A.acts x r l = true ∧ c ≤ j ∧ j < c + n then v.getLsbD (j - c) else A.col r l j := by
  rw [Arr.cfill, A.runBits_selected_col x _ hr hl hj, testBit_withField, A.testBit_lane hj, ← ite_and]
  rfl
theorem Arr.cwrite_col (k c n lane : Nat) (v : Word) (hl : l < A.lanesN) (hj : j < A.laneW) :
    (A.cwrite k c n lane v).col r l j = if r = k ∧ l = lane ∧ c ≤ j ∧ j < c + n then v.getLsbD (j - c) else A.col r l j := by
  have hwidth : (A.cwrite k c n lane v).laneW = A.laneW := rfl
  rw [← Arr.testBit_lane _ (by rwa [hwidth]), hwidth, Arr.cwrite, Arr.row_setRow]
  by_cases hk : r = k
  · subst hk
    rw [if_pos rfl, laneOfRow_withLane _ _ (A.lane_fits hl)]
    by_cases hlane : l = lane
    · subst hlane
      rw [if_pos rfl, Nat.testBit_mod_two_pow, decide_eq_true hj, Bool.true_and, testBit_withField, A.testBit_lane hj]
      simp only [true_and]
      rfl
    · rw [if_neg hlane, A.testBit_lane hj, if_neg fun h => hlane h.2.1]
  · rw [if_neg hk, A.testBit_lane hj, if_neg fun h => hk h.1]
theorem Arr.fmov_col {cd cs n : Nat} (hs : cs + n ≤ A.laneW) (hr : r < 32768) (hl : l < A.lanesN) (hj : j < A.laneW) :
    (A.fmov x cd cs n).col r l j = if A.acts x r l = true ∧ cd ≤ j ∧ j < cd + n then A.col r l (cs + (j - cd)) else A.col r l j := by
  rw [Arr.fmov, A.runBits_selected_col x _ hr hl hj, testBit_withField, A.testBit_lane hj, ← ite_and]
  refine ite_congr rfl (fun h => ?_) fun _ => rfl
  rw [testBit_fieldOf, decide_eq_true (by omega), Bool.true_and, A.testBit_lane (by omega)]
/-- Rows and lanes of a span, in part. -/
theorem Arr.within_spanMask (ls : BitVec 2) (t : TagReg) : A.Within ls (A.spanMask ls &&& t) := by
  intro r l hr hl h
  rw [BitVec.getLsbD_and, Bool.and_eq_true, A.getLsbD_spanMask ls hr hl] at h
  exact h.1
theorem Arr.Within.of_rows {A b : Arr} {ls : BitVec 2} {sel : TagReg} (h : A.Within ls sel) (hb : { b with rows := A.rows } = A) :
    b.Within ls sel := by
  have hspans := congrArg Arr.Within hb
  exact hspans ▸ h
theorem Arr.tstore_col (t : TagNo) (ls : BitVec 2) (c : Nat) (hr : r < 32768) (hl : l < A.lanesN) (hj : j < A.laneW) :
    (A.tstore t ls c).col r l j = if A.spans? ls r l = true ∧ j = c then A.tagAt t r l else A.col r l j := by
  have hl4 := hl.trans_le A.lanesN_le
  have hzeros : (A.spanMask ls &&& ~~~A.tag t).getLsbD (4 * r + l) = (A.spans? ls r l && !A.tagAt t r l) := by
    rw [BitVec.getLsbD_and, A.getLsbD_spanMask ls hr hl4, BitVec.getLsbD_not, decide_eq_true (show 4 * r + l < 131072 by omega), Bool.true_and]
    rfl
  have hones : (A.spanMask ls &&& A.tag t).getLsbD (4 * r + l) = (A.spans? ls r l && A.tagAt t r l) := by
    rw [BitVec.getLsbD_and, A.getLsbD_spanMask ls hr hl4]
    rfl
  have hfirst := A.runBits_col ⟨ls, none⟩ (fun _ v => withField v c 1 0) (r := r) (A.within_spanMask ls (~~~A.tag t)) hl hj
  have hrest := A.runBits_rest ⟨ls, none⟩ (sel := A.spanMask ls &&& ~~~A.tag t) fun _ v => withField v c 1 0
  unfold Arr.tstore
  dsimp only
  generalize (A.runBits ⟨ls, none⟩ (A.spanMask ls &&& ~~~A.tag t) fun _ v => withField v c 1 0) = B at hfirst hrest ⊢
  have hwidth := Arr.laneW_of_rows hrest
  have hsecond := B.runBits_col ⟨ls, none⟩ (fun _ v => withField v c 1 1) (r := r) ((A.within_spanMask ls (A.tag t)).of_rows hrest)
    ((Arr.lanesN_of_rows hrest).symm ▸ hl) (hwidth.symm ▸ hj)
  have hcol : c ≤ j ∧ j < c + 1 ↔ j = c := by omega
  rw [hzeros, testBit_withField, A.testBit_lane hj] at hfirst
  rw [hones, testBit_withField, Arr.testBit_lane _ (hwidth.symm ▸ hj), hfirst] at hsecond
  rw [hsecond]
  simp only [hcol]
  by_cases hspan : A.spans? ls r l = true
  · cases htag : A.tagAt t r l <;> by_cases h : j = c <;> simp [hspan, h]
  · simp [hspan]

/-! ### FROT (R237) -/

theorem laneOfRow_takeField (nib cd cs n : Nat) (row src : BitVec 256) (hl : l < A.lanesN) :
    laneOfRow (takeField A.laneW A.lanesN nib cd cs n row src) A.laneW l = if nib.testBit l = true then
      withField (laneOfRow row A.laneW l) cd n (fieldOf (laneOfRow src A.laneW l) cs n) % 2 ^ A.laneW else laneOfRow row A.laneW l :=
  (laneOfRow_foldl_withLane (fun i v => withField v cd n (fieldOf (laneOfRow src A.laneW i) cs n)) nib row
    A.lanesN_mul_laneW.le (A.lane_fits hl)).trans (if_congr (and_iff_right hl) rfl rfl)
theorem Arr.frot_rest (k cd cs n : Nat) : { A.frot x k cd cs n with rows := A.rows } = A := by
  refine Arr.foldl_rest (fun b y => ?_) _ A
  split_ifs <;> rfl
theorem Arr.frot_row (k cd cs n : Nat) : (A.frot x k cd cs n).row r =
    if r ∈ uniq (A.rows.map (·.1) ++ ((A.rows.map (·.1)).filter fun y => 2 ^ k ≤ y).map (· - 2 ^ k)) ∧ r + 2 ^ k ≤ 32767 then
      takeField A.laneW A.lanesN (rowBits (A.selected x) r) cd cs n (A.row r) (A.row (r + 2 ^ k)) else A.row r :=
  Arr.row_foldl_setRow (fun y => y + 2 ^ k ≤ 32767)
    (fun y => takeField A.laneW A.lanesN (rowBits (A.selected x) y) cd cs n (A.row y) (A.row (y + 2 ^ k))) _ A r
/-- The field of the row `2 ^ k` further on, where there is one. -/
theorem Arr.frot_col {k cd cs n : Nat} (hs : cs + n ≤ A.laneW) (hr : r < 32768) (hl : l < A.lanesN) (hj : j < A.laneW) :
    (A.frot x k cd cs n).col r l j = if A.acts x r l = true ∧ r + 2 ^ k ≤ 32767 ∧ cd ≤ j ∧ j < cd + n then
      A.col (r + 2 ^ k) l (cs + (j - cd)) else A.col r l j := by
  have hwidth := Arr.laneW_of_rows (A.frot_rest x k cd cs n)
  rw [← Arr.testBit_lane _ (by rwa [hwidth]), hwidth, A.frot_row]
  by_cases hlast : r + 2 ^ k ≤ 32767
  · by_cases hmem : r ∈ uniq (A.rows.map (·.1) ++ ((A.rows.map (·.1)).filter fun y => 2 ^ k ≤ y).map (· - 2 ^ k))
    · rw [if_pos ⟨hmem, hlast⟩, laneOfRow_takeField _ _ _ _ _ _ _ hl, testBit_rowBits _ (hl.trans_le A.lanesN_le),
        A.getLsbD_selected x hr (hl.trans_le A.lanesN_le)]
      by_cases hacts : A.acts x r l = true
      · rw [if_pos hacts, Nat.testBit_mod_two_pow, decide_eq_true hj, Bool.true_and, testBit_withField, A.testBit_lane hj]
        simp only [hacts, hlast, true_and]
        refine ite_congr rfl (fun h => ?_) fun _ => rfl
        rw [testBit_fieldOf, decide_eq_true (by omega), Bool.true_and, A.testBit_lane (by omega)]
      · rw [if_neg hacts, A.testBit_lane hj, if_neg fun h => hacts h.1]
    · have hzero : A.row r = 0 := Arr.row_of_not_mem fun h => hmem (mem_uniq.mpr (List.mem_append_left _ h))
      have hsource : A.row (r + 2 ^ k) = 0 := Arr.row_of_not_mem fun h => hmem (mem_uniq.mpr (List.mem_append_right _
        (List.mem_map.mpr ⟨r + 2 ^ k, List.mem_filter.mpr ⟨h, decide_eq_true (Nat.le_add_left _ _)⟩, Nat.add_sub_cancel _ _⟩)))
      rw [if_neg fun h => hmem h.1, A.testBit_lane hj, Arr.col, Arr.col, hzero, hsource]
      simp
  · rw [if_neg fun h => hlast h.2, A.testBit_lane hj, if_neg fun h => hlast h.2.1]
end

/-! ### Truth tables (R240) -/

/-- The columns of a lane stay within it where the columns written do. -/
theorem colsWrite_lt {w v : Nat} {cs : List (Nat × Bool)} (hv : v < 2 ^ w) (h : ∀ p ∈ cs, p.1 < w) : colsWrite v cs < 2 ^ w := by
  refine Nat.lt_pow_two_of_testBit _ fun j hj => ?_
  have hnone : (cs.reverse.find? fun p => p.1 == j) = none := List.find?_eq_none.mpr fun p hp he => by
    have := h p (List.mem_reverse.mp hp)
    have := beq_iff_eq.mp he
    omega
  rw [testBit_colsWrite, hnone]
  exact Nat.testBit_lt_two_pow (hv.trans_le (Nat.pow_le_pow_right (by decide) hj))
theorem ttPass_lt {w v : Nat} {col : Nat → Nat} {e : BitVec 32} (hv : v < 2 ^ w) (h : ∀ p ∈ ttWrite e, col p.1 < w) : ttPass col e v < 2 ^ w := by
  unfold ttPass
  split_ifs
  · refine colsWrite_lt hv fun q hq => ?_
    obtain ⟨p, hp, rfl⟩ := List.mem_map.mp hq
    exact h p hp
  · exact hv
theorem ttWrite_slot_lt {e : BitVec 32} {p : Nat × Bool} (h : p ∈ ttWrite e) : p.1 < 4 := by
  obtain ⟨lo, -, rfl⟩ := List.mem_map.mp h
  exact (e.extractLsb' (lo + 1) 2).isLt
/-- The columns that an entry of a TTRUN writes in one of its passes lie within the lane. -/
theorem Arr.ttRun_slot_lt {A : Arr} {e m n i : Nat} {x : Nat → Nat} (hfits : ∀ q ∈ A.ttFields e m n x, FieldFits A.laneW q) (hi : i < n)
    {y : BitVec 32} (hy : y ∈ (List.range m).map fun k => A.ttEntry (e + k)) {p : Nat × Bool} (hp : p ∈ ttWrite y) :
    (if p.1 < 3 then x p.1 + i else x 3) < A.laneW := by
  have hslot := ttWrite_slot_lt hp
  have hfield := hfits (x p.1, if p.1 < 3 then n else 1) (List.mem_map.mpr ⟨p.1, List.mem_filter.mpr ⟨List.mem_range.mpr hslot,
    List.any_eq_true.mpr ⟨y, hy, List.any_eq_true.mpr ⟨p, List.mem_append_right _ hp, beq_self_eq_true _⟩⟩⟩, rfl⟩)
  unfold FieldFits at hfield
  dsimp only at hfield
  split_ifs at hfield ⊢ with h
  · omega
  · rw [show p.1 = 3 by omega, false_or] at hfield
    exact hfield
/-- A lane on which a TTRUN acts: its entries in order, once for each column. -/
theorem Arr.ttrun_lane (A : Arr) (desc : Bool) (x : Rows) {e m n : Nat} {cols : Nat → Nat} (hfits : ∀ q ∈ A.ttFields e m n cols, FieldFits A.laneW q)
    {r l : Nat} (hr : r < 32768) (hl : l < A.lanesN) :
    laneOfRow ((A.ttrun desc x e m n cols).row r) A.laneW l = if A.acts x r l = true then
      (List.range n).foldl (fun v t => ((List.range m).map fun k => A.ttEntry (e + k)).foldl (fun v y =>
        ttPass (fun j => if j < 3 then cols j + (if desc then n - 1 - t else t) else cols 3) y v) v) (laneOfRow (A.row r) A.laneW l)
      else laneOfRow (A.row r) A.laneW l := by
  rw [Arr.ttrun, Arr.runBits, A.runLanes_lane x _ hr hl]
  refine ite_congr rfl (fun _ => Nat.mod_eq_of_lt ?_) fun _ => rfl
  refine List.foldlRecOn (motive := fun v => v < 2 ^ A.laneW) _ _ (fieldOf_lt ..) fun v hv t ht => ?_
  refine List.foldlRecOn (motive := fun v => v < 2 ^ A.laneW) _ _ hv fun v hv y hy => ttPass_lt hv fun p hp => ?_
  have ht := List.mem_range.mp ht
  refine Arr.ttRun_slot_lt hfits ?_ hy hp
  split_ifs <;> omega

end Sys2Proof.Machine
end

section
/-! XROW (R241): a column read in the issuer's array, which lands in the neighbour's, column by column. -/
namespace Sys2Proof.Machine

/-! ### A column read -/

theorem mget_foldl_mset {α β : Type} [DecidableEq β] (z : β) (dflt : Nat → α) (f : α → β) (m : FMap α) (hm : rising m = true) (n : FMap β) (k : Nat) :
    mget (fun _ => z) (m.foldl (fun n p => mset z n p.1 (f p.2)) n) k = if mhas m k then f (mget dflt m k) else mget (fun _ => z) n k := by
  induction m generalizing n with
  | nil => rfl
  | cons p m ih =>
    obtain ⟨j, v⟩ := p
    obtain ⟨habove, hrest⟩ := (rising_cons _ _).mp hm
    have hlisted : mhas ((j, v) :: m) k = (j == k || mhas m k) := rfl
    rw [List.foldl_cons, ih hrest, mget_mset, mget, hlisted]
    by_cases h : j = k
    · subst h
      have habsent : mhas m j = false := mhas_false m j fun q hq => Nat.ne_of_gt (habove q hq)
      simp [habsent]
    · simp [h, Ne.symm h]
theorem Arr.getLsbD_readColumn (A : Arr) {r l c : Nat} (hl : l < A.lanesN) (hc : c < A.laneW) :
    (mget (fun _ => 0) (A.readColumn c) r).getLsbD l = A.col r l c := by
  have hl4 := hl.trans_le A.lanesN_le
  have hbits := (foldl_bits (fun l => tb (laneOfRow (A.row r) A.laneW l) c) A.lanesN).2 l
  rw [decide_eq_true hl, Bool.true_and, tb, A.testBit_lane hc] at hbits
  rw [Arr.readColumn, mget_foldl_mset 0 (fun _ => 0) (fun row => BitVec.ofNat 4 ((List.range A.lanesN).foldl
    (fun acc l => acc + if tb (laneOfRow row A.laneW l) c then 2 ^ l else 0) 0)) _ (rising_mcanon A.rows), mhas_mcanon, mget_mcanon]
  split_ifs with h
  · rw [BitVec.getLsbD_ofNat, decide_eq_true hl4, Bool.true_and]
    exact hbits
  · have hzero : A.row r = 0 := mget_of_not_mhas _ (eq_false_of_ne_true h)
    rw [Arr.col, hzero]
    simp [mget]

/-! ### A column that lands -/

theorem nodup_uniq (l : List Nat) : (uniq l).Nodup := by
  induction l with
  | nil => exact List.nodup_nil
  | cons y l ih =>
    have hstep : uniq (y :: l) = if l.any (fun z => z == y) then uniq l else y :: uniq l := rfl
    rw [hstep]
    split_ifs with h
    · exact ih
    · refine List.nodup_cons.mpr ⟨fun hy => h ?_, ih⟩
      exact List.any_eq_true.mpr ⟨y, mem_uniq.mp hy, beq_self_eq_true y⟩
theorem Arr.row_foldl_updRow (F : Nat → BitVec 256 → BitVec 256) {l : List Nat} (hl : l.Nodup) (a : Arr) (r : Nat) :
    (l.foldl (fun b x => b.setRow x (F x (b.row x))) a).row r = if r ∈ l then F r (a.row r) else a.row r := by
  induction l generalizing a with
  | nil => simp
  | cons x l ih =>
    obtain ⟨hx, hl⟩ := List.nodup_cons.mp hl
    rw [List.foldl_cons, ih hl, Arr.row_setRow]
    by_cases h : r = x
    · subst h
      simp [hx]
    · simp [h]
theorem Arr.laneOfRow_landRow (A : Arr) (nib c bits : Nat) (row : BitVec 256) {l : Nat} (hl : l < A.lanesN) :
    laneOfRow (landRow A.laneW A.lanesN nib c bits row) A.laneW l = if nib.testBit l = true then
      withField (laneOfRow row A.laneW l) c 1 (bits / 2 ^ l % 2) % 2 ^ A.laneW else laneOfRow row A.laneW l :=
  (laneOfRow_foldl_withLane (fun i v => withField v c 1 (bits / 2 ^ i % 2)) nib row A.lanesN_mul_laneW.le (A.lane_fits hl)).trans
    (if_congr (and_iff_right hl) rfl rfl)
theorem Arr.landColumn_rest (A B : Arr) (x : Rows) (c : Nat) (col : FMap (BitVec 4)) : { A.landColumn B x c col with rows := B.rows } = B := by
  refine Arr.foldl_rest (fun b y => ?_) _ B
  rfl
/-- A column of the neighbour's array after the landing, in lanes of the issuer's width. -/
theorem Arr.getLsbD_landColumn (A B : Arr) (x : Rows) (c : Nat) (col : FMap (BitVec 4)) {r l j : Nat} (hr : r < 32768) (hl : l < A.lanesN)
    (hj : j < A.laneW) : ((A.landColumn B x c col).row r).getLsbD (l * A.laneW + j) =
      if A.acts x r l = true ∧ j = c then (mget (fun _ => 0) col r).getLsbD l else (B.row r).getLsbD (l * A.laneW + j) := by
  have hbit (row : BitVec 256) : row.getLsbD (l * A.laneW + j) = (laneOfRow row A.laneW l).testBit j := by
    rw [testBit_laneOfRow, decide_eq_true hj, Bool.true_and]
  have hrow : (A.landColumn B x c col).row r = if r ∈ uniq (col.map (·.1) ++ B.rows.map (·.1)) then
      landRow A.laneW A.lanesN (rowBits (A.selected x) r) c (mget (fun _ => 0) col r).toNat (B.row r) else B.row r :=
    Arr.row_foldl_updRow (fun y row => landRow A.laneW A.lanesN (rowBits (A.selected x) y) c (mget (fun _ => 0) col y).toNat row)
      (nodup_uniq _) B r
  have hlow (n : Nat) : (n % 2).testBit 0 = n.testBit 0 := by simp [Nat.testBit_zero]
  rw [hrow]
  split_ifs with hmem hat hat
  · obtain ⟨hacts, rfl⟩ := hat
    rw [hbit, A.laneOfRow_landRow _ _ _ _ hl, testBit_rowBits _ (hl.trans_le A.lanesN_le), A.getLsbD_selected x hr (hl.trans_le A.lanesN_le),
      if_pos hacts, Nat.testBit_mod_two_pow, decide_eq_true hj, Bool.true_and, testBit_withField, if_pos (by omega), Nat.sub_self,
      hlow, Nat.testBit_div_two_pow, Nat.zero_add]
    rfl
  · rw [hbit, hbit, A.laneOfRow_landRow _ _ _ _ hl, testBit_rowBits _ (hl.trans_le A.lanesN_le),
      A.getLsbD_selected x hr (hl.trans_le A.lanesN_le)]
    split_ifs with hacts
    · have hne : j ≠ c := fun e => hat ⟨hacts, e⟩
      rw [Nat.testBit_mod_two_pow, decide_eq_true hj, Bool.true_and, testBit_withField, if_neg (by omega)]
    · rfl
  · have hzero : mget (fun _ => 0) col r = 0 := mget_of_not_mhas _ (eq_false_of_ne_true fun h =>
      hmem (mem_uniq.mpr (List.mem_append_left _ (mem_keys_iff.mpr h))))
    have hrow0 : B.row r = 0 := Arr.row_of_not_mem fun h => hmem (mem_uniq.mpr (List.mem_append_right _ h))
    rw [hzero, hrow0]
    simp
  · rfl

/-! ### The steps of XROW -/

theorem ringTo_ne (c : Nat) (prev : Bool) : ringTo c prev ≠ c := by
  unfold ringTo
  cases prev
  · rw [if_neg Bool.false_ne_true]
    omega
  · rw [if_pos rfl]
    omega
theorem moveCol_lt {cd cs n k : Nat} (h : k < n) : moveCol cd cs n k < n := by
  unfold moveCol
  split_ifs <;> omega
/-- Every column of a field is moved. -/
theorem exists_moveCol {cd cs n i : Nat} (h : i < n) : ∃ k < n, moveCol cd cs n k = i := by
  by_cases hle : cd ≤ cs
  · exact ⟨i, h, if_pos hle⟩
  · refine ⟨n - 1 - i, by omega, ?_⟩
    rw [moveCol, if_neg hle]
    omega

section
variable {s : State} {c : Nat} {o : ArrOp} {prev : Bool} {x : Rows} {cd cs : Col} {n1 : BitVec 8} (ho : o.instr = .xrow prev x cd cs n1)
include ho

theorem arrayStep_xrow_read {k : Nat} (hk : k % 2 = 0) : s.arrayStep c o k = s.setFar c { s.far c with
    xcol := (s.far c).arr.readColumn (cs.toNat + moveCol cd.toNat cs.toNat (n1.toNat + 1) (k / 2)) } := by
  unfold State.arrayStep
  rw [ho]
  exact if_pos hk
theorem arrayStep_xrow_land {k : Nat} (hk : k % 2 = 1) : ∃ m, s.arrayStep c o k = s.setFar (ringTo c prev) { s.far (ringTo c prev) with
    mid := m
    arr := (s.far c).arr.landColumn (s.far (ringTo c prev)).arr x (cd.toNat + moveCol cd.toNat cs.toNat (n1.toNat + 1) (k / 2)) (s.far c).xcol } := by
  unfold State.arrayStep
  rw [ho]
  exact ⟨_, if_neg (show ¬k % 2 = 0 by omega)⟩
end

/-- The first `m` columns of an XROW of core `c` have landed, from `s` to `t`. -/
structure XrowMoved (s t : State) (c y : Nat) (x : Rows) (cd cs n m : Nat) : Prop where
  far : ∃ col, t.far c = { s.far c with acol := 2 * m, xcol := col }
  others : ∀ z, z ≠ c → z ≠ y → t.far z = s.far z
  rows : { (t.far y).arr with rows := (s.far y).arr.rows } = (s.far y).arr
  cols : ∀ r l j, r < 32768 → l < (s.far c).arr.lanesN → j < (s.far c).arr.laneW →
    ((t.far y).arr.row r).getLsbD (l * (s.far c).arr.laneW + j) =
      if (s.far c).arr.acts x r l = true ∧ ∃ k < m, j = cd + moveCol cd cs n k then (s.far c).arr.col r l (cs + (j - cd))
      else ((s.far y).arr.row r).getLsbD (l * (s.far c).arr.laneW + j)
  harts : t.harts = s.harts
  remotes : t.remotes = s.remotes

theorem xrowMoved_start {s : State} {c : Nat} (y : Nat) (x : Rows) (cd cs n : Nat) (h : (s.far c).acol = 0) : XrowMoved s s c y x cd cs n 0 where
  far := ⟨(s.far c).xcol, congrArg (fun k => { s.far c with acol := k }) h⟩
  others _ _ _ := rfl
  rows := rfl
  cols _ _ _ _ _ _ := (if_neg fun h => by obtain ⟨-, k, hk, -⟩ := h; omega).symm
  harts := rfl
  remotes := rfl

section
variable {s : State} {c : Nat} {o : ArrOp} {prev : Bool} {x : Rows} {cd cs : Col} {n1 : BitVec 8} (ho : o.instr = .xrow prev x cd cs n1)
  (hs : cs.toNat + n1.toNat < (s.far c).arr.laneW)
include ho hs

/-- Two steps read the next column and land it. -/
theorem XrowMoved.next {t : State} {m : Nat} (h : XrowMoved s t c (ringTo c prev) x cd.toNat cs.toNat (n1.toNat + 1) m) (hm : m < n1.toNat + 1) :
    XrowMoved s (t.arrayRun c o 2) c (ringTo c prev) x cd.toNat cs.toNat (n1.toNat + 1) (m + 1) := by
  obtain ⟨⟨col, hfar⟩, hothers, hrows, hcols, hharts, hremotes⟩ := h
  have hne := ringTo_ne c prev
  have hcol := moveCol_lt (cd := cd.toNat) (cs := cs.toNat) hm
  generalize hy : ringTo c prev = y at hne hothers hrows hcols ⊢
  obtain ⟨mid, hland⟩ := arrayStep_xrow_land (s := (t.arrayStep c o (2 * m)).updFar c fun f => { f with acol := 2 * m + 1 }) (c := c) ho
    (show (2 * m + 1) % 2 = 1 by omega)
  have hrun : t.arrayRun c o 2 = (((t.arrayStep c o (2 * m)).updFar c fun f => { f with acol := 2 * m + 1 }).arrayStep c o (2 * m + 1)).updFar c
      fun f => { f with acol := 2 * m + 1 + 1 } := by
    have hread := arrayStep_xrow_read (s := t) (c := c) ho (show 2 * m % 2 = 0 by omega)
    rw [State.arrayRun, State.arrayRun, State.arrayRun, hfar]
    simp [hread]
  rw [hrun, hland, arrayStep_xrow_read ho (show 2 * m % 2 = 0 by omega), hy, show (2 * m + 1) / 2 = m by omega, show 2 * m / 2 = m by omega]
  generalize hi : moveCol cd.toNat cs.toNat (n1.toNat + 1) m = i at hcol ⊢
  constructor
  case far => exact ⟨(s.far c).arr.readColumn (cs.toNat + i), by simp [hfar, hne.symm, Nat.mul_add]⟩
  case others =>
    intro z hzc hzy
    simpa [hzc, hzy] using hothers z hzc hzy
  case rows =>
    simp only [State.updFar_eq, State.setFar_far, State.setFar_setFar, State.setFar_far_other _ _ _ _ hne]
    exact (congrArg (fun b : Arr => { b with rows := (s.far y).arr.rows }) (Arr.landColumn_rest _ (t.far y).arr _ _ _)).trans hrows
  case cols =>
    intro r l j hr hl hj
    simp only [State.updFar_eq, State.setFar_far, State.setFar_setFar, State.setFar_far_other _ _ _ _ hne, hfar]
    rw [Arr.getLsbD_landColumn _ _ _ _ _ hr hl hj, Arr.getLsbD_readColumn _ hl (by omega), hcols r l j hr hl hj]
    by_cases hacts : (s.far c).arr.acts x r l = true
    · by_cases hjc : j = cd.toNat + i
      · rw [if_pos ⟨hacts, hjc⟩, if_pos ⟨hacts, m, Nat.lt_succ_self m, by rw [hi, hjc]⟩, hjc, Nat.add_sub_cancel_left]
      · have hiff : (∃ k < m + 1, j = cd.toNat + moveCol cd.toNat cs.toNat (n1.toNat + 1) k) ↔
            ∃ k < m, j = cd.toNat + moveCol cd.toNat cs.toNat (n1.toNat + 1) k := by
          rw [Nat.exists_lt_succ_right, hi, or_iff_left hjc]
        rw [if_neg fun h => hjc h.2]
        exact if_congr (and_congr_right' hiff.symm) rfl rfl
    · simp [hacts]
  case harts => exact hharts
  case remotes => exact hremotes
theorem XrowMoved.run {t : State} {m : Nat} (k : Nat) (h : XrowMoved s t c (ringTo c prev) x cd.toNat cs.toNat (n1.toNat + 1) m)
    (hm : m + k ≤ n1.toNat + 1) : XrowMoved s (t.arrayRun c o (2 * k)) c (ringTo c prev) x cd.toNat cs.toNat (n1.toNat + 1) (m + k) := by
  induction k generalizing t m with
  | zero => exact h
  | succ k ih =>
    have hrest := ih (h.next ho hs (by omega)) (by omega)
    rwa [Nat.add_right_comm] at hrest
/-- All columns have landed. -/
theorem xrow_run (h0 : (s.far c).acol = 0) :
    XrowMoved s (s.arrayRun c o (arraySteps o.instr)) c (ringTo c prev) x cd.toNat cs.toNat (n1.toNat + 1) (n1.toNat + 1) := by
  have hsteps : arraySteps o.instr = 2 * (n1.toNat + 1) := by rw [ho]; rfl
  have hall := (xrowMoved_start (ringTo c prev) x cd.toNat cs.toNat (n1.toNat + 1) h0).run ho hs (n1.toNat + 1) (by omega)
  rwa [Nat.zero_add, ← hsteps] at hall
end

/-! ### An XROW in its turn -/

/-- The engine makes every step of an XROW, one after another, and then lets it go. -/
theorem arrayRetire_xrow {s : State} {c : Nat} {o : ArrOp} (hrun : (s.far c).arun = some o) (hcol : (s.far c).acol = 0)
    (hw : wholeOf o 0 = false) (hn : arraySteps o.instr ≤ 2048) :
    s.arrayRetire c 2048 = (s.arrayRun c o (arraySteps o.instr)).arrayLeave c o := by
  unfold State.arrayRetire
  simp only [hrun, hcol, hw, Bool.false_eq_true, and_false, ↓reduceIte, Nat.sub_zero, Nat.min_eq_right hn, Nat.zero_add, Nat.le_refl]

/-- What an XROW of core `c` leaves as its engine has run it, from `s` to `t`. -/
structure XrowRan (s t : State) (c y : Nat) (x : Rows) (cd cs n : Nat) : Prop where
  far : t.far c = (s.far c).ran (s.far c).arr 0
  others : ∀ z, z ≠ c → z ≠ y → t.far z = s.far z
  rows : { (t.far y).arr with rows := (s.far y).arr.rows } = (s.far y).arr
  cols : ∀ r l j, r < 32768 → l < (s.far c).arr.lanesN → j < (s.far c).arr.laneW →
    ((t.far y).arr.row r).getLsbD (l * (s.far c).arr.laneW + j) =
      if (s.far c).arr.acts x r l = true ∧ cd ≤ j ∧ j < cd + n then (s.far c).arr.col r l (cs + (j - cd))
      else ((s.far y).arr.row r).getLsbD (l * (s.far c).arr.laneW + j)
  harts : t.harts = s.harts
  remotes : t.remotes = s.remotes

theorem arrayDrain_xrow {s : State} {c u : Nat} {o : ArrOp} {prev : Bool} {x : Rows} {cd cs : Col} {n1 : BitVec 8} (m : Nat)
    (ho : o.instr = .xrow prev x cd cs n1) (hs : cs.toNat + n1.toNat < (s.far c).arr.laneW)
    (hask : AsksAlone (s.setFar c { s.far c with aq := [o] }) (clusterOf c) (2 * (c % 16)) u) (hu : u ≠ 0)
    (hq : (s.far c).aq = []) (hrun : (s.far c).arun = none) (hheld : (s.far c).aheld = 0) :
    XrowRan s ((s.setFar c { s.far c with aq := [o] }).arrayDrain c (m + 2)) c (ringTo c prev) x cd.toNat cs.toNat (n1.toNat + 1) := by
  have hw : wholeOf o 0 = false := by
    unfold wholeOf
    rw [ho]
    rfl
  have hne := ringTo_ne c prev
  have hone : (s.setFar c { s.far c with aq := [o] }).arrayDrain c (m + 2) =
      ((((s.setFar c { s.far c with aq := [o] }).arrayAsk c).arrayStart c).arrayRetire c 2048).arrayDrain c (m + 1) := by
    rw [State.arrayDrain, if_neg (by simp)]
  rw [hone, arrayAsk_alone hask, arrayStart_held (o := o) (q := []) (by simpa using hrun) (by simp) (by simpa using hu),
    arrayRetire_xrow (o := o) (by simp) (by simp) hw (arraySteps_le _)]
  have hmid : (s.far c).arr.midway o.instr = none := by rw [ho]; rfl
  simp only [State.setFar_far, State.setFar_setFar, hmid]
  generalize hv : (((s.setFar c { s.far c with aq := [o] }).setCluster (clusterOf c) _).setFar c _) = v
  have hvfar : v.far c = { s.far c with aq := [], aheld := u, arun := some o, mid := none, acol := 0, xcol := [] } := by
    rw [← hv]
    simp
  have hvother : ∀ z, z ≠ c → v.far z = s.far z := fun z hz => by
    rw [← hv]
    simp [hz]
  obtain ⟨⟨col, hfar⟩, hothers, hrows, hcols, hharts, hremotes⟩ := xrow_run (s := v) (c := c) ho (by rw [hvfar]; exact hs) (by rw [hvfar])
  generalize v.arrayRun c o (arraySteps o.instr) = w at hfar hothers hrows hcols hharts hremotes
  rw [hvother _ hne] at hrows hcols
  rw [hvfar] at hfar hcols
  rw [arrayLeave_last o (by rw [hfar]), arrayDrain_idle (by simp [State.arrayIdle, hfar])]
  constructor
  case far => simp [hfar, Far.ran, hq, hrun, hheld]
  case others =>
    intro z hzc hzy
    simp [hzc, hothers z hzc hzy, hvother z hzc]
  case rows => simpa [hne] using hrows
  case cols =>
    intro r l j hr hl hj
    simp only [State.setCluster_far_at, State.setFar_far_other _ _ _ _ hne]
    rw [hcols r l j hr hl hj]
    refine if_congr (and_congr_right' ⟨?_, fun h => ?_⟩) rfl rfl
    · rintro ⟨k, hk, rfl⟩
      have := moveCol_lt (cd := cd.toNat) (cs := cs.toNat) hk
      omega
    · obtain ⟨k, hk, hi⟩ := exists_moveCol (cd := cd.toNat) (cs := cs.toNat) (show j - cd.toNat < n1.toNat + 1 by omega)
      exact ⟨k, hk, by omega⟩
  case harts => exact hharts.trans (by rw [← hv]; rfl)
  case remotes => exact hremotes.trans (by rw [← hv]; rfl)

section
variable {s : State} {c : Nat} {i : Instr} (h : ArrayTurn s c i)
include h

/-- An array instruction in its turn enters the queue, and the engine runs it (R223). -/
theorem ArrayTurn.exec_eq (hx : exec i s = arrayIssue i s) {u : State}
    (hu : (s.setFar c { s.far c with aq := [arrayOp i (i.reads.map (s.reg (.far c)))] }).arrayDrain c 4 = u) (hremotes : u.remotes = s.remotes) :
    exec i s = .next ((u.permitUse (.far c) i.major).advance (.far c) none) := by
  have hview : (s.far c).arrView = (s.far c).arr := by simp [Far.arrView, h.engine, h.queue]
  have hfirst : s.windowsFirst (.far c) c i = .ok () s := by rw [State.windowsFirst, if_neg (by simp [h.windows])]
  rw [hx]
  refine congrArg Host.Outcome.next ((h.issues.perform (x := none) (u := u) ?_ hremotes).trans ?_)
  · rw [h.turn]
    dsimp only
    rw [hview, h.fields, h.ring, hfirst, ← hu]
    simp [Res.bind, h.queue, h.whole]
  · rw [h.turn]
end

/-- XROW in its turn: the neighbour's columns, and nothing of the issuer but what every array instruction leaves. -/
theorem xrow_next {s : State} {c : Nat} {prev : Bool} {x : Rows} {cd cs : Col} {n1 : BitVec 8} (h : ArrayTurn s c (.xrow prev x cd cs n1)) :
    ∃ u, exec (.xrow prev x cd cs n1) s = .next u ∧ HartDone (.far c) s u 0 0 (s.hart (.far c)).nextPc ∧
      u.far c = (s.far c).ran (s.far c).arr 0 ∧ { (u.far (ringTo c prev)).arr with rows := (s.far (ringTo c prev)).arr.rows } = (s.far (ringTo c prev)).arr ∧
      (∀ z, z ≠ c → z ≠ ringTo c prev → u.far z = s.far z) ∧
      ∀ r l j, r < 32768 → l < (s.far c).arr.lanesN → j < (s.far c).arr.laneW →
        ((u.far (ringTo c prev)).arr.row r).getLsbD (l * (s.far c).arr.laneW + j) =
          if (s.far c).arr.acts x r l = true ∧ cd.toNat ≤ j ∧ j ≤ cd.toNat + n1.toNat then (s.far c).arr.col r l (cs.toNat + (j - cd.toNat))
          else ((s.far (ringTo c prev)).arr.row r).getLsbD (l * (s.far c).arr.laneW + j) := by
  have hs : cs.toNat + n1.toNat < (s.far c).arr.laneW :=
    (h.passFits rfl (List.mem_cons_of_mem (cd.toNat, n1.toNat + 1) (List.mem_cons_self (a := (cs.toNat, n1.toNat + 1))))).lt
  have hran := arrayDrain_xrow 2 (o := arrayOp (.xrow prev x cd cs n1) ((Instr.xrow prev x cd cs n1).reads.map (s.reg (.far c)))) rfl hs
    (h.asksAlone _) (arrayUnits_ne_zero _ _) h.queue h.engine h.held
  generalize hu : (s.setFar c { s.far c with aq := [arrayOp _ _] }).arrayDrain c (2 + 2) = u at hran
  obtain ⟨hfar, hothers, hrows, hcols, hharts, hremotes⟩ := hran
  have hhart : u.hart (.far c) = (s.hart (.far c)).setReg 0 0 := by
    rw [Hart.setReg_zero, State.hart, hharts]
    rfl
  obtain ⟨p, q, y, z, hadvance⟩ := permitUse_advance_far u c (Instr.xrow prev x cd cs n1).major none
  refine ⟨_, h.exec_eq rfl hu hremotes, ?_⟩
  rw [hadvance]
  refine ⟨hartDone_of_setReg hhart (fun _ _ => by rw [hharts]) p q y z, hfar, hrows, hothers, fun r l j hr hl hj => (hcols r l j hr hl hj).trans ?_⟩
  exact if_congr (and_congr_right' (by omega)) rfl rfl

end Sys2Proof.Machine
end

section
/-! The settling of ArrayFields: each instruction of R234 to R238, R240 and R241 in its turn. -/
namespace Sys2Proof.Machine

/-- Columns of the active lanes have changed, and nothing else of the array; no condition has been raised. -/
def Arr.Moved (A : Arr) (f : Nat → Nat → Nat → Bool) (a : Arr) (codes : BitVec 4) : Prop :=
  codes = 0 ∧ { a with rows := A.rows } = A ∧ A.Cols a f

section
variable {s : State} {c : Nat} (x : Rows) (cd cs : Col)

theorem cfill_runs (n1 : BitVec 6) {src : FillSrc} {v : Word} (he : (s.far c).arr.effect (arrayOp (.cfill x cd n1 src)
    ((Instr.cfill x cd n1 src).reads.map (s.reg (.far c)))) = { arr := (s.far c).arr.cfill x cd.toNat (n1.toNat + 1) v }) : let A := (s.far c).arr
    ArrayRuns s c (.cfill x cd n1 src) 0 0 (A.Moved fun r l j => if A.acts x r l ∧ cd.toNat ≤ j ∧ j ≤ cd.toNat + n1.toNat then
      v.getLsbD (j - cd.toNat) else A.col r l j) :=
  arrayRuns_write _ rfl (fun _ => rfl) he fun _ => ⟨rfl, Arr.runBits_rest .., fun _ _ _ hr hl hj => (Arr.cfill_col _ x _ _ _ hr hl hj).trans
    (if_congr (and_congr_right' (and_congr_right' Nat.lt_succ_iff)) rfl rfl)⟩
theorem cwrite_runs (g h : Reg) (n1 : BitVec 6) (ln : BitVec 2) : let A := (s.far c).arr
    ArrayRuns s c (.cwrite g h cd n1 ln) 0 0 (A.Moved fun r l j =>
      if r = (s.reg (.far c) g).toNat ∧ l = ln.toNat ∧ cd.toNat ≤ j ∧ j ≤ cd.toNat + n1.toNat then
        (s.reg (.far c) h).getLsbD (j - cd.toNat) else A.col r l j) :=
  arrayRuns_write ((s.far c).arr.cwrite (s.reg (.far c) g).toNat cd.toNat (n1.toNat + 1) ln.toNat (s.reg (.far c) h)) rfl (fun _ => rfl) rfl fun _ =>
    ⟨rfl, rfl, fun _ _ _ _ hl hj => (Arr.cwrite_col _ _ _ _ _ _ hl hj).trans
      (if_congr (and_congr_right' (and_congr_right' (and_congr_right' Nat.lt_succ_iff))) rfl rfl)⟩
theorem tstore_runs (t : TagNo) (ls : BitVec 2) : let A := (s.far c).arr
    ArrayRuns s c (.tstore t ls cd) 0 0 (A.Moved fun r l j => if A.spans? ls r l ∧ j = cd.toNat then A.tagAt t r l else A.col r l j) := by
  refine arrayRuns_write ((s.far c).arr.tstore t ls cd.toNat) rfl (fun _ => rfl) rfl fun _ => ⟨rfl, ?_, fun _ _ _ hr hl hj =>
    Arr.tstore_col _ t ls _ hr hl hj⟩
  exact (congrArg (fun a : Arr => { a with rows := (s.far c).arr.rows }) (Arr.runBits_rest _ ⟨ls, none⟩ _)).trans (Arr.runBits_rest ..)
theorem fmov_runs (n1 : BitVec 8) : let A := (s.far c).arr
    ArrayRuns s c (.fmov x cd cs n1) 0 0 (A.Moved fun r l j => if A.acts x r l ∧ cd.toNat ≤ j ∧ j ≤ cd.toNat + n1.toNat then
      A.col r l (cs.toNat + (j - cd.toNat)) else A.col r l j) := by
  refine arrayRuns_write ((s.far c).arr.fmov x cd.toNat cs.toNat (n1.toNat + 1)) rfl (fun _ => rfl) rfl fun h =>
    ⟨rfl, Arr.runBits_rest .., fun _ _ _ hr hl hj => (Arr.fmov_col _ x ?_ hr hl hj).trans
      (if_congr (and_congr_right' (and_congr_right' Nat.lt_succ_iff)) rfl rfl)⟩
  exact (h.passFits rfl (List.mem_cons_of_mem (cd.toNat, n1.toNat + 1) (List.mem_cons_self (a := (cs.toNat, n1.toNat + 1))))).lt
theorem frot_runs (k : BitVec 4) (n1 : BitVec 8) : let A := (s.far c).arr
    ArrayRuns s c (.frot x k cd cs n1) 0 0 (A.Moved fun r l j =>
      if A.acts x r l ∧ r + 2 ^ k.toNat ≤ 32767 ∧ cd.toNat ≤ j ∧ j ≤ cd.toNat + n1.toNat then
        A.col (r + 2 ^ k.toNat) l (cs.toNat + (j - cd.toNat)) else A.col r l j) := by
  refine arrayRuns_write ((s.far c).arr.frot x k.toNat cd.toNat cs.toNat (n1.toNat + 1)) rfl (fun _ => rfl) rfl fun h =>
    ⟨rfl, Arr.frot_rest .., fun _ _ _ hr hl hj => (Arr.frot_col _ x ?_ hr hl hj).trans
      (if_congr (and_congr_right' (and_congr_right' (and_congr_right' Nat.lt_succ_iff))) rfl rfl)⟩
  exact (h.passFits rfl (List.mem_cons_of_mem (cd.toNat, n1.toNat + 1) (List.mem_cons_self (a := (cs.toNat, n1.toNat + 1))))).lt
/-- The column of slot `j` of a TTRUN in its pass `i`. -/
def slotCol (x0 x1 x2 x3 : Col) (i j : Nat) : Nat :=
  if j < 3 then (if j = 0 then x0.toNat else if j = 1 then x1.toNat else x2.toNat) + i else x3.toNat
theorem ttrun_runs (desc : Bool) (e : BitVec 8) (m1 : BitVec 5) (n1 : BitVec 6) (x0 x1 x2 x3 : Col) : let A := (s.far c).arr
    let n := n1.toNat + 1
    ArrayRuns s c (.ttrun desc x e m1 n1 x0 x1 x2 x3) 0 0 fun a codes => codes = 0 ∧ { a with rows := A.rows } = A ∧
      ∀ r l, r < 32768 → l < A.lanesN → laneOfRow (a.row r) A.laneW l = if A.acts x r l then
        (List.range n).foldl (fun v i => ((List.range (m1.toNat + 1)).map fun j => A.ttEntry (e.toNat + j)).foldl (fun v y =>
          ttPass (slotCol x0 x1 x2 x3 (if desc then n - 1 - i else i)) y v) v) (laneOfRow (A.row r) A.laneW l)
        else laneOfRow (A.row r) A.laneW l := by
  intro A n
  refine arrayRuns_write (A.ttrun desc x e.toNat (m1.toNat + 1) n fun j =>
    if j = 0 then x0.toNat else if j = 1 then x1.toNat else if j = 2 then x2.toNat else x3.toNat) rfl (fun _ => rfl) rfl fun h =>
    ⟨rfl, Arr.runBits_rest .., fun r l hr hl => ?_⟩
  have hslots (i : Nat) : (fun j => if j < 3 then (if j = 0 then x0.toNat else if j = 1 then x1.toNat else if j = 2 then x2.toNat else x3.toNat) + i
      else x3.toNat) = slotCol x0 x1 x2 x3 i := by
    funext j
    exact ite_congr rfl (fun hj => congrArg (· + i) (ite_congr rfl (fun _ => rfl) fun h0 => ite_congr rfl (fun _ => rfl) fun h1 =>
      if_pos (by omega))) fun _ => rfl
  have hlane := A.ttrun_lane desc x (fun q hq => h.passFits rfl hq) hr hl
  simp only [show ¬3 = 0 by decide, show ¬3 = 1 by decide, show ¬3 = 2 by decide, if_false, hslots] at hlane
  exact hlane
end

/-- Settles O39, instruction by instruction. -/
theorem arrayFields : Obligations.ArrayFields := by
  unfold Obligations.ArrayFields
  intro s c x t ls ln cd cs n1 w1 k i34 g h prev desc e m1 x0 x1 x2 x3
  exact ⟨cfill_runs x cd n1 rfl, cfill_runs x cd n1 rfl, cwrite_runs cd g h n1 ln, tstore_runs cd t ls, fmov_runs x cd cs w1,
    frot_runs x cd cs k w1, xrow_next, ttrun_runs x desc e m1 n1 x0 x1 x2 x3⟩

end Sys2Proof.Machine
end

section
/-! The events of the array engine and of the current arbiters (R223, R237, R241, R242, R337, R394, R396), and the settling of
ReservationEvents. -/
namespace Sys2Proof.Machine

/-! ### Start and retirement of a whole instruction (R223) -/

section
variable {s : State} {c : Nat} {o : ArrOp}

theorem arrayStart_unheld (h : (s.far c).aheld = 0) : s.arrayStart c = s := by
  unfold State.arrayStart
  dsimp only
  split
  · exact if_pos h
  · rfl
theorem wholeOf_of_one_step (h : arraySteps o.instr = 1) : wholeOf o 0 = true := by
  obtain ⟨i, _, _, _⟩ := o
  cases i with
  | xrow prev x cd cs n1 =>
    have hsteps : 2 * (n1.toNat + 1) = 1 := h
    omega
  | _ => rfl
theorem arrayRetire_one (hrun : (s.far c).arun = some o) (hcol : (s.far c).acol = 0) (hn : arraySteps o.instr = 1) :
    s.arrayRetire c 1 = (s.arrayEffect c o).arrayLeave c o := by
  unfold State.arrayRetire
  simp only [hrun, hcol, wholeOf_of_one_step hn, hn, Nat.le_refl, and_self, ↓reduceIte]
/-- An instruction of one step, whose fields no other agent has written since it started, has its effect and gives its units back. -/
theorem exec_arrayInstructionRetire_whole (hrun : (s.far c).arun = some o) (hq : (s.far c).aq = []) (hcol : (s.far c).acol = 0)
    (hn : arraySteps o.instr = 1) (hmid : ∀ m, (s.far c).mid = some m → (s.far c).arr.unsettled o.instr m = []) : let f := s.far c
    ∃ t, exec (.arrayInstructionRetire c) s = .next t ∧
      t.far c = { f with arun := none, aheld := 0, mid := none, acol := 0, xcol := [], arr := (f.arr.effect o).arr
                         aflags := f.aflags ||| (f.arr.effect o).conds.code } ∧
      (t.cluster (c / 16)).heldUnits = (s.cluster (c / 16)).heldUnits - f.aheld ∧
      ∀ d v, (f.arr.effect o).res = some (d, v) → RegSet (s.hart (.far c)) (t.hart (.far c)) d v := by
  refine ⟨_, congrArg Host.Outcome.next (arrayRetire_one hrun hcol hn), ?_⟩
  rw [arrayEffect_settled fun m hm => hmid m (Option.mem_toList.mp hm), arrayLeave_last o (by simp [hq])]
  simp only [State.giveResult_far, State.giveResult_cluster, State.setFar_far, State.setFar_cluster_at]
  refine ⟨by simp, ?_, fun d v hres => ?_⟩
  · rw [show c / 16 = clusterOf c from rfl, State.setCluster_cluster]
  · have hhart := State.giveResult_hart (s := s.setFar c { s.far c with
      arr := ((s.far c).arr.effect o).arr, mid := none, aflags := (s.far c).aflags ||| ((s.far c).arr.effect o).conds.code }) c
      ((s.far c).arr.effect o).res
    rw [hres] at hhart ⊢
    refine ⟨?_, fun r hr => ?_⟩
    · refine (congrArg (fun h => Hart.reg h d) hhart).trans ((Hart.setReg_reg _ d d v).trans ?_)
      by_cases hd : d = 0
      · rw [if_neg (fun e => e.2 hd), if_pos hd, hd]
        rfl
      · rw [if_pos ⟨rfl, hd⟩, if_neg hd]
    · exact (congrArg (fun h => Hart.reg h r) hhart).trans ((Hart.setReg_reg _ d r v).trans (if_neg fun e => hr e.1))

/-! ### One step of several (R51) -/

/-- The engine has made one step of `o` and goes on, or has let it go after the last one. -/
def StepGoes (s t : State) (c : Nat) (o : ArrOp) : Prop :=
  ((s.far c).acol + 1 < arraySteps o.instr → (t.far c).arun = some o ∧ (t.far c).acol = (s.far c).acol + 1 ∧ (t.far c).aheld = (s.far c).aheld) ∧
  ((s.far c).acol + 1 = arraySteps o.instr → (t.far c).arun = none ∧ (t.far c).aheld = 0)

/-- An instruction of several steps makes one, after which the arrays are those of `v`; its column read stays for the next step. -/
theorem exec_arrayInstructionRetire_step {v : State} (hrun : (s.far c).arun = some o) (hn : 1 < arraySteps o.instr)
    (hk : (s.far c).acol < arraySteps o.instr) (hv : s.arrayStep c o (s.far c).acol = v) (hvrun : (v.far c).arun = some o)
    (hvq : (v.far c).aq = []) (hvheld : (v.far c).aheld = (s.far c).aheld) :
    ∃ t, exec (.arrayInstructionRetire c) s = .next t ∧ (∀ z, (t.far z).arr = (v.far z).arr) ∧ (∀ z, z ≠ c → t.far z = v.far z) ∧
      ((s.far c).acol + 1 < arraySteps o.instr → (t.far c).xcol = (v.far c).xcol) ∧ StepGoes s t c o := by
  have hstep : s.arrayRetire c 1 = if arraySteps o.instr ≤ (s.far c).acol + 1 then
      (v.updFar c fun f => { f with acol := (s.far c).acol + 1 }).arrayLeave c o
      else v.updFar c fun f => { f with acol := (s.far c).acol + 1 } := by
    have hmin : min 1 (arraySteps o.instr - (s.far c).acol) = 1 := by omega
    unfold State.arrayRetire
    simp only [hrun, Nat.not_le.mpr hn, false_and, ↓reduceIte, hmin, State.arrayRun, hv]
  refine ⟨_, congrArg Host.Outcome.next hstep, ?_⟩
  by_cases hlast : arraySteps o.instr ≤ (s.far c).acol + 1
  · rw [if_pos hlast, arrayLeave_last o (by simpa using hvq)]
    refine ⟨fun z => ?_, fun z hz => by simp [hz], fun h => by omega, fun h => by omega, fun _ => ⟨by simp, by simp⟩⟩
    by_cases hz : z = c
    · subst hz
      simp
    · simp [hz]
  · rw [if_neg hlast]
    refine ⟨fun z => ?_, fun z hz => by simp [hz], fun _ => by simp, fun _ => ⟨by simpa using hvrun, by simp, by simpa using hvheld⟩, fun h => by omega⟩
    by_cases hz : z = c
    · subst hz
      simp
    · simp [hz]
/-- Of the instructions of several steps, those other than XROW make each of them in their own array. -/
theorem arrayStep_pass (hn : 1 < arraySteps o.instr) (hx : ∀ prev r cd cs n1, o.instr ≠ .xrow prev r cd cs n1) (k : Nat) :
    s.arrayStep c o k = s.setFar c { s.far c with arr := (s.far c).arr.pass o k } := by
  obtain ⟨i, _, _, _⟩ := o
  cases i with
  | xrow prev r cd cs n1 => exact absurd rfl (hx prev r cd cs n1)
  | cfill | fmov | frot | ttrun => rfl
  | _ => exact absurd hn (Nat.lt_irrefl 1)

section
variable (hrun : (s.far c).arun = some o) (hq : (s.far c).aq = []) (hn : 1 < arraySteps o.instr) (hk : (s.far c).acol < arraySteps o.instr)
include hrun hq hn hk

theorem exec_arrayInstructionRetire_pass (hx : ∀ prev r cd cs n1, o.instr ≠ .xrow prev r cd cs n1) :
    ∃ t, exec (.arrayInstructionRetire c) s = .next t ∧
      ((t.far c).arr = (s.far c).arr.pass o (s.far c).acol ∧ ∀ k, k ≠ c → t.far k = s.far k) ∧ StepGoes s t c o := by
  obtain ⟨t, hnext, harr, hother, -, hgoes⟩ := exec_arrayInstructionRetire_step hrun hn hk (arrayStep_pass hn hx _) (by simpa using hrun)
    (by simpa using hq) (by simp)
  refine ⟨t, hnext, ⟨(harr c).trans (by simp), fun z hz => (hother z hz).trans (by simp [hz])⟩, hgoes⟩
/-- A pass of FMOV or FROT, whose columns are known. -/
theorem exec_arrayInstructionRetire_cols {g : Nat → Nat → Nat → Bool} (hx : ∀ prev r cd cs n1, o.instr ≠ .xrow prev r cd cs n1)
    (hcols : (s.far c).arr.Cols ((s.far c).arr.pass o (s.far c).acol) g) :
    ∃ t, exec (.arrayInstructionRetire c) s = .next t ∧ (s.far c).arr.Cols (t.far c).arr g ∧ StepGoes s t c o := by
  obtain ⟨t, hnext, ⟨harr, -⟩, hgoes⟩ := exec_arrayInstructionRetire_pass hrun hq hn hk hx
  exact ⟨t, hnext, harr ▸ hcols, hgoes⟩
end
end

/-! ### The passes of FMOV and FROT (R237) -/

/-- The column that moves in step `k` of a field of `w + 1` columns. -/
theorem moveCol_succ (cd cs w k : Nat) : moveCol cd cs (w + 1) k = if cd ≤ cs then k else w - k :=
  ite_congr rfl (fun _ => rfl) fun _ => by omega
theorem Arr.fmovPass_col (A : Arr) (x : Rows) {d c : Nat} (first : Bool) (hc : c < A.laneW) :
    A.Cols (A.fmovPass x d c first) fun r l j => if A.acts x r l = true ∧ j = d ∧ A.col r l c = (first == Config.moveOnes) then A.col r l c
      else A.col r l j := by
  intro r l j hr hl hj
  unfold Arr.fmovPass
  dsimp only
  rw [A.runBits_selected_col x _ hr hl hj, tb, A.testBit_lane hc]
  generalize (first == Config.moveOnes) = b
  by_cases hacts : A.acts x r l = true
  · by_cases hb : A.col r l c = b
    · rw [if_pos hacts, if_pos (beq_iff_eq.mpr hb), testBit_withField, A.testBit_lane hj]
      by_cases hjd : j = d
      · subst hjd
        rw [if_pos (by omega), if_pos ⟨hacts, rfl, hb⟩, hb, Nat.sub_self]
        cases b <;> rfl
      · rw [if_neg (by omega), if_neg fun h => hjd h.2.1]
    · rw [if_pos hacts, if_neg fun h => hb (beq_iff_eq.mp h), A.testBit_lane hj, if_neg fun h => hb h.2.2]
  · rw [if_neg hacts, if_neg fun h => hacts h.1]
theorem Arr.pass_fmov (A : Arr) {o : ArrOp} {x : Rows} {d cs : Col} {w1 : BitVec 8} (ho : o.instr = .fmov x d cs w1) (k : Nat) :
    A.pass o k = A.fmovPass x (d.toNat + moveCol d.toNat cs.toNat (w1.toNat + 1) (k / 2))
      (cs.toNat + moveCol d.toNat cs.toNat (w1.toNat + 1) (k / 2)) (k % 2 == 0) := by
  unfold Arr.pass
  rw [ho]
theorem Arr.pass_frot (A : Arr) {o : ArrOp} {x : Rows} {e : BitVec 4} {d cs : Col} {w1 : BitVec 8} (ho : o.instr = .frot x e d cs w1) (k : Nat) :
    A.pass o k = A.frot x e.toNat (d.toNat + moveCol d.toNat cs.toNat (w1.toNat + 1) k) (cs.toNat + moveCol d.toNat cs.toNat (w1.toNat + 1) k) 1 := by
  unfold Arr.pass
  rw [ho]
theorem Arr.frot_one_col (A : Arr) (x : Rows) {k d c : Nat} (hc : c < A.laneW) :
    A.Cols (A.frot x k d c 1) fun r l j => if A.acts x r l = true ∧ r + 2 ^ k ≤ 32767 ∧ j = d then A.col (r + 2 ^ k) l c else A.col r l j := by
  intro r l j hr hl hj
  rw [A.frot_col x hc hr hl hj]
  have hcol : d ≤ j ∧ j < d + 1 ↔ j = d := by omega
  simp only [hcol]
  refine ite_congr rfl (fun h => ?_) fun _ => rfl
  rw [h.2.2, Nat.sub_self, Nat.add_zero]

/-! ### Grants (R337, R396) -/

section
variable {s : State}

theorem exec_reservationGrant_alone {c u : Nat} (h : AsksAlone s (clusterOf c) (2 * (c % 16)) u) :
    ∃ t, exec (.reservationGrant (clusterOf c)) s = .next t ∧ (t.far c).aheld = u ∧
      (t.cluster (clusterOf c)).heldUnits = (s.cluster (clusterOf c)).heldUnits + u ∧
      (t.cluster (clusterOf c)).arbPtr = (2 * (c % 16) + 1) % 32 := by
  have hgrant : s.reservationGrant (clusterOf c) = s.arrayAsk c := by
    rw [State.arrayAsk, State.askUnits, if_pos h.reqWinner]
  refine ⟨s.arrayAsk c, congrArg Host.Outcome.next hgrant, ?_⟩
  rw [arrayAsk_alone h]
  simp [Cluster.granted]
/-- A search from any place finds the one element that satisfies a test. -/
theorem firstFrom_alone {n i : Nat} (p : Nat) {f : Nat → Bool} (hi : i < n) (hf : f i = true) (hother : ∀ j < n, j ≠ i → f j = false) :
    firstFrom n p f = some i := by
  have hmod (k : Nat) : (p + k) % n < n := Nat.mod_lt _ (Nat.zero_lt_of_lt hi)
  have hsome : (firstFrom n p f).isSome = true := by
    rw [firstFrom, List.find?_isSome]
    refine ⟨i, List.mem_map.mpr ⟨(i + (n - p % n)) % n, List.mem_range.mpr (Nat.mod_lt _ (Nat.zero_lt_of_lt hi)), ?_⟩, hf⟩
    have hp := Nat.mod_lt p (Nat.zero_lt_of_lt hi)
    have hdiv := Nat.div_add_mod p n
    have hturn : p + (i + (n - p % n)) = i + n * (p / n + 1) := by
      rw [Nat.mul_add_one]
      omega
    rw [Nat.add_mod_mod, hturn, Nat.add_mul_mod_self_left, Nat.mod_eq_of_lt hi]
  obtain ⟨j, hj⟩ := Option.isSome_iff_exists.mp hsome
  have hfound := List.find?_some hj
  obtain ⟨k, -, hk⟩ := List.mem_map.mp (List.mem_of_find?_eq_some hj)
  by_cases h : j = i
  · rw [hj, h]
  · rw [hother j (hk ▸ hmod k) h] at hfound
    exact absurd hfound Bool.false_ne_true
theorem stackWants_of_idxRun {k i : Nat} (hi : i < 64) (hrun : (s.home (k * 64 + i)).idxRun.isSome = true)
    (hheld : (s.home (k * 64 + i)).idxHeld = false) : s.stackWants k i = some 1 := by
  rw [State.stackWants, if_pos hi]
  simp [hrun, hheld]
theorem exec_stackReservationGrant_alone {k i : Nat} (hi : i < 64) (hrun : (s.home (k * 64 + i)).idxRun.isSome = true)
    (hheld : (s.home (k * 64 + i)).idxHeld = false) (hfits : 1 + (s.stack k).heldUnits ≤ (s.stack k).budget.toNat)
    (halone : ∀ j, j < 65 → j ≠ i → s.stackWants k j = none) :
    ∃ t, exec (.stackReservationGrant k) s = .next t ∧ (t.home (k * 64 + i)).idxHeld = true ∧
      (t.stack k).heldUnits = (s.stack k).heldUnits + 1 ∧ (t.stack k).arbPtr = i + 1 := by
  have hwants := stackWants_of_idxRun hi hrun hheld
  have hptr : (i + 1) % 65 = i + 1 := Nat.mod_eq_of_lt (by omega)
  refine ⟨s.stackGrant k, rfl, ?_⟩
  unfold State.stackGrant
  dsimp only
  rw [firstFrom_alone (i := i) _ (by omega)]
  · simp only [hwants, Option.getD_some, if_pos hi, State.updHome_eq]
    exact ⟨by simp, by simp, by simp [hptr]⟩
  · rw [hwants]
    simp [fitsCurrent, hfits]
  · intro j hj hne
    rw [halone j hj hne]
end

section
variable {s : State} {c : Nat} {o : ArrOp}

/-- An idle engine with an instruction in its queue asks alone for its units, at the lowest priority as its core has no task (R337). -/
theorem asksAlone_of_idle {q : List ArrOp} (hrun : (s.far c).arun = none) (hq : (s.far c).aq = o :: q) (hheld : (s.far c).aheld = 0)
    (htask : (s.far c).task = none)
    (hfits : arrayUnits (s.far c).arr.lanes o.instr + (s.cluster (clusterOf c)).heldUnits ≤ (s.cluster (clusterOf c)).budget.toNat)
    (halone : ∀ j, j < 32 → j ≠ 2 * (c % 16) → s.clusterWants (clusterOf c) j = none) :
    AsksAlone s (clusterOf c) (2 * (c % 16)) (arrayUnits (s.far c).arr.lanes o.instr) where
  contender := by omega
  wants := by
    have heven : 2 * (c % 16) % 2 = 0 := by omega
    rw [State.clusterWants, clusterOf_contender]
    simp [heven, Far.arrayWants, hrun, hq, hheld]
  alone := halone
  pri := by
    unfold State.requestPri
    rw [clusterOf_contender, htask]
    exact Nat.zero_le 3
  fits := by simp [fitsCurrent, hfits]

/-! ### The steps of XROW (R241) -/

section
variable {prev : Bool} {x : Rows} {d cs : Col} {w1 : BitVec 8} (ho : o.instr = .xrow prev x d cs w1)
  (hrun : (s.far c).arun = some o) (hq : (s.far c).aq = []) (hn : 1 < arraySteps o.instr) (hk : (s.far c).acol < arraySteps o.instr)
include ho hrun hq hn hk

/-- A step of even number reads the next column. -/
theorem exec_arrayInstructionRetire_read (hs : cs.toNat + w1.toNat < (s.far c).arr.laneW) (heven : (s.far c).acol % 2 = 0) :
    ∃ t, exec (.arrayInstructionRetire c) s = .next t ∧ ((∀ k, (t.far k).arr = (s.far k).arr) ∧
      ∀ a l, a < 32768 → l < (s.far c).arr.lanesN → (mget (fun _ => 0) (t.far c).xcol a).getLsbD l =
        (s.far c).arr.col a l (cs.toNat + if d.toNat ≤ cs.toNat then (s.far c).acol / 2 else w1.toNat - (s.far c).acol / 2)) ∧ StepGoes s t c o := by
  have hsteps : arraySteps o.instr = 2 * (w1.toNat + 1) := by rw [ho]; rfl
  have hcol := moveCol_lt (cd := d.toNat) (cs := cs.toNat) (show (s.far c).acol / 2 < w1.toNat + 1 by omega)
  obtain ⟨t, hnext, harr, -, hxcol, hgoes⟩ := exec_arrayInstructionRetire_step hrun hn hk (arrayStep_xrow_read ho heven) (by simpa using hrun)
    (by simpa using hq) (by simp)
  rw [← moveCol_succ]
  refine ⟨t, hnext, ⟨fun z => (harr z).trans ?_, fun a l _ hl => ?_⟩, hgoes⟩
  · by_cases hz : z = c
    · subst hz
      simp
    · simp [hz]
  · rw [hxcol (by omega), State.setFar_far]
    exact Arr.getLsbD_readColumn _ hl (by omega)
/-- A step of odd number lands the column that has been read. -/
theorem exec_arrayInstructionRetire_land (hodd : (s.far c).acol % 2 = 1) : let y := ringTo c prev
    ∃ t, exec (.arrayInstructionRetire c) s = .next t ∧ ((∀ k, k ≠ y → (t.far k).arr = (s.far k).arr) ∧
      { (t.far y).arr with rows := (s.far y).arr.rows } = (s.far y).arr ∧
      ∀ a l j, a < 32768 → l < (s.far c).arr.lanesN → j < (s.far c).arr.laneW →
        ((t.far y).arr.row a).getLsbD (l * (s.far c).arr.laneW + j) =
          if (s.far c).arr.acts x a l ∧ j = d.toNat + (if d.toNat ≤ cs.toNat then (s.far c).acol / 2 else w1.toNat - (s.far c).acol / 2) then
            (mget (fun _ => 0) (s.far c).xcol a).getLsbD l
          else ((s.far y).arr.row a).getLsbD (l * (s.far c).arr.laneW + j)) ∧ StepGoes s t c o := by
  intro y
  have hne : c ≠ y := (ringTo_ne c prev).symm
  obtain ⟨mid, hland⟩ := arrayStep_xrow_land (s := s) (c := c) ho hodd
  obtain ⟨t, hnext, harr, -, -, hgoes⟩ := exec_arrayInstructionRetire_step hrun hn hk hland
    (by rw [State.setFar_far_other _ _ _ _ hne]; exact hrun) (by rw [State.setFar_far_other _ _ _ _ hne]; exact hq)
    (by rw [State.setFar_far_other _ _ _ _ hne])
  have hyarr := (harr y).trans (congrArg Far.arr (State.setFar_far ..))
  rw [← moveCol_succ]
  refine ⟨t, hnext, ⟨fun z hz => (harr z).trans (congrArg Far.arr (State.setFar_far_other _ _ _ _ hz)), ?_, fun a l j ha hl hj => ?_⟩, hgoes⟩
  · rw [hyarr]
    exact Arr.landColumn_rest ..
  · rw [hyarr]
    exact Arr.getLsbD_landColumn _ _ _ _ _ ha hl hj
end
end

/-- Settles O51: the events of the array engine, step by step, and the grants of the two kinds of arbiter. -/
theorem reservationEvents : Obligations.ReservationEvents := by
  unfold Obligations.ReservationEvents
  intro s c k i o q
  refine ⟨fun hrun hq hheld => ⟨_, congrArg Host.Outcome.next (arrayStart_held hrun hq hheld), ?start⟩,
    fun hheld => congrArg Host.Outcome.next (arrayStart_unheld hheld),
    fun hrun hq hcol hn hmid => exec_arrayInstructionRetire_whole hrun hq hcol hn hmid,
    fun hrun hq hn hk => ⟨fun hx => exec_arrayInstructionRetire_pass hrun hq hn hk hx, ?fmov, ?frot, fun prev r d cs w1 ho hd hs =>
      ⟨exec_arrayInstructionRetire_read ho hrun hq hn hk hs, exec_arrayInstructionRetire_land ho hrun hq hn hk⟩⟩,
    fun hrun hq hheld htask _ hfits halone => exec_reservationGrant_alone (asksAlone_of_idle hrun hq hheld htask hfits halone),
    fun hi hrun hheld hfits halone => exec_stackReservationGrant_alone hi hrun hheld hfits halone⟩
  case start => exact ⟨State.setFar_far .., fun z hz => State.setFar_far_other _ _ _ _ hz, rfl, fun _ => rfl⟩
  case fmov =>
    intro r d cs w1 i ho hd hs
    have hsteps : arraySteps o.instr = 2 * (w1.toNat + 1) := by rw [ho]; rfl
    have hi : moveCol d.toNat cs.toNat (w1.toNat + 1) ((s.far c).acol / 2) = i := moveCol_succ ..
    have hlt := moveCol_lt (cd := d.toNat) (cs := cs.toNat) (show (s.far c).acol / 2 < w1.toNat + 1 by omega)
    refine exec_arrayInstructionRetire_cols hrun hq hn hk (by simp [ho]) ?_
    rw [Arr.pass_fmov _ ho, hi]
    exact Arr.fmovPass_col _ r _ (by omega)
  case frot =>
    intro r e d cs w1 i ho hd hs
    have hsteps : arraySteps o.instr = w1.toNat + 1 := by rw [ho]; rfl
    have hi : moveCol d.toNat cs.toNat (w1.toNat + 1) (s.far c).acol = i := moveCol_succ ..
    have hlt := moveCol_lt (cd := d.toNat) (cs := cs.toNat) (show (s.far c).acol < w1.toNat + 1 by omega)
    refine exec_arrayInstructionRetire_cols hrun hq hn hk (by simp [ho]) ?_
    rw [Arr.pass_frot _ ho, hi]
    exact Arr.frot_one_col _ r (by omega)

end Sys2Proof.Machine
end
